-- ==== Sys2Proof/Word.lean ====
section
/-! DEFINITION. The word types of the GN940 (R3, R85) and the type of a sparse table. -/

namespace Sys2Proof

/-- A byte of a store (R3). -/
abbrev Byte := BitVec 8
/-- An instruction word (R67). -/
abbrev Word := BitVec 32
/-- A dword: the width of a scalar register (R85). -/
abbrev Dword := BitVec 64
/-- An 80-bit virtual address: the width of an address register (R85). -/
abbrev VA := BitVec 80
/-- A 512-bit vector register (R85). -/
abbrev VReg := BitVec 512

/-- A sparse table: entries by ascending key; a key that is not listed reads as the default that its reader names. -/
abbrev Table (α : Type) := List (Nat × α)

end Sys2Proof
end

