-- ==== Sys2Proof/Syntax.lean ====
section
/-! DEFINITION. The instructions of the GN940: one constructor for each row of spec/opcode_table.json (231 words of 32
bits, 20 queue-program words of 64 bits, 79 events of the machine). The table gives an event no fields: what it acts on is its
message, which waits on the machine's agenda. -/

namespace Sys2Proof

/-- What an access needs of its leaf (Table 12-5). -/
inductive AccNeed where
  | read | write | atomic | fetch
  deriving DecidableEq, Repr

/-- The atomic operations (Table 8-4), with the order of ATMIN and ATMAX (R71). -/
inductive AtOp where
  | add | minS | minN | maxS | maxN | and | or | xor | swp | cas
  deriving DecidableEq, Repr

/-- What a request asks its home to do (R185 to R201). -/
inductive ReqOp where
  /-- LD, LDACQ, LDC, LDI, LA, VLD -/
  | read
  /-- ST, STREL, VST -/
  | write
  /-- STFE.KEEP and VSTFE: the write sets the granules full (R155) -/
  | writeFull
  /-- STFE.CLEAR: waits for an empty granule first (R194) -/
  | writeWhenEmpty
  /-- LDFE: waits for a full granule; clears it when the flag is set (R194) -/
  | readWhenFull (clear : Bool)
  | atomic (op : AtOp)
  /-- WAITA (R198) -/
  | waita
  /-- SIGWAIT: parks like WAITA (R330) -/
  | sigwait
  | pref | cflush | cinv | cpin | cunpin
  deriving DecidableEq, Repr

/-- Where the value of a request goes when it returns (R180, R196). -/
inductive ReqDest where
  | none
  /-- the load-data queue position reserved for it -/
  | ldq
  /-- an address register, as LA -/
  | addr (n : BitVec 4)
  /-- a vector register, as VLD -/
  | vec (n : BitVec 4)
  deriving DecidableEq, Repr

/-- The path by which a load reads (R186 to R188). -/
inductive ReqPath where
  | plain | constant | invariant
  deriving DecidableEq, Repr

/-- A request of a context on its way to its home (R168, R180). `id` names the access in the context's list of
outstanding accesses; `leaf` is the translation that the access found at its issue, 0 for none (log 6). -/
structure Req where
  core : Nat
  ctx  : Nat
  id   : Nat
  op   : ReqOp
  asid : BitVec 12
  gid  : BitVec 32
  va   : VA
  size : Nat
  x    : VReg
  y    : Dword
  sx   : Bool
  dest : ReqDest
  path : ReqPath
  nt   : Bool
  leaf : Dword := 0
  deriving DecidableEq, Repr

/-- The tag of an LLC line (R162): a virtual line with its address space, or a physical line of a domain-shared region. -/
structure LineTag where
  phys : Bool
  line : Nat
  asid : BitVec 12
  key  : BitVec 12
  deriving DecidableEq, Repr

/-- An inbox entry (Table 10-3). `ctx` and `id` are the reply route of a matrix command (R145). -/
structure InboxEntry where
  kind    : BitVec 3
  port    : BitVec 4
  gid     : BitVec 32
  src     : BitVec 10
  sdie    : BitVec 2
  payload : List Dword
  ctx     : Nat
  id      : Nat
  deriving DecidableEq, Repr

/-- The instructions, queue-program words and events of the machine: one constructor per row of the opcode table. -/
inductive Instr where
  /-- ADD (R103): Adds two registers modulo 2^64 and enters the result in y0. -/
  | add (d : BitVec 6) (a : BitVec 6) (b : BitVec 6)
  /-- SUB (R103): Subtracts two registers modulo 2^64. -/
  | sub (d : BitVec 6) (a : BitVec 6) (b : BitVec 6)
  /-- MUL (R103): Multiplies two registers, keeping the low 64 bits. -/
  | mul (d : BitVec 6) (a : BitVec 6) (b : BitVec 6)
  /-- MULH (R103): Gives the high 64 bits of the signed 128-bit product. -/
  | mulh (d : BitVec 6) (a : BitVec 6) (b : BitVec 6)
  /-- MULHN (R103): Gives the high 64 bits of the natural 128-bit product. -/
  | mulhn (d : BitVec 6) (a : BitVec 6) (b : BitVec 6)
  /-- DIVS (R28): Signed division truncating towards zero, with defined results for a zero divisor. -/
  | divs (d : BitVec 6) (a : BitVec 6) (b : BitVec 6)
  /-- DIVN (R28): Natural division, with defined results for a zero divisor. -/
  | divn (d : BitVec 6) (a : BitVec 6) (b : BitVec 6)
  /-- REMS (R28): Signed remainder taking the sign of the dividend. -/
  | rems (d : BitVec 6) (a : BitVec 6) (b : BitVec 6)
  /-- REMN (R28): Natural remainder. -/
  | remn (d : BitVec 6) (a : BitVec 6) (b : BitVec 6)
  /-- AND (R103): Bitwise AND of two registers. -/
  | andd (d : BitVec 6) (a : BitVec 6) (b : BitVec 6)
  /-- OR (R103): Bitwise OR of two registers. -/
  | orr (d : BitVec 6) (a : BitVec 6) (b : BitVec 6)
  /-- XOR (R103): Bitwise XOR of two registers. -/
  | xorr (d : BitVec 6) (a : BitVec 6) (b : BitVec 6)
  /-- ANDN (R103): Computes a AND NOT b. -/
  | andn (d : BitVec 6) (a : BitVec 6) (b : BitVec 6)
  /-- SHL (R103): Shifts left by b[5:0]. -/
  | shl (d : BitVec 6) (a : BitVec 6) (b : BitVec 6)
  /-- SHR (R103): Shifts right with zero fill by b[5:0]. -/
  | shr (d : BitVec 6) (a : BitVec 6) (b : BitVec 6)
  /-- SHA (R103): Shifts right with sign fill by b[5:0]. -/
  | sha (d : BitVec 6) (a : BitVec 6) (b : BitVec 6)
  /-- ROT (R103): Rotates left by b[5:0]. -/
  | rot (d : BitVec 6) (a : BitVec 6) (b : BitVec 6)
  /-- CLZ (R103): Counts leading zero bits. -/
  | clz (d : BitVec 6) (a : BitVec 6)
  /-- POPC (R103): Counts one bits. -/
  | popc (d : BitVec 6) (a : BitVec 6)
  /-- MINS (R103): Signed minimum. -/
  | mins (d : BitVec 6) (a : BitVec 6) (b : BitVec 6)
  /-- MAXS (R103): Signed maximum. -/
  | maxs (d : BitVec 6) (a : BitVec 6) (b : BitVec 6)
  /-- MINN (R103): Natural minimum. -/
  | minn (d : BitVec 6) (a : BitVec 6) (b : BitVec 6)
  /-- MAXN (R103): Natural maximum. -/
  | maxn (d : BitVec 6) (a : BitVec 6) (b : BitVec 6)
  /-- CMPEQ (R103): Writes 1 when the operands are equal, else 0. -/
  | cmpeq (d : BitVec 6) (a : BitVec 6) (b : BitVec 6)
  /-- CMPLT (R103): Signed less-than compare. -/
  | cmplt (d : BitVec 6) (a : BitVec 6) (b : BitVec 6)
  /-- CMPLTN (R103): Natural less-than compare. -/
  | cmpltn (d : BitVec 6) (a : BitVec 6) (b : BitVec 6)
  /-- CMPLE (R103): Signed less-or-equal compare. -/
  | cmple (d : BitVec 6) (a : BitVec 6) (b : BitVec 6)
  /-- SEL (R103): Selects a or b by bit 0 of the old d. -/
  | sel (d : BitVec 6) (a : BitVec 6) (b : BitVec 6)
  /-- ADD_SATS (R103): Signed saturating addition, setting fsn.sat when clamped. -/
  | addSats (d : BitVec 6) (a : BitVec 6) (b : BitVec 6)
  /-- ADD_SATN (R103): Natural saturating addition. -/
  | addSatn (d : BitVec 6) (a : BitVec 6) (b : BitVec 6)
  /-- SUB_SATS (R103): Signed saturating subtraction. -/
  | subSats (d : BitVec 6) (a : BitVec 6) (b : BitVec 6)
  /-- SUB_SATN (R103): Natural saturating subtraction. -/
  | subSatn (d : BitVec 6) (a : BitVec 6) (b : BitVec 6)
  /-- MUL_SATS (R103): Signed saturating multiplication. -/
  | mulSats (d : BitVec 6) (a : BitVec 6) (b : BitVec 6)
  /-- MUL_SATN (R103): Natural saturating multiplication. -/
  | mulSatn (d : BitVec 6) (a : BitVec 6) (b : BitVec 6)
  /-- ADDI (R104): Adds a sign-extended immediate to a register. -/
  | addi (d : BitVec 6) (a : BitVec 6) (i : BitVec 14)
  /-- ANDI (R104): ANDs a zero-extended immediate into a register. -/
  | andi (d : BitVec 6) (a : BitVec 6) (i : BitVec 14)
  /-- ORI (R104): ORs a zero-extended immediate into a register. -/
  | ori (d : BitVec 6) (a : BitVec 6) (i : BitVec 14)
  /-- XORI (R104): XORs a zero-extended immediate into a register. -/
  | xori (d : BitVec 6) (a : BitVec 6) (i : BitVec 14)
  /-- SHLI (R104): Shifts left by an immediate count. -/
  | shli (d : BitVec 6) (a : BitVec 6) (n : BitVec 6)
  /-- SHRI (R104): Shifts right with zero fill by an immediate count. -/
  | shri (d : BitVec 6) (a : BitVec 6) (n : BitVec 6)
  /-- SHAI (R104): Shifts right with sign fill by an immediate count. -/
  | shai (d : BitVec 6) (a : BitVec 6) (n : BitVec 6)
  /-- MOVI (R104): Writes a sign-extended immediate. -/
  | movi (d : BitVec 6) (i : BitVec 14)
  /-- EXT (R104): Extracts a bit field, zero-extended. -/
  | ext (d : BitVec 6) (a : BitVec 6) (l : BitVec 6) (p : BitVec 6)
  /-- EXT_S (R104): Extracts a bit field, sign-extended. -/
  | extS (d : BitVec 6) (a : BitVec 6) (l : BitVec 6) (p : BitVec 6)
  /-- INS (R104): Inserts the low bits of a into a field of d. -/
  | ins (d : BitVec 6) (a : BitVec 6) (l : BitVec 6) (p : BitVec 6)
  /-- FADD (R105): Scalar float addition with one rounding. -/
  | fadd (d : BitVec 6) (a : BitVec 6) (b : BitVec 6) (f : BitVec 4)
  /-- FSUB (R105): Scalar float subtraction. -/
  | fsub (d : BitVec 6) (a : BitVec 6) (b : BitVec 6) (f : BitVec 4)
  /-- FMUL (R105): Scalar float multiplication. -/
  | fmul (d : BitVec 6) (a : BitVec 6) (b : BitVec 6) (f : BitVec 4)
  /-- FFMA (R105): Fused multiply-add onto the old d with one rounding. -/
  | ffma (d : BitVec 6) (a : BitVec 6) (b : BitVec 6) (f : BitVec 4)
  /-- FMIN (R31): Scalar float minimum with the device's NaN and zero order. -/
  | fmin (d : BitVec 6) (a : BitVec 6) (b : BitVec 6) (f : BitVec 4)
  /-- FMAX (R31): Scalar float maximum with the device's NaN and zero order. -/
  | fmax (d : BitVec 6) (a : BitVec 6) (b : BitVec 6) (f : BitVec 4)
  /-- FCMP (R105): Compares two floats and writes a relation code. -/
  | fcmp (d : BitVec 6) (a : BitVec 6) (b : BitVec 6) (f : BitVec 4)
  /-- FCVT (R106): Converts between any two type codes. -/
  | fcvt (d : BitVec 6) (a : BitVec 6) (s : BitVec 4) (z : BitVec 1) (u : BitVec 1) (t : BitVec 4)
  /-- FABS (R105): Clears the sign bit, keeping any payload. -/
  | fabs (d : BitVec 6) (a : BitVec 6) (f : BitVec 4)
  /-- FNEG (R105): Inverts the sign bit, keeping any payload. -/
  | fneg (d : BitVec 6) (a : BitVec 6) (f : BitVec 4)
  /-- RDCYC (R341): Reads the die's cycle count. -/
  | rdcyc (d : BitVec 6)
  /-- RDPERF (R341): Reads a selected performance counter. -/
  | rdperf (d : BitVec 6) (a : BitVec 6)
  /-- VADD (R108): Per-lane vector addition, optionally saturating. -/
  | vadd (d : BitVec 4) (a : BitVec 4) (b : BitVec 4) (s : BitVec 1) (l : BitVec 3)
  /-- VSUB (R108): Per-lane vector subtraction. -/
  | vsub (d : BitVec 4) (a : BitVec 4) (b : BitVec 4) (s : BitVec 1) (l : BitVec 3)
  /-- VMUL (R108): Per-lane vector multiplication. -/
  | vmul (d : BitVec 4) (a : BitVec 4) (b : BitVec 4) (s : BitVec 1) (l : BitVec 3)
  /-- VFMA (R108): Per-lane fused multiply-add onto vd. -/
  | vfma (d : BitVec 4) (a : BitVec 4) (b : BitVec 4) (l : BitVec 3)
  /-- VMAX (R108): Per-lane maximum. -/
  | vmax (d : BitVec 4) (a : BitVec 4) (b : BitVec 4) (l : BitVec 3)
  /-- VMIN (R108): Per-lane minimum. -/
  | vmin (d : BitVec 4) (a : BitVec 4) (b : BitVec 4) (l : BitVec 3)
  /-- VEXP2 (R32): Correctly rounded per-lane 2^x. -/
  | vexp2 (d : BitVec 4) (a : BitVec 4) (l : BitVec 3)
  /-- VRCP (R32): Correctly rounded per-lane reciprocal. -/
  | vrcp (d : BitVec 4) (a : BitVec 4) (l : BitVec 3)
  /-- VRSQ (R32): Correctly rounded per-lane reciprocal square root. -/
  | vrsq (d : BitVec 4) (a : BitVec 4) (l : BitVec 3)
  /-- VRED_ADD (R109): Sums all lanes into a scalar with one rounding. -/
  | vredAdd (a : BitVec 4) (x : BitVec 6) (l : BitVec 3)
  /-- VRED_MAX (R109): Reduces all lanes to their maximum in a scalar. -/
  | vredMax (a : BitVec 4) (x : BitVec 6) (l : BitVec 3)
  /-- VRED_MIN (R109): Reduces all lanes to their minimum in a scalar. -/
  | vredMin (a : BitVec 4) (x : BitVec 6) (l : BitVec 3)
  /-- VCVT (R110): Converts each lane to a type of the same width. -/
  | vcvt (d : BitVec 4) (a : BitVec 4) (u : BitVec 1) (z : BitVec 1) (t : BitVec 4) (l : BitVec 3)
  /-- VPACK (R110): Converts two registers' lanes to half width into one. -/
  | vpack (d : BitVec 4) (a : BitVec 4) (b : BitVec 4) (u : BitVec 1) (z : BitVec 1) (t : BitVec 4) (l : BitVec 3)
  /-- VUNPK (R110): Converts lanes to twice the width into vd and vd+1. -/
  | vunpk (d : BitVec 4) (a : BitVec 4) (u : BitVec 1) (z : BitVec 1) (t : BitVec 4) (l : BitVec 3)
  /-- VSEL (R108): Selects va or vb per lane by a mask register. -/
  | vsel (d : BitVec 4) (a : BitVec 4) (b : BitVec 4) (m : BitVec 4) (l : BitVec 3)
  /-- VSHF (R108): Permutes lanes of va by indices in vb. -/
  | vshf (d : BitVec 4) (a : BitVec 4) (b : BitVec 4) (l : BitVec 3)
  /-- VBCAST (R108): Broadcasts a scalar into every lane. -/
  | vbcast (d : BitVec 4) (x : BitVec 6) (l : BitVec 3)
  /-- VCMP (R108): Per-lane compare producing all-ones or zero. -/
  | vcmp (d : BitVec 4) (a : BitVec 4) (b : BitVec 4) (c : BitVec 2) (l : BitVec 3)
  /-- MMS (R136): Streams a dense activation tile past the active plane into accumulators in 32-row steps. -/
  | mms (c : BitVec 2) (a : BitVec 6) (b : BitVec 6) (t : BitVec 1) (m : BitVec 2) (s : BitVec 3)
  /-- MMSS (R136): As MMS with a 2:4 sparse operand A using both planes. -/
  | mmss (c : BitVec 2) (a : BitVec 6) (b : BitVec 6) (t : BitVec 1) (m : BitVec 2) (s : BitVec 3)
  /-- LDSTAT (R134): Loads a 32x32 weight tile into the shadow plane. -/
  | ldstat (b : BitVec 6) (t : BitVec 1)
  /-- TIDSET (R131): Pops four dwords from ldq into a tensor identifier entry. -/
  | tidset (t : BitVec 6)
  /-- TIDGET (R133): Reads one dword of a tensor identifier entry. -/
  | tidget (d : BitVec 6) (t : BitVec 6) (n : BitVec 2)
  /-- SWAPSTAT (R135): Exchanges the active and shadow planes with their tags. -/
  | swapstat (s : BitVec 3)
  /-- ACCZ (R138): Zeroes an accumulator and sets its mode. -/
  | accz (c : BitVec 2) (m : BitVec 2) (s : BitVec 3)
  /-- ACCZ_MARK (R138): Changes no state and sets its slot once earlier macro-ops complete. -/
  | acczMark (s : BitVec 3)
  /-- ACCLD (R139): Loads an accumulator from a 32x32 tensor. -/
  | accld (c : BitVec 2) (t : BitVec 6) (s : BitVec 3)
  /-- ACCST (R140): Stores an accumulator to a tensor, converting and choosing scales. -/
  | accst (t : BitVec 6) (c : BitVec 2) (s : BitVec 3)
  /-- ACCADD (R141): Adds one accumulator into another. -/
  | accadd (d : BitVec 2) (e : BitVec 2) (s : BitVec 3)
  /-- SCALEK (R143): On the scale keeper, combines E8 bytes and writes them to every peer's o7. -/
  | scalek (d : BitVec 6) (a : BitVec 6) (b : BitVec 6)
  /-- SCALEW (R143): Waits for o7's full bit, takes o7 and clears the bit. -/
  | scalew (d : BitVec 6)
  /-- MCMD (R144): Sends a matrix instruction word with a capability to another core. -/
  | mcmd (s : BitVec 3) (a : BitVec 6) (b : BitVec 6)
  /-- MCAP (R146): Mints a tagged capability at device privilege. -/
  | mcap (d : BitVec 6) (a : BitVec 6)
  /-- TCVT (R142): Converts a tensor in memory, optionally transposed. -/
  | tcvt (d : BitVec 6) (a : BitVec 6) (z : BitVec 1) (r : BitVec 1) (s : BitVec 3)
  /-- TCOPY (R142): Copies a tensor in memory, optionally transposed. -/
  | tcopy (d : BitVec 6) (a : BitVec 6) (r : BitVec 1) (s : BitVec 3)
  /-- PERMIT (R339): Acquires long-held permit units for the context. -/
  | permit (d : BitVec 6) (a : BitVec 6)
  /-- PERMREL (R339): Releases permit units held by the context. -/
  | permrel (d : BitVec 6) (a : BitVec 6)
  /-- AADD (R107): Adds two address registers modulo 2^80. -/
  | aadd (d : BitVec 4) (a : BitVec 4) (b : BitVec 4)
  /-- ASUB (R107): Subtracts two address registers. -/
  | asub (d : BitVec 4) (a : BitVec 4) (b : BitVec 4)
  /-- AMOV (R107): Forms an address from a's high bits and a popped ldq item. -/
  | amov (d : BitVec 4) (a : BitVec 4)
  /-- ACMP_EQ (R107): Writes 1 to an address register when two are equal. -/
  | acmpEq (d : BitVec 4) (a : BitVec 4) (b : BitVec 4)
  /-- ACMP_NE (R107): Writes 1 when two address registers differ. -/
  | acmpNe (d : BitVec 4) (a : BitVec 4) (b : BitVec 4)
  /-- ACMP_LT (R107): Writes 1 when a is below b as natural values. -/
  | acmpLt (d : BitVec 4) (a : BitVec 4) (b : BitVec 4)
  /-- ACMP_LE (R107): Writes 1 when a is at most b as natural values. -/
  | acmpLe (d : BitVec 4) (a : BitVec 4) (b : BitVec 4)
  /-- AMASK (R107): ANDs two address registers. -/
  | amask (d : BitVec 4) (a : BitVec 4) (b : BitVec 4)
  /-- AIDX (R107): Adds a scaled data register to an address register. -/
  | aidx (d : BitVec 4) (a : BitVec 4) (b : BitVec 6) (n : BitVec 3)
  /-- AADDI (R107): Adds a sign-extended immediate to an address register. -/
  | aaddi (d : BitVec 4) (a : BitVec 4) (i : BitVec 14)
  /-- LD (R185): Loads 1-8 bytes into a reserved ldq position. -/
  | ld (a : BitVec 4) (s : BitVec 3) (w : BitVec 3) (z : BitVec 2) (q : BitVec 1) (o : BitVec 12)
  /-- ST (R189): Stores 1-8 bytes popped from sdq at the home. -/
  | st (a : BitVec 4) (s : BitVec 3) (w : BitVec 3) (z : BitVec 2) (o : BitVec 12)
  /-- LDACQ (R190): Acquiring load that holds later access-stream accesses. -/
  | ldacq (a : BitVec 4) (s : BitVec 3) (w : BitVec 3) (z : BitVec 2) (q : BitVec 2) (o : BitVec 12)
  /-- STREL (R191): Releasing store sent after every earlier access has completed. -/
  | strel (a : BitVec 4) (s : BitVec 3) (w : BitVec 3) (z : BitVec 2) (q : BitVec 2) (o : BitVec 12)
  /-- LDC (R187): Load through the constant cache. -/
  | ldc (a : BitVec 4) (s : BitVec 3) (w : BitVec 3) (z : BitVec 2) (q : BitVec 1) (o : BitVec 12)
  /-- LDI (R188): Invariant load that marks its L1 line invariant. -/
  | ldi (a : BitVec 4) (s : BitVec 3) (w : BitVec 3) (z : BitVec 2) (q : BitVec 1) (o : BitVec 12)
  /-- LDFE (R194): Waits for a full granule, reads it and optionally clears it. -/
  | ldfe (a : BitVec 4) (s : BitVec 3) (w : BitVec 3) (z : BitVec 2) (q : BitVec 1) (o : BitVec 12)
  /-- STFE (R194): Optionally waits for empty, writes and sets the granule full. -/
  | stfe (a : BitVec 4) (s : BitVec 3) (w : BitVec 3) (z : BitVec 2) (q : BitVec 1) (o : BitVec 12)
  /-- LA (R196): Loads an 80-bit address register from 16 bytes. -/
  | la (a : BitVec 4) (s : BitVec 3) (w : BitVec 3) (t : BitVec 4) (o : BitVec 8)
  /-- ATADD (R197): Atomic add at the home, returning the old value. -/
  | atadd (a : BitVec 4) (s : BitVec 3) (w : BitVec 3) (z : BitVec 1) (o : BitVec 12)
  /-- ATMIN (R197): Atomic minimum, signed or natural by sz. -/
  | atmin (a : BitVec 4) (s : BitVec 3) (w : BitVec 3) (z : BitVec 2) (o : BitVec 12)
  /-- ATMAX (R197): Atomic maximum, signed or natural by sz. -/
  | atmax (a : BitVec 4) (s : BitVec 3) (w : BitVec 3) (z : BitVec 2) (o : BitVec 12)
  /-- ATAND (R197): Atomic AND. -/
  | atand (a : BitVec 4) (s : BitVec 3) (w : BitVec 3) (z : BitVec 1) (o : BitVec 12)
  /-- ATOR (R197): Atomic OR. -/
  | ator (a : BitVec 4) (s : BitVec 3) (w : BitVec 3) (z : BitVec 1) (o : BitVec 12)
  /-- ATXOR (R197): Atomic XOR. -/
  | atxor (a : BitVec 4) (s : BitVec 3) (w : BitVec 3) (z : BitVec 1) (o : BitVec 12)
  /-- ATSWP (R197): Atomic swap. -/
  | atswp (a : BitVec 4) (s : BitVec 3) (w : BitVec 3) (z : BitVec 1) (o : BitVec 12)
  /-- ATCAS (R197): Atomic compare-and-swap popping two items. -/
  | atcas (a : BitVec 4) (s : BitVec 3) (w : BitVec 3) (z : BitVec 1) (o : BitVec 12)
  /-- WAITA (R198): Parks at the home until its line is written, unless the value already differs. -/
  | waita (a : BitVec 4) (s : BitVec 3) (w : BitVec 3) (z : BitVec 1) (o : BitVec 12)
  /-- PREF (R201): Prefetches a line into the home slice and L1. -/
  | pref (a : BitVec 4) (s : BitVec 3) (w : BitVec 3) (o : BitVec 12)
  /-- CFLUSH (R201): Writes back a line and invalidates its copies. -/
  | cflush (a : BitVec 4) (s : BitVec 3) (w : BitVec 3) (o : BitVec 12)
  /-- CINV (R201): Drops a line from the core's caches and invalidates it at the home if clean. -/
  | cinv (a : BitVec 4) (s : BitVec 3) (w : BitVec 3) (o : BitVec 12)
  /-- CPIN (R201): Fills and pins a line for the issuing gang. -/
  | cpin (a : BitVec 4) (s : BitVec 3) (w : BitVec 3) (o : BitVec 12)
  /-- CUNPIN (R201): Clears the gang's pin on a line. -/
  | cunpin (a : BitVec 4) (s : BitVec 3) (w : BitVec 3) (o : BitVec 12)
  /-- FENCE_CORE (R200): Waits for earlier accesses and pending slots at core scope. -/
  | fenceCore (s : BitVec 3)
  /-- FENCE_TILE (R200): Fence at tile scope. -/
  | fenceTile (s : BitVec 3)
  /-- FENCE_DIE (R200): Fence at die scope. -/
  | fenceDie (s : BitVec 3)
  /-- FENCE_MODULE (R200): Fence at module scope. -/
  | fenceModule (s : BitVec 3)
  /-- FENCE_DOMAIN (R200): Fence at domain scope. -/
  | fenceDomain (s : BitVec 3)
  /-- VLD (R196): Loads 64 bytes into a vector register. -/
  | vld (a : BitVec 4) (s : BitVec 3) (w : BitVec 3) (t : BitVec 4) (o : BitVec 8)
  /-- VST (R196): Stores a vector register's 64 bytes. -/
  | vst (a : BitVec 4) (s : BitVec 3) (w : BitVec 3) (t : BitVec 4) (o : BitVec 8)
  /-- VSTFE (R196): Stores a vector register and sets its four granules full. -/
  | vstfe (a : BitVec 4) (s : BitVec 3) (w : BitVec 3) (t : BitVec 4) (o : BitVec 8)
  /-- ASOP_REDUCE_ADD (R207): Runs the reduce.add near-memory operator from a descriptor. -/
  | asopReduceAdd (a : BitVec 4) (s : BitVec 3) (w : BitVec 3) (o : BitVec 12)
  /-- ASOP_REDUCE_MAX (R207): Runs the reduce.max operator. -/
  | asopReduceMax (a : BitVec 4) (s : BitVec 3) (w : BitVec 3) (o : BitVec 12)
  /-- ASOP_AXPY (R207): Runs the axpy operator. -/
  | asopAxpy (a : BitVec 4) (s : BitVec 3) (w : BitVec 3) (o : BitVec 12)
  /-- ASOP_CONVERT (R207): Runs the convert operator. -/
  | asopConvert (a : BitVec 4) (s : BitVec 3) (w : BitVec 3) (o : BitVec 12)
  /-- ASOP_SCALE (R207): Runs the scale operator. -/
  | asopScale (a : BitVec 4) (s : BitVec 3) (w : BitVec 3) (o : BitVec 12)
  /-- ASOP_GATHER (R207): Runs the gather-rows operator. -/
  | asopGather (a : BitVec 4) (s : BitVec 3) (w : BitVec 3) (o : BitVec 12)
  /-- ASOP_SCATTER_ADD (R207): Runs the scatter-add operator. -/
  | asopScatterAdd (a : BitVec 4) (s : BitVec 3) (w : BitVec 3) (o : BitVec 12)
  /-- ASOP_SMERGE (R207): Runs the softmax-merge operator. -/
  | asopSmerge (a : BitVec 4) (s : BitVec 3) (w : BitVec 3) (o : BitVec 12)
  /-- JCSUB (R239): Submits a job card to the die's job queue. -/
  | jcsub (d : BitVec 6) (a : BitVec 4) (s : BitVec 3)
  /-- JCWAIT (R239): Waits for a named job and reports its status. -/
  | jcwait (d : BitVec 6) (a : BitVec 6) (s : BitVec 3)
  /-- SEGOPEN (R337): Opens a segment channel of an Ashlar unit. -/
  | segopen (d : BitVec 6) (a : BitVec 4) (b : BitVec 6) (s : BitVec 3)
  /-- SEGPUT (R337): Sends one element to a segment channel. -/
  | segput (c : BitVec 2) (a : BitVec 4) (b : BitVec 6) (s : BitVec 3)
  /-- SEGPUT_2 (R337): Sends two elements to a segment channel. -/
  | segput2 (c : BitVec 2) (a : BitVec 4) (b : BitVec 6) (s : BitVec 3)
  /-- SEGPUT_PFX (R337): Sends a length-prefix word to a segment channel. -/
  | segputPfx (c : BitVec 2) (a : BitVec 4) (b : BitVec 6) (s : BitVec 3)
  /-- SEGCLOSE (R337): Drains and closes a segment channel, trapping on a mismatch. -/
  | segclose (d : BitVec 6) (a : BitVec 4) (c : BitVec 2) (s : BitVec 3)
  /-- SEGCNT (R337): Reads a segment channel's status. -/
  | segcnt (d : BitVec 6) (a : BitVec 4) (c : BitVec 2) (s : BitVec 3)
  /-- ASCFG (R303): Reconfigures an Ashlar unit's partition and channels. -/
  | ascfg (d : BitVec 6) (a : BitVec 4) (b : BitVec 6) (s : BitVec 3)
  /-- PUT (R264): Offers a parcel at a put port and stalls until it fires. -/
  | put (r : BitVec 6) (p : BitVec 4) (s : BitVec 3) (n : BitVec 6)
  /-- GET (R264): Offers at a get port and stalls until a parcel is delivered. -/
  | get (r : BitVec 6) (p : BitVec 4) (s : BitVec 3)
  /-- OFFER_PUT (R265): Offers a parcel without waiting. -/
  | offerPut (r : BitVec 6) (p : BitVec 4) (s : BitVec 3) (n : BitVec 6)
  /-- OFFER_GET (R265): Offers to take a parcel without waiting. -/
  | offerGet (p : BitVec 4) (s : BitVec 3)
  /-- POLL (R265): Reads a port slot's offer status. -/
  | poll (r : BitVec 6) (p : BitVec 4) (s : BitVec 3)
  /-- RETRACT (R265): Retracts a pending offer and reports whether it fired. -/
  | retract (r : BitVec 6) (p : BitVec 4) (s : BitVec 3)
  /-- CONLOAD (R267): Sends a connector load descriptor to a Keystone. -/
  | conload (r : BitVec 4) (s : BitVec 3)
  /-- CONDROP (R268): Drops a connector, answering its offers and clearing bindings. -/
  | condrop (r : BitVec 6) (s : BitVec 3)
  /-- CONSTAT (R269): Reads a connector's status. -/
  | constat (r : BitVec 6) (s : BitVec 3)
  /-- PBIND (R266): Binds, rebinds or unbinds a port slot. -/
  | pbind (r : BitVec 6) (p : BitVec 4) (s : BitVec 3)
  /-- PGSUB (R315): Subscribes a query group to its pages. -/
  | pgsub (d : BitVec 6) (a : BitVec 4) (s : BitVec 3)
  /-- PGUNSUB (R316): Removes a query group's subscription. -/
  | pgunsub (d : BitVec 6) (a : BitVec 6) (s : BitVec 3)
  /-- PGPASS (R317): Queues a layer pass on the die's streamer. -/
  | pgpass (d : BitVec 6) (a : BitVec 4) (s : BitVec 3)
  /-- PGRECV (R318): Waits for a ring slot's tag granule and acquires the delivery. -/
  | pgrecv (d : BitVec 6) (a : BitVec 4) (s : BitVec 3)
  /-- PGRECV_FREE (R318): Frees a ring slot back to the streamer. -/
  | pgrecvFree (a : BitVec 4) (s : BitVec 3)
  /-- MRGPUT (R319): Sends a partial record to a merge-buffer entry. -/
  | mrgput (a : BitVec 4) (b : BitVec 6) (s : BitVec 3)
  /-- MRGGET (R320): Waits for all partials, writes the result and resets the entry. -/
  | mrgget (d : BitVec 6) (a : BitVec 4) (b : BitVec 6) (s : BitVec 3)
  /-- MRGCFG (R321): Allocates, resets or frees a merge-buffer entry. -/
  | mrgcfg (d : BitVec 6) (a : BitVec 4) (b : BitVec 6) (s : BitVec 3)
  /-- SIGDEC (R330): Decrements a signal as a release. -/
  | sigdec (d : BitVec 6) (a : BitVec 4) (b : BitVec 6) (s : BitVec 3)
  /-- SIGWAIT (R330): Waits until a signal's count falls to a threshold or its status is set. -/
  | sigwait (d : BitVec 6) (a : BitVec 4) (b : BitVec 6) (s : BitVec 3)
  /-- DCINIT (R332): Sets a task node's dependency counter. -/
  | dcinit (d : BitVec 6) (a : BitVec 6) (b : BitVec 6) (s : BitVec 3)
  /-- DCDEC (R332): Decrements a task node's dependency counter. -/
  | dcdec (d : BitVec 6) (a : BitVec 6) (b : BitVec 6) (s : BitVec 3)
  /-- RHOPEN (R204): Opens a residency handle over an address range. -/
  | rhopen (d : BitVec 6) (a : BitVec 4) (b : BitVec 6) (s : BitVec 3)
  /-- RHPRI (R203): Sets a handle's priority and that of its lines. -/
  | rhpri (a : BitVec 6) (b : BitVec 6) (s : BitVec 3)
  /-- RHDEMOTE (R203): Demotes a handle and its lines to priority 0. -/
  | rhdemote (a : BitVec 6) (s : BitVec 3)
  /-- RHEVICT (R203): Writes back and invalidates a handle's unpinned lines. -/
  | rhevict (a : BitVec 6) (s : BitVec 3)
  /-- RHCLOSE (R203): Makes a handle's lines unmanaged and frees it. -/
  | rhclose (a : BitVec 6) (s : BitVec 3)
  /-- BRE (R77): Branches when bit 0 of a register is 1, evaluated by the execute stream. -/
  | bre (c : BitVec 6) (d : BitVec 20)
  /-- BEQZ (R77): Branches when a register is zero. -/
  | beqz (c : BitVec 6) (d : BitVec 20)
  /-- BNEZ (R77): Branches when a register is non-zero. -/
  | bnez (c : BitVec 6) (d : BitVec 20)
  /-- BRA (R77): Branches on bit 0 of an address register, evaluated by the access stream. -/
  | bra (a : BitVec 4) (d : BitVec 20)
  /-- JMP (R76): Unconditional jump with a delay slot. -/
  | jmp (d : BitVec 20)
  /-- CALL (R101): Jumps and pushes branch + 8 onto the return stack. -/
  | call (d : BitVec 20)
  /-- LOOP (R111): Decrements an address register and branches while it is non-zero. -/
  | loop (a : BitVec 4) (d : BitVec 20)
  /-- JMPI (R76): Jumps to a register's address via the branch-outcome queue. -/
  | jmpi (a : BitVec 6)
  /-- FOLLOW (R114): Forms or joins a follow group at a rejoin point. -/
  | follow (k : BitVec 8)
  /-- JOIN (R344): Waits for a helper to end and returns its exit cell. -/
  | join (d : BitVec 6) (a : BitVec 6)
  /-- END (R344): Ends a helper or retires the core's control context. -/
  | endc (a : BitVec 6)
  /-- RETS (R353): Retires the core into a successor kernel with an inheritance mask. -/
  | rets (m : BitVec 6) (d : BitVec 6)
  /-- RDSW (R346): Reads a state word. -/
  | rdsw (d : BitVec 6) (i : BitVec 6)
  /-- WRSW (R346): Writes a state word after earlier instructions complete. -/
  | wrsw (a : BitVec 6) (i : BitVec 6)
  /-- TNSUB (R299): Submits a task graph for admission. -/
  | tnsub (d : BitVec 6) (a : BitVec 4)
  /-- TNDONE (R359): Declares this core's part of a gang node complete. -/
  | tndone (d : BitVec 6)
  /-- AMSG (R347): Sends an active message or mail to a core of the gang. -/
  | amsg (a : BitVec 6)
  /-- INBX (R236): Reads the inbox status at once. -/
  | inbx (d : BitVec 6)
  /-- INBX_WAIT (R236): Waits for a mail entry and reads the inbox status. -/
  | inbxWait (d : BitVec 6)
  /-- FIBSW (R378): Switches to another fibre's frame. -/
  | fibsw (a : BitVec 4)
  /-- UPRET (R378): Waits on a faulted fibre's notice and resumes it or traps. -/
  | upret (a : BitVec 4)
  /-- SBWAIT (R327): Waits in both streams on a mask of scoreboard slots. -/
  | sbwait (m : BitVec 7)
  /-- TRAP (R380): Takes a trap with code 0x20 and a number. -/
  | trap (k : BitVec 8)
  /-- SVC (R380): Takes a service trap with code 0x21. -/
  | svc (k : BitVec 8)
  /-- WRPRIV (R382): Sets msr.dev at device privilege. -/
  | wrpriv (a : BitVec 6)
  /-- XINV_PAGE (R284): Removes one page's translations and cached lines. -/
  | xinvPage (d : BitVec 4) (a : BitVec 6)
  /-- XINV_ASID (R284): Removes every translation of an address space. -/
  | xinvAsid (a : BitVec 6)
  /-- XINV_FRAME (R284): Clears frame metadata records and translations mapping them. -/
  | xinvFrame (a : BitVec 6) (n : BitVec 6)
  /-- KEYSET_RAND (R301): Installs fresh random keys for a key id. -/
  | keysetRand (d : BitVec 6) (a : BitVec 6)
  /-- KEYSET_LOAD (R301): Installs keys read from memory for a key id. -/
  | keysetLoad (d : BitVec 6) (a : BitVec 6) (m : BitVec 4)
  /-- KEYSET_RETIRE (R176): Retires a key id, invalidating its lines and translations. -/
  | keysetRetire (d : BitVec 6) (a : BitVec 6)
  /-- PWRB_ON (R94): Turns a scratchpad bank on. -/
  | pwrbOn (b : BitVec 4)
  /-- PWRB_RTN (R94): Puts a scratchpad bank into retention. -/
  | pwrbRtn (b : BitVec 4)
  /-- PWRB_SAVE (R94): Saves dirty workspace granules and turns a bank off. -/
  | pwrbSave (b : BitVec 4)
  /-- PWRB_OFF (R94): Turns a bank off, making its granules dead. -/
  | pwrbOff (b : BitVec 4)
  /-- ATTEST (R397): Requests a signed attestation report into a buffer. -/
  | attest (d : BitVec 6) (a : BitVec 4) (s : BitVec 3)
  /-- SPAREMAP (R371): Maps a spare core in place of a failed one. -/
  | sparemap (d : BitVec 6) (a : BitVec 6)
  /-- START (R343): Starts a helper context at a target. -/
  | start (c : BitVec 6) (d : BitVec 20)
  /-- HINT_PFX (R81): Supplies upper immediate bits to the next word. -/
  | hintPfx (p : BitVec 22)
  /-- HINT_SCHED (R118): Fetches the next n words as one block. -/
  | hintSched (n : BitVec 8)
  /-- HINT_MOD (R184): Applies no-allocate or a WAITA timeout to the next word. -/
  | hintMod (t : BitVec 5) (n : BitVec 1)
  /-- HINT_PRIO (R80): Raises the home priority of the next request. -/
  | hintPrio (l : BitVec 3)
  /-- QMOVI (R386): Queue program: loads a sign-extended immediate. -/
  | qmovi (d : BitVec 4) (imm : BitVec 48)
  /-- QMOV (R386): Queue program: copies a register. -/
  | qmov (d : BitVec 4) (s : BitVec 4)
  /-- QADD (R386): Queue program: adds two registers. -/
  | qadd (d : BitVec 4) (s : BitVec 4)
  /-- QADDI (R386): Queue program: adds an immediate. -/
  | qaddi (d : BitVec 4) (imm : BitVec 48)
  /-- QAND (R386): Queue program: ANDs two registers. -/
  | qand (d : BitVec 4) (s : BitVec 4)
  /-- QSHL (R386): Queue program: shifts left. -/
  | qshl (d : BitVec 4) (n : BitVec 6)
  /-- QSHR (R386): Queue program: shifts right with zero fill. -/
  | qshr (d : BitVec 4) (n : BitVec 6)
  /-- QLD (R388): Queue program: loads a dword from a window. -/
  | qld (d : BitVec 4) (s : BitVec 4) (w : BitVec 2) (off : BitVec 16)
  /-- QST (R389): Queue program: stores a dword into a window at once. -/
  | qst (d : BitVec 4) (s : BitVec 4) (w : BitVec 2) (off : BitVec 16)
  /-- QBEQ (R388): Queue program: bounded branch on equality. -/
  | qbeq (d : BitVec 4) (s : BitVec 4) (disp : BitVec 16) (bound : BitVec 16)
  /-- QBNE (R388): Queue program: bounded branch on inequality. -/
  | qbne (d : BitVec 4) (s : BitVec 4) (disp : BitVec 16) (bound : BitVec 16)
  /-- QBLTN (R388): Queue program: bounded branch on natural less-than. -/
  | qbltn (d : BitVec 4) (s : BitVec 4) (disp : BitVec 16) (bound : BitVec 16)
  /-- QJMP (R388): Queue program: bounded unconditional branch. -/
  | qjmp (disp : BitVec 16) (bound : BitVec 16)
  /-- QLAUNCH (R386): Queue program: checks and stages a gang launch. -/
  | qlaunch (d : BitVec 4)
  /-- QGRAPH (R386): Queue program: checks (R299) and stages a task graph. -/
  | qgraph (d : BitVec 4)
  /-- QAMSG (R386): Queue program: stages an active message. -/
  | qamsg (d : BitVec 4) (s : BitVec 4)
  /-- QSIGDEC (R386): Queue program: stages a signal decrement. -/
  | qsigdec (d : BitVec 4) (s : BitVec 4)
  /-- QSIGRD (R386): Queue program: reads a signal's count now. -/
  | qsigrd (d : BitVec 4) (s : BitVec 4)
  /-- QCYC (R386): Queue program: reads the d0 cycle count. -/
  | qcyc (d : BitVec 4)
  /-- QEND (R388): Queue program: ends the packet with a status. -/
  | qend (d : BitVec 4)
  /-- NOP (R72): Does nothing. -/
  | nop
  /-- RET (R101): Returns to the address on the return stack. -/
  | ret
  /-- LEAVE (R116): Dissolves a follow group or withdraws a detached core. -/
  | leave
  /-- BAR (R351): Waits at the gang barrier. -/
  | bar
  /-- BAR_GROUP (R351): Waits at the group barrier. -/
  | barGroup
  /-- YIELD (R345): Gives up issue turns. -/
  | yield
  /-- RFT (R381): Returns from a trap, replaying waits and honouring ds. -/
  | rft
  /-- XINV_ALL (R284): Removes every translation. -/
  | xinvAll
  /-- HALTX (R383): Makes the issuing core fail. -/
  | haltx
  /-- PACKET_START (R390): An idle interpreter takes the next packet selected by arbitration. -/
  | packetStart
  /-- SUBMISSION (R242): A host write to a queue's submission register becomes a journal entry or is refused. -/
  | submission
  /-- COMMIT (R243): A write to the commit register frees entries and releases staged effects. -/
  | commitWrite
  /-- FIRMWARE_RESTART (R244): Firmware restart discards unreleased effects and replays from commit + 1. -/
  | firmwareRestart
  /-- QUEUE_PROGRAM_LOAD (R385): A configuration block write with en = 1 loads and checks the queue program. -/
  | queueProgramLoad
  /-- QUEUE_DISABLE (R385): A configuration block write with en = 0 disables the queue after its running packet. -/
  | queueDisable
  /-- START_TRIAL (R395): Firmware control bit 0 restarts the control cores on slot B with a 2.0 s watchdog. -/
  | startTrial
  /-- TRIAL_TIMEOUT (R395): The trial watchdog expires without an accepted commit and reverts to slot A. -/
  | trialTimeout
  /-- CLEAR_STATUS (R391): Firmware control bit 1 clears the Plinth status error bits. -/
  | clearStatus
  /-- ACTIVE_MESSAGE_BLOCK_TARGET (R393): A host write of an active-message block's target sends or refuses the message. -/
  | activeMessageBlockTarget
  /-- HOST_APERTURE_ACCESS (R391): A host read or write through the signal or memory aperture, translated as a user access. -/
  | hostApertureAccess
  /-- REGISTER_WRITE (R391): A write to a window register that has no behaviour of its own. -/
  | registerWrite
  /-- REGION_ENTRY_WRITE (R280): Firmware writes a region attribute entry, checked and applied at every slice in one step. -/
  | regionEntryWrite
  /-- CONNECTOR_KEY_INSTALL (R396): Installs a connector-signing key in a slot and extends M2. -/
  | connectorKeyInstall
  /-- POOL_SIZE_WRITE (R338): Firmware sets a die's permit pool size between gangs. -/
  | poolSizeWrite
  /-- FAULT_LOG_READ (R409): Firmware reads and frees the oldest fault-log entry. -/
  | faultLogRead
  /-- MODULE_RESET (R400): Module reset and bring-up set every reset value, key id 0, region 0xD, pools and measurements. -/
  | moduleReset
  /-- POWER_SAMPLE (R399): Every 10 µs firmware samples power and lowers or raises die pools. -/
  | powerSample
  /-- THERMAL_EVENT (R399): A die's junction crosses 95 or 90 °C and its pool is lowered or restored. -/
  | thermalEvent
  /-- THERMAL_STOP (R399): At 110 °C the module stops and HBM contents are lost. -/
  | thermalStop
  /-- GANG_PLACEMENT (R349): The Plinth places a waiting launch record, assigns a gang id, multicasts the image and releases it. -/
  | gangPlacement
  /-- STRIDE_QUANTUM (R363): At each 10 µs quantum the Plinth serves the queue with the least pass. -/
  | strideQuantum
  /-- BALANCER_TICK (R361): Every microsecond the balancer reads occupancy and applies migration commands. -/
  | balancerTick
  /-- GANG_STOP (R373): The Plinth stops a gang, retracting offers, draining messages and unloading contexts. -/
  | gangStop
  /-- GANG_RESUME (R373): The Plinth restores a stopped gang's state, scratchpads and bindings before it issues. -/
  | gangResume
  /-- GANG_COMPLETE (R352): Once every core has retired and every store is performed, the gang completes and is released. -/
  | gangComplete
  /-- SUCCESSOR_START (R354): When every core has retired by RETS, the Plinth checks the successor record and starts it in the slot. -/
  | successorStart
  /-- SUCCESSOR_OVERLAP_STORES_DONE (R355): The last predecessor store is performed and sb7 completes. -/
  | successorOverlapStoresDone
  /-- CORE_FAILURE (R369): A core fails by self-check or uncorrectable held state and its gang is stopped and resumed on a spare. -/
  | coreFailure
  /-- CONTROL_CORE_FAILOVER (R372): The standby control core takes over and re-runs emulations from their recorded step. -/
  | controlCoreFailover
  /-- HBM_ROW_REMAP (R372): Firmware remaps a failed HBM row or pseudo-channel to a spare. -/
  | hbmRowRemap
  /-- BEXUZ_LANE_FAILURE (R372): A failed fabric lane halves its port's rate. -/
  | bexuzLaneFailure
  /-- KEYSTONE_FAILURE (R273): A failed Keystone's connectors move to the neighbour, which restores them and sends FAILOVER. -/
  | keystoneFailure
  /-- DECISION (R256): At a multiple of 4 uncore cycles a connector slot fires its oldest enabled rule. -/
  | decision
  /-- OFFER (R258): An offer arrives at the Keystone and becomes pending and committed. -/
  | offerMsg
  /-- RETRACT_MESSAGE (R259): A retraction arrives at the Keystone, which replies RACK or RLATE. -/
  | retractMessage
  /-- BIND (R266): A binding request arrives at the Keystone, which replies BACK or BREF. -/
  | bindMsg
  /-- UNBIND (R266): An unbinding request arrives at the Keystone. -/
  | unbindMsg
  /-- LOAD (R267): A connector load arrives at the Keystone and verification begins. -/
  | loadConn
  /-- CONNECTOR_VERIFIED (R267): Verification ends; the Keystone loads the rules, writes the checkpoint and replies LACK. -/
  | connectorVerified
  /-- DROP (R268): A drop request arrives at the Keystone, which clears the connector and replies DACK. -/
  | dropMsg
  /-- FIRE (R258): A FIRE reaches a core's reserved inbox entry and completes its port operation. -/
  | fireMsg
  /-- RACK (R259): A retraction acknowledgement reaches the core. -/
  | rack
  /-- RLATE (R259): A late-retraction reply reaches the core; the firing stands. -/
  | rlate
  /-- BACK (R266): A binding acknowledgement reaches the core with the port's direction. -/
  | back
  /-- BREF (R266): A binding refusal reaches the core. -/
  | bref
  /-- LACK (R267): A load outcome reaches the core and sets the CONLOAD slot. -/
  | lack
  /-- DACK (R268): A drop acknowledgement reaches the core. -/
  | dack
  /-- FAILOVER (R273): A core receives FAILOVER and re-sends its pending offers and retractions. -/
  | failover
  /-- INBOX_ARRIVAL (R233): A mail, active-message, fire or matrix-command entry arrives at a core's inbox. -/
  | inboxArrival
  /-- ACTIVE_MESSAGE_START (R348): A kind-1 inbox entry starts a context when a helper number is free. -/
  | activeMessageStart
  /-- MCMD_ARRIVAL (R145): A matrix command is checked at the target and run or rejected. -/
  | mcmdArrival
  /-- HOME_REQUEST (R164): A request reaches its home slice or bank and is performed, linked or queued. -/
  | homeRequest
  /-- LLC_FILL (R165): A fill lands at an MSHR and serves its merge list in link order. -/
  | llcFill
  /-- WAITA_TIMEOUT (R199): A parked WAITA's timeout expires and it completes with the current value. -/
  | waitaTimeout
  /-- SIGWAIT_REPOLL (R330): A SIGWAIT that found the table full re-reads the signal every 1,024 uncore cycles. -/
  | sigwaitRepoll
  /-- PAGE_WALK (R170): A slice walker reads page tables and checks the leaf. -/
  | pageWalk
  /-- MONITOR_WINDOW (R172): A 10 µs window starts and the remote-access counts reset. -/
  | monitorWindow
  /-- LOAD_RETURN (R180): A load's value returns and fills its reserved ldq position. -/
  | loadReturn
  /-- STORE_ACK (R181): A store is acknowledged at its home and its slot completes. -/
  | storeAck
  /-- GRANULE_FILL (R87): A lazy fill copies a granule from the save area and makes it present and clean. -/
  | granuleFill
  /-- BANK_WAKE (R156): A bank in retention or off wakes or powers up for an access. -/
  | bankWake
  /-- MACRO_OP_STEP (R136): The matrix sequencer executes one stated step of a macro-op. -/
  | macroOpStep
  /-- PERMIT_GRANT (R338): A waiting permit acquisition is granted from the group budget and die pool. -/
  | permitGrant
  /-- EMULATION_COMPLETE (R48): Firmware finishes an emulated matrix operation and the context resumes. -/
  | emulationComplete
  /-- STALL_TIMEOUT (R367): A wait passes the watchdog period and a stall-timeout report becomes pending. -/
  | stallTimeout
  /-- ASYNC_REPORT (R367): A pending asynchronous report is taken at a shared instruction boundary. -/
  | asyncReport
  /-- JOB_DISPATCH (R223): A queued job starts once its footprint edges are satisfied. -/
  | jobDispatch
  /-- JOB_COMPLETE (R240): A job completes or faults, setting its slot and decrementing its signal. -/
  | jobComplete
  /-- OPERATOR_COMPLETE (R208): An ASOP operator completes or faults at its Ashlar unit. -/
  | operatorComplete
  /-- NODE_DISPATCH (R358): The ready pool dispatches the highest-ordered ready node. -/
  | nodeDispatch
  /-- NODE_COMPLETE (R360): A node completes, decrementing its signal and its successors' counters. -/
  | nodeComplete
  /-- PASS_ROUND_START (R308): A pass round takes and orders its set of due pages. -/
  | passRoundStart
  /-- PAGE_FETCH (R308): The streamer fetches a page into a staging buffer. -/
  | pageFetch
  /-- PAGE_DELIVERY (R310): A staged page is written into a free ring slot and its tag set full. -/
  | pageDelivery
  /-- PASS_END (R308): The pass ends after its last delivery, setting its slot and signal. -/
  | passEnd
  /-- ATTEST_REPORT_DONE (R397): The control core finishes signing and writes the attestation report. -/
  | attestReportDone
  /-- ILLEGAL_INSTRUCTION_WORD (R75): A fetched word that is not an instruction (unassigned major, function, sub or kind code) raises the precise illegal-instruction trap at that word. -/
  | illegalInstructionWord
  /-- RAMP_LIMITER_FILL (R25): The ramp limiter issues dummy macro-ops on a die to slow a fall in the number of issuing matrix cells, counting them in ramp_fill. -/
  | rampLimiterFill
  deriving DecidableEq, Repr

/-- The message of an event: what the event of the same name carries. A message waits on the agenda of the machine until its
event comes about; messages that an outside party sends (the host, firmware, the module's sensors) are inputs. -/
inductive Msg where
  /-- no event -/
  | idle
  | packetStart (interp : Nat)
  | submission (q : Nat) (pkt : BitVec 64)
  | commitWrite (c : BitVec 32)
  | firmwareRestart
  | queueProgramLoad (q : Nat) (cfg : BitVec 512)
  | queueDisable (q : Nat) (cfg : BitVec 512)
  | startTrial (seq : BitVec 32) (image : List (BitVec 8)) (sigOk : Bool)
  | trialTimeout
  | clearStatus
  | activeMessageBlockTarget (q : Nat) (target : BitVec 64)
  | hostApertureAccess (toSignals : Bool) (write : Bool) (off : BitVec 40) (size : Nat) (data : BitVec 64)
  | registerWrite (off : BitVec 18) (v : BitVec 64)
  | registerRead (off : BitVec 18)
  | regionEntryWrite (r : BitVec 4) (e : BitVec 128)
  | connectorKeyInstall (slot : BitVec 8) (key : BitVec 512)
  | poolSizeWrite (die : BitVec 2) (n : BitVec 14)
  /-- firmware sets a die's watchdog period, 2 to the power `n` uncore cycles (R367, Table 17-4) -/
  | watchdogWrite (die : BitVec 2) (n : BitVec 6)
  /-- firmware sets the tiles of a die whose cores are reserved, bit 8 y + x for tile (x, y) (R362) -/
  | reservedWrite (die : BitVec 2) (tiles : BitVec 64)
  /-- firmware selects stride scheduling, or normal service again (R363) -/
  | strideSelect (on : Bool)
  | faultLogRead (die : BitVec 2)
  | moduleReset
  | powerSample (milliwatts : Nat)
  | thermalEvent (die : BitVec 2) (degrees : Nat)
  | thermalStop
  | gangPlacement
  | strideQuantum
  | balancerTick (src : Nat) (dst : Nat) (n : Nat)
  | gangStop (gid : BitVec 32)
  | gangResume (gid : BitVec 32) (die : Nat) (x : Nat) (y : Nat)
  | gangComplete (gid : BitVec 32)
  | successorStart (gid : BitVec 32)
  | successorOverlapStoresDone (core : Nat)
  | coreFailure (core : Nat) (lost : Bool)
  | controlCoreFailover (die : BitVec 2)
  | hbmRowRemap (stack : BitVec 4) (row : Nat) (spare : Nat)
  | bexuzLaneFailure (port : Nat)
  | keystoneFailure (ks : Nat)
  | decision (ks : Nat) (idx : Nat)
  | offerMsg (ks : Nat) (idx : Nat) (port : Nat) (core : Nat) (slot : Nat) (serial : BitVec 8) (parcel : List (BitVec 8))
  | retractMessage (ks : Nat) (idx : Nat) (port : Nat) (core : Nat) (slot : Nat) (serial : BitVec 8)
  | bindMsg (ks : Nat) (idx : Nat) (port : Nat) (core : Nat) (ctx : Nat) (slot : Nat) (wide : Bool) (gid : BitVec 32)
  | unbindMsg (ks : Nat) (idx : Nat) (port : Nat) (core : Nat) (slot : Nat)
  | loadConn (ks : Nat) (idx : Nat) (core : Nat) (ctx : Nat) (id : Nat) (desc : BitVec 512) (hi : BitVec 16) (asid : BitVec 12)
      (gid : BitVec 32) (user : Bool)
  | connectorVerified (ks : Nat) (idx : Nat)
  | dropMsg (ks : Nat) (idx : Nat) (core : Nat) (ctx : Nat)
  | fireMsg (core : Nat) (slot : Nat) (serial : BitVec 8) (parcel : List (BitVec 8))
  | rack (core : Nat) (slot : Nat) (serial : BitVec 8)
  | rlate (core : Nat) (slot : Nat) (serial : BitVec 8)
  | back (core : Nat) (slot : Nat) (get : Bool)
  | bref (core : Nat) (slot : Nat)
  | lack (core : Nat) (ctx : Nat) (id : Nat) (ok : Bool)
  | dack (core : Nat) (ctx : Nat)
  | failover (core : Nat) (ks : Nat) (idx : Nat)
  | inboxArrival (core : Nat) (entry : InboxEntry)
  | activeMessageStart (core : Nat)
  | mcmdArrival (cmd : BitVec 64) (cap : BitVec 64) (core : Nat) (ctx : Nat) (id : Nat)
  | homeRequest (r : Req)
  | llcFill (slice : Nat) (line : LineTag)
  /-- an uncorrectable error at a place of the stores: an HBM sector or the LLC's copy of it (R177), a unit of a scratchpad or an Ashlar
  bank (R368): an input -/
  | sectorError (pa : Nat)
  /-- an SRAM of a die corrects a single-bit error (R368): an input -/
  | correctedError (die : BitVec 2)
  | waitaTimeout (slice : Nat) (id : Nat)
  | sigwaitRepoll (core : Nat) (ctx : Nat)
  | pageWalk (asid : BitVec 12) (va : BitVec 80) (need : AccNeed) (user : Bool)
  | monitorWindow (die : BitVec 2)
  | loadReturn (core : Nat) (ctx : Nat) (id : Nat) (v : BitVec 512)
  | storeAck (core : Nat) (ctx : Nat) (id : Nat)
  | granuleFill (core : Nat) (ctx : Nat) (g : Nat)
  | bankWake (core : Nat) (bank : Nat)
  | macroOpStep (core : Nat)
  | permitGrant (die : BitVec 2)
  | emulationComplete (core : Nat)
  | stallTimeout (core : Nat) (ctx : Nat)
  | asyncReport (core : Nat) (ctx : Nat)
  | jobDispatch (die : BitVec 2)
  | jobComplete (die : BitVec 2) (num : BitVec 32)
  | operatorComplete (id : Nat)
  | nodeDispatch (die : BitVec 2)
  | nodeComplete (die : BitVec 2) (graph : BitVec 32) (node : Nat)
  | passRoundStart (die : BitVec 2)
  | pageFetch (die : BitVec 2)
  | pageDelivery (die : BitVec 2)
  | passEnd (die : BitVec 2)
  | attestReportDone (die : BitVec 2)
  | illegalInstructionWord (w : BitVec 32)
  | rampLimiterFill (die : BitVec 2) (slots : Nat)
  deriving DecidableEq, Repr

/-- The event that a message brings about. -/
def Msg.instr : Msg → Option Instr
  | .idle => none
  | .packetStart _ => some .packetStart
  | .submission _ _ => some .submission
  | .commitWrite _ => some .commitWrite
  | .firmwareRestart => some .firmwareRestart
  | .queueProgramLoad _ _ => some .queueProgramLoad
  | .queueDisable _ _ => some .queueDisable
  | .startTrial _ _ _ => some .startTrial
  | .trialTimeout => some .trialTimeout
  | .clearStatus => some .clearStatus
  | .activeMessageBlockTarget _ _ => some .activeMessageBlockTarget
  | .hostApertureAccess _ _ _ _ _ => some .hostApertureAccess
  | .registerWrite _ _ => some .registerWrite
  | .registerRead _ => some .hostApertureAccess
  | .regionEntryWrite _ _ => some .regionEntryWrite
  | .connectorKeyInstall _ _ => some .connectorKeyInstall
  | .poolSizeWrite _ _ => some .poolSizeWrite
  | .watchdogWrite _ _ => some .registerWrite
  | .reservedWrite _ _ => some .registerWrite
  | .strideSelect _ => some .registerWrite
  | .faultLogRead _ => some .faultLogRead
  | .moduleReset => some .moduleReset
  | .powerSample _ => some .powerSample
  | .thermalEvent _ _ => some .thermalEvent
  | .thermalStop => some .thermalStop
  | .gangPlacement => some .gangPlacement
  | .strideQuantum => some .strideQuantum
  | .balancerTick _ _ _ => some .balancerTick
  | .gangStop _ => some .gangStop
  | .gangResume _ _ _ _ => some .gangResume
  | .gangComplete _ => some .gangComplete
  | .successorStart _ => some .successorStart
  | .successorOverlapStoresDone _ => some .successorOverlapStoresDone
  | .coreFailure _ _ => some .coreFailure
  | .controlCoreFailover _ => some .controlCoreFailover
  | .hbmRowRemap _ _ _ => some .hbmRowRemap
  | .bexuzLaneFailure _ => some .bexuzLaneFailure
  | .keystoneFailure _ => some .keystoneFailure
  | .decision _ _ => some .decision
  | .offerMsg _ _ _ _ _ _ _ => some .offerMsg
  | .retractMessage _ _ _ _ _ _ => some .retractMessage
  | .bindMsg _ _ _ _ _ _ _ _ => some .bindMsg
  | .unbindMsg _ _ _ _ _ => some .unbindMsg
  | .loadConn _ _ _ _ _ _ _ _ _ _ => some .loadConn
  | .connectorVerified _ _ => some .connectorVerified
  | .dropMsg _ _ _ _ => some .dropMsg
  | .fireMsg _ _ _ _ => some .fireMsg
  | .rack _ _ _ => some .rack
  | .rlate _ _ _ => some .rlate
  | .back _ _ _ => some .back
  | .bref _ _ => some .bref
  | .lack _ _ _ _ => some .lack
  | .dack _ _ => some .dack
  | .failover _ _ _ => some .failover
  | .inboxArrival _ _ => some .inboxArrival
  | .activeMessageStart _ => some .activeMessageStart
  | .mcmdArrival _ _ _ _ _ => some .mcmdArrival
  | .homeRequest _ => some .homeRequest
  | .llcFill _ _ => some .llcFill
  | .sectorError _ => some .llcFill
  | .correctedError _ => some .llcFill
  | .waitaTimeout _ _ => some .waitaTimeout
  | .sigwaitRepoll _ _ => some .sigwaitRepoll
  | .pageWalk _ _ _ _ => some .pageWalk
  | .monitorWindow _ => some .monitorWindow
  | .loadReturn _ _ _ _ => some .loadReturn
  | .storeAck _ _ _ => some .storeAck
  | .granuleFill _ _ _ => some .granuleFill
  | .bankWake _ _ => some .bankWake
  | .macroOpStep _ => some .macroOpStep
  | .permitGrant _ => some .permitGrant
  | .emulationComplete _ => some .emulationComplete
  | .stallTimeout _ _ => some .stallTimeout
  | .asyncReport _ _ => some .asyncReport
  | .jobDispatch _ => some .jobDispatch
  | .jobComplete _ _ => some .jobComplete
  | .operatorComplete _ => some .operatorComplete
  | .nodeDispatch _ => some .nodeDispatch
  | .nodeComplete _ _ _ => some .nodeComplete
  | .passRoundStart _ => some .passRoundStart
  | .pageFetch _ => some .pageFetch
  | .pageDelivery _ => some .pageDelivery
  | .passEnd _ => some .passEnd
  | .attestReportDone _ => some .attestReportDone
  | .illegalInstructionWord _ => some .illegalInstructionWord
  | .rampLimiterFill _ _ => some .rampLimiterFill

end Sys2Proof
end

