-- ==== Sys2Proof/WellFormed.lean ====
section
/-! DEFINITION. Which combinations of fields are legal (R68 to R75, Tables 4-11 to 4-14, and each instruction's own rule). A
word whose fields fail these checks is not an instruction (R75). -/

namespace Sys2Proof

/-- A register name may stand in a source field: every code but sdq (R68). -/
def srcOk (r : BitVec 6) : Bool := r != 61

/-- A register name may stand in a destination field: not y0 to y3, ldq or ib (R68). -/
def dstOk (r : BitVec 6) : Bool := !(decide (56 ≤ r.toNat ∧ r.toNat ≤ 60) || r == 62)

/-- An integer type code (Table 4-13). -/
def typeIsInt (t : BitVec 4) : Bool := decide (5 ≤ t.toNat ∧ t.toNat ≤ 12)

/-- A type code of Table 4-13: 13 to 15 are reserved (R73). -/
def typeOk (t : BitVec 4) : Bool := decide (t.toNat ≤ 12)

/-- The width in bits of a conversion type (R110); 0 for s64, n64 and the reserved codes, which no vector form admits. -/
def typeWidth (t : BitVec 4) : Nat :=
  match t.toNat with
  | 0 => 32 | 7 => 32 | 11 => 32
  | 1 => 16 | 2 => 16 | 6 => 16 | 10 => 16
  | 3 => 8 | 4 => 8 | 5 => 8 | 9 => 8
  | _ => 0

/-- The width in bits of a lane (Table 4-13); 0 for the reserved lane type 7. -/
def laneWidth (l : BitVec 3) : Nat :=
  match l.toNat with
  | 0 => 32 | 1 => 32 | 2 => 32 | 3 => 16 | 4 => 16 | 5 => 16 | 6 => 8
  | _ => 0

/-- A floating lane type: f32, f16 or bf16 (Table 4-13). -/
def laneIsFloat (l : BitVec 3) : Bool := l == 0 || l == 3 || l == 4

/-- An assigned lane type (R73). -/
def laneOk (l : BitVec 3) : Bool := l != 7

/-- A saturation bit may be set on an integer lane type only (R74). -/
def laneSatOk (s : BitVec 1) (l : BitVec 3) : Bool := laneOk l && (s == 0 || !laneIsFloat l)

/-- A format code of a scalar float operation (R105). -/
def fmtOk (f : BitVec 4) : Bool := decide (f.toNat ≤ 2)

/-- Rounding and saturation bits may be set for an integer target only (R106, R110). -/
def convBitsOk (u z : BitVec 1) (t : BitVec 4) : Bool := typeIsInt t || (u == 0 && z == 0)

/-- The bound of a queue-program branch: set for a backward or zero displacement, zero for a forward one (R387). -/
def boundOk (disp bound : BitVec 16) : Bool :=
  if disp == 0 || disp.msb then bound != 0 else bound == 0

/-- The checks on an instruction's fields. -/
def Instr.wellFormed : Instr → Bool
  | .add d a b => dstOk d && srcOk a && srcOk b
  | .sub d a b => dstOk d && srcOk a && srcOk b
  | .mul d a b => dstOk d && srcOk a && srcOk b
  | .mulh d a b => dstOk d && srcOk a && srcOk b
  | .mulhn d a b => dstOk d && srcOk a && srcOk b
  | .divs d a b => dstOk d && srcOk a && srcOk b
  | .divn d a b => dstOk d && srcOk a && srcOk b
  | .rems d a b => dstOk d && srcOk a && srcOk b
  | .remn d a b => dstOk d && srcOk a && srcOk b
  | .andd d a b => dstOk d && srcOk a && srcOk b
  | .orr d a b => dstOk d && srcOk a && srcOk b
  | .xorr d a b => dstOk d && srcOk a && srcOk b
  | .andn d a b => dstOk d && srcOk a && srcOk b
  | .shl d a b => dstOk d && srcOk a && srcOk b
  | .shr d a b => dstOk d && srcOk a && srcOk b
  | .sha d a b => dstOk d && srcOk a && srcOk b
  | .rot d a b => dstOk d && srcOk a && srcOk b
  | .clz d a => dstOk d && srcOk a
  | .popc d a => dstOk d && srcOk a
  | .mins d a b => dstOk d && srcOk a && srcOk b
  | .maxs d a b => dstOk d && srcOk a && srcOk b
  | .minn d a b => dstOk d && srcOk a && srcOk b
  | .maxn d a b => dstOk d && srcOk a && srcOk b
  | .cmpeq d a b => dstOk d && srcOk a && srcOk b
  | .cmplt d a b => dstOk d && srcOk a && srcOk b
  | .cmpltn d a b => dstOk d && srcOk a && srcOk b
  | .cmple d a b => dstOk d && srcOk a && srcOk b
  | .sel d a b => dstOk d && srcOk d && srcOk a && srcOk b
  | .addSats d a b => dstOk d && srcOk a && srcOk b
  | .addSatn d a b => dstOk d && srcOk a && srcOk b
  | .subSats d a b => dstOk d && srcOk a && srcOk b
  | .subSatn d a b => dstOk d && srcOk a && srcOk b
  | .mulSats d a b => dstOk d && srcOk a && srcOk b
  | .mulSatn d a b => dstOk d && srcOk a && srcOk b
  | .addi d a _ => dstOk d && srcOk a
  | .andi d a _ => dstOk d && srcOk a
  | .ori d a _ => dstOk d && srcOk a
  | .xori d a _ => dstOk d && srcOk a
  | .shli d a _ => dstOk d && srcOk a
  | .shri d a _ => dstOk d && srcOk a
  | .shai d a _ => dstOk d && srcOk a
  | .movi d _ => dstOk d
  | .ext d a l p => dstOk d && srcOk a && decide (p.toNat + l.toNat + 1 ≤ 64)
  | .extS d a l p => dstOk d && srcOk a && decide (p.toNat + l.toNat + 1 ≤ 64)
  | .ins d a l p => dstOk d && srcOk d && srcOk a && decide (p.toNat + l.toNat + 1 ≤ 64)
  | .fadd d a b f => dstOk d && srcOk a && srcOk b && fmtOk f
  | .fsub d a b f => dstOk d && srcOk a && srcOk b && fmtOk f
  | .fmul d a b f => dstOk d && srcOk a && srcOk b && fmtOk f
  | .ffma d a b f => dstOk d && srcOk d && srcOk a && srcOk b && fmtOk f
  | .fmin d a b f => dstOk d && srcOk a && srcOk b && fmtOk f
  | .fmax d a b f => dstOk d && srcOk a && srcOk b && fmtOk f
  | .fcmp d a b f => dstOk d && srcOk a && srcOk b && fmtOk f
  | .fcvt d a s z u t => dstOk d && srcOk a && typeOk s && typeOk t && convBitsOk u z t
  | .fabs d a f => dstOk d && srcOk a && fmtOk f
  | .fneg d a f => dstOk d && srcOk a && fmtOk f
  | .rdcyc d => dstOk d
  | .rdperf d a => dstOk d && srcOk a
  | .vadd _ _ _ s l => laneSatOk s l
  | .vsub _ _ _ s l => laneSatOk s l
  | .vmul _ _ _ s l => laneSatOk s l
  | .vfma _ _ _ l => laneOk l
  | .vmax _ _ _ l => laneOk l
  | .vmin _ _ _ l => laneOk l
  | .vexp2 _ _ l => laneIsFloat l
  | .vrcp _ _ l => laneIsFloat l
  | .vrsq _ _ l => laneIsFloat l
  | .vredAdd _ x l => dstOk x && laneOk l
  | .vredMax _ x l => dstOk x && laneOk l
  | .vredMin _ x l => dstOk x && laneOk l
  | .vcvt _ _ u z t l => laneOk l && typeOk t && typeWidth t == laneWidth l && convBitsOk u z t
  | .vpack _ _ _ u z t l => laneOk l && typeOk t && typeWidth t != 0 && typeWidth t * 2 == laneWidth l && convBitsOk u z t
  | .vunpk d _ u z t l => laneOk l && typeOk t && typeWidth t != 0 && typeWidth t == laneWidth l * 2 && d.toNat % 2 == 0 && convBitsOk u z t
  | .vsel _ _ _ _ l => laneOk l
  | .vshf _ _ _ l => laneOk l
  | .vbcast _ x l => srcOk x && laneOk l
  | .vcmp _ _ _ _ l => laneOk l
  | .mms _ _ _ _ m _ => decide (m.toNat ≤ 1)
  | .mmss _ _ _ _ m _ => decide (m.toNat ≤ 1)
  | .ldstat _ _ => true
  | .tidset _ => true
  | .tidget d _ _ => dstOk d
  | .swapstat _ => true
  | .accz c m _ => m != 3 && (m != 2 || c.toNat % 2 == 0)
  | .acczMark s => s != 0
  | .accld _ _ _ => true
  | .accst _ _ _ => true
  | .accadd _ _ _ => true
  | .scalek d a b => dstOk d && srcOk a && srcOk b
  | .scalew d => dstOk d
  | .mcmd _ a b => srcOk a && srcOk b
  | .mcap d a => dstOk d && srcOk a
  | .tcvt _ _ _ _ _ => true
  | .tcopy _ _ _ _ => true
  | .permit d a => dstOk d && srcOk a
  | .permrel d a => dstOk d && srcOk a
  | .aadd _ _ _ => true
  | .asub _ _ _ => true
  | .amov _ _ => true
  | .acmpEq _ _ _ => true
  | .acmpNe _ _ _ => true
  | .acmpLt _ _ _ => true
  | .acmpLe _ _ _ => true
  | .amask _ _ _ => true
  | .aidx _ _ b _ => srcOk b
  | .aaddi _ _ _ => true
  | .ld _ _ _ z q _ => !(q == 1 && z == 3)
  | .st _ _ _ _ _ => true
  | .ldacq _ _ _ _ _ _ => true
  | .strel _ _ _ _ _ _ => true
  | .ldc _ _ _ z q _ => !(q == 1 && z == 3)
  | .ldi _ _ _ z q _ => !(q == 1 && z == 3)
  | .ldfe _ _ _ _ _ _ => true
  | .stfe _ _ _ _ _ _ => true
  | .la _ _ _ _ _ => true
  | .atadd _ _ _ _ _ => true
  | .atmin _ _ _ _ _ => true
  | .atmax _ _ _ _ _ => true
  | .atand _ _ _ _ _ => true
  | .ator _ _ _ _ _ => true
  | .atxor _ _ _ _ _ => true
  | .atswp _ _ _ _ _ => true
  | .atcas _ _ _ _ _ => true
  | .waita _ _ _ _ _ => true
  | .pref _ _ _ _ => true
  | .cflush _ _ _ _ => true
  | .cinv _ _ _ _ => true
  | .cpin _ _ _ _ => true
  | .cunpin _ _ _ _ => true
  | .fenceCore _ => true
  | .fenceTile _ => true
  | .fenceDie _ => true
  | .fenceModule _ => true
  | .fenceDomain _ => true
  | .vld _ _ _ _ _ => true
  | .vst _ _ _ _ _ => true
  | .vstfe _ _ _ _ _ => true
  | .asopReduceAdd _ _ _ _ => true
  | .asopReduceMax _ _ _ _ => true
  | .asopAxpy _ _ _ _ => true
  | .asopConvert _ _ _ _ => true
  | .asopScale _ _ _ _ => true
  | .asopGather _ _ _ _ => true
  | .asopScatterAdd _ _ _ _ => true
  | .asopSmerge _ _ _ _ => true
  | .jcsub d _ _ => dstOk d
  | .jcwait d a _ => dstOk d && srcOk a
  | .segopen d _ b _ => dstOk d && srcOk b
  | .segput _ _ b _ => srcOk b
  | .segput2 _ _ b _ => srcOk b
  | .segputPfx _ _ b _ => srcOk b
  | .segclose d _ _ _ => dstOk d
  | .segcnt d _ _ _ => dstOk d
  | .ascfg d _ b _ => dstOk d && srcOk b
  | .put _ _ _ _ => true
  | .get _ _ _ => true
  | .offerPut _ _ _ _ => true
  | .offerGet _ _ => true
  | .poll r _ _ => dstOk r
  | .retract r _ _ => dstOk r
  | .conload _ _ => true
  | .condrop r _ => srcOk r
  | .constat r _ => dstOk r && srcOk r
  | .pbind r _ _ => srcOk r
  | .pgsub d _ _ => dstOk d
  | .pgunsub d a _ => dstOk d && srcOk a
  | .pgpass d _ _ => dstOk d
  | .pgrecv d _ _ => dstOk d
  | .pgrecvFree _ _ => true
  | .mrgput _ b _ => srcOk b
  | .mrgget d _ b _ => dstOk d && srcOk b
  | .mrgcfg d _ b _ => dstOk d && srcOk b
  | .sigdec d _ b _ => dstOk d && srcOk b
  | .sigwait d _ b _ => dstOk d && srcOk b
  | .dcinit d a b _ => dstOk d && srcOk a && srcOk b
  | .dcdec d a b _ => dstOk d && srcOk a && srcOk b
  | .rhopen d _ b _ => dstOk d && srcOk b
  | .rhpri a b _ => srcOk a && srcOk b
  | .rhdemote a _ => srcOk a
  | .rhevict a _ => srcOk a
  | .rhclose a _ => srcOk a
  | .bre c _ => srcOk c
  | .beqz c _ => srcOk c
  | .bnez c _ => srcOk c
  | .bra _ _ => true
  | .jmp _ => true
  | .call _ => true
  | .loop _ _ => true
  | .jmpi a => srcOk a
  | .follow _ => true
  | .join d a => dstOk d && srcOk a
  | .endc a => srcOk a
  | .rets m d => srcOk m && srcOk d
  | .rdsw d i => dstOk d && decide (i.toNat ≤ 11)
  | .wrsw a i => srcOk a && (i == 0 || i == 3 || i == 4 || i == 6 || i == 10 || i == 11)
  | .tnsub d _ => dstOk d
  | .tndone d => dstOk d
  | .amsg a => srcOk a
  | .inbx d => dstOk d
  | .inbxWait d => dstOk d
  | .fibsw _ => true
  | .upret _ => true
  | .sbwait m => m != 0
  | .trap _ => true
  | .svc _ => true
  | .wrpriv a => srcOk a
  | .xinvPage _ a => srcOk a
  | .xinvAsid a => srcOk a
  | .xinvFrame a _ => srcOk a
  | .keysetRand d a => dstOk d && srcOk a
  | .keysetLoad d a _ => dstOk d && srcOk a
  | .keysetRetire d a => dstOk d && srcOk a
  | .pwrbOn _ => true
  | .pwrbRtn _ => true
  | .pwrbSave _ => true
  | .pwrbOff _ => true
  | .attest d _ _ => dstOk d
  | .sparemap d a => dstOk d && srcOk a
  | .start c _ => dstOk c
  | .hintPfx _ => true
  | .hintSched _ => true
  | .hintMod _ _ => true
  | .hintPrio _ => true
  | .qmovi _ _ => true
  | .qmov _ _ => true
  | .qadd _ _ => true
  | .qaddi _ _ => true
  | .qand _ _ => true
  | .qshl _ _ => true
  | .qshr _ _ => true
  | .qld _ _ _ off => off.toNat % 8 == 0
  | .qst _ _ _ off => off.toNat % 8 == 0
  | .qbeq _ _ disp bound => boundOk disp bound
  | .qbne _ _ disp bound => boundOk disp bound
  | .qbltn _ _ disp bound => boundOk disp bound
  | .qjmp disp bound => boundOk disp bound
  | .qlaunch _ => true
  | .qgraph _ => true
  | .qamsg _ _ => true
  | .qsigdec _ _ => true
  | .qsigrd _ _ => true
  | .qcyc _ => true
  | .qend _ => true
  | .nop => true
  | .ret => true
  | .leave => true
  | .bar => true
  | .barGroup => true
  | .yield => true
  | .rft => true
  | .xinvAll => true
  | .haltx => true
  | .packetStart => true
  | .submission => true
  | .commitWrite => true
  | .firmwareRestart => true
  | .queueProgramLoad => true
  | .queueDisable => true
  | .startTrial => true
  | .trialTimeout => true
  | .clearStatus => true
  | .activeMessageBlockTarget => true
  | .hostApertureAccess => true
  | .registerWrite => true
  | .regionEntryWrite => true
  | .connectorKeyInstall => true
  | .poolSizeWrite => true
  | .faultLogRead => true
  | .moduleReset => true
  | .powerSample => true
  | .thermalEvent => true
  | .thermalStop => true
  | .gangPlacement => true
  | .strideQuantum => true
  | .balancerTick => true
  | .gangStop => true
  | .gangResume => true
  | .gangComplete => true
  | .successorStart => true
  | .successorOverlapStoresDone => true
  | .coreFailure => true
  | .controlCoreFailover => true
  | .hbmRowRemap => true
  | .bexuzLaneFailure => true
  | .keystoneFailure => true
  | .decision => true
  | .offerMsg => true
  | .retractMessage => true
  | .bindMsg => true
  | .unbindMsg => true
  | .loadConn => true
  | .connectorVerified => true
  | .dropMsg => true
  | .fireMsg => true
  | .rack => true
  | .rlate => true
  | .back => true
  | .bref => true
  | .lack => true
  | .dack => true
  | .failover => true
  | .inboxArrival => true
  | .activeMessageStart => true
  | .mcmdArrival => true
  | .homeRequest => true
  | .llcFill => true
  | .waitaTimeout => true
  | .sigwaitRepoll => true
  | .pageWalk => true
  | .monitorWindow => true
  | .loadReturn => true
  | .storeAck => true
  | .granuleFill => true
  | .bankWake => true
  | .macroOpStep => true
  | .permitGrant => true
  | .emulationComplete => true
  | .stallTimeout => true
  | .asyncReport => true
  | .jobDispatch => true
  | .jobComplete => true
  | .operatorComplete => true
  | .nodeDispatch => true
  | .nodeComplete => true
  | .passRoundStart => true
  | .pageFetch => true
  | .pageDelivery => true
  | .passEnd => true
  | .attestReportDone => true
  | .illegalInstructionWord => true
  | .rampLimiterFill => true

/-- The checks on a message: the cores, contexts, Keystones and slots that it names exist (R14). -/
def Msg.wellFormed : Msg → Bool
  | .idle => true
  | .packetStart interp => decide (interp < 8)
  | .submission q _ => decide (q < 256)
  | .commitWrite _ => true
  | .firmwareRestart => true
  | .queueProgramLoad q _ => decide (q < 256)
  | .queueDisable q _ => decide (q < 256)
  | .startTrial _ _ _ => true
  | .trialTimeout => true
  | .clearStatus => true
  | .activeMessageBlockTarget q _ => decide (q < 256)
  | .hostApertureAccess _ _ _ _ _ => true
  | .registerWrite _ _ => true
  | .registerRead off => off.toNat % 8 == 0
  | .regionEntryWrite _ _ => true
  | .connectorKeyInstall _ _ => true
  | .poolSizeWrite _ _ => true
  | .watchdogWrite _ _ => true
  | .reservedWrite _ _ => true
  | .strideSelect _ => true
  | .faultLogRead _ => true
  | .moduleReset => true
  | .powerSample _ => true
  | .thermalEvent _ _ => true
  | .thermalStop => true
  | .gangPlacement => true
  | .strideQuantum => true
  | .balancerTick src dst _ => decide (src < 4096) && decide (dst < 4096)
  | .gangStop _ => true
  | .gangResume _ _ _ _ => true
  | .gangComplete _ => true
  | .successorStart _ => true
  | .successorOverlapStoresDone core => decide (core < 4096)
  | .coreFailure core _ => decide (core < 4096)
  | .controlCoreFailover _ => true
  | .hbmRowRemap _ _ _ => true
  | .bexuzLaneFailure port => decide (port < 128)
  | .keystoneFailure ks => decide (ks < 256)
  | .decision ks idx => decide (ks < 256) && decide (idx < 16)
  | .offerMsg ks idx port core slot _ _ => decide (ks < 256) && decide (idx < 16) && decide (port < 64) && decide (core < 4096) && decide (slot < 16)
  | .retractMessage ks idx port core slot _ => decide (ks < 256) && decide (idx < 16) && decide (port < 64) && decide (core < 4096) && decide (slot < 16)
  | .bindMsg ks idx port core ctx slot _ _ => decide (ks < 256) && decide (idx < 16) && decide (port < 64) && decide (core < 4096) && decide (ctx < 11) && decide (slot < 16)
  | .unbindMsg ks idx port core slot => decide (ks < 256) && decide (idx < 16) && decide (port < 64) && decide (core < 4096) && decide (slot < 16)
  | .loadConn ks idx core ctx _ _ _ _ _ _ => decide (ks < 256) && decide (idx < 16) && decide (core < 4096) && decide (ctx < 11)
  | .connectorVerified ks idx => decide (ks < 256) && decide (idx < 16)
  | .dropMsg ks idx core ctx => decide (ks < 256) && decide (idx < 16) && decide (core < 4096) && decide (ctx < 11)
  | .fireMsg core slot _ _ => decide (core < 4096) && decide (slot < 16)
  | .rack core slot _ => decide (core < 4096) && decide (slot < 16)
  | .rlate core slot _ => decide (core < 4096) && decide (slot < 16)
  | .back core slot _ => decide (core < 4096) && decide (slot < 16)
  | .bref core slot => decide (core < 4096) && decide (slot < 16)
  | .lack core ctx _ _ => decide (core < 4096) && decide (ctx < 11)
  | .dack core ctx => decide (core < 4096) && decide (ctx < 11)
  | .failover core ks idx => decide (core < 4096) && decide (ks < 256) && decide (idx < 16)
  | .inboxArrival core _ => decide (core < 4096)
  | .activeMessageStart core => decide (core < 4096)
  | .mcmdArrival _ _ core ctx _ => decide (core < 4096) && decide (ctx < 11)
  | .homeRequest _ => true
  | .llcFill slice _ => decide (slice < 256)
  | .sectorError _ => true
  | .correctedError _ => true
  | .waitaTimeout slice _ => decide (slice < 256)
  | .sigwaitRepoll core ctx => decide (core < 4096) && decide (ctx < 11)
  | .pageWalk _ _ _ _ => true
  | .monitorWindow _ => true
  | .loadReturn core ctx _ _ => decide (core < 4096) && decide (ctx < 11)
  | .storeAck core ctx _ => decide (core < 4096) && decide (ctx < 11)
  | .granuleFill core ctx g => decide (core < 4096) && decide (ctx < 11) && decide (g < 26)
  | .bankWake core bank => decide (core < 4096) && decide (bank < 16)
  | .macroOpStep core => decide (core < 4096)
  | .permitGrant _ => true
  | .emulationComplete core => decide (core < 4096)
  | .stallTimeout core ctx => decide (core < 4096) && decide (ctx < 11)
  | .asyncReport core ctx => decide (core < 4096) && decide (ctx < 11)
  | .jobDispatch _ => true
  | .jobComplete _ _ => true
  | .operatorComplete _ => true
  | .nodeDispatch _ => true
  | .nodeComplete _ _ _ => true
  | .passRoundStart _ => true
  | .pageFetch _ => true
  | .pageDelivery _ => true
  | .passEnd _ => true
  | .attestReportDone _ => true
  | .illegalInstructionWord _ => true
  | .rampLimiterFill _ _ => true

/-- An instruction whose fields pass the checks. -/
abbrev WellFormed (i : Instr) : Prop := i.wellFormed = true

end Sys2Proof
end

