-- ==== Sys2Proof/Decode.lean ====
section
/-! DEFINITION. The decoder of instruction words (R67 to R75, Tables 4-1 to 4-14) and of queue-program words (R386, R387),
and after it the encoder, each written from the encoding tables of the spec. -/

namespace Sys2Proof

/-- Bits [lo + n - 1 : lo] of a word read as a number. -/
def bits (w lo n : Nat) : Nat := w / 2 ^ lo % 2 ^ n

/-- Bits [lo + n - 1 : lo] of a word. -/
def fld (w lo n : Nat) : BitVec n := BitVec.ofNat n (w / 2 ^ lo)

/-- Why a word is not an instruction (R75). -/
inductive Reject where
  /-- no row of the opcode map has these major, function, sub-operation or kind codes, or a reserved field is not zero -/
  | unassigned
  /-- the fields are in no legal combination (R68, Tables 4-11 to 4-14) -/
  | illegalCombination
  /-- fewer bytes than an instruction word has -/
  | tooShort
  deriving DecidableEq, Repr

/-- Major 0x00 (Table 4-11). -/
def decodeMajor00 (w : Nat) : Option Instr :=
  match bits w 0 8 with
  | 1 => some (.add (fld w 20 6) (fld w 14 6) (fld w 8 6))
  | 2 => some (.sub (fld w 20 6) (fld w 14 6) (fld w 8 6))
  | 3 => some (.mul (fld w 20 6) (fld w 14 6) (fld w 8 6))
  | 4 => some (.mulh (fld w 20 6) (fld w 14 6) (fld w 8 6))
  | 5 => some (.mulhn (fld w 20 6) (fld w 14 6) (fld w 8 6))
  | 6 => some (.divs (fld w 20 6) (fld w 14 6) (fld w 8 6))
  | 7 => some (.divn (fld w 20 6) (fld w 14 6) (fld w 8 6))
  | 8 => some (.rems (fld w 20 6) (fld w 14 6) (fld w 8 6))
  | 9 => some (.remn (fld w 20 6) (fld w 14 6) (fld w 8 6))
  | 10 => some (.andd (fld w 20 6) (fld w 14 6) (fld w 8 6))
  | 11 => some (.orr (fld w 20 6) (fld w 14 6) (fld w 8 6))
  | 12 => some (.xorr (fld w 20 6) (fld w 14 6) (fld w 8 6))
  | 13 => some (.andn (fld w 20 6) (fld w 14 6) (fld w 8 6))
  | 14 => some (.shl (fld w 20 6) (fld w 14 6) (fld w 8 6))
  | 15 => some (.shr (fld w 20 6) (fld w 14 6) (fld w 8 6))
  | 16 => some (.sha (fld w 20 6) (fld w 14 6) (fld w 8 6))
  | 17 => some (.rot (fld w 20 6) (fld w 14 6) (fld w 8 6))
  | 18 => if bits w 8 6 = 0 then some (.clz (fld w 20 6) (fld w 14 6)) else none
  | 19 => if bits w 8 6 = 0 then some (.popc (fld w 20 6) (fld w 14 6)) else none
  | 20 => some (.mins (fld w 20 6) (fld w 14 6) (fld w 8 6))
  | 21 => some (.maxs (fld w 20 6) (fld w 14 6) (fld w 8 6))
  | 22 => some (.minn (fld w 20 6) (fld w 14 6) (fld w 8 6))
  | 23 => some (.maxn (fld w 20 6) (fld w 14 6) (fld w 8 6))
  | 24 => some (.cmpeq (fld w 20 6) (fld w 14 6) (fld w 8 6))
  | 25 => some (.cmplt (fld w 20 6) (fld w 14 6) (fld w 8 6))
  | 26 => some (.cmpltn (fld w 20 6) (fld w 14 6) (fld w 8 6))
  | 27 => some (.cmple (fld w 20 6) (fld w 14 6) (fld w 8 6))
  | 28 => some (.sel (fld w 20 6) (fld w 14 6) (fld w 8 6))
  | 33 => some (.addSats (fld w 20 6) (fld w 14 6) (fld w 8 6))
  | 34 => some (.addSatn (fld w 20 6) (fld w 14 6) (fld w 8 6))
  | 35 => some (.subSats (fld w 20 6) (fld w 14 6) (fld w 8 6))
  | 36 => some (.subSatn (fld w 20 6) (fld w 14 6) (fld w 8 6))
  | 37 => some (.mulSats (fld w 20 6) (fld w 14 6) (fld w 8 6))
  | 38 => some (.mulSatn (fld w 20 6) (fld w 14 6) (fld w 8 6))
  | _ => none

/-- Major 0x01 (Table 4-11). -/
def decodeMajor01 (w : Nat) : Option Instr :=
  some (.addi (fld w 20 6) (fld w 14 6) (fld w 0 14))

/-- Major 0x02 (Table 4-11). -/
def decodeMajor02 (w : Nat) : Option Instr :=
  some (.andi (fld w 20 6) (fld w 14 6) (fld w 0 14))

/-- Major 0x03 (Table 4-11). -/
def decodeMajor03 (w : Nat) : Option Instr :=
  some (.ori (fld w 20 6) (fld w 14 6) (fld w 0 14))

/-- Major 0x04 (Table 4-11). -/
def decodeMajor04 (w : Nat) : Option Instr :=
  some (.xori (fld w 20 6) (fld w 14 6) (fld w 0 14))

/-- Major 0x05 (Table 4-11). -/
def decodeMajor05 (w : Nat) : Option Instr :=
  match bits w 6 2 with
  | 0 => if bits w 8 6 = 0 then some (.shli (fld w 20 6) (fld w 14 6) (fld w 0 6)) else none
  | 1 => if bits w 8 6 = 0 then some (.shri (fld w 20 6) (fld w 14 6) (fld w 0 6)) else none
  | 2 => if bits w 8 6 = 0 then some (.shai (fld w 20 6) (fld w 14 6) (fld w 0 6)) else none
  | _ => none

/-- Major 0x06 (Table 4-11). -/
def decodeMajor06 (w : Nat) : Option Instr :=
  if bits w 14 6 = 0 then some (.movi (fld w 20 6) (fld w 0 14)) else none

/-- Major 0x07 (Table 4-11). -/
def decodeMajor07 (w : Nat) : Option Instr :=
  match bits w 12 2 with
  | 0 => some (.ext (fld w 20 6) (fld w 14 6) (fld w 6 6) (fld w 0 6))
  | 1 => some (.extS (fld w 20 6) (fld w 14 6) (fld w 6 6) (fld w 0 6))
  | 2 => some (.ins (fld w 20 6) (fld w 14 6) (fld w 6 6) (fld w 0 6))
  | _ => none

/-- Major 0x08 (Table 4-11). -/
def decodeMajor08 (w : Nat) : Option Instr :=
  match bits w 4 4 with
  | 1 => some (.fadd (fld w 20 6) (fld w 14 6) (fld w 8 6) (fld w 0 4))
  | 2 => some (.fsub (fld w 20 6) (fld w 14 6) (fld w 8 6) (fld w 0 4))
  | 3 => some (.fmul (fld w 20 6) (fld w 14 6) (fld w 8 6) (fld w 0 4))
  | 4 => some (.ffma (fld w 20 6) (fld w 14 6) (fld w 8 6) (fld w 0 4))
  | 5 => some (.fmin (fld w 20 6) (fld w 14 6) (fld w 8 6) (fld w 0 4))
  | 6 => some (.fmax (fld w 20 6) (fld w 14 6) (fld w 8 6) (fld w 0 4))
  | 7 => some (.fcmp (fld w 20 6) (fld w 14 6) (fld w 8 6) (fld w 0 4))
  | 8 => some (.fcvt (fld w 20 6) (fld w 14 6) (fld w 10 4) (fld w 9 1) (fld w 8 1) (fld w 0 4))
  | 9 => if bits w 8 6 = 0 then some (.fabs (fld w 20 6) (fld w 14 6) (fld w 0 4)) else none
  | 10 => if bits w 8 6 = 0 then some (.fneg (fld w 20 6) (fld w 14 6) (fld w 0 4)) else none
  | _ => none

/-- Major 0x09 (Table 4-11). -/
def decodeMajor09 (w : Nat) : Option Instr :=
  match bits w 0 8 with
  | 1 => if bits w 8 12 = 0 then some (.rdcyc (fld w 20 6)) else none
  | 2 => if bits w 8 6 = 0 then some (.rdperf (fld w 20 6) (fld w 14 6)) else none
  | _ => none

/-- Major 0x10 (Table 4-11). -/
def decodeMajor10 (w : Nat) : Option Instr :=
  match bits w 0 5 with
  | 1 => if bits w 8 5 = 0 then some (.vadd (fld w 22 4) (fld w 18 4) (fld w 14 4) (fld w 13 1) (fld w 5 3)) else none
  | 2 => if bits w 8 5 = 0 then some (.vsub (fld w 22 4) (fld w 18 4) (fld w 14 4) (fld w 13 1) (fld w 5 3)) else none
  | 3 => if bits w 8 5 = 0 then some (.vmul (fld w 22 4) (fld w 18 4) (fld w 14 4) (fld w 13 1) (fld w 5 3)) else none
  | 4 => if bits w 8 6 = 0 then some (.vfma (fld w 22 4) (fld w 18 4) (fld w 14 4) (fld w 5 3)) else none
  | 5 => if bits w 8 6 = 0 then some (.vmax (fld w 22 4) (fld w 18 4) (fld w 14 4) (fld w 5 3)) else none
  | 6 => if bits w 8 6 = 0 then some (.vmin (fld w 22 4) (fld w 18 4) (fld w 14 4) (fld w 5 3)) else none
  | 7 => if bits w 8 10 = 0 then some (.vexp2 (fld w 22 4) (fld w 18 4) (fld w 5 3)) else none
  | 8 => if bits w 8 10 = 0 then some (.vrcp (fld w 22 4) (fld w 18 4) (fld w 5 3)) else none
  | 9 => if bits w 8 10 = 0 then some (.vrsq (fld w 22 4) (fld w 18 4) (fld w 5 3)) else none
  | 10 => if bits w 14 4 = 0 ∧ bits w 22 4 = 0 then some (.vredAdd (fld w 18 4) (fld w 8 6) (fld w 5 3)) else if bits w 14 4 = 1 ∧ bits w 22 4 = 0 then some (.vredMax (fld w 18 4) (fld w 8 6) (fld w 5 3)) else if bits w 14 4 = 2 ∧ bits w 22 4 = 0 then some (.vredMin (fld w 18 4) (fld w 8 6) (fld w 5 3)) else none
  | 11 => if bits w 14 4 = 0 then some (.vcvt (fld w 22 4) (fld w 18 4) (fld w 13 1) (fld w 12 1) (fld w 8 4) (fld w 5 3)) else none
  | 12 => some (.vpack (fld w 22 4) (fld w 18 4) (fld w 14 4) (fld w 13 1) (fld w 12 1) (fld w 8 4) (fld w 5 3))
  | 13 => if bits w 14 4 = 0 then some (.vunpk (fld w 22 4) (fld w 18 4) (fld w 13 1) (fld w 12 1) (fld w 8 4) (fld w 5 3)) else none
  | 14 => if bits w 12 2 = 0 then some (.vsel (fld w 22 4) (fld w 18 4) (fld w 14 4) (fld w 8 4) (fld w 5 3)) else none
  | 15 => if bits w 8 6 = 0 then some (.vshf (fld w 22 4) (fld w 18 4) (fld w 14 4) (fld w 5 3)) else none
  | 16 => if bits w 14 8 = 0 then some (.vbcast (fld w 22 4) (fld w 8 6) (fld w 5 3)) else none
  | 17 => if bits w 10 4 = 0 then some (.vcmp (fld w 22 4) (fld w 18 4) (fld w 14 4) (fld w 8 2) (fld w 5 3)) else none
  | _ => none

/-- Major 0x11 (Table 4-11). -/
def decodeMajor11 (w : Nat) : Option Instr :=
  match bits w 10 1 with
  | 0 => if bits w 3 5 = 0 then some (.mms (fld w 24 2) (fld w 18 6) (fld w 12 6) (fld w 11 1) (fld w 8 2) (fld w 0 3)) else none
  | 1 => if bits w 3 5 = 0 then some (.mmss (fld w 24 2) (fld w 18 6) (fld w 12 6) (fld w 11 1) (fld w 8 2) (fld w 0 3)) else none
  | _ => none

/-- Major 0x12 (Table 4-11). -/
def decodeMajor12 (w : Nat) : Option Instr :=
  if bits w 0 11 = 0 ∧ bits w 18 8 = 0 then some (.ldstat (fld w 12 6) (fld w 11 1)) else none

/-- Major 0x13 (Table 4-11). -/
def decodeMajor13 (w : Nat) : Option Instr :=
  match bits w 0 8 with
  | 1 => if bits w 8 12 = 0 then some (.tidset (fld w 20 6)) else none
  | 2 => if bits w 10 4 = 0 then some (.tidget (fld w 20 6) (fld w 14 6) (fld w 8 2)) else none
  | 3 => if bits w 11 15 = 0 then some (.swapstat (fld w 8 3)) else none
  | 4 => if bits w 11 15 = 3 then some (.acczMark (fld w 8 3)) else if bits w 13 7 = 0 ∧ bits w 22 4 = 0 then some (.accz (fld w 20 2) (fld w 11 2) (fld w 8 3)) else none
  | 5 => if bits w 11 3 = 0 ∧ bits w 22 4 = 0 then some (.accld (fld w 20 2) (fld w 14 6) (fld w 8 3)) else none
  | 6 => if bits w 11 3 = 0 ∧ bits w 16 4 = 0 then some (.accst (fld w 20 6) (fld w 14 2) (fld w 8 3)) else none
  | 7 => if bits w 11 3 = 0 ∧ bits w 16 4 = 0 ∧ bits w 22 4 = 0 then some (.accadd (fld w 20 2) (fld w 14 2) (fld w 8 3)) else none
  | 8 => some (.scalek (fld w 20 6) (fld w 14 6) (fld w 8 6))
  | 9 => if bits w 8 12 = 0 then some (.scalew (fld w 20 6)) else none
  | 10 => if bits w 23 3 = 0 then some (.mcmd (fld w 20 3) (fld w 14 6) (fld w 8 6)) else none
  | 11 => if bits w 8 6 = 0 then some (.mcap (fld w 20 6) (fld w 14 6)) else none
  | 12 => if bits w 13 1 = 0 then some (.tcvt (fld w 20 6) (fld w 14 6) (fld w 12 1) (fld w 11 1) (fld w 8 3)) else none
  | 13 => if bits w 12 2 = 0 then some (.tcopy (fld w 20 6) (fld w 14 6) (fld w 11 1) (fld w 8 3)) else none
  | 14 => if bits w 8 6 = 0 then some (.permit (fld w 20 6) (fld w 14 6)) else none
  | 15 => if bits w 8 6 = 0 then some (.permrel (fld w 20 6) (fld w 14 6)) else none
  | _ => none

/-- Major 0x20 (Table 4-11). -/
def decodeMajor20 (w : Nat) : Option Instr :=
  match bits w 0 8 with
  | 1 => if bits w 12 2 = 0 ∧ bits w 18 2 = 0 ∧ bits w 24 2 = 0 then some (.aadd (fld w 20 4) (fld w 14 4) (fld w 8 4)) else none
  | 2 => if bits w 12 2 = 0 ∧ bits w 18 2 = 0 ∧ bits w 24 2 = 0 then some (.asub (fld w 20 4) (fld w 14 4) (fld w 8 4)) else none
  | 3 => if bits w 8 6 = 0 ∧ bits w 18 2 = 0 ∧ bits w 24 2 = 0 then some (.amov (fld w 20 4) (fld w 14 4)) else none
  | 4 => if bits w 12 2 = 0 ∧ bits w 18 2 = 0 ∧ bits w 24 2 = 0 then some (.acmpEq (fld w 20 4) (fld w 14 4) (fld w 8 4)) else none
  | 5 => if bits w 12 2 = 0 ∧ bits w 18 2 = 0 ∧ bits w 24 2 = 0 then some (.acmpNe (fld w 20 4) (fld w 14 4) (fld w 8 4)) else none
  | 6 => if bits w 12 2 = 0 ∧ bits w 18 2 = 0 ∧ bits w 24 2 = 0 then some (.acmpLt (fld w 20 4) (fld w 14 4) (fld w 8 4)) else none
  | 7 => if bits w 12 2 = 0 ∧ bits w 18 2 = 0 ∧ bits w 24 2 = 0 then some (.acmpLe (fld w 20 4) (fld w 14 4) (fld w 8 4)) else none
  | 8 => if bits w 12 2 = 0 ∧ bits w 18 2 = 0 ∧ bits w 24 2 = 0 then some (.amask (fld w 20 4) (fld w 14 4) (fld w 8 4)) else none
  | 16 => if bits w 18 2 = 0 ∧ bits w 24 2 = 0 then some (.aidx (fld w 20 4) (fld w 14 4) (fld w 8 6) (fld w 0 3)) else none
  | 17 => if bits w 18 2 = 0 ∧ bits w 24 2 = 0 then some (.aidx (fld w 20 4) (fld w 14 4) (fld w 8 6) (fld w 0 3)) else none
  | 18 => if bits w 18 2 = 0 ∧ bits w 24 2 = 0 then some (.aidx (fld w 20 4) (fld w 14 4) (fld w 8 6) (fld w 0 3)) else none
  | 19 => if bits w 18 2 = 0 ∧ bits w 24 2 = 0 then some (.aidx (fld w 20 4) (fld w 14 4) (fld w 8 6) (fld w 0 3)) else none
  | 20 => if bits w 18 2 = 0 ∧ bits w 24 2 = 0 then some (.aidx (fld w 20 4) (fld w 14 4) (fld w 8 6) (fld w 0 3)) else none
  | 21 => if bits w 18 2 = 0 ∧ bits w 24 2 = 0 then some (.aidx (fld w 20 4) (fld w 14 4) (fld w 8 6) (fld w 0 3)) else none
  | 22 => if bits w 18 2 = 0 ∧ bits w 24 2 = 0 then some (.aidx (fld w 20 4) (fld w 14 4) (fld w 8 6) (fld w 0 3)) else none
  | 23 => if bits w 18 2 = 0 ∧ bits w 24 2 = 0 then some (.aidx (fld w 20 4) (fld w 14 4) (fld w 8 6) (fld w 0 3)) else none
  | _ => none

/-- Major 0x21 (Table 4-11). -/
def decodeMajor21 (w : Nat) : Option Instr :=
  if bits w 18 2 = 0 ∧ bits w 24 2 = 0 then some (.aaddi (fld w 20 4) (fld w 14 4) (fld w 0 14)) else none

/-- Major 0x22 (Table 4-11). -/
def decodeMajor22 (w : Nat) : Option Instr :=
  if bits w 13 1 = 0 then some (.ld (fld w 22 4) (fld w 19 3) (fld w 16 3) (fld w 14 2) (fld w 12 1) (fld w 0 12)) else none

/-- Major 0x23 (Table 4-11). -/
def decodeMajor23 (w : Nat) : Option Instr :=
  if bits w 12 2 = 0 then some (.st (fld w 22 4) (fld w 19 3) (fld w 16 3) (fld w 14 2) (fld w 0 12)) else none

/-- Major 0x24 (Table 4-11). -/
def decodeMajor24 (w : Nat) : Option Instr :=
  some (.ldacq (fld w 22 4) (fld w 19 3) (fld w 16 3) (fld w 14 2) (fld w 12 2) (fld w 0 12))

/-- Major 0x25 (Table 4-11). -/
def decodeMajor25 (w : Nat) : Option Instr :=
  some (.strel (fld w 22 4) (fld w 19 3) (fld w 16 3) (fld w 14 2) (fld w 12 2) (fld w 0 12))

/-- Major 0x26 (Table 4-11). -/
def decodeMajor26 (w : Nat) : Option Instr :=
  if bits w 13 1 = 0 then some (.ldc (fld w 22 4) (fld w 19 3) (fld w 16 3) (fld w 14 2) (fld w 12 1) (fld w 0 12)) else none

/-- Major 0x27 (Table 4-11). -/
def decodeMajor27 (w : Nat) : Option Instr :=
  if bits w 13 1 = 0 then some (.ldi (fld w 22 4) (fld w 19 3) (fld w 16 3) (fld w 14 2) (fld w 12 1) (fld w 0 12)) else none

/-- Major 0x28 (Table 4-11). -/
def decodeMajor28 (w : Nat) : Option Instr :=
  if bits w 13 1 = 0 then some (.ldfe (fld w 22 4) (fld w 19 3) (fld w 16 3) (fld w 14 2) (fld w 12 1) (fld w 0 12)) else none

/-- Major 0x29 (Table 4-11). -/
def decodeMajor29 (w : Nat) : Option Instr :=
  if bits w 13 1 = 0 then some (.stfe (fld w 22 4) (fld w 19 3) (fld w 16 3) (fld w 14 2) (fld w 12 1) (fld w 0 12)) else none

/-- Major 0x2A (Table 4-11). -/
def decodeMajor2A (w : Nat) : Option Instr :=
  if bits w 0 4 = 0 then some (.la (fld w 22 4) (fld w 19 3) (fld w 16 3) (fld w 12 4) (fld w 4 8)) else none

/-- Major 0x2B (Table 4-11). -/
def decodeMajor2B (w : Nat) : Option Instr :=
  match bits w 12 2 with
  | 0 => if bits w 15 1 = 1 then some (.atadd (fld w 22 4) (fld w 19 3) (fld w 16 3) (fld w 14 1) (fld w 0 12)) else none
  | 1 => some (.atmin (fld w 22 4) (fld w 19 3) (fld w 16 3) (fld w 14 2) (fld w 0 12))
  | 2 => some (.atmax (fld w 22 4) (fld w 19 3) (fld w 16 3) (fld w 14 2) (fld w 0 12))
  | 3 => if bits w 15 1 = 1 then some (.atand (fld w 22 4) (fld w 19 3) (fld w 16 3) (fld w 14 1) (fld w 0 12)) else none
  | _ => none

/-- Major 0x2C (Table 4-11). -/
def decodeMajor2C (w : Nat) : Option Instr :=
  match bits w 12 2 with
  | 0 => if bits w 15 1 = 1 then some (.ator (fld w 22 4) (fld w 19 3) (fld w 16 3) (fld w 14 1) (fld w 0 12)) else none
  | 1 => if bits w 15 1 = 1 then some (.atxor (fld w 22 4) (fld w 19 3) (fld w 16 3) (fld w 14 1) (fld w 0 12)) else none
  | 2 => if bits w 15 1 = 1 then some (.atswp (fld w 22 4) (fld w 19 3) (fld w 16 3) (fld w 14 1) (fld w 0 12)) else none
  | 3 => if bits w 15 1 = 1 then some (.atcas (fld w 22 4) (fld w 19 3) (fld w 16 3) (fld w 14 1) (fld w 0 12)) else none
  | _ => none

/-- Major 0x2D (Table 4-11). -/
def decodeMajor2D (w : Nat) : Option Instr :=
  if bits w 12 2 = 0 ∧ bits w 15 1 = 1 then some (.waita (fld w 22 4) (fld w 19 3) (fld w 16 3) (fld w 14 1) (fld w 0 12)) else none

/-- Major 0x2E (Table 4-11). -/
def decodeMajor2E (w : Nat) : Option Instr :=
  match bits w 12 4 with
  | 0 => some (.pref (fld w 22 4) (fld w 19 3) (fld w 16 3) (fld w 0 12))
  | 1 => some (.cflush (fld w 22 4) (fld w 19 3) (fld w 16 3) (fld w 0 12))
  | 2 => some (.cinv (fld w 22 4) (fld w 19 3) (fld w 16 3) (fld w 0 12))
  | 3 => some (.cpin (fld w 22 4) (fld w 19 3) (fld w 16 3) (fld w 0 12))
  | 4 => some (.cunpin (fld w 22 4) (fld w 19 3) (fld w 16 3) (fld w 0 12))
  | 8 => if bits w 0 12 = 0 ∧ bits w 16 3 = 0 ∧ bits w 22 4 = 0 then some (.fenceCore (fld w 19 3)) else none
  | 9 => if bits w 0 12 = 0 ∧ bits w 16 3 = 0 ∧ bits w 22 4 = 0 then some (.fenceTile (fld w 19 3)) else none
  | 10 => if bits w 0 12 = 0 ∧ bits w 16 3 = 0 ∧ bits w 22 4 = 0 then some (.fenceDie (fld w 19 3)) else none
  | 11 => if bits w 0 12 = 0 ∧ bits w 16 3 = 0 ∧ bits w 22 4 = 0 then some (.fenceModule (fld w 19 3)) else none
  | 12 => if bits w 0 12 = 0 ∧ bits w 16 3 = 0 ∧ bits w 22 4 = 0 then some (.fenceDomain (fld w 19 3)) else none
  | _ => none

/-- Major 0x2F (Table 4-11). -/
def decodeMajor2F (w : Nat) : Option Instr :=
  match bits w 0 4 with
  | 0 => some (.vld (fld w 22 4) (fld w 19 3) (fld w 16 3) (fld w 12 4) (fld w 4 8))
  | 4 => some (.vst (fld w 22 4) (fld w 19 3) (fld w 16 3) (fld w 12 4) (fld w 4 8))
  | 8 => some (.vstfe (fld w 22 4) (fld w 19 3) (fld w 16 3) (fld w 12 4) (fld w 4 8))
  | _ => none

/-- Major 0x30 (Table 4-11). -/
def decodeMajor30 (w : Nat) : Option Instr :=
  match bits w 12 4 with
  | 0 => some (.asopReduceAdd (fld w 22 4) (fld w 19 3) (fld w 16 3) (fld w 0 12))
  | 1 => some (.asopReduceMax (fld w 22 4) (fld w 19 3) (fld w 16 3) (fld w 0 12))
  | 2 => some (.asopAxpy (fld w 22 4) (fld w 19 3) (fld w 16 3) (fld w 0 12))
  | 3 => some (.asopConvert (fld w 22 4) (fld w 19 3) (fld w 16 3) (fld w 0 12))
  | 4 => some (.asopScale (fld w 22 4) (fld w 19 3) (fld w 16 3) (fld w 0 12))
  | 5 => some (.asopGather (fld w 22 4) (fld w 19 3) (fld w 16 3) (fld w 0 12))
  | 6 => some (.asopScatterAdd (fld w 22 4) (fld w 19 3) (fld w 16 3) (fld w 0 12))
  | 7 => some (.asopSmerge (fld w 22 4) (fld w 19 3) (fld w 16 3) (fld w 0 12))
  | _ => none

/-- Major 0x31 (Table 4-11). -/
def decodeMajor31 (w : Nat) : Option Instr :=
  match bits w 0 5 with
  | 1 => if bits w 8 6 = 0 ∧ bits w 18 2 = 0 then some (.jcsub (fld w 20 6) (fld w 14 4) (fld w 5 3)) else none
  | 2 => if bits w 8 6 = 0 then some (.jcwait (fld w 20 6) (fld w 14 6) (fld w 5 3)) else none
  | 3 => if bits w 18 2 = 0 then some (.segopen (fld w 20 6) (fld w 14 4) (fld w 8 6) (fld w 5 3)) else none
  | 4 => if bits w 18 4 = 0 ∧ bits w 24 2 = 0 then some (.segput (fld w 22 2) (fld w 14 4) (fld w 8 6) (fld w 5 3)) else if bits w 18 4 = 4 ∧ bits w 24 2 = 0 then some (.segput2 (fld w 22 2) (fld w 14 4) (fld w 8 6) (fld w 5 3)) else if bits w 18 4 = 8 ∧ bits w 24 2 = 0 then some (.segputPfx (fld w 22 2) (fld w 14 4) (fld w 8 6) (fld w 5 3)) else none
  | 5 => if bits w 10 4 = 0 ∧ bits w 18 2 = 0 then some (.segclose (fld w 20 6) (fld w 14 4) (fld w 8 2) (fld w 5 3)) else none
  | 6 => if bits w 10 4 = 0 ∧ bits w 18 2 = 0 then some (.segcnt (fld w 20 6) (fld w 14 4) (fld w 8 2) (fld w 5 3)) else none
  | 7 => if bits w 18 2 = 0 then some (.ascfg (fld w 20 6) (fld w 14 4) (fld w 8 6) (fld w 5 3)) else none
  | _ => none

/-- Major 0x32 (Table 4-11). -/
def decodeMajor32 (w : Nat) : Option Instr :=
  match bits w 9 4 with
  | 1 => if bits w 0 3 = 0 then some (.put (fld w 20 6) (fld w 16 4) (fld w 13 3) (fld w 3 6)) else none
  | 2 => if bits w 0 9 = 0 then some (.get (fld w 20 6) (fld w 16 4) (fld w 13 3)) else none
  | 3 => if bits w 0 3 = 0 then some (.offerPut (fld w 20 6) (fld w 16 4) (fld w 13 3) (fld w 3 6)) else none
  | 4 => if bits w 0 9 = 0 ∧ bits w 20 6 = 0 then some (.offerGet (fld w 16 4) (fld w 13 3)) else none
  | 5 => if bits w 0 9 = 0 then some (.poll (fld w 20 6) (fld w 16 4) (fld w 13 3)) else none
  | 6 => if bits w 0 9 = 0 then some (.retract (fld w 20 6) (fld w 16 4) (fld w 13 3)) else none
  | 7 => if bits w 0 9 = 0 ∧ bits w 16 4 = 0 ∧ bits w 24 2 = 0 then some (.conload (fld w 20 4) (fld w 13 3)) else none
  | 8 => if bits w 0 9 = 0 ∧ bits w 16 4 = 0 then some (.condrop (fld w 20 6) (fld w 13 3)) else none
  | 9 => if bits w 0 9 = 0 ∧ bits w 16 4 = 0 then some (.constat (fld w 20 6) (fld w 13 3)) else none
  | 10 => if bits w 0 9 = 0 then some (.pbind (fld w 20 6) (fld w 16 4) (fld w 13 3)) else none
  | _ => none

/-- Major 0x33 (Table 4-11). -/
def decodeMajor33 (w : Nat) : Option Instr :=
  match bits w 0 5 with
  | 1 => if bits w 8 6 = 0 ∧ bits w 18 2 = 0 then some (.pgsub (fld w 20 6) (fld w 14 4) (fld w 5 3)) else none
  | 2 => if bits w 8 6 = 0 then some (.pgunsub (fld w 20 6) (fld w 14 6) (fld w 5 3)) else none
  | 3 => if bits w 8 6 = 0 ∧ bits w 18 2 = 0 then some (.pgpass (fld w 20 6) (fld w 14 4) (fld w 5 3)) else none
  | 4 => if bits w 8 6 = 0 ∧ bits w 18 2 = 0 then some (.pgrecv (fld w 20 6) (fld w 14 4) (fld w 5 3)) else if bits w 8 6 = 1 ∧ bits w 18 8 = 0 then some (.pgrecvFree (fld w 14 4) (fld w 5 3)) else none
  | 5 => if bits w 18 8 = 0 then some (.mrgput (fld w 14 4) (fld w 8 6) (fld w 5 3)) else none
  | 6 => if bits w 18 2 = 0 then some (.mrgget (fld w 20 6) (fld w 14 4) (fld w 8 6) (fld w 5 3)) else none
  | 7 => if bits w 18 2 = 0 then some (.mrgcfg (fld w 20 6) (fld w 14 4) (fld w 8 6) (fld w 5 3)) else none
  | _ => none

/-- Major 0x34 (Table 4-11). -/
def decodeMajor34 (w : Nat) : Option Instr :=
  match bits w 0 5 with
  | 1 => if bits w 18 2 = 0 then some (.sigdec (fld w 20 6) (fld w 14 4) (fld w 8 6) (fld w 5 3)) else none
  | 2 => if bits w 18 2 = 0 then some (.sigwait (fld w 20 6) (fld w 14 4) (fld w 8 6) (fld w 5 3)) else none
  | 3 => some (.dcinit (fld w 20 6) (fld w 14 6) (fld w 8 6) (fld w 5 3))
  | 4 => some (.dcdec (fld w 20 6) (fld w 14 6) (fld w 8 6) (fld w 5 3))
  | _ => none

/-- Major 0x35 (Table 4-11). -/
def decodeMajor35 (w : Nat) : Option Instr :=
  match bits w 0 5 with
  | 1 => if bits w 18 2 = 0 then some (.rhopen (fld w 20 6) (fld w 14 4) (fld w 8 6) (fld w 5 3)) else none
  | 2 => if bits w 20 6 = 0 then some (.rhpri (fld w 14 6) (fld w 8 6) (fld w 5 3)) else none
  | 3 => if bits w 8 6 = 0 ∧ bits w 20 6 = 0 then some (.rhdemote (fld w 14 6) (fld w 5 3)) else none
  | 4 => if bits w 8 6 = 0 ∧ bits w 20 6 = 0 then some (.rhevict (fld w 14 6) (fld w 5 3)) else none
  | 5 => if bits w 8 6 = 0 ∧ bits w 20 6 = 0 then some (.rhclose (fld w 14 6) (fld w 5 3)) else none
  | _ => none

/-- Major 0x38 (Table 4-11). -/
def decodeMajor38 (w : Nat) : Option Instr :=
  some (.bre (fld w 20 6) (fld w 0 20))

/-- Major 0x39 (Table 4-11). -/
def decodeMajor39 (w : Nat) : Option Instr :=
  some (.beqz (fld w 20 6) (fld w 0 20))

/-- Major 0x3A (Table 4-11). -/
def decodeMajor3A (w : Nat) : Option Instr :=
  some (.bnez (fld w 20 6) (fld w 0 20))

/-- Major 0x3B (Table 4-11). -/
def decodeMajor3B (w : Nat) : Option Instr :=
  match bits w 24 2 with
  | 0 => some (.bra (fld w 20 4) (fld w 0 20))
  | 1 => if bits w 20 4 = 0 then some (.jmp (fld w 0 20)) else none
  | 2 => if bits w 20 4 = 0 then some (.call (fld w 0 20)) else none
  | 3 => some (.loop (fld w 20 4) (fld w 0 20))
  | _ => none

/-- Major 0x3C (Table 4-11). -/
def decodeMajor3C (w : Nat) : Option Instr :=
  match bits w 8 6 with
  | 0 => if bits w 0 8 = 0 ∧ bits w 14 12 = 0 then some (.nop) else none
  | 1 => if bits w 0 8 = 0 ∧ bits w 20 6 = 0 then some (.jmpi (fld w 14 6)) else none
  | 2 => if bits w 0 8 = 0 ∧ bits w 14 12 = 0 then some (.ret) else none
  | 3 => if bits w 14 12 = 0 then some (.follow (fld w 0 8)) else none
  | 4 => if bits w 0 8 = 0 ∧ bits w 14 12 = 0 then some (.leave) else none
  | 5 => if bits w 0 8 = 0 then some (.join (fld w 20 6) (fld w 14 6)) else none
  | 6 => if bits w 0 8 = 0 ∧ bits w 20 6 = 0 then some (.endc (fld w 14 6)) else none
  | 7 => if bits w 0 8 = 0 then some (.rets (fld w 20 6) (fld w 14 6)) else none
  | 8 => if bits w 0 8 = 0 ∧ bits w 14 12 = 0 then some (.bar) else if bits w 0 8 = 1 ∧ bits w 14 12 = 0 then some (.barGroup) else none
  | 9 => if bits w 6 2 = 0 ∧ bits w 14 6 = 0 then some (.rdsw (fld w 20 6) (fld w 0 6)) else none
  | 10 => if bits w 6 2 = 0 ∧ bits w 20 6 = 0 then some (.wrsw (fld w 14 6) (fld w 0 6)) else none
  | 11 => if bits w 0 8 = 0 ∧ bits w 18 2 = 0 then some (.tnsub (fld w 20 6) (fld w 14 4)) else none
  | 12 => if bits w 0 8 = 0 ∧ bits w 14 6 = 0 then some (.tndone (fld w 20 6)) else none
  | 13 => if bits w 0 8 = 0 ∧ bits w 20 6 = 0 then some (.amsg (fld w 14 6)) else none
  | 14 => if bits w 0 8 = 0 ∧ bits w 14 6 = 0 then some (.inbx (fld w 20 6)) else if bits w 0 8 = 1 ∧ bits w 14 6 = 0 then some (.inbxWait (fld w 20 6)) else none
  | 15 => if bits w 0 8 = 0 ∧ bits w 18 8 = 0 then some (.fibsw (fld w 14 4)) else none
  | 16 => if bits w 0 8 = 0 ∧ bits w 18 8 = 0 then some (.upret (fld w 14 4)) else none
  | 17 => if bits w 0 8 = 0 ∧ bits w 14 12 = 0 then some (.yield) else none
  | 18 => if bits w 7 1 = 0 ∧ bits w 14 12 = 0 then some (.sbwait (fld w 0 7)) else none
  | _ => none

/-- Major 0x3D (Table 4-11). -/
def decodeMajor3D (w : Nat) : Option Instr :=
  match bits w 8 6 with
  | 0 => if bits w 14 12 = 0 then some (.trap (fld w 0 8)) else none
  | 1 => if bits w 0 8 = 0 ∧ bits w 14 12 = 0 then some (.rft) else none
  | 2 => if bits w 14 12 = 0 then some (.svc (fld w 0 8)) else none
  | 3 => if bits w 0 8 = 0 ∧ bits w 20 6 = 0 then some (.wrpriv (fld w 14 6)) else none
  | 4 => if bits w 0 8 = 0 ∧ bits w 24 2 = 0 then some (.xinvPage (fld w 20 4) (fld w 14 6)) else if bits w 0 8 = 1 ∧ bits w 20 6 = 0 then some (.xinvAsid (fld w 14 6)) else if bits w 0 8 = 2 ∧ bits w 14 12 = 0 then some (.xinvAll) else if bits w 0 2 = 3 ∧ bits w 20 6 = 0 then some (.xinvFrame (fld w 14 6) (fld w 2 6)) else none
  | 5 => if bits w 0 8 = 0 then some (.keysetRand (fld w 20 6) (fld w 14 6)) else if bits w 0 2 = 1 ∧ bits w 6 2 = 0 then some (.keysetLoad (fld w 20 6) (fld w 14 6) (fld w 2 4)) else if bits w 0 8 = 2 then some (.keysetRetire (fld w 20 6) (fld w 14 6)) else none
  | 6 => if bits w 4 4 = 0 ∧ bits w 14 12 = 0 then some (.pwrbOn (fld w 0 4)) else if bits w 4 4 = 1 ∧ bits w 14 12 = 0 then some (.pwrbRtn (fld w 0 4)) else if bits w 4 4 = 2 ∧ bits w 14 12 = 0 then some (.pwrbSave (fld w 0 4)) else if bits w 4 4 = 3 ∧ bits w 14 12 = 0 then some (.pwrbOff (fld w 0 4)) else none
  | 7 => if bits w 0 8 = 0 ∧ bits w 14 12 = 0 then some (.haltx) else none
  | 8 => if bits w 3 5 = 0 ∧ bits w 18 2 = 0 then some (.attest (fld w 20 6) (fld w 14 4) (fld w 0 3)) else none
  | 9 => if bits w 0 8 = 0 then some (.sparemap (fld w 20 6) (fld w 14 6)) else none
  | _ => none

/-- Major 0x3E (Table 4-11). -/
def decodeMajor3E (w : Nat) : Option Instr :=
  some (.start (fld w 20 6) (fld w 0 20))

/-- Major 0x3F (Table 4-11). -/
def decodeMajor3F (w : Nat) : Option Instr :=
  match bits w 22 4 with
  | 0 => some (.hintPfx (fld w 0 22))
  | 1 => if bits w 8 14 = 0 then some (.hintSched (fld w 0 8)) else none
  | 2 => if bits w 6 16 = 0 then some (.hintMod (fld w 1 5) (fld w 0 1)) else none
  | 3 => if bits w 3 19 = 0 then some (.hintPrio (fld w 0 3)) else none
  | _ => none

/-- The row of the opcode map that a word matches, by its major opcode (R67, R71). -/
def decodeRow (w : Nat) : Option Instr :=
  match bits w 26 6 with
  | 0 => decodeMajor00 w
  | 1 => decodeMajor01 w
  | 2 => decodeMajor02 w
  | 3 => decodeMajor03 w
  | 4 => decodeMajor04 w
  | 5 => decodeMajor05 w
  | 6 => decodeMajor06 w
  | 7 => decodeMajor07 w
  | 8 => decodeMajor08 w
  | 9 => decodeMajor09 w
  | 16 => decodeMajor10 w
  | 17 => decodeMajor11 w
  | 18 => decodeMajor12 w
  | 19 => decodeMajor13 w
  | 32 => decodeMajor20 w
  | 33 => decodeMajor21 w
  | 34 => decodeMajor22 w
  | 35 => decodeMajor23 w
  | 36 => decodeMajor24 w
  | 37 => decodeMajor25 w
  | 38 => decodeMajor26 w
  | 39 => decodeMajor27 w
  | 40 => decodeMajor28 w
  | 41 => decodeMajor29 w
  | 42 => decodeMajor2A w
  | 43 => decodeMajor2B w
  | 44 => decodeMajor2C w
  | 45 => decodeMajor2D w
  | 46 => decodeMajor2E w
  | 47 => decodeMajor2F w
  | 48 => decodeMajor30 w
  | 49 => decodeMajor31 w
  | 50 => decodeMajor32 w
  | 51 => decodeMajor33 w
  | 52 => decodeMajor34 w
  | 53 => decodeMajor35 w
  | 56 => decodeMajor38 w
  | 57 => decodeMajor39 w
  | 58 => decodeMajor3A w
  | 59 => decodeMajor3B w
  | 60 => decodeMajor3C w
  | 61 => decodeMajor3D w
  | 62 => decodeMajor3E w
  | 63 => decodeMajor3F w
  | _ => none

/-- An instruction word decoded, or the reason why it is none (R75). -/
def decodeChecked (w : Word) : Except Reject Instr :=
  match decodeRow w.toNat with
  | none => .error .unassigned
  | some i => if i.wellFormed then .ok i else .error .illegalCombination

/-- An instruction word decoded; `none` for a word that is not an instruction (R75). -/
def decodeWord (w : Word) : Option Instr :=
  match decodeChecked w with
  | .ok i => some i
  | .error _ => none

/-- The word that stands in the first four bytes, little-endian (R3, R67). -/
def wordOfBytes (b0 b1 b2 b3 : Byte) : Word :=
  BitVec.ofNat 32 (b0.toNat + 2 ^ 8 * b1.toNat + 2 ^ 16 * b2.toNat + 2 ^ 24 * b3.toNat)

/-- An instruction decoded from the bytes of text, with the bytes that follow it. -/
def decodeBytes : List Byte → Except Reject (Instr × List Byte)
  | b0 :: b1 :: b2 :: b3 :: rest =>
    match decodeChecked (wordOfBytes b0 b1 b2 b3) with
    | .ok i => .ok (i, rest)
    | .error e => .error e
  | _ => .error .tooShort

/-- A queue-program word (R386, Table 17-2): op in [7:0], d in [11:8], s in [15:12], imm in [63:16]; a field that the
operation does not use must be zero (R387). -/
def decodeQueueRow (w : Nat) : Option Instr :=
  let d : BitVec 4 := fld w 8 4
  let s : BitVec 4 := fld w 12 4
  let imm : BitVec 48 := fld w 16 48
  let noD := bits w 8 4 = 0
  let noS := bits w 12 4 = 0
  let noI := bits w 16 48 = 0
  let shiftI := bits w 22 42 = 0
  let memI := bits w 34 30 = 0
  let brI := bits w 48 16 = 0
  match bits w 0 8 with
  | 1 => if noS then some (.qmovi d imm) else none
  | 2 => if noI then some (.qmov d s) else none
  | 3 => if noI then some (.qadd d s) else none
  | 4 => if noS then some (.qaddi d imm) else none
  | 5 => if noI then some (.qand d s) else none
  | 6 => if noS ∧ shiftI then some (.qshl d (fld w 16 6)) else none
  | 7 => if noS ∧ shiftI then some (.qshr d (fld w 16 6)) else none
  | 8 => if memI then some (.qld d s (fld w 32 2) (fld w 16 16)) else none
  | 9 => if memI then some (.qst d s (fld w 32 2) (fld w 16 16)) else none
  | 10 => if brI then some (.qbeq d s (fld w 16 16) (fld w 32 16)) else none
  | 11 => if brI then some (.qbne d s (fld w 16 16) (fld w 32 16)) else none
  | 12 => if brI then some (.qbltn d s (fld w 16 16) (fld w 32 16)) else none
  | 13 => if noD ∧ noS ∧ brI then some (.qjmp (fld w 16 16) (fld w 32 16)) else none
  | 14 => if noS ∧ noI then some (.qlaunch d) else none
  | 15 => if noS ∧ noI then some (.qgraph d) else none
  | 16 => if noI then some (.qamsg d s) else none
  | 17 => if noI then some (.qsigdec d s) else none
  | 18 => if noI then some (.qsigrd d s) else none
  | 19 => if noS ∧ noI then some (.qcyc d) else none
  | 20 => if noS ∧ noI then some (.qend d) else none
  | _ => none

/-- A queue-program word decoded; `none` for a word that the load-time checks of R387 refuse by itself. -/
def decodeQueueWord (w : Dword) : Option Instr :=
  match decodeQueueRow w.toNat with
  | none => none
  | some i => if i.wellFormed then some i else none

/-- The instruction that the decoder reads from a row's bits, numbered as spec/opcode_table.json numbers them: an instruction
word of 32 bits, or (above 32 bits) a queue-program word of 64. -/
def decodeTableWord (nbits w : Nat) : Option Instr :=
  if nbits ≤ 32 then decodeWord (BitVec.ofNat 32 w) else decodeQueueWord (BitVec.ofNat 64 w)

/-- A word put together: a pattern with fields added at their places. -/
def pack (pattern : Nat) (fields : List (Nat × Nat)) : Nat :=
  fields.foldl (fun acc f => acc + f.1 * 2 ^ f.2) pattern

/-- The 32-bit word of an instruction, from the formats of Tables 4-1 to 4-12; `none` for a queue-program word or an event. -/
def encodeNat : Instr → Option Nat
  | .add d a b => some (pack 0x00000001 [(d.toNat, 20), (a.toNat, 14), (b.toNat, 8)])
  | .sub d a b => some (pack 0x00000002 [(d.toNat, 20), (a.toNat, 14), (b.toNat, 8)])
  | .mul d a b => some (pack 0x00000003 [(d.toNat, 20), (a.toNat, 14), (b.toNat, 8)])
  | .mulh d a b => some (pack 0x00000004 [(d.toNat, 20), (a.toNat, 14), (b.toNat, 8)])
  | .mulhn d a b => some (pack 0x00000005 [(d.toNat, 20), (a.toNat, 14), (b.toNat, 8)])
  | .divs d a b => some (pack 0x00000006 [(d.toNat, 20), (a.toNat, 14), (b.toNat, 8)])
  | .divn d a b => some (pack 0x00000007 [(d.toNat, 20), (a.toNat, 14), (b.toNat, 8)])
  | .rems d a b => some (pack 0x00000008 [(d.toNat, 20), (a.toNat, 14), (b.toNat, 8)])
  | .remn d a b => some (pack 0x00000009 [(d.toNat, 20), (a.toNat, 14), (b.toNat, 8)])
  | .andd d a b => some (pack 0x0000000A [(d.toNat, 20), (a.toNat, 14), (b.toNat, 8)])
  | .orr d a b => some (pack 0x0000000B [(d.toNat, 20), (a.toNat, 14), (b.toNat, 8)])
  | .xorr d a b => some (pack 0x0000000C [(d.toNat, 20), (a.toNat, 14), (b.toNat, 8)])
  | .andn d a b => some (pack 0x0000000D [(d.toNat, 20), (a.toNat, 14), (b.toNat, 8)])
  | .shl d a b => some (pack 0x0000000E [(d.toNat, 20), (a.toNat, 14), (b.toNat, 8)])
  | .shr d a b => some (pack 0x0000000F [(d.toNat, 20), (a.toNat, 14), (b.toNat, 8)])
  | .sha d a b => some (pack 0x00000010 [(d.toNat, 20), (a.toNat, 14), (b.toNat, 8)])
  | .rot d a b => some (pack 0x00000011 [(d.toNat, 20), (a.toNat, 14), (b.toNat, 8)])
  | .clz d a => some (pack 0x00000012 [(d.toNat, 20), (a.toNat, 14)])
  | .popc d a => some (pack 0x00000013 [(d.toNat, 20), (a.toNat, 14)])
  | .mins d a b => some (pack 0x00000014 [(d.toNat, 20), (a.toNat, 14), (b.toNat, 8)])
  | .maxs d a b => some (pack 0x00000015 [(d.toNat, 20), (a.toNat, 14), (b.toNat, 8)])
  | .minn d a b => some (pack 0x00000016 [(d.toNat, 20), (a.toNat, 14), (b.toNat, 8)])
  | .maxn d a b => some (pack 0x00000017 [(d.toNat, 20), (a.toNat, 14), (b.toNat, 8)])
  | .cmpeq d a b => some (pack 0x00000018 [(d.toNat, 20), (a.toNat, 14), (b.toNat, 8)])
  | .cmplt d a b => some (pack 0x00000019 [(d.toNat, 20), (a.toNat, 14), (b.toNat, 8)])
  | .cmpltn d a b => some (pack 0x0000001A [(d.toNat, 20), (a.toNat, 14), (b.toNat, 8)])
  | .cmple d a b => some (pack 0x0000001B [(d.toNat, 20), (a.toNat, 14), (b.toNat, 8)])
  | .sel d a b => some (pack 0x0000001C [(d.toNat, 20), (a.toNat, 14), (b.toNat, 8)])
  | .addSats d a b => some (pack 0x00000021 [(d.toNat, 20), (a.toNat, 14), (b.toNat, 8)])
  | .addSatn d a b => some (pack 0x00000022 [(d.toNat, 20), (a.toNat, 14), (b.toNat, 8)])
  | .subSats d a b => some (pack 0x00000023 [(d.toNat, 20), (a.toNat, 14), (b.toNat, 8)])
  | .subSatn d a b => some (pack 0x00000024 [(d.toNat, 20), (a.toNat, 14), (b.toNat, 8)])
  | .mulSats d a b => some (pack 0x00000025 [(d.toNat, 20), (a.toNat, 14), (b.toNat, 8)])
  | .mulSatn d a b => some (pack 0x00000026 [(d.toNat, 20), (a.toNat, 14), (b.toNat, 8)])
  | .addi d a i => some (pack 0x04000000 [(d.toNat, 20), (a.toNat, 14), (i.toNat, 0)])
  | .andi d a i => some (pack 0x08000000 [(d.toNat, 20), (a.toNat, 14), (i.toNat, 0)])
  | .ori d a i => some (pack 0x0C000000 [(d.toNat, 20), (a.toNat, 14), (i.toNat, 0)])
  | .xori d a i => some (pack 0x10000000 [(d.toNat, 20), (a.toNat, 14), (i.toNat, 0)])
  | .shli d a n => some (pack 0x14000000 [(d.toNat, 20), (a.toNat, 14), (n.toNat, 0)])
  | .shri d a n => some (pack 0x14000040 [(d.toNat, 20), (a.toNat, 14), (n.toNat, 0)])
  | .shai d a n => some (pack 0x14000080 [(d.toNat, 20), (a.toNat, 14), (n.toNat, 0)])
  | .movi d i => some (pack 0x18000000 [(d.toNat, 20), (i.toNat, 0)])
  | .ext d a l p => some (pack 0x1C000000 [(d.toNat, 20), (a.toNat, 14), (l.toNat, 6), (p.toNat, 0)])
  | .extS d a l p => some (pack 0x1C001000 [(d.toNat, 20), (a.toNat, 14), (l.toNat, 6), (p.toNat, 0)])
  | .ins d a l p => some (pack 0x1C002000 [(d.toNat, 20), (a.toNat, 14), (l.toNat, 6), (p.toNat, 0)])
  | .fadd d a b f => some (pack 0x20000010 [(d.toNat, 20), (a.toNat, 14), (b.toNat, 8), (f.toNat, 0)])
  | .fsub d a b f => some (pack 0x20000020 [(d.toNat, 20), (a.toNat, 14), (b.toNat, 8), (f.toNat, 0)])
  | .fmul d a b f => some (pack 0x20000030 [(d.toNat, 20), (a.toNat, 14), (b.toNat, 8), (f.toNat, 0)])
  | .ffma d a b f => some (pack 0x20000040 [(d.toNat, 20), (a.toNat, 14), (b.toNat, 8), (f.toNat, 0)])
  | .fmin d a b f => some (pack 0x20000050 [(d.toNat, 20), (a.toNat, 14), (b.toNat, 8), (f.toNat, 0)])
  | .fmax d a b f => some (pack 0x20000060 [(d.toNat, 20), (a.toNat, 14), (b.toNat, 8), (f.toNat, 0)])
  | .fcmp d a b f => some (pack 0x20000070 [(d.toNat, 20), (a.toNat, 14), (b.toNat, 8), (f.toNat, 0)])
  | .fcvt d a s z u t => some (pack 0x20000080 [(d.toNat, 20), (a.toNat, 14), (s.toNat, 10), (z.toNat, 9), (u.toNat, 8), (t.toNat, 0)])
  | .fabs d a f => some (pack 0x20000090 [(d.toNat, 20), (a.toNat, 14), (f.toNat, 0)])
  | .fneg d a f => some (pack 0x200000A0 [(d.toNat, 20), (a.toNat, 14), (f.toNat, 0)])
  | .rdcyc d => some (pack 0x24000001 [(d.toNat, 20)])
  | .rdperf d a => some (pack 0x24000002 [(d.toNat, 20), (a.toNat, 14)])
  | .vadd d a b s l => some (pack 0x40000001 [(d.toNat, 22), (a.toNat, 18), (b.toNat, 14), (s.toNat, 13), (l.toNat, 5)])
  | .vsub d a b s l => some (pack 0x40000002 [(d.toNat, 22), (a.toNat, 18), (b.toNat, 14), (s.toNat, 13), (l.toNat, 5)])
  | .vmul d a b s l => some (pack 0x40000003 [(d.toNat, 22), (a.toNat, 18), (b.toNat, 14), (s.toNat, 13), (l.toNat, 5)])
  | .vfma d a b l => some (pack 0x40000004 [(d.toNat, 22), (a.toNat, 18), (b.toNat, 14), (l.toNat, 5)])
  | .vmax d a b l => some (pack 0x40000005 [(d.toNat, 22), (a.toNat, 18), (b.toNat, 14), (l.toNat, 5)])
  | .vmin d a b l => some (pack 0x40000006 [(d.toNat, 22), (a.toNat, 18), (b.toNat, 14), (l.toNat, 5)])
  | .vexp2 d a l => some (pack 0x40000007 [(d.toNat, 22), (a.toNat, 18), (l.toNat, 5)])
  | .vrcp d a l => some (pack 0x40000008 [(d.toNat, 22), (a.toNat, 18), (l.toNat, 5)])
  | .vrsq d a l => some (pack 0x40000009 [(d.toNat, 22), (a.toNat, 18), (l.toNat, 5)])
  | .vredAdd a x l => some (pack 0x4000000A [(a.toNat, 18), (x.toNat, 8), (l.toNat, 5)])
  | .vredMax a x l => some (pack 0x4000400A [(a.toNat, 18), (x.toNat, 8), (l.toNat, 5)])
  | .vredMin a x l => some (pack 0x4000800A [(a.toNat, 18), (x.toNat, 8), (l.toNat, 5)])
  | .vcvt d a u z t l => some (pack 0x4000000B [(d.toNat, 22), (a.toNat, 18), (u.toNat, 13), (z.toNat, 12), (t.toNat, 8), (l.toNat, 5)])
  | .vpack d a b u z t l => some (pack 0x4000000C [(d.toNat, 22), (a.toNat, 18), (b.toNat, 14), (u.toNat, 13), (z.toNat, 12), (t.toNat, 8), (l.toNat, 5)])
  | .vunpk d a u z t l => some (pack 0x4000000D [(d.toNat, 22), (a.toNat, 18), (u.toNat, 13), (z.toNat, 12), (t.toNat, 8), (l.toNat, 5)])
  | .vsel d a b m l => some (pack 0x4000000E [(d.toNat, 22), (a.toNat, 18), (b.toNat, 14), (m.toNat, 8), (l.toNat, 5)])
  | .vshf d a b l => some (pack 0x4000000F [(d.toNat, 22), (a.toNat, 18), (b.toNat, 14), (l.toNat, 5)])
  | .vbcast d x l => some (pack 0x40000010 [(d.toNat, 22), (x.toNat, 8), (l.toNat, 5)])
  | .vcmp d a b c l => some (pack 0x40000011 [(d.toNat, 22), (a.toNat, 18), (b.toNat, 14), (c.toNat, 8), (l.toNat, 5)])
  | .mms c a b t m s => some (pack 0x44000000 [(c.toNat, 24), (a.toNat, 18), (b.toNat, 12), (t.toNat, 11), (m.toNat, 8), (s.toNat, 0)])
  | .mmss c a b t m s => some (pack 0x44000400 [(c.toNat, 24), (a.toNat, 18), (b.toNat, 12), (t.toNat, 11), (m.toNat, 8), (s.toNat, 0)])
  | .ldstat b t => some (pack 0x48000000 [(b.toNat, 12), (t.toNat, 11)])
  | .tidset t => some (pack 0x4C000001 [(t.toNat, 20)])
  | .tidget d t n => some (pack 0x4C000002 [(d.toNat, 20), (t.toNat, 14), (n.toNat, 8)])
  | .swapstat s => some (pack 0x4C000003 [(s.toNat, 8)])
  | .accz c m s => some (pack 0x4C000004 [(c.toNat, 20), (m.toNat, 11), (s.toNat, 8)])
  | .acczMark s => some (pack 0x4C001804 [(s.toNat, 8)])
  | .accld c t s => some (pack 0x4C000005 [(c.toNat, 20), (t.toNat, 14), (s.toNat, 8)])
  | .accst t c s => some (pack 0x4C000006 [(t.toNat, 20), (c.toNat, 14), (s.toNat, 8)])
  | .accadd d e s => some (pack 0x4C000007 [(d.toNat, 20), (e.toNat, 14), (s.toNat, 8)])
  | .scalek d a b => some (pack 0x4C000008 [(d.toNat, 20), (a.toNat, 14), (b.toNat, 8)])
  | .scalew d => some (pack 0x4C000009 [(d.toNat, 20)])
  | .mcmd s a b => some (pack 0x4C00000A [(s.toNat, 20), (a.toNat, 14), (b.toNat, 8)])
  | .mcap d a => some (pack 0x4C00000B [(d.toNat, 20), (a.toNat, 14)])
  | .tcvt d a z r s => some (pack 0x4C00000C [(d.toNat, 20), (a.toNat, 14), (z.toNat, 12), (r.toNat, 11), (s.toNat, 8)])
  | .tcopy d a r s => some (pack 0x4C00000D [(d.toNat, 20), (a.toNat, 14), (r.toNat, 11), (s.toNat, 8)])
  | .permit d a => some (pack 0x4C00000E [(d.toNat, 20), (a.toNat, 14)])
  | .permrel d a => some (pack 0x4C00000F [(d.toNat, 20), (a.toNat, 14)])
  | .aadd d a b => some (pack 0x80000001 [(d.toNat, 20), (a.toNat, 14), (b.toNat, 8)])
  | .asub d a b => some (pack 0x80000002 [(d.toNat, 20), (a.toNat, 14), (b.toNat, 8)])
  | .amov d a => some (pack 0x80000003 [(d.toNat, 20), (a.toNat, 14)])
  | .acmpEq d a b => some (pack 0x80000004 [(d.toNat, 20), (a.toNat, 14), (b.toNat, 8)])
  | .acmpNe d a b => some (pack 0x80000005 [(d.toNat, 20), (a.toNat, 14), (b.toNat, 8)])
  | .acmpLt d a b => some (pack 0x80000006 [(d.toNat, 20), (a.toNat, 14), (b.toNat, 8)])
  | .acmpLe d a b => some (pack 0x80000007 [(d.toNat, 20), (a.toNat, 14), (b.toNat, 8)])
  | .amask d a b => some (pack 0x80000008 [(d.toNat, 20), (a.toNat, 14), (b.toNat, 8)])
  | .aidx d a b n => some (pack 0x80000010 [(d.toNat, 20), (a.toNat, 14), (b.toNat, 8), (n.toNat, 0)])
  | .aaddi d a i => some (pack 0x84000000 [(d.toNat, 20), (a.toNat, 14), (i.toNat, 0)])
  | .ld a s w z q o => some (pack 0x88000000 [(a.toNat, 22), (s.toNat, 19), (w.toNat, 16), (z.toNat, 14), (q.toNat, 12), (o.toNat, 0)])
  | .st a s w z o => some (pack 0x8C000000 [(a.toNat, 22), (s.toNat, 19), (w.toNat, 16), (z.toNat, 14), (o.toNat, 0)])
  | .ldacq a s w z q o => some (pack 0x90000000 [(a.toNat, 22), (s.toNat, 19), (w.toNat, 16), (z.toNat, 14), (q.toNat, 12), (o.toNat, 0)])
  | .strel a s w z q o => some (pack 0x94000000 [(a.toNat, 22), (s.toNat, 19), (w.toNat, 16), (z.toNat, 14), (q.toNat, 12), (o.toNat, 0)])
  | .ldc a s w z q o => some (pack 0x98000000 [(a.toNat, 22), (s.toNat, 19), (w.toNat, 16), (z.toNat, 14), (q.toNat, 12), (o.toNat, 0)])
  | .ldi a s w z q o => some (pack 0x9C000000 [(a.toNat, 22), (s.toNat, 19), (w.toNat, 16), (z.toNat, 14), (q.toNat, 12), (o.toNat, 0)])
  | .ldfe a s w z q o => some (pack 0xA0000000 [(a.toNat, 22), (s.toNat, 19), (w.toNat, 16), (z.toNat, 14), (q.toNat, 12), (o.toNat, 0)])
  | .stfe a s w z q o => some (pack 0xA4000000 [(a.toNat, 22), (s.toNat, 19), (w.toNat, 16), (z.toNat, 14), (q.toNat, 12), (o.toNat, 0)])
  | .la a s w t o => some (pack 0xA8000000 [(a.toNat, 22), (s.toNat, 19), (w.toNat, 16), (t.toNat, 12), (o.toNat, 4)])
  | .atadd a s w z o => some (pack 0xAC008000 [(a.toNat, 22), (s.toNat, 19), (w.toNat, 16), (z.toNat, 14), (o.toNat, 0)])
  | .atmin a s w z o => some (pack 0xAC001000 [(a.toNat, 22), (s.toNat, 19), (w.toNat, 16), (z.toNat, 14), (o.toNat, 0)])
  | .atmax a s w z o => some (pack 0xAC002000 [(a.toNat, 22), (s.toNat, 19), (w.toNat, 16), (z.toNat, 14), (o.toNat, 0)])
  | .atand a s w z o => some (pack 0xAC00B000 [(a.toNat, 22), (s.toNat, 19), (w.toNat, 16), (z.toNat, 14), (o.toNat, 0)])
  | .ator a s w z o => some (pack 0xB0008000 [(a.toNat, 22), (s.toNat, 19), (w.toNat, 16), (z.toNat, 14), (o.toNat, 0)])
  | .atxor a s w z o => some (pack 0xB0009000 [(a.toNat, 22), (s.toNat, 19), (w.toNat, 16), (z.toNat, 14), (o.toNat, 0)])
  | .atswp a s w z o => some (pack 0xB000A000 [(a.toNat, 22), (s.toNat, 19), (w.toNat, 16), (z.toNat, 14), (o.toNat, 0)])
  | .atcas a s w z o => some (pack 0xB000B000 [(a.toNat, 22), (s.toNat, 19), (w.toNat, 16), (z.toNat, 14), (o.toNat, 0)])
  | .waita a s w z o => some (pack 0xB4008000 [(a.toNat, 22), (s.toNat, 19), (w.toNat, 16), (z.toNat, 14), (o.toNat, 0)])
  | .pref a s w o => some (pack 0xB8000000 [(a.toNat, 22), (s.toNat, 19), (w.toNat, 16), (o.toNat, 0)])
  | .cflush a s w o => some (pack 0xB8001000 [(a.toNat, 22), (s.toNat, 19), (w.toNat, 16), (o.toNat, 0)])
  | .cinv a s w o => some (pack 0xB8002000 [(a.toNat, 22), (s.toNat, 19), (w.toNat, 16), (o.toNat, 0)])
  | .cpin a s w o => some (pack 0xB8003000 [(a.toNat, 22), (s.toNat, 19), (w.toNat, 16), (o.toNat, 0)])
  | .cunpin a s w o => some (pack 0xB8004000 [(a.toNat, 22), (s.toNat, 19), (w.toNat, 16), (o.toNat, 0)])
  | .fenceCore s => some (pack 0xB8008000 [(s.toNat, 19)])
  | .fenceTile s => some (pack 0xB8009000 [(s.toNat, 19)])
  | .fenceDie s => some (pack 0xB800A000 [(s.toNat, 19)])
  | .fenceModule s => some (pack 0xB800B000 [(s.toNat, 19)])
  | .fenceDomain s => some (pack 0xB800C000 [(s.toNat, 19)])
  | .vld a s w t o => some (pack 0xBC000000 [(a.toNat, 22), (s.toNat, 19), (w.toNat, 16), (t.toNat, 12), (o.toNat, 4)])
  | .vst a s w t o => some (pack 0xBC000004 [(a.toNat, 22), (s.toNat, 19), (w.toNat, 16), (t.toNat, 12), (o.toNat, 4)])
  | .vstfe a s w t o => some (pack 0xBC000008 [(a.toNat, 22), (s.toNat, 19), (w.toNat, 16), (t.toNat, 12), (o.toNat, 4)])
  | .asopReduceAdd a s w o => some (pack 0xC0000000 [(a.toNat, 22), (s.toNat, 19), (w.toNat, 16), (o.toNat, 0)])
  | .asopReduceMax a s w o => some (pack 0xC0001000 [(a.toNat, 22), (s.toNat, 19), (w.toNat, 16), (o.toNat, 0)])
  | .asopAxpy a s w o => some (pack 0xC0002000 [(a.toNat, 22), (s.toNat, 19), (w.toNat, 16), (o.toNat, 0)])
  | .asopConvert a s w o => some (pack 0xC0003000 [(a.toNat, 22), (s.toNat, 19), (w.toNat, 16), (o.toNat, 0)])
  | .asopScale a s w o => some (pack 0xC0004000 [(a.toNat, 22), (s.toNat, 19), (w.toNat, 16), (o.toNat, 0)])
  | .asopGather a s w o => some (pack 0xC0005000 [(a.toNat, 22), (s.toNat, 19), (w.toNat, 16), (o.toNat, 0)])
  | .asopScatterAdd a s w o => some (pack 0xC0006000 [(a.toNat, 22), (s.toNat, 19), (w.toNat, 16), (o.toNat, 0)])
  | .asopSmerge a s w o => some (pack 0xC0007000 [(a.toNat, 22), (s.toNat, 19), (w.toNat, 16), (o.toNat, 0)])
  | .jcsub d a s => some (pack 0xC4000001 [(d.toNat, 20), (a.toNat, 14), (s.toNat, 5)])
  | .jcwait d a s => some (pack 0xC4000002 [(d.toNat, 20), (a.toNat, 14), (s.toNat, 5)])
  | .segopen d a b s => some (pack 0xC4000003 [(d.toNat, 20), (a.toNat, 14), (b.toNat, 8), (s.toNat, 5)])
  | .segput c a b s => some (pack 0xC4000004 [(c.toNat, 22), (a.toNat, 14), (b.toNat, 8), (s.toNat, 5)])
  | .segput2 c a b s => some (pack 0xC4100004 [(c.toNat, 22), (a.toNat, 14), (b.toNat, 8), (s.toNat, 5)])
  | .segputPfx c a b s => some (pack 0xC4200004 [(c.toNat, 22), (a.toNat, 14), (b.toNat, 8), (s.toNat, 5)])
  | .segclose d a c s => some (pack 0xC4000005 [(d.toNat, 20), (a.toNat, 14), (c.toNat, 8), (s.toNat, 5)])
  | .segcnt d a c s => some (pack 0xC4000006 [(d.toNat, 20), (a.toNat, 14), (c.toNat, 8), (s.toNat, 5)])
  | .ascfg d a b s => some (pack 0xC4000007 [(d.toNat, 20), (a.toNat, 14), (b.toNat, 8), (s.toNat, 5)])
  | .put r p s n => some (pack 0xC8000200 [(r.toNat, 20), (p.toNat, 16), (s.toNat, 13), (n.toNat, 3)])
  | .get r p s => some (pack 0xC8000400 [(r.toNat, 20), (p.toNat, 16), (s.toNat, 13)])
  | .offerPut r p s n => some (pack 0xC8000600 [(r.toNat, 20), (p.toNat, 16), (s.toNat, 13), (n.toNat, 3)])
  | .offerGet p s => some (pack 0xC8000800 [(p.toNat, 16), (s.toNat, 13)])
  | .poll r p s => some (pack 0xC8000A00 [(r.toNat, 20), (p.toNat, 16), (s.toNat, 13)])
  | .retract r p s => some (pack 0xC8000C00 [(r.toNat, 20), (p.toNat, 16), (s.toNat, 13)])
  | .conload r s => some (pack 0xC8000E00 [(r.toNat, 20), (s.toNat, 13)])
  | .condrop r s => some (pack 0xC8001000 [(r.toNat, 20), (s.toNat, 13)])
  | .constat r s => some (pack 0xC8001200 [(r.toNat, 20), (s.toNat, 13)])
  | .pbind r p s => some (pack 0xC8001400 [(r.toNat, 20), (p.toNat, 16), (s.toNat, 13)])
  | .pgsub d a s => some (pack 0xCC000001 [(d.toNat, 20), (a.toNat, 14), (s.toNat, 5)])
  | .pgunsub d a s => some (pack 0xCC000002 [(d.toNat, 20), (a.toNat, 14), (s.toNat, 5)])
  | .pgpass d a s => some (pack 0xCC000003 [(d.toNat, 20), (a.toNat, 14), (s.toNat, 5)])
  | .pgrecv d a s => some (pack 0xCC000004 [(d.toNat, 20), (a.toNat, 14), (s.toNat, 5)])
  | .pgrecvFree a s => some (pack 0xCC000104 [(a.toNat, 14), (s.toNat, 5)])
  | .mrgput a b s => some (pack 0xCC000005 [(a.toNat, 14), (b.toNat, 8), (s.toNat, 5)])
  | .mrgget d a b s => some (pack 0xCC000006 [(d.toNat, 20), (a.toNat, 14), (b.toNat, 8), (s.toNat, 5)])
  | .mrgcfg d a b s => some (pack 0xCC000007 [(d.toNat, 20), (a.toNat, 14), (b.toNat, 8), (s.toNat, 5)])
  | .sigdec d a b s => some (pack 0xD0000001 [(d.toNat, 20), (a.toNat, 14), (b.toNat, 8), (s.toNat, 5)])
  | .sigwait d a b s => some (pack 0xD0000002 [(d.toNat, 20), (a.toNat, 14), (b.toNat, 8), (s.toNat, 5)])
  | .dcinit d a b s => some (pack 0xD0000003 [(d.toNat, 20), (a.toNat, 14), (b.toNat, 8), (s.toNat, 5)])
  | .dcdec d a b s => some (pack 0xD0000004 [(d.toNat, 20), (a.toNat, 14), (b.toNat, 8), (s.toNat, 5)])
  | .rhopen d a b s => some (pack 0xD4000001 [(d.toNat, 20), (a.toNat, 14), (b.toNat, 8), (s.toNat, 5)])
  | .rhpri a b s => some (pack 0xD4000002 [(a.toNat, 14), (b.toNat, 8), (s.toNat, 5)])
  | .rhdemote a s => some (pack 0xD4000003 [(a.toNat, 14), (s.toNat, 5)])
  | .rhevict a s => some (pack 0xD4000004 [(a.toNat, 14), (s.toNat, 5)])
  | .rhclose a s => some (pack 0xD4000005 [(a.toNat, 14), (s.toNat, 5)])
  | .bre c d => some (pack 0xE0000000 [(c.toNat, 20), (d.toNat, 0)])
  | .beqz c d => some (pack 0xE4000000 [(c.toNat, 20), (d.toNat, 0)])
  | .bnez c d => some (pack 0xE8000000 [(c.toNat, 20), (d.toNat, 0)])
  | .bra a d => some (pack 0xEC000000 [(a.toNat, 20), (d.toNat, 0)])
  | .jmp d => some (pack 0xED000000 [(d.toNat, 0)])
  | .call d => some (pack 0xEE000000 [(d.toNat, 0)])
  | .loop a d => some (pack 0xEF000000 [(a.toNat, 20), (d.toNat, 0)])
  | .jmpi a => some (pack 0xF0000100 [(a.toNat, 14)])
  | .follow k => some (pack 0xF0000300 [(k.toNat, 0)])
  | .join d a => some (pack 0xF0000500 [(d.toNat, 20), (a.toNat, 14)])
  | .endc a => some (pack 0xF0000600 [(a.toNat, 14)])
  | .rets m d => some (pack 0xF0000700 [(m.toNat, 20), (d.toNat, 14)])
  | .rdsw d i => some (pack 0xF0000900 [(d.toNat, 20), (i.toNat, 0)])
  | .wrsw a i => some (pack 0xF0000A00 [(a.toNat, 14), (i.toNat, 0)])
  | .tnsub d a => some (pack 0xF0000B00 [(d.toNat, 20), (a.toNat, 14)])
  | .tndone d => some (pack 0xF0000C00 [(d.toNat, 20)])
  | .amsg a => some (pack 0xF0000D00 [(a.toNat, 14)])
  | .inbx d => some (pack 0xF0000E00 [(d.toNat, 20)])
  | .inbxWait d => some (pack 0xF0000E01 [(d.toNat, 20)])
  | .fibsw a => some (pack 0xF0000F00 [(a.toNat, 14)])
  | .upret a => some (pack 0xF0001000 [(a.toNat, 14)])
  | .sbwait m => some (pack 0xF0001200 [(m.toNat, 0)])
  | .trap k => some (pack 0xF4000000 [(k.toNat, 0)])
  | .svc k => some (pack 0xF4000200 [(k.toNat, 0)])
  | .wrpriv a => some (pack 0xF4000300 [(a.toNat, 14)])
  | .xinvPage d a => some (pack 0xF4000400 [(d.toNat, 20), (a.toNat, 14)])
  | .xinvAsid a => some (pack 0xF4000401 [(a.toNat, 14)])
  | .xinvFrame a n => some (pack 0xF4000403 [(a.toNat, 14), (n.toNat, 2)])
  | .keysetRand d a => some (pack 0xF4000500 [(d.toNat, 20), (a.toNat, 14)])
  | .keysetLoad d a m => some (pack 0xF4000501 [(d.toNat, 20), (a.toNat, 14), (m.toNat, 2)])
  | .keysetRetire d a => some (pack 0xF4000502 [(d.toNat, 20), (a.toNat, 14)])
  | .pwrbOn b => some (pack 0xF4000600 [(b.toNat, 0)])
  | .pwrbRtn b => some (pack 0xF4000610 [(b.toNat, 0)])
  | .pwrbSave b => some (pack 0xF4000620 [(b.toNat, 0)])
  | .pwrbOff b => some (pack 0xF4000630 [(b.toNat, 0)])
  | .attest d a s => some (pack 0xF4000800 [(d.toNat, 20), (a.toNat, 14), (s.toNat, 0)])
  | .sparemap d a => some (pack 0xF4000900 [(d.toNat, 20), (a.toNat, 14)])
  | .start c d => some (pack 0xF8000000 [(c.toNat, 20), (d.toNat, 0)])
  | .hintPfx p => some (pack 0xFC000000 [(p.toNat, 0)])
  | .hintSched n => some (pack 0xFC400000 [(n.toNat, 0)])
  | .hintMod t n => some (pack 0xFC800000 [(t.toNat, 1), (n.toNat, 0)])
  | .hintPrio l => some (pack 0xFCC00000 [(l.toNat, 0)])
  | .qmovi _ _ => none
  | .qmov _ _ => none
  | .qadd _ _ => none
  | .qaddi _ _ => none
  | .qand _ _ => none
  | .qshl _ _ => none
  | .qshr _ _ => none
  | .qld _ _ _ _ => none
  | .qst _ _ _ _ => none
  | .qbeq _ _ _ _ => none
  | .qbne _ _ _ _ => none
  | .qbltn _ _ _ _ => none
  | .qjmp _ _ => none
  | .qlaunch _ => none
  | .qgraph _ => none
  | .qamsg _ _ => none
  | .qsigdec _ _ => none
  | .qsigrd _ _ => none
  | .qcyc _ => none
  | .qend _ => none
  | .nop => some (pack 0xF0000000 [])
  | .ret => some (pack 0xF0000200 [])
  | .leave => some (pack 0xF0000400 [])
  | .bar => some (pack 0xF0000800 [])
  | .barGroup => some (pack 0xF0000801 [])
  | .yield => some (pack 0xF0001100 [])
  | .rft => some (pack 0xF4000100 [])
  | .xinvAll => some (pack 0xF4000402 [])
  | .haltx => some (pack 0xF4000700 [])
  | .packetStart => none
  | .submission => none
  | .commitWrite => none
  | .firmwareRestart => none
  | .queueProgramLoad => none
  | .queueDisable => none
  | .startTrial => none
  | .trialTimeout => none
  | .clearStatus => none
  | .activeMessageBlockTarget => none
  | .hostApertureAccess => none
  | .registerWrite => none
  | .regionEntryWrite => none
  | .connectorKeyInstall => none
  | .poolSizeWrite => none
  | .faultLogRead => none
  | .moduleReset => none
  | .powerSample => none
  | .thermalEvent => none
  | .thermalStop => none
  | .gangPlacement => none
  | .strideQuantum => none
  | .balancerTick => none
  | .gangStop => none
  | .gangResume => none
  | .gangComplete => none
  | .successorStart => none
  | .successorOverlapStoresDone => none
  | .coreFailure => none
  | .controlCoreFailover => none
  | .hbmRowRemap => none
  | .bexuzLaneFailure => none
  | .keystoneFailure => none
  | .decision => none
  | .offerMsg => none
  | .retractMessage => none
  | .bindMsg => none
  | .unbindMsg => none
  | .loadConn => none
  | .connectorVerified => none
  | .dropMsg => none
  | .fireMsg => none
  | .rack => none
  | .rlate => none
  | .back => none
  | .bref => none
  | .lack => none
  | .dack => none
  | .failover => none
  | .inboxArrival => none
  | .activeMessageStart => none
  | .mcmdArrival => none
  | .homeRequest => none
  | .llcFill => none
  | .waitaTimeout => none
  | .sigwaitRepoll => none
  | .pageWalk => none
  | .monitorWindow => none
  | .loadReturn => none
  | .storeAck => none
  | .granuleFill => none
  | .bankWake => none
  | .macroOpStep => none
  | .permitGrant => none
  | .emulationComplete => none
  | .stallTimeout => none
  | .asyncReport => none
  | .jobDispatch => none
  | .jobComplete => none
  | .operatorComplete => none
  | .nodeDispatch => none
  | .nodeComplete => none
  | .passRoundStart => none
  | .pageFetch => none
  | .pageDelivery => none
  | .passEnd => none
  | .attestReportDone => none
  | .illegalInstructionWord => none
  | .rampLimiterFill => none

/-- The instruction word of an instruction of the core (R67 to R74). -/
def encode (i : Instr) : Option Word := (encodeNat i).map (BitVec.ofNat 32)

/-- The 64-bit word of a queue-program operation (R386); `none` for anything else. -/
def encodeQueueNat : Instr → Option Nat
  | .add _ _ _ => none
  | .sub _ _ _ => none
  | .mul _ _ _ => none
  | .mulh _ _ _ => none
  | .mulhn _ _ _ => none
  | .divs _ _ _ => none
  | .divn _ _ _ => none
  | .rems _ _ _ => none
  | .remn _ _ _ => none
  | .andd _ _ _ => none
  | .orr _ _ _ => none
  | .xorr _ _ _ => none
  | .andn _ _ _ => none
  | .shl _ _ _ => none
  | .shr _ _ _ => none
  | .sha _ _ _ => none
  | .rot _ _ _ => none
  | .clz _ _ => none
  | .popc _ _ => none
  | .mins _ _ _ => none
  | .maxs _ _ _ => none
  | .minn _ _ _ => none
  | .maxn _ _ _ => none
  | .cmpeq _ _ _ => none
  | .cmplt _ _ _ => none
  | .cmpltn _ _ _ => none
  | .cmple _ _ _ => none
  | .sel _ _ _ => none
  | .addSats _ _ _ => none
  | .addSatn _ _ _ => none
  | .subSats _ _ _ => none
  | .subSatn _ _ _ => none
  | .mulSats _ _ _ => none
  | .mulSatn _ _ _ => none
  | .addi _ _ _ => none
  | .andi _ _ _ => none
  | .ori _ _ _ => none
  | .xori _ _ _ => none
  | .shli _ _ _ => none
  | .shri _ _ _ => none
  | .shai _ _ _ => none
  | .movi _ _ => none
  | .ext _ _ _ _ => none
  | .extS _ _ _ _ => none
  | .ins _ _ _ _ => none
  | .fadd _ _ _ _ => none
  | .fsub _ _ _ _ => none
  | .fmul _ _ _ _ => none
  | .ffma _ _ _ _ => none
  | .fmin _ _ _ _ => none
  | .fmax _ _ _ _ => none
  | .fcmp _ _ _ _ => none
  | .fcvt _ _ _ _ _ _ => none
  | .fabs _ _ _ => none
  | .fneg _ _ _ => none
  | .rdcyc _ => none
  | .rdperf _ _ => none
  | .vadd _ _ _ _ _ => none
  | .vsub _ _ _ _ _ => none
  | .vmul _ _ _ _ _ => none
  | .vfma _ _ _ _ => none
  | .vmax _ _ _ _ => none
  | .vmin _ _ _ _ => none
  | .vexp2 _ _ _ => none
  | .vrcp _ _ _ => none
  | .vrsq _ _ _ => none
  | .vredAdd _ _ _ => none
  | .vredMax _ _ _ => none
  | .vredMin _ _ _ => none
  | .vcvt _ _ _ _ _ _ => none
  | .vpack _ _ _ _ _ _ _ => none
  | .vunpk _ _ _ _ _ _ => none
  | .vsel _ _ _ _ _ => none
  | .vshf _ _ _ _ => none
  | .vbcast _ _ _ => none
  | .vcmp _ _ _ _ _ => none
  | .mms _ _ _ _ _ _ => none
  | .mmss _ _ _ _ _ _ => none
  | .ldstat _ _ => none
  | .tidset _ => none
  | .tidget _ _ _ => none
  | .swapstat _ => none
  | .accz _ _ _ => none
  | .acczMark _ => none
  | .accld _ _ _ => none
  | .accst _ _ _ => none
  | .accadd _ _ _ => none
  | .scalek _ _ _ => none
  | .scalew _ => none
  | .mcmd _ _ _ => none
  | .mcap _ _ => none
  | .tcvt _ _ _ _ _ => none
  | .tcopy _ _ _ _ => none
  | .permit _ _ => none
  | .permrel _ _ => none
  | .aadd _ _ _ => none
  | .asub _ _ _ => none
  | .amov _ _ => none
  | .acmpEq _ _ _ => none
  | .acmpNe _ _ _ => none
  | .acmpLt _ _ _ => none
  | .acmpLe _ _ _ => none
  | .amask _ _ _ => none
  | .aidx _ _ _ _ => none
  | .aaddi _ _ _ => none
  | .ld _ _ _ _ _ _ => none
  | .st _ _ _ _ _ => none
  | .ldacq _ _ _ _ _ _ => none
  | .strel _ _ _ _ _ _ => none
  | .ldc _ _ _ _ _ _ => none
  | .ldi _ _ _ _ _ _ => none
  | .ldfe _ _ _ _ _ _ => none
  | .stfe _ _ _ _ _ _ => none
  | .la _ _ _ _ _ => none
  | .atadd _ _ _ _ _ => none
  | .atmin _ _ _ _ _ => none
  | .atmax _ _ _ _ _ => none
  | .atand _ _ _ _ _ => none
  | .ator _ _ _ _ _ => none
  | .atxor _ _ _ _ _ => none
  | .atswp _ _ _ _ _ => none
  | .atcas _ _ _ _ _ => none
  | .waita _ _ _ _ _ => none
  | .pref _ _ _ _ => none
  | .cflush _ _ _ _ => none
  | .cinv _ _ _ _ => none
  | .cpin _ _ _ _ => none
  | .cunpin _ _ _ _ => none
  | .fenceCore _ => none
  | .fenceTile _ => none
  | .fenceDie _ => none
  | .fenceModule _ => none
  | .fenceDomain _ => none
  | .vld _ _ _ _ _ => none
  | .vst _ _ _ _ _ => none
  | .vstfe _ _ _ _ _ => none
  | .asopReduceAdd _ _ _ _ => none
  | .asopReduceMax _ _ _ _ => none
  | .asopAxpy _ _ _ _ => none
  | .asopConvert _ _ _ _ => none
  | .asopScale _ _ _ _ => none
  | .asopGather _ _ _ _ => none
  | .asopScatterAdd _ _ _ _ => none
  | .asopSmerge _ _ _ _ => none
  | .jcsub _ _ _ => none
  | .jcwait _ _ _ => none
  | .segopen _ _ _ _ => none
  | .segput _ _ _ _ => none
  | .segput2 _ _ _ _ => none
  | .segputPfx _ _ _ _ => none
  | .segclose _ _ _ _ => none
  | .segcnt _ _ _ _ => none
  | .ascfg _ _ _ _ => none
  | .put _ _ _ _ => none
  | .get _ _ _ => none
  | .offerPut _ _ _ _ => none
  | .offerGet _ _ => none
  | .poll _ _ _ => none
  | .retract _ _ _ => none
  | .conload _ _ => none
  | .condrop _ _ => none
  | .constat _ _ => none
  | .pbind _ _ _ => none
  | .pgsub _ _ _ => none
  | .pgunsub _ _ _ => none
  | .pgpass _ _ _ => none
  | .pgrecv _ _ _ => none
  | .pgrecvFree _ _ => none
  | .mrgput _ _ _ => none
  | .mrgget _ _ _ _ => none
  | .mrgcfg _ _ _ _ => none
  | .sigdec _ _ _ _ => none
  | .sigwait _ _ _ _ => none
  | .dcinit _ _ _ _ => none
  | .dcdec _ _ _ _ => none
  | .rhopen _ _ _ _ => none
  | .rhpri _ _ _ => none
  | .rhdemote _ _ => none
  | .rhevict _ _ => none
  | .rhclose _ _ => none
  | .bre _ _ => none
  | .beqz _ _ => none
  | .bnez _ _ => none
  | .bra _ _ => none
  | .jmp _ => none
  | .call _ => none
  | .loop _ _ => none
  | .jmpi _ => none
  | .follow _ => none
  | .join _ _ => none
  | .endc _ => none
  | .rets _ _ => none
  | .rdsw _ _ => none
  | .wrsw _ _ => none
  | .tnsub _ _ => none
  | .tndone _ => none
  | .amsg _ => none
  | .inbx _ => none
  | .inbxWait _ => none
  | .fibsw _ => none
  | .upret _ => none
  | .sbwait _ => none
  | .trap _ => none
  | .svc _ => none
  | .wrpriv _ => none
  | .xinvPage _ _ => none
  | .xinvAsid _ => none
  | .xinvFrame _ _ => none
  | .keysetRand _ _ => none
  | .keysetLoad _ _ _ => none
  | .keysetRetire _ _ => none
  | .pwrbOn _ => none
  | .pwrbRtn _ => none
  | .pwrbSave _ => none
  | .pwrbOff _ => none
  | .attest _ _ _ => none
  | .sparemap _ _ => none
  | .start _ _ => none
  | .hintPfx _ => none
  | .hintSched _ => none
  | .hintMod _ _ => none
  | .hintPrio _ => none
  | .qmovi d imm => some (pack 1 [(d.toNat, 8), (imm.toNat, 16)])
  | .qmov d s => some (pack 2 [(d.toNat, 8), (s.toNat, 12)])
  | .qadd d s => some (pack 3 [(d.toNat, 8), (s.toNat, 12)])
  | .qaddi d imm => some (pack 4 [(d.toNat, 8), (imm.toNat, 16)])
  | .qand d s => some (pack 5 [(d.toNat, 8), (s.toNat, 12)])
  | .qshl d n => some (pack 6 [(d.toNat, 8), (n.toNat, 16)])
  | .qshr d n => some (pack 7 [(d.toNat, 8), (n.toNat, 16)])
  | .qld d s w off => some (pack 8 [(d.toNat, 8), (s.toNat, 12), (w.toNat, 32), (off.toNat, 16)])
  | .qst d s w off => some (pack 9 [(d.toNat, 8), (s.toNat, 12), (w.toNat, 32), (off.toNat, 16)])
  | .qbeq d s disp bound => some (pack 10 [(d.toNat, 8), (s.toNat, 12), (disp.toNat, 16), (bound.toNat, 32)])
  | .qbne d s disp bound => some (pack 11 [(d.toNat, 8), (s.toNat, 12), (disp.toNat, 16), (bound.toNat, 32)])
  | .qbltn d s disp bound => some (pack 12 [(d.toNat, 8), (s.toNat, 12), (disp.toNat, 16), (bound.toNat, 32)])
  | .qjmp disp bound => some (pack 13 [(disp.toNat, 16), (bound.toNat, 32)])
  | .qlaunch d => some (pack 14 [(d.toNat, 8)])
  | .qgraph d => some (pack 15 [(d.toNat, 8)])
  | .qamsg d s => some (pack 16 [(d.toNat, 8), (s.toNat, 12)])
  | .qsigdec d s => some (pack 17 [(d.toNat, 8), (s.toNat, 12)])
  | .qsigrd d s => some (pack 18 [(d.toNat, 8), (s.toNat, 12)])
  | .qcyc d => some (pack 19 [(d.toNat, 8)])
  | .qend d => some (pack 20 [(d.toNat, 8)])
  | .nop => none
  | .ret => none
  | .leave => none
  | .bar => none
  | .barGroup => none
  | .yield => none
  | .rft => none
  | .xinvAll => none
  | .haltx => none
  | .packetStart => none
  | .submission => none
  | .commitWrite => none
  | .firmwareRestart => none
  | .queueProgramLoad => none
  | .queueDisable => none
  | .startTrial => none
  | .trialTimeout => none
  | .clearStatus => none
  | .activeMessageBlockTarget => none
  | .hostApertureAccess => none
  | .registerWrite => none
  | .regionEntryWrite => none
  | .connectorKeyInstall => none
  | .poolSizeWrite => none
  | .faultLogRead => none
  | .moduleReset => none
  | .powerSample => none
  | .thermalEvent => none
  | .thermalStop => none
  | .gangPlacement => none
  | .strideQuantum => none
  | .balancerTick => none
  | .gangStop => none
  | .gangResume => none
  | .gangComplete => none
  | .successorStart => none
  | .successorOverlapStoresDone => none
  | .coreFailure => none
  | .controlCoreFailover => none
  | .hbmRowRemap => none
  | .bexuzLaneFailure => none
  | .keystoneFailure => none
  | .decision => none
  | .offerMsg => none
  | .retractMessage => none
  | .bindMsg => none
  | .unbindMsg => none
  | .loadConn => none
  | .connectorVerified => none
  | .dropMsg => none
  | .fireMsg => none
  | .rack => none
  | .rlate => none
  | .back => none
  | .bref => none
  | .lack => none
  | .dack => none
  | .failover => none
  | .inboxArrival => none
  | .activeMessageStart => none
  | .mcmdArrival => none
  | .homeRequest => none
  | .llcFill => none
  | .waitaTimeout => none
  | .sigwaitRepoll => none
  | .pageWalk => none
  | .monitorWindow => none
  | .loadReturn => none
  | .storeAck => none
  | .granuleFill => none
  | .bankWake => none
  | .macroOpStep => none
  | .permitGrant => none
  | .emulationComplete => none
  | .stallTimeout => none
  | .asyncReport => none
  | .jobDispatch => none
  | .jobComplete => none
  | .operatorComplete => none
  | .nodeDispatch => none
  | .nodeComplete => none
  | .passRoundStart => none
  | .pageFetch => none
  | .pageDelivery => none
  | .passEnd => none
  | .attestReportDone => none
  | .illegalInstructionWord => none
  | .rampLimiterFill => none

/-- The word of a queue-program operation (R386). -/
def encodeQueue (i : Instr) : Option Dword := (encodeQueueNat i).map (BitVec.ofNat 64)

end Sys2Proof
end

