-- ==== Sys2Proof/Config.lean ====
section
/-! DEFINITION. What an implementation fixes and what the manual leaves open. An opaque constant is a FREE VALUE: nothing
constrains it and no proof can see what it is; a statement about a step that uses one holds for every value. -/

namespace Sys2Proof.Config

/-- A fresh dword that the manual leaves open, by the machine's count of free values drawn (log 5, 10, 11). -/
opaque freeDword : Nat → BitVec 64

/-- A fresh byte that the manual leaves open (log 7, 11). -/
opaque freeByte : Nat → BitVec 8

/-- Core cycles that pass between two readings of the cycle count (R341; log 5). -/
opaque elapsed : Nat → Nat

/-- A choice among `n` candidates that the manual does not order: the caller takes it modulo the number of candidates
(pseudo-LRU victims R157, R163; replacement of the instruction and constant caches; log 10). -/
opaque pick : Nat → Nat

/-- The 32-byte capability key that the module's random source draws as draw `n` (R287; log 13). -/
opaque capKey : Nat → BitVec 256

/-- The fresh key material that KEYSET.RAND draws as draw `n`: a data key and a tweak key (R301; log 13). -/
opaque randomKey : Nat → BitVec 512

/-- What AES-256-XTS under key material `k'` gives, as the data of sector `sector`, for the ciphertext of `data` under other
material `k` (R175; log 7). -/
opaque xtsOther : (k k' : BitVec 512) → (sector : Nat) → (data : BitVec 256) → BitVec 256

/-- Whether an SLH-DSA-SHAKE-256s signature verifies over a message under a public key (R253, FIPS 205; log 8). -/
opaque slhDsaVerifies : (key : BitVec 512) → (message signature : List (BitVec 8)) → Bool

/-- The signature of the device identity key over a message: 29,792 bytes are taken (R397; log 8). -/
opaque identitySignature : (message : List (BitVec 8)) → Nat → BitVec 8

/-- The 48 bytes of the SHAKE256 of the identity public key (Table 17-7; log 14). -/
opaque identityKeyHash : Nat → BitVec 8

/-- The SHAKE256 measurement of the firmware image that bring-up makes into M0 (R396, R400; log 14). -/
opaque firmwareMeasurement : BitVec 512

/-- PA of save block `b`: 128 KiB each, from 1 GiB of stack 0 (Table 16-3; DESIGN CHOICE, log 18). Blocks 0 to 4,095 are those that
firmware sets for the cores at bring-up. -/
def saveBlock (b : Nat) : Nat := 0x4000_0000 + b * 0x2_0000

/-- The save block that goes with image `n`: it keeps the records of a rank whose core serves another gang (DESIGN CHOICE, log 18). -/
def imageBlock (n : Nat) : Nat := 4096 + n

/-- PA of the first scratchpad image, and how many images the pool holds: 264 KiB each, from 2 GiB of stack 0 (R375; DESIGN
CHOICE, log 18). -/
def imageBase : Nat := 0x8000_0000
def imageCount : Nat := 4096

/-- The module's own id in PA[57:49] (R153; DESIGN CHOICE, log 3). -/
def moduleId : Nat := 0

/-- The region attribute entry of region 0xD: v, 4 KiB pages, LLC only, no guard, no aliasing, hd 4, dom 0 (R150), with the
geometry and root that firmware loads: 5 levels of 13, 13, 13, 13 and 12 bits, root at PA 0 (DESIGN CHOICE, log 3). -/
def regionD : BitVec 128 :=
  BitVec.ofNat 128 (1 + 5 * 2 ^ 3 + (13 + 13 * 2 ^ 4 + 13 * 2 ^ 8 + 13 * 2 ^ 12 + 12 * 2 ^ 16) * 2 ^ 6 + 1 * 2 ^ 26 + 4 * 2 ^ 30)

end Sys2Proof.Config
end

