-- ==== Sys2Proof/Machine/State.lean ====
section
/-! DEFINITION. The state of a GN940 module as plain data: what spec/ gives the machine, kind by kind, and the few fields of
the model's own (the agenda, the ring, the counters of free values and of accesses), each said in its docstring. -/

namespace Sys2Proof.Machine

/-- Why the machine stops with a fault. -/
inductive Fault where
  /-- Raised by `step` once the module has stopped at 110 °C (R399), while neither a module reset nor a read of a register by the host is
  due: nothing else runs any more. Safe: the manual describes no other way on. -/
  | moduleStopped
  deriving DecidableEq, Repr

/-- Why an instruction has no meaning. -/
inductive Refusal where
  /-- An instruction that the model does not give a meaning yet, by its mnemonic. Safe. -/
  | notModelled (mnemonic : String)
  deriving DecidableEq, Repr

/-! ## Contexts -/

/-- The two streams of a context (R67). -/
inductive Stream where
  | acc | exe
  deriving DecidableEq, Repr

/-- A control transfer that a stream has still to carry out (R76 to R78). `outcome` is `none` until the stream has the
outcome: the stream that does not evaluate the condition pops it when it redirects (R112). -/
structure Branch where
  addr    : Dword
  target  : Dword
  outcome : Option Bool
  /-- the target comes with the outcome, as the access stream's copy of JMPI has it -/
  indirect : Bool := false
  deriving DecidableEq, Repr

/-- Where a stream stands with respect to a branch (R78, R112): in text order; at the delay slot of a branch; or past the slot,
about to redirect. -/
inductive Ctl where
  | seq
  | slot (b : Branch)
  | redirect (b : Branch)
  deriving DecidableEq, Repr

/-- A HINT word that applies to the stream's next word (Table 4-15). -/
inductive Hint where
  | none
  | pfx (payload : BitVec 22)
  | sched (n : BitVec 8)
  | mod (nt : Bool) (tmo : BitVec 5)
  | prio (level : BitVec 3)
  deriving DecidableEq, Repr

/-- One stream of a context: its program counter (`pca` or `pce`, R99) and, as the model's own record of R76 to R83, the number
of words of program text that it has passed (`pos`), its pending control transfer and hint, and whether its last turn was a
stall. -/
structure StreamState where
  pc   : Dword := 0
  pos  : Nat := 0
  ctl  : Ctl := .seq
  hint : Hint := .none
  blk  : Bool := false
  deriving DecidableEq, Repr

/-- A load-data queue position: reserved (`val = none`) or filled (R228). `pos` is the text position of the instruction that
reserved it and `id` its access. -/
structure LdqItem where
  pos : Nat
  id  : Nat
  val : Option Dword
  deriving DecidableEq, Repr

/-- A store-data queue item (R229) with the text position of its writer. -/
structure SdqItem where
  pos : Nat
  val : Dword
  deriving DecidableEq, Repr

/-- An item of the execute-to-access branch-outcome queue (Table 10-1): taken, and for JMPI the target. -/
structure Outcome where
  taken  : Bool
  target : Dword
  deriving DecidableEq, Repr

/-- What an outstanding instruction is: an access of the access stream (R181), an atomic (R197), a store that has been sent (R353), a
full/empty access (R195), a matrix macro-op (R126), an operator or command that completes with its work (Table 8-1, R144), or an
instruction that completed at issue while its slot waits for a job, a pass, an offer or a load (R240, R265, R267, R308). -/
inductive PendKind where
  | access | atomic | store | fullEmpty | macroOp | engine | token
  deriving DecidableEq, Repr

/-- An instruction that has issued and not completed: its name, text position, slot (0 for none), kind, and whether later
access-stream accesses wait for it (R190, R200, R221). `dest` is the register that it still writes (R196). -/
structure Pend where
  id   : Nat
  pos  : Nat
  ss   : BitVec 3
  kind : PendKind
  hold : Bool
  dest : ReqDest := .none
  deriving DecidableEq, Repr

/-- An access that has issued and is not sent yet: a STREL until every earlier access of its context has completed (R191), or an
access to a line to which an earlier one is held so (R183). -/
structure Held where
  req     : Req
  release : Bool
  deriving DecidableEq, Repr

/-- A withdrawn LDFE or STFE.CLEAR (R374). `ldq` is its load-data queue position counted from the oldest. -/
structure Replay where
  va   : VA
  ldq  : Nat
  kind : BitVec 2
  sz   : BitVec 2
  data : Dword
  id   : Nat
  deriving DecidableEq, Repr

/-- What a trap interrupted beyond the record of R366 (the model's own record, log 12): for the pair of program
counters that it left in a workspace area, the text positions of both streams, the words the leading stream had passed, and where each stream
stood with respect to a branch. -/
structure SavedText where
  pca    : Dword
  pce    : Dword
  area   : Nat
  accPos : Nat
  exePos : Nat
  ahead  : List (Nat × Instr)
  loose  : Bool
  accCtl : Ctl
  exeCtl : Ctl
  deriving DecidableEq, Repr

/-- What an instruction that re-executes until its wait ends has already done (R264, R330, R344, R378): the name it sent its
request under and, once it has come, the value. -/
structure Waiting where
  id  : Nat
  val : Option Dword
  deriving DecidableEq, Repr

/-- The state of one context (R17, Table 5-5, Table 10-1). `live` holds for a context that owns its program counters (R17). -/
structure Ctx where
  live   : Bool := false
  acc    : StreamState := {}
  exe    : StreamState := {}
  ahead  : List (Nat × Instr) := []
  saved  : List SavedText := []
  ldq    : List LdqItem := []
  sdq    : List SdqItem := []
  oqE    : List Outcome := []
  oqA    : List Bool := []
  o      : Table Dword := []
  y0     : Dword := 0
  y1     : Dword := 0
  y2     : Dword := 0
  y3     : Dword := 0
  wp     : Dword := 0
  tb     : Dword := 0
  uh     : Dword := 0
  ds     : Dword := 0
  gid    : Dword := 0
  rank   : Dword := 0
  fsn    : Dword := 0
  num    : BitVec 4 := 0
  tc     : BitVec 8 := 0
  chi    : BitVec 16 := 0
  dev    : Bool := false
  ue     : Bool := false
  fol    : Bool := false
  ldr    : Bool := false
  err    : BitVec 7 := 0
  cause  : BitVec 28 := 0
  pend   : List Pend := []
  rsA    : List Dword := []
  rsE    : List Dword := []
  tids   : Table (BitVec 256) := []
  held   : Nat := 0
  accIssue   : Dword := 0
  exeIssue   : Dword := 0
  granFill   : Dword := 0
  bankWake   : Dword := 0
  permitWait : Dword := 0
  queueStall : Dword := 0
  stallReport  : Bool := false
  poisonReport : Option (BitVec 58) := none
  replay : List Replay := []
  /-- accesses that have issued and are not sent yet, in text order (R191) -/
  deferred : List Held := []
  wait   : Option Waiting := none
  /-- the barrier at which the control context waits: 1 the gang's, 2 its group's; 0 none (R351) -/
  atBar  : Nat := 0
  /-- the rejoin point at which the context waits at FOLLOW (R114) -/
  atFollow : Option (BitVec 8) := none
  /-- the context is inside a PWRB or a RETRACT, where gang-stop does not halt it (R95, R271, R373) -/
  within : Bool := false
  /-- the control context has issued a RETS, which waits in its first step (R353, R357) -/
  retiring : Bool := false
  /-- both streams went on at different program counters of text whose words between them the model has not counted (log 12) -/
  loose  : Bool := false
  /-- a matrix operation of this context is being emulated (R379) -/
  emulating : Bool := false
  /-- permit units that the context takes back before it issues again (R340) -/
  owed   : Nat := 0
  /-- the return stacks of both streams that areas the context left hold, by area (R378) -/
  areaStacks : Table (List Dword × List Dword) := []
  deriving DecidableEq, Repr

/-! ## Cores -/

/-- Granule states (Table 5-2). -/
inductive Gran where
  | present (dirty : Bool)
  | absent
  | absentZero
  | dead
  deriving DecidableEq, Repr

/-- Bank power states (Table 5-3). -/
inductive BankPower where
  | on | retention | off
  deriving DecidableEq, Repr

/-- A stationary plane: its elements P[k, j] at key 32 k + j as the f32 encoding of their exact values (R119, R121), in an f64
tile as binary64 (log 23), and the fields of its tag (Table 6-2). -/
structure Plane where
  el    : Table (BitVec 64) := []
  tid   : BitVec 6 := 0
  fmt   : BitVec 4 := 0
  sc    : Bool := false
  ld    : Bool := false
  scale : BitVec 256 := 0
  deriving DecidableEq, Repr

/-- The reply route of an MCMD-delivered macro-op (R125, R145). -/
structure Reply where
  core : Nat
  ctx  : Nat
  id   : Nat
  deriving DecidableEq, Repr

/-- A slice translation (R168): the leaf of a virtual page. -/
structure Trans where
  asid   : BitVec 12
  region : BitVec 4
  vpn    : Nat
  leaf   : Dword
  deriving DecidableEq, Repr

/-- A macro-op of the sequencer queue (R122): its word, the context it acts for, its name among that context's outstanding
instructions, the tensor entries it names, the permit it holds, the next step, whether firmware emulates it (R379), and the pages that it has probed, which stay mapped until it
completes (R124). -/
structure MacroOp where
  word   : Instr
  ctx    : Nat
  id     : Nat
  entA   : BitVec 256
  entB   : BitVec 256
  permit : Nat
  own    : Bool
  step   : Nat
  reply  : Option Reply
  emu    : Bool
  asid   : BitVec 12
  /-- halted by gang-stop: it takes its permit again before its next step (R125) -/
  owed   : Bool := false
  pages  : List Trans := []
  deriving DecidableEq, Repr

/-- The offer of a port slot (Table 11-1, R268). -/
inductive OfferState where
  | none | pending | fired | retracting | dropped
  deriving DecidableEq, Repr

/-- A port slot (Table 11-1). `token` is the completion of an OFFER form (R265); `ans` the answer of a retraction or binding. -/
structure PortSlot where
  bound  : Bool := false
  conn   : BitVec 12 := 0
  port   : BitVec 6 := 0
  get    : Bool := false
  wide   : Bool := false
  offer  : OfferState := .none
  blk    : Bool := false
  serial : BitVec 8 := 0
  parcel : List Byte := []
  token  : Option Reply := none
  ans    : Option Nat := none
  /-- the context whose PUT or GET waits on the offer now (the model's own) -/
  owner  : Option Nat := none
  /-- the context whose RETRACT or PBIND waits for `ans` (the model's own) -/
  asker  : Option Nat := none
  /-- the register that the waiting PBIND names and the binding word that it read there (the model's own) -/
  took   : BitVec 6 × Dword := (0, 0)
  /-- the FIRE of an offer that is being retracted has come: the retraction ends at its RLATE (R259) -/
  fireIn : Bool := false
  /-- the queue item that a PUT took for its parcel: it goes back if the PUT traps without effect (R270) -/
  src    : Option Dword := none
  deriving DecidableEq, Repr

/-- A line of the L1 data cache (R157): VA[79:7], address space, key id, sector valid bits, invariant mark (R188), data, and the line
of the home slice of which it is a copy (R159). -/
structure L1Line where
  line  : Nat
  asid  : BitVec 12
  key   : BitVec 12
  valid : BitVec 4
  inv   : Bool
  data  : BitVec 1024
  home  : LineTag
  deriving DecidableEq, Repr

/-- A line of the constant or of the instruction cache (R160, R161), with the sectors that it holds. -/
structure CodeLine where
  line : Nat
  asid : BitVec 12
  key  : BitVec 12
  data : BitVec 1024
  valid : BitVec 4 := 15
  deriving DecidableEq, Repr

/-- How a core has retired from its gang (R352, R353). -/
inductive Retired where
  | no
  | byEnd
  | byRets (record mask : Dword)
  deriving DecidableEq, Repr

/-- One core (R14). Context 0 is the control context. `gid` is 0 while no gang runs on the core (R349). -/
structure Core where
  ctxs    : Table Ctx := []
  gran    : Table Gran := []
  bank    : Table BankPower := []
  full    : List Nat := []
  o7      : Dword := 0
  o7full  : Bool := false
  active  : Plane := {}
  shadow  : Plane := {}
  cacc    : Table (BitVec 32) := []
  mode    : Table (BitVec 2) := []
  queue   : List MacroOp := []
  owner   : Option Nat := none
  /-- who waits for the sequencer, in the order in which they began to: contexts, and 255 for each matrix command of the inbox -/
  ownWait : List Nat := []
  /-- the contexts that wait at SCALEW, in issue order (R143) -/
  scaleWait : List Nat := []
  slots   : Table PortSlot := []
  inbox   : List InboxEntry := []
  l1      : List L1Line := []
  cc      : List CodeLine := []
  ic      : List CodeLine := []
  feWait  : List Req := []
  exits   : Table Dword := []
  hlp     : Nat := 0
  /-- workspace areas reserved at launch: entry h is the area of helper h, entry 0 the control area (R295) -/
  areas   : Table Nat := []
  gid     : BitVec 32 := 0
  asid    : BitVec 12 := 0
  retired : Retired := .no
  tnDone  : Bool := false
  /-- the first name of an access after the core's TNDONE or retirement, whichever came first (R359) -/
  doneMark : Option Nat := none
  enrolled : Bool := false
  follower : Bool := false
  /-- the leader's record of control transfers since the group formed: text position and next address (R115) -/
  trail   : List (Nat × Dword) := []
  failed  : Bool := false
  fenced  : Bool := false
  l1Hit   : Dword := 0
  l1Miss  : Dword := 0
  deriving DecidableEq, Repr

/-! ## Slices, Ashlar units, Keystones -/

/-- An LLC line (R159, R162, R173, R202, R204): its tag, permissions of its translation, the physical line behind it, replica
bit, sector bits, presence vector, replica vector, gangs that pin it, handle and priority. -/
structure Line where
  tag      : LineTag
  r        : Bool
  w        : Bool
  x        : Bool
  dev      : Bool
  pa       : Nat
  replica  : Bool
  valid    : BitVec 4
  dirty    : BitVec 4
  poison   : BitVec 4
  data     : BitVec 1024
  presence : BitVec 16
  replicas : BitVec 4
  pins     : List (BitVec 32)
  handle   : Option Nat
  pri      : BitVec 3
  deriving DecidableEq, Repr

/-- A miss-status register (R164, R165): the line, the translation, its merge list in link order, beginning with the request that
missed, and the names of the stores of that list that were performed into the fill buffer at their arrival. -/
structure Mshr where
  tag   : LineTag
  pa    : Nat
  perm  : BitVec 4
  merge : List Req
  acked : List Nat := []
  deriving DecidableEq, Repr

/-- A request that waits at a slice, with its line: parked there (R198, R199, R330), in the ingress queue, or held back (R164). -/
structure Waiter where
  line : LineTag
  req  : Req
  deriving DecidableEq, Repr

/-- An LLC slice. `held` is what the mesh holds back at its sources for a full ingress queue, in order of arrival (R164). -/
structure Slice where
  lines   : List Line := []
  mshrs   : List Mshr := []
  ingress : List Waiter := []
  held    : List Waiter := []
  stc     : List Trans := []
  waiters : List Waiter := []
  deriving DecidableEq, Repr

/-- A partial or a merge state: m, l, O (R314). -/
structure Partial where
  m : BitVec 32
  l : BitVec 32
  o : List (BitVec 32)
  deriving DecidableEq, Repr

/-- A merge-buffer entry (Table 13-5). `sub` names the first entry of the group that subscribes it. -/
structure MergeEntry where
  alloc  : Bool := false
  sub    : Bool := false
  dv     : BitVec 3 := 0
  n      : Nat := 0
  nextS  : Nat := 0
  empty  : Bool := true
  acc    : Partial := ⟨0xFF80_0000, 0, []⟩
  window : Table Partial := []
  deriving DecidableEq, Repr

/-- A segment channel (Table 14-6). `sum` is the running value of the current segment, `none` before its first element. -/
structure Chan where
  isOpen  : Bool := false
  owner   : Nat × Nat := (0, 0)
  opMax   : Bool := false
  rbase   : Nat := 0
  cnt     : BitVec 24 := 0
  kind    : BitVec 8 := 0
  pfx     : Bool := true
  nclosed : BitVec 24 := 0
  bad     : Bool := false
  sum     : Option (BitVec 32) := none
  deriving DecidableEq, Repr

/-- An Ashlar unit: its configuration word fields (Table 12-16), gang, merge entries by first block, segment channels, and the
number of operators running. -/
structure Ashlar where
  mst     : Nat := 256
  nseg    : Nat := 4
  gid     : BitVec 32 := 0
  entries : Table MergeEntry := []
  chans   : Table Chan := []
  deriving DecidableEq, Repr

/-- A firing rule (Table 11-6): ports, pops, pushes, guard terms, data map. -/
structure Rule where
  ports : BitVec 64
  pop   : BitVec 32
  push  : BitVec 32
  guard : BitVec 64
  dmap  : List (BitVec 16)
  deriving DecidableEq, Repr

/-- A predicate (Table 11-6). -/
structure Pred where
  kind : BitVec 2
  v1   : Dword
  v2   : Dword
  deriving DecidableEq, Repr

/-- A pending offer at the Keystone (R255): where its FIRE goes, its serial and parcel. -/
structure Offered where
  core   : Nat
  slot   : Nat
  serial : BitVec 8
  parcel : List Byte
  deriving DecidableEq, Repr

/-- A binding of a connector port (Table 11-14), with the gang whose slot it is (the model's own). -/
structure Binding where
  core : Nat
  slot : Nat
  wide : Bool
  gid  : BitVec 32
  deriving DecidableEq, Repr

/-- A FIFO of a connector: capacity, first cell, offset of the oldest parcel, parcels oldest first (R253, Table 11-14). -/
structure Fifo where
  cap   : Nat
  first : Nat
  head  : Nat
  items : List (List Byte)
  deriving DecidableEq, Repr

/-- A connector slot of a Keystone (R255, R267, R274). -/
structure Connector where
  ver      : Bool := false
  loaded   : Bool := false
  failover : Bool := false
  desc     : BitVec 512 := 0
  hi       : BitVec 16 := 0
  asid     : BitVec 12 := 0
  gid      : BitVec 32 := 0
  user     : Bool := false
  nports   : Nat := 0
  nputs    : Nat := 0
  rules    : List Rule := []
  preds    : List Pred := []
  fifos    : List Fifo := []
  offers   : Table Offered := []
  binds    : Table Binding := []
  ages     : Table Nat := []
  fires    : BitVec 32 := 0
  measure  : BitVec 512 := 0
  loader   : Reply := ⟨0, 0, 0⟩
  deriving DecidableEq, Repr

/-- A Keystone: 16 connector slots, and 16 reserve slots that serve failover (keys 16 to 31). -/
structure Keystone where
  conns  : Table Connector := []
  failed : Bool := false
  deriving DecidableEq, Repr

/-! ## Dies -/

/-- A waiting permit acquisition (R338): who waits and for how many units. `ctx` is the context, + 16 for its access stream, 255
for a matrix command, 1000 + its name for a job. -/
structure PermitReq where
  core : Nat
  ctx  : Nat
  n    : Nat
  granted : Bool
  deriving DecidableEq, Repr

/-- A job (R238 to R240, R290) or an operator (R206): its number, card, submitter and its privilege, state. `id` is the name of
the submitting instruction among its context's outstanding ones, or the job's own name. -/
structure Job where
  num     : BitVec 32
  card    : BitVec 512
  asid    : BitVec 12
  gid     : BitVec 32
  core    : Nat
  ctx     : Nat
  id      : Nat
  user    : Bool
  node    : Option (BitVec 32 × Nat)
  running : Bool
  permit  : Bool
  deriving DecidableEq, Repr

/-- A node of an admitted graph (Table 12-15, R331). -/
structure Node where
  record   : BitVec 512
  succs    : List Nat
  work     : List Byte
  count    : BitVec 16
  /-- order of becoming ready, when ready and not dispatched -/
  ready    : Option Nat
  dispatched : Bool
  done     : Bool
  gangId   : BitVec 32
  deriving DecidableEq, Repr

/-- An admitted task graph (R299). -/
structure Graph where
  num   : BitVec 32
  asid  : BitVec 12
  gid   : BitVec 32
  chi   : BitVec 16
  lat   : Bool
  queue : Nat
  nodes : Table Node
  /-- the gang that submitted it is gone: only dispatched nodes are left (R360) -/
  retired : Bool
  deriving DecidableEq, Repr

/-- A subscription (R305, R306, R309, R310). `due` is the round in which it is due, `k` the deliveries made. -/
structure Subscription where
  desc    : BitVec 512
  gid     : BitVec 32
  asid    : BitVec 12
  pages   : List (BitVec 16)
  due     : Nat
  k       : Nat
  faulted : Bool
  deriving DecidableEq, Repr

/-- A page in a staging buffer (R308): its index, image, and the subscriptions (by merge reference) it has still to reach. -/
structure Staged where
  page  : BitVec 16
  image : List Byte
  subs  : List (BitVec 25)
  deriving DecidableEq, Repr

/-- A layer pass (R307, R308). -/
structure Pass where
  num     : BitVec 16
  desc    : BitVec 512
  gid     : BitVec 32
  asid    : BitVec 12
  core    : Nat
  ctx     : Nat
  id      : Nat
  user    : Bool
  started : Bool
  round   : Nat
  /-- pages of the round still to be fetched, in order -/
  todo    : List (BitVec 16)
  /-- pages of the round's set, and those whose stream has begun -/
  pageSet : List (BitVec 16)
  begun   : List (BitVec 16)
  fetched : List (BitVec 16)
  failed  : Bool
  paused  : Bool
  /-- a fetch has faulted: no later round begins (R317) -/
  ended   : Bool := false
  /-- the round has still to take its set of pages (R308) -/
  between : Bool := false
  /-- the pages that a pass brings in staging buffers from the die that its gang left -/
  carried : List Staged := []
  deriving DecidableEq, Repr

/-- An attestation report that the control core is signing (R397), with the pages of its buffer. -/
structure AttestReq where
  core : Nat
  ctx  : Nat
  id   : Nat
  va   : VA
  asid : BitVec 12
  nonce : BitVec 512
  gid  : BitVec 32
  key  : BitVec 12
  pages : List Trans := []
  deriving DecidableEq, Repr

/-- A record of a page fault sent to the control core (R377). -/
structure FaultRecord where
  asid   : BitVec 12
  va     : VA
  kind   : BitVec 2
  notice : Dword
  deriving DecidableEq, Repr

/-- An emulation record sent to the control core (R379). -/
structure EmuRecord where
  core : Nat
  ctx  : Nat
  word : Instr
  entA : BitVec 256
  entB : BitVec 256
  deriving DecidableEq, Repr

/-- A block of the remote-access monitor (R172). -/
structure Monitored where
  asid   : BitVec 12
  block  : Nat
  reads  : Nat
  writes : Nat
  replicated : Bool
  deriving DecidableEq, Repr

/-- One die. -/
structure Die where
  poolSize : Nat := 2304
  /-- units that gangs hold: the pool's free units are what is left of its size (R338, R399) -/
  poolHeld : Nat := 0
  permitQ  : List PermitReq := []
  jobs     : List Job := []
  jobNext  : BitVec 32 := 0
  /-- operators of ASOP that run at the die's Ashlar units (R208) -/
  ops      : List Job := []
  jobDone  : List (BitVec 32 × Bool) := []
  graphs   : List Graph := []
  graphNext : BitVec 32 := 0
  faultLog : List (BitVec 128) := []
  dropped  : Nat := 0
  subs     : List Subscription := []
  passes   : List Pass := []
  passNext : BitVec 16 := 0
  staging  : List Staged := []
  handles  : Table (BitVec 256) := []
  monitor  : List Monitored := []
  attests  : List AttestReq := []
  pageFaults : List FaultRecord := []
  emuRecords : List EmuRecord := []
  /-- spares mapped in: spare number and the core it replaces; failed spares (R371) -/
  spares   : Table Nat := []
  badSpares : List Nat := []
  standby  : Bool := false
  hot      : Bool := false
  /-- the watchdog period is 2 to this power, in uncore cycles (R367) -/
  watchdog : Nat := 24
  /-- single-bit errors corrected (R368) -/
  corrected : Dword := 0
  reserved : List Nat := [0, 1, 8, 9]
  /-- the run queues of the die's cores: nodes by the die of their graph, its number and their index (R361) -/
  runQ     : Table (List (Nat × BitVec 32 × Nat)) := []
  pinBypass : Dword := 0
  rampFill : Dword := 0
  mrgStall : Dword := 0
  pgRefetch : Dword := 0
  llcMiss  : Dword := 0
  ingressWait : Dword := 0
  pageMode : Dword := 0
  wdReport : Dword := 0
  deriving DecidableEq, Repr

/-! ## The Plinth -/

/-- A staged effect of a packet (R244, R389). -/
inductive Effect where
  | launch (record : BitVec 2048)
  | refusedLaunch (sig : Dword)
  | graph (g : Graph)
  | amsg (target pc arg0 arg1 : Dword)
  | sigdec (va n : Dword)
  deriving DecidableEq, Repr

/-- A work queue (R241, R385). -/
structure WorkQueue where
  cfg    : BitVec 512 := 0
  acc    : Bool := false
  retry  : Bool := false
  dis    : Bool := true
  bad    : Bool := false
  seq    : BitVec 32 := 0
  prog   : List Dword := []
  budget : Nat := 0
  pass   : Nat := 0
  am0    : Dword := 0
  am1    : Dword := 0
  amPc   : Dword := 0
  amSent : Bool := false
  amRefused : Bool := false
  deriving DecidableEq, Repr

/-- A journal entry (R242). `again` holds for one that a firmware restart replays (R244), `dead` for one that stood in the journal when
its queue was disabled (R385). -/
structure JEntry where
  pkt   : Dword
  seq   : BitVec 32
  queue : Nat
  taken : Bool
  again : Bool := false
  dead  : Bool := false
  deriving DecidableEq, Repr

/-- An interpreter of queue programs (R386, R388). `ended` is the packet status once the packet has ended. -/
structure Interp where
  busy   : Bool := false
  queue  : Nat := 0
  seq    : BitVec 32 := 0
  pkt    : Dword := 0
  q      : Table Dword := []
  pc     : Nat := 0
  steps  : Nat := 0
  counts : Table Nat := []
  staged : List Effect := []
  ended  : Option (BitVec 16) := none
  deriving DecidableEq, Repr

/-- A launch that waits for placement (R20, R349): the record's bytes, where it lies, its queue's configuration. -/
structure Launch where
  record : BitVec 2048
  asid   : BitVec 12
  key    : BitVec 12
  tb     : Dword
  lat    : Bool
  queue  : Nat
  /-- the task node it dispatches: die, graph, node, arguments -/
  node   : Option (Nat × BitVec 32 × Nat)
  args   : List Dword
  deriving DecidableEq, Repr

/-- The successor record of a gang whose cores have all retired (R354): not read yet, not readable, or as it was read. -/
inductive Successor where
  | unread
  | unreadable
  | record (r : BitVec 2048)
  deriving DecidableEq, Repr

/-- A running or stopped gang (R20, R349, R352). `cores` in rank order. -/
structure Gang where
  gid     : BitVec 32
  launch  : Launch
  die     : Nat
  x       : Nat
  y       : Nat
  cores   : List Nat
  seqNo   : Nat
  held    : Table Nat
  stopped : Bool
  stopping : Bool
  faulted : Bool
  /-- the completion signals of predecessors whose stores are not all performed, each with the first name of an access that is not
  theirs (R354, R355) -/
  preds   : List (Dword × Nat)
  next    : Successor
  /-- it waits for any rectangle to resume on (R362, R369) -/
  waits   : Bool
  /-- its scratchpads lie in images, and its cores are free (R375) -/
  imaged  : Bool
  /-- what a stopped gang keeps beside the save blocks (R237, R375; the model's own part is log 40) -/
  savedCores : Table Core
  deriving DecidableEq, Repr

/-- The front end (R241 to R244, R385 to R396). -/
structure Plinth where
  queues  : Table WorkQueue := []
  journal : List JEntry := []
  nextSeq : BitVec 32 := 0
  commit  : BitVec 32 := 0xFFFF_FFFF
  interps : Table Interp := []
  waiting : List Launch := []
  gangs   : List Gang := []
  gidNext : BitVec 32 := 0
  gangSeq : Nat := 0
  cerr    : Bool := false
  trial   : Bool := false
  rev     : Bool := false
  hflt    : Bool := false
  lref    : Bool := false
  lq      : BitVec 8 := 0
  fseq    : BitVec 32 := 0
  fmin    : BitVec 32 := 0
  slotA   : BitVec 32 := 0
  slotB   : BitVec 32 := 0
  /-- M0 as a bring-up with the image of slot A, or of slot B, leaves it (R396, R400) -/
  measureA : BitVec 512 := Config.firmwareMeasurement
  measureB : BitVec 512 := 0
  /-- requests of the host that wait, in the order sent: a configuration block for a running packet, a message for room in its target's
  inbox, and what must come behind them (R392, R393) -/
  held    : List Msg := []
  sigCtl  : Dword := 0
  memCtl  : Dword := 0
  hostRead : Dword := 0
  connKeys : Table (BitVec 512) := []
  measures : Table (BitVec 512) := []
  winErr  : Bool := false
  stride  : Bool := false
  chosen  : Option Nat := none
  /-- the queue served last in each class: bulk, latency (R363) -/
  lastBulk : Nat := 255
  lastLat : Nat := 255
  errorLog : List Nat := []
  fwRead  : BitVec 128 := 0
  /-- the images in use: gang and rank, by number (R375) -/
  imgUsed : Table (BitVec 32 × Nat) := []
  /-- the power samples of the current millisecond, in milliwatts, newest first (R399) -/
  samples : List Nat := []
  lanes   : List Nat := []
  rowMaps : List (Nat × Nat × Nat) := []
  deriving DecidableEq, Repr

/-- A key slot (R300): the data key and the tweak key. -/
structure KeySlot where
  installed : Bool := false
  material  : BitVec 512 := 0
  deriving DecidableEq, Repr

/-- The metadata record of a 4 KiB frame (R171). -/
structure FrameRec where
  key      : BitVec 12 := 0
  writable : Bool := false
  leaf     : Nat := 0
  deriving DecidableEq, Repr

/-- An HBM sector's condition (R175, R177): poisoned, or written under key material that differs from the device's. -/
structure Sector where
  poison   : Bool := false
  material : BitVec 512 := 0
  deriving DecidableEq, Repr

/-- What moves in a step: a stream of a context, an interpreter of the Plinth, or an event. -/
inductive Mover where
  | none
  | ctx (core ctx : Nat) (stream : Stream)
  | interp (n : Nat)
  deriving DecidableEq, Repr

/-- The state of a module. `agenda`, `ev`, `ring`, `cur`, `turn`, `draws`, `nextId` and `stamp` are the model's own (log 4): the
messages in flight and the inputs (oldest first), the message of the current event, the order in which the streams of contexts take
turns, what moves, whose turn is next, the number of free values drawn, the next name of an access, and the count of nodes become ready. -/
structure State where
  agenda  : List Msg := []
  ev      : Msg := .idle
  ring    : List (Nat × Nat × Stream) := []
  cur     : Mover := .none
  /-- the last step ran a context: a waiting message goes next -/
  turn    : Bool := false
  draws   : Nat := 0
  nextId  : Nat := 0
  stamp   : Nat := 0
  /-- the bytes of every store by place: HBM by physical address, then scratchpads, then Ashlar banks -/
  mem     : List Host.Cell := []
  sectors : Table Sector := []
  /-- the 16-byte units (place / 16) of scratchpads, Ashlar banks and images that hold an uncorrectable error (R368, R375) -/
  flaws   : List Nat := []
  frames  : Table FrameRec := []
  cores   : Table Core := []
  slices  : Table Slice := []
  ashlars : Table Ashlar := []
  keystones : Table Keystone := []
  dies    : Table Die := []
  regions : Table (BitVec 128) := []
  keys    : Table KeySlot := []
  capDraw : Nat := 0
  clock   : Nat := 0
  plinth  : Plinth := {}
  stopped : Bool := false
  deriving DecidableEq, Repr

/-- The machine right after module reset and bring-up (R400): key id 0 installed with material 0 (log 103), region 0xD fixed, pools at
2,304 (the default of `Die`), the firmware measured into M0; every other field at its reset value, with nothing on the agenda and no gang. -/
def State.reset : State :=
  { regions := [(13, Config.regionD)]
    keys := [(0, { installed := true, material := 0 })]
    plinth := { measures := [(0, Config.firmwareMeasurement)] } }

end Sys2Proof.Machine
end

