-- ==== Sys2Proof/Machine/Ops.lean ====
section
/-! DEFINITION. The named operations on the state that every meaning is built from: tables, bytes of the stores, contexts, the
granules of a workspace, the outcomes of an instruction, taking a trap (R364 to R367) and returning from one (R381). -/

namespace Sys2Proof.Machine

/-! ## Tables -/

/-- The value of a key, or the default. -/
def tget (t : Table α) (k : Nat) (d : α) : α :=
  match t with
  | [] => d
  | (k', v) :: t => if k = k' then v else tget t k d

/-- The value of a key that is listed. -/
def tfind (t : Table α) (k : Nat) : Option α :=
  match t with
  | [] => none
  | (k', v) :: t => if k = k' then some v else tfind t k

/-- Set a key, keeping ascending order. -/
def tset (t : Table α) (k : Nat) (v : α) : Table α :=
  match t with
  | [] => [(k, v)]
  | (k', v') :: t => if k = k' then (k, v) :: t else if k < k' then (k, v) :: (k', v') :: t else (k', v') :: tset t k v

/-- Remove a key. -/
def terase (t : Table α) (k : Nat) : Table α := t.filter (fun e => e.1 != k)

/-- The element of a list at an index, or the default. -/
def nth (l : List α) (i : Nat) (d : α) : α := l.getD i d

/-- Replace the first element that satisfies `p`. -/
def replaceFirst (p : α → Bool) (f : α → α) : List α → List α
  | [] => []
  | a :: l => if p a then f a :: l else a :: replaceFirst p f l

/-- Remove the first element that satisfies `p`. -/
def removeFirst (p : α → Bool) : List α → List α
  | [] => []
  | a :: l => if p a then l else a :: removeFirst p l

/-- Insert into a list of numbers in ascending order, without repeats. -/
def insertNat (n : Nat) : List Nat → List Nat
  | [] => [n]
  | m :: l => if n = m then m :: l else if n < m then n :: m :: l else m :: insertNat n l

/-! ## Bits and bytes -/

/-- The bits `lo` to `lo + w - 1` of a number. -/
def nbits (x lo w : Nat) : Nat := x / 2 ^ lo % 2 ^ w

/-- The bytes of a number, little-endian (R3). -/
def leBytes : Nat → Nat → List Byte
  | 0, _ => []
  | n + 1, x => BitVec.ofNat 8 x :: leBytes n (x / 256)

/-- The number that bytes give, little-endian (R3). -/
def leNat : List Byte → Nat
  | [] => 0
  | b :: l => b.toNat + 256 * leNat l

/-! ## Bytes of the stores -/

/-- Where the scratchpad of core `c` begins among the places (model: HBM first, then scratchpads, then Ashlar banks). -/
def spPlace (c off : Nat) : Nat := 2 ^ 58 + c * 2 ^ 18 + off

/-- Where Ashlar bank `b` begins among the places. -/
def ashPlace (b off : Nat) : Nat := 2 ^ 59 + b * 2 ^ 16 + off

/-- One byte of a memory; an unlisted byte reads zero (log 1). -/
def memByte (m : List Host.Cell) (p : Nat) : Byte := tget m p 0

/-- The places of a list of cells rise strictly. -/
def memRising : List Host.Cell → Bool
  | [] => true
  | [_] => true
  | c :: d :: l => decide (c.1 < d.1) && memRising (d :: l)

/-- The canonical form of a memory: addresses strictly rising, and no entry equal to what an unlisted byte reads as. -/
def memWf (m : List Host.Cell) : Bool := m.all (fun c => c.2 != 0) && memRising m

/-- The cells of bytes from a place on: a zero byte has none (log 1). -/
def cellsAt (p : Nat) : List Byte → List Host.Cell
  | [] => []
  | b :: l => if b = 0 then cellsAt (p + 1) l else (p, b) :: cellsAt (p + 1) l

/-- Put cells in the place of those of a range. -/
def memReplace (m : List Host.Cell) (p n : Nat) (cells : List Host.Cell) : List Host.Cell :=
  m.filter (fun c => c.1 < p) ++ cells ++ m.filter (fun c => p + n ≤ c.1)

/-- Write bytes from a place on, keeping the canonical form. -/
def memSetBytes (m : List Host.Cell) (p : Nat) (l : List Byte) : List Host.Cell := memReplace m p l.length (cellsAt p l)

/-- The cells of a range. -/
def memPart (m : List Host.Cell) (p n : Nat) : List Host.Cell := m.filter (fun c => p ≤ c.1 && c.1 < p + n)

/-- `n` bytes from a place on. -/
def memBytes (m : List Host.Cell) (p n : Nat) : List Byte :=
  let part := memPart m p n
  (List.range n).map (fun i => memByte part (p + i))

/-- Zero the bytes of a range of places. -/
def memZero (m : List Host.Cell) (p n : Nat) : List Host.Cell := memReplace m p n []

/-- Copy `n` bytes; the bytes of the target are replaced. -/
def memCopy (m : List Host.Cell) (src dst n : Nat) : List Host.Cell :=
  memReplace m dst n ((memPart m src n).map (fun c => (dst + (c.1 - src), c.2)))

/-- `n` bytes of the stores from a place on, as a number. -/
def State.load (s : State) (p n : Nat) : Nat := leNat (memBytes s.mem p n)

/-- The units with an uncorrectable error that a write of `n` bytes from a place on leaves: one that it covers is written anew (R368, log
97). -/
def healed (l : List Nat) (p n : Nat) : List Nat := l.filter (fun u => decide (16 * u < p) || decide (p + n < 16 * u + 16))

/-- Write `n` bytes of a number from a place on. -/
def State.store (s : State) (p n x : Nat) : State :=
  { s with mem := memSetBytes s.mem p (leBytes n x), flaws := healed s.flaws p n }

/-- Zero `n` bytes of the stores from a place on. -/
def State.zero (s : State) (p n : Nat) : State := { s with mem := memZero s.mem p n, flaws := healed s.flaws p n }

/-- Some of `n` bytes from a place on hold an uncorrectable error. -/
def State.flawed (s : State) (p n : Nat) : Bool := s.flaws.any (fun u => decide (p < 16 * u + 16) && decide (16 * u < p + n))

/-- The units of `n` bytes at place `src` hold errors at place `dst` too, where the bytes have been copied. -/
def copyFlaws (src dst n : Nat) (s : State) : State :=
  let there := s.flaws.filter (fun u => decide (src ≤ 16 * u) && decide (16 * u < src + n))
  { s with flaws := there.foldl (fun l u => insertNat (dst / 16 + (u - src / 16)) l) (healed s.flaws dst n) }

/-! ## Parts of the state -/

def State.core (s : State) (c : Nat) : Core := tget s.cores c {}
def State.setCore (s : State) (c : Nat) (v : Core) : State := { s with cores := tset s.cores c v }
def State.modCore (s : State) (c : Nat) (f : Core → Core) : State := s.setCore c (f (s.core c))
def State.ctx (s : State) (c k : Nat) : Ctx := tget (s.core c).ctxs k {}
def State.setCtx (s : State) (c k : Nat) (x : Ctx) : State := s.modCore c (fun v => { v with ctxs := tset v.ctxs k x })
def State.modCtx (s : State) (c k : Nat) (f : Ctx → Ctx) : State := s.setCtx c k (f (s.ctx c k))
def State.die (s : State) (d : Nat) : Die := tget s.dies d {}
def State.setDie (s : State) (d : Nat) (v : Die) : State := { s with dies := tset s.dies d v }
def State.modDie (s : State) (d : Nat) (f : Die → Die) : State := s.setDie d (f (s.die d))
def State.slice (s : State) (n : Nat) : Slice := tget s.slices n {}
def State.setSlice (s : State) (n : Nat) (v : Slice) : State := { s with slices := tset s.slices n v }
def State.modSlice (s : State) (n : Nat) (f : Slice → Slice) : State := s.setSlice n (f (s.slice n))
def State.ashlar (s : State) (u : Nat) : Ashlar := tget s.ashlars u {}
def State.modAshlar (s : State) (u : Nat) (f : Ashlar → Ashlar) : State := { s with ashlars := tset s.ashlars u (f (s.ashlar u)) }
def State.keystone (s : State) (k : Nat) : Keystone := tget s.keystones k {}
def State.conn (s : State) (k i : Nat) : Connector := tget (s.keystone k).conns i {}
def State.setConn (s : State) (k i : Nat) (v : Connector) : State :=
  { s with keystones := tset s.keystones k { s.keystone k with conns := tset (s.keystone k).conns i v } }
def State.port (s : State) (c p : Nat) : PortSlot := tget (s.core c).slots p {}
def State.setPort (s : State) (c p : Nat) (v : PortSlot) : State := s.modCore c (fun k => { k with slots := tset k.slots p v })
def State.modPlinth (s : State) (f : Plinth → Plinth) : State := { s with plinth := f s.plinth }

/-- Put a message at the end of the agenda. -/
def State.send (s : State) (m : Msg) : State := { s with agenda := s.agenda ++ [m] }

/-- Draw a free dword (Config.freeDword). -/
def State.drawn (s : State) : State := { s with draws := s.draws + 1 }

/-- The die, column and row of a core (R14). -/
def coreDie (c : Nat) : Nat := c / 1024
def coreX (c : Nat) : Nat := c % 32
def coreY (c : Nat) : Nat := c % 1024 / 32
/-- The core at a position. -/
def coreAt (d x y : Nat) : Nat := d * 1024 + 32 * y + x
/-- The tile of a core within its die: 8 columns and 8 rows of tiles of 4 by 4 cores (R14). -/
def coreTile (c : Nat) : Nat := coreY c / 4 * 8 + coreX c / 4
/-- The tile of a core within the module. -/
def coreTileG (c : Nat) : Nat := coreDie c * 64 + coreTile c

/-! ## HBM sectors (R175, R177) -/

def keyMaterial (s : State) (key : Nat) : BitVec 512 := (tget s.keys key {}).material
def keyInstalled (s : State) (key : Nat) : Bool := (tget s.keys key {}).installed

/-- The 32 bytes of a sector as the controller returns them under a key id: what the key that wrote them decrypts to (log 7). A
sector that nothing has written holds bytes placed from outside and reads the same under any key. -/
def sectorRead (s : State) (pa key : Nat) : Nat :=
  let p := pa / 32 * 32
  match tfind s.sectors (pa / 32) with
  | none => s.load p 32
  | some x =>
    if x.material = keyMaterial s key then s.load p 32
    else (Config.xtsOther x.material (keyMaterial s key) (nbits pa 5 44) (BitVec.ofNat 256 (s.load p 32))).toNat

def sectorPoison (s : State) (pa : Nat) : Bool := (tget s.sectors (pa / 32) {}).poison

/-- Write a whole sector under a key id. -/
def sectorWrite (s : State) (pa key x : Nat) (poison : Bool) : State :=
  let s := s.store (pa / 32 * 32) 32 x
  { s with sectors := tset s.sectors (pa / 32) { poison := poison, material := keyMaterial s key } }

/-- `n` bytes of HBM under a key id, past the caches (R168: the walker). -/
def hbmRead (s : State) (pa n key : Nat) : Nat :=
  let first := pa / 32
  let last := (pa + n - 1) / 32
  let x := (List.range (last - first + 1)).foldr (fun i acc => acc * 2 ^ 256 + sectorRead s ((first + i) * 32) key) 0
  x / 2 ^ (8 * (pa % 32)) % 2 ^ (8 * n)

/-- Replace `n` bytes at byte `off` of a number. -/
def spliceBytes (x off n v : Nat) : Nat :=
  x % 2 ^ (8 * off) + (v % 2 ^ (8 * n)) * 2 ^ (8 * off) + x / 2 ^ (8 * (off + n)) * 2 ^ (8 * (off + n))

/-- Write `n` bytes of HBM under a key id, sector by sector: read, merge, write back (R166). A store that covers a whole sector
clears its poison (R177). -/
def hbmWrite (s : State) (pa n key v : Nat) : State :=
  let first := pa / 32
  let last := (pa + n - 1) / 32
  (List.range (last - first + 1)).foldl (fun s i =>
    let base := (first + i) * 32
    let lo := max pa base
    let hi := min (pa + n) (base + 32)
    let part := v / 2 ^ (8 * (lo - pa))
    let whole := decide (hi - lo = 32)
    sectorWrite s base key (spliceBytes (sectorRead s base key) (lo - base) (hi - lo) part) (sectorPoison s base && !whole)) s

/-- `n` whole sectors from sector `first` on that the device has written under key id 0 (R175). -/
def deviceSectors (s : State) (first n : Nat) : Table Sector :=
  s.sectors.filter (fun e => e.1 < first) ++
    (List.range n).map (fun i => (first + i, { material := keyMaterial s 0 })) ++ s.sectors.filter (fun e => first + n ≤ e.1)

/-- The device writes whole sectors of HBM from `pa` on under key id 0, as it does save areas and images (R175). -/
def deviceBytes (pa : Nat) (l : List Byte) (s : State) : State :=
  { s with mem := memSetBytes s.mem pa l, sectors := deviceSectors s (pa / 32) (l.length / 32) }

/-- A granule goes to HBM sectors with its uncorrectable errors: they are poisoned there. -/
def poisonFrom (p pa n : Nat) (s : State) : State :=
  if s.flawed p n then
    { s with sectors := (List.range (n / 32)).foldl (fun t i =>
        if s.flawed (p + 32 * i) 32 then tset t (pa / 32 + i) { tget t (pa / 32 + i) {} with poison := true } else t) s.sectors }
  else s

/-- A granule comes from HBM sectors: what is poisoned there holds an error. -/
def flawFrom (pa p n : Nat) (s : State) : State :=
  { s with flaws := (List.range (n / 32)).foldl (fun l i =>
      if sectorPoison s (pa + 32 * i) then insertNat ((p + 32 * i) / 16) (insertNat ((p + 32 * i) / 16 + 1) l) else l) s.flaws }

/-- Memory as the device reads it under key id 0 in a range of HBM: sectors under other material are decrypted as they come (R175). -/
def deviceView (s : State) (pa n : Nat) : List Host.Cell :=
  (s.sectors.filter (fun e => pa / 32 ≤ e.1 && e.1 < (pa + n + 31) / 32 && e.2.material != keyMaterial s 0)).foldl
    (fun m e => memSetBytes m (32 * e.1) (leBytes 32 (sectorRead s (32 * e.1) 0))) s.mem

/-- The bytes of HBM that the device reads under key id 0. -/
def deviceRead (s : State) (pa n : Nat) : List Byte := memBytes (deviceView s pa n) pa n

/-! ## Contexts -/

/-- The workspace area that a context's `wp` names (R84). -/
def Ctx.area (x : Ctx) : Nat := nbits x.wp.toNat 11 7

/-- The `msr` word of a context (Table 5-7). -/
def Ctx.msr (x : Ctx) : Dword :=
  BitVec.ofNat 64 (x.chi.toNat + (if x.dev then 2 ^ 16 else 0) + (if x.ue then 2 ^ 17 else 0) +
    (if x.fol then 2 ^ 18 else 0) + (if x.ldr then 2 ^ 19 else 0))

/-- The return-stack depth at the most recent both-stream word that both streams have passed (R101): that of the stream that lags, in
this text or in the text that a trap interrupted. -/
def Ctx.rsd (x : Ctx) : Nat :=
  if x.acc.pos < x.exe.pos then x.rsA.length
  else if x.exe.pos < x.acc.pos then x.rsE.length
  else
    match x.saved.find? (fun t => t.accPos != t.exePos) with
    | some t => if t.accPos < t.exePos then x.rsA.length else x.rsE.length
    | none => x.rsA.length

/-- The `st` word of context `k` (Table 5-6). -/
def Ctx.st (x : Ctx) (k : Nat) : Dword := BitVec.ofNat 64 (k + x.tc.toNat * 2 ^ 8 + x.rsd * 2 ^ 16)

/-- Whether a slot has a pending instruction at a text position before `n` (R323). -/
def Ctx.pendBefore (x : Ctx) (ss : BitVec 3) (n : Nat) : Bool := x.pend.any (fun p => p.ss == ss && p.pos < n)

/-- The `sbs` word of a context (Table 14-1). -/
def Ctx.sbs (x : Ctx) : Dword :=
  BitVec.ofNat 64 ((List.range 7).foldl (fun a i => if x.pend.any (fun p => p.ss.toNat == i + 1) then a + 2 ^ i else a) 0
    + x.err.toNat * 2 ^ 8 + x.cause.toNat * 2 ^ 16)

/-- The stream state of a stream. -/
def Ctx.stream (x : Ctx) : Stream → StreamState
  | .acc => x.acc
  | .exe => x.exe
def Ctx.setStream (x : Ctx) (t : Stream) (v : StreamState) : Ctx :=
  match t with
  | .acc => { x with acc := v }
  | .exe => { x with exe := v }
def Stream.other : Stream → Stream
  | .acc => .exe
  | .exe => .acc

/-- A context of the core names this area by its `wp` and is live (R92). -/
def Core.areaLive (v : Core) (a : Nat) : Bool := v.ctxs.any (fun e => e.2.live && e.2.area == a)

/-! ## Bank power and granules (R86 to R95) -/

/-- The power of a scratchpad bank: on at reset (R93). -/
def Core.power (v : Core) (b : Nat) : BankPower := tget v.bank b .on

/-- The state of granule `g` of area `a`: present and dirty in an area that nothing has used (R91). -/
def Core.granule (v : Core) (a g : Nat) : Gran := tget v.gran (26 * a + g) (.present true)
def Core.setGranule (v : Core) (a g : Nat) (x : Gran) : Core := { v with gran := tset v.gran (26 * a + g) x }

/-- The banks areas lie in: area `a` lies in bank `a / 8` (R84). -/
def areaBank (a : Nat) : Nat := a / 8

/-- Power up a bank that is off: bytes zero, granules empty, and the dead granules of areas that no live context names become
present and dirty (R94). -/
def powerUp (c b : Nat) (s : State) : State :=
  let v := s.core c
  let areas := (List.range 8).map (8 * b + ·) |>.filter (fun a => !v.areaLive a)
  let gran := areas.foldl (fun t a => (List.range 26).foldl (fun t g =>
    if tget t (26 * a + g) (.present true) = .dead then tset t (26 * a + g) (.present true) else t) t) v.gran
  (s.zero (spPlace c (b * 16384)) 16384).setCore c
    { v with bank := tset v.bank b .on, gran := gran, full := v.full.filter (fun g => g / 1024 != b) }

/-- Make a bank on for an access (R156). -/
def wakeBank (c b : Nat) (s : State) : State :=
  match (s.core c).power b with
  | .on => s
  | .retention => s.modCore c (fun v => { v with bank := tset v.bank b .on })
  | .off => powerUp c b s

/-- Make a bank on for context `k` and count the wake (Table 14-9). -/
def wakeBankFor (c k b : Nat) (s : State) : State :=
  if (s.core c).power b = .on then s else (wakeBank c b s).modCtx c k (fun x => { x with bankWake := x.bankWake + 1 })

/-- The place of the save area of context `k` of core `c` (R87, Table 16-3; the base is log 18). -/
def saveArea (c k : Nat) : Nat := Config.saveBlock c + k * 2048

/-- Fill an absent granule of context `k`'s area from its save area; the granule becomes present and clean (R87). -/
def fillGranule (c k g : Nat) (s : State) : State :=
  let a := (s.ctx c k).area
  let s := wakeBankFor c k (areaBank a) s
  let s := flawFrom (saveArea c k + g * 64) (spPlace c (a * 2048 + g * 64)) 64
    (s.store (spPlace c (a * 2048 + g * 64)) 64 (hbmRead s (saveArea c k + g * 64) 64 0))
  (s.modCore c (fun v => v.setGranule a g (.present false))).modCtx c k (fun x => { x with granFill := x.granFill + 1 })

/-! ## Outcomes of an instruction -/

/-- What a trap records beside the program counters (R366). `pcs`, when present, are the saved program counters (R376, R380). -/
structure TrapInfo where
  code : Nat
  va   : VA := 0
  num  : BitVec 8 := 0
  asy  : Bool := false
  /-- a word of both streams raised it (`es` is 0) -/
  both : Bool := false
  pcs  : Option (Dword × Dword) := none
  deriving DecidableEq, Repr

/-- What a stalled instruction waits for: an operand or what others do, a queue item that is counted, a permit. Table 14-9 counts the
last two apart. -/
inductive Wait where
  | event | queue | permit
  deriving DecidableEq, Repr

/-- How an instruction ends other than by its effect. -/
inductive Stop where
  /-- it waits: nothing has changed -/
  | stall (w : Wait)
  /-- it waits, having begun what it does -/
  | stallWith (s : State)
  /-- it raises a precise trap and has no effect (R365) -/
  | trap (t : TrapInfo)
  /-- it raises a trap with a state change that the rule of the trap itself gives -/
  | trapWith (t : TrapInfo) (s : State)
  /-- the machine goes on in this state, the word not executed (an upcall, R377; a detachment, R117) -/
  | instead (s : State)
  /-- what follows is decided on the state before the word (a page fault, R377) -/
  | before (f : State → State)

/-- The computation of an instruction. -/
abbrev M := StateT State (Except Stop)

def stop {α : Type} (e : Stop) : M α := fun _ => .error e
def stall {α : Type} : M α := stop (.stall .event)
def stallUnless (b : Bool) : M Unit := if b then pure () else stall
def trap {α : Type} (code : Nat) : M α := stop (.trap { code := code })
def trapUnless (b : Bool) (code : Nat) : M Unit := if b then pure () else trap code
def illegalUnless (b : Bool) : M Unit := trapUnless b 1
/-- The traps of a word of both streams record `es` = 0 (R366), whichever stream evaluates it. -/
def asBoth {α : Type} (m : M α) : M α := fun s =>
  match m s with
  | .error (.trap t) => .error (.trap { t with both := true })
  | r => r
def modS (f : State → State) : M Unit := modify f

/-- The core, context and stream that move. -/
def Mover.core : Mover → Nat
  | .ctx c _ _ => c
  | _ => 0
def Mover.ctxNo : Mover → Nat
  | .ctx _ k _ => k
  | _ => 0
def Mover.stream : Mover → Stream
  | .ctx _ _ t => t
  | _ => .acc

def getCtx : M Ctx := do let s ← get; return s.ctx s.cur.core s.cur.ctxNo
def modCtx (f : Ctx → Ctx) : M Unit := modS (fun s => s.modCtx s.cur.core s.cur.ctxNo f)
def getCore : M Core := do let s ← get; return s.core s.cur.core
def modCore (f : Core → Core) : M Unit := modS (fun s => s.modCore s.cur.core f)
def coreNo : M Nat := do return (← get).cur.core
def ctxNo : M Nat := do return (← get).cur.ctxNo

/-- The text position of the word that executes. -/
def myPos : M Nat := do let s ← get; return ((s.ctx s.cur.core s.cur.ctxNo).stream s.cur.stream).pos

/-- The address of the word that executes (VA[63:0]). -/
def myPc : M Dword := do let s ← get; return ((s.ctx s.cur.core s.cur.ctxNo).stream s.cur.stream).pc

/-- The hint that applies to the word that executes (R80). -/
def myHint : M Hint := do let s ← get; return ((s.ctx s.cur.core s.cur.ctxNo).stream s.cur.stream).hint

/-- A fresh name for an access. -/
def freshId : M Nat := do
  let s ← get
  set { s with nextId := s.nextId + 1 }
  return s.nextId

/-- A fresh free dword (Config.freeDword). -/
def drawDword : M Dword := do
  let s ← get
  set s.drawn
  return Config.freeDword s.draws

/-! ## Moving on -/

/-- A stream passes one word: its position and counter advance, past a delay slot it stands to redirect (R78). -/
def StreamState.pass (t : StreamState) : StreamState :=
  { t with pc := t.pc + 4, pos := t.pos + 1, hint := .none, blk := false,
           ctl := match t.ctl with
             | .slot b => .redirect b
             | c => c }

/-- The word at text position `p` has been executed: it no longer waits for the lagging stream. -/
def Ctx.done (x : Ctx) (p : Nat) : Ctx := { x with ahead := x.ahead.filter (fun e => e.1 != p) }

/-- Count an issue (Table 14-9). -/
def Ctx.issued (x : Ctx) : Stream → Ctx
  | .acc => { x with accIssue := x.accIssue + 1 }
  | .exe => { x with exeIssue := x.exeIssue + 1 }

/-- The word of one stream has executed; the stream moves on (R67, R78). -/
def Ctx.retire (x : Ctx) (t : Stream) : Ctx :=
  (((x.setStream t (x.stream t).pass).done (x.stream t).pos).issued t)

/-- The word of both streams has executed; both move on. -/
def Ctx.retireBoth (x : Ctx) : Ctx := (x.retire .acc).retire .exe

/-- As `retire`; what a word of the access stream waited for is over. The words that keep such a mark are words of the access
stream or of both streams. -/
def Ctx.moved (x : Ctx) (t : Stream) : Ctx :=
  match t with
  | .acc => { x.retire .acc with wait := none, within := false, retiring := false }
  | .exe => x.retire .exe

/-- As `retireBoth`, with what the word waited for over. -/
def Ctx.movedBoth (x : Ctx) : Ctx := { x.retireBoth with wait := none, within := false, retiring := false }

def retire : M Unit := do
  let t := (← get).cur.stream
  modCtx (fun x => x.moved t)
def retireBoth : M Unit := modCtx Ctx.movedBoth

/-- The integer that a code of an integer type stands for. -/
def intDecode (w : Nat) (signed : Bool) (x : Nat) : Int :=
  let x := x % 2 ^ w
  if signed && decide (2 ^ (w - 1) ≤ x) then (x : Int) - 2 ^ w else x

/-! ## Gangs and groups -/

/-- The running gang of a core. -/
def gangOn (s : State) (c : Nat) : Option Gang :=
  s.plinth.gangs.find? (fun g => g.gid == (s.core c).gid && !g.stopped)

/-- The control context of a core has issued a RETS: gang-stop waits until it has retired (R357). -/
def Core.retiring (v : Core) : Bool := (tget v.ctxs 0 {}).retiring

/-- The gang of a core is being stopped: nothing that its cores hold begins a new step (R373). -/
def halting (s : State) (c : Nat) : Bool := (gangOn s c).any (·.stopping) && !(s.core c).retiring

/-- A context that gang-stop may halt now: never between a branch and its slot or between a HINT and its word, nor inside a PWRB or
a RETRACT (R373), nor beside a RETS that waits in its first step (R357). That of a failed core does not move any more. -/
def mayHalt (v : Core) (x : Ctx) : Bool :=
  let inSlot (t : StreamState) : Bool := match t.ctl with
    | .slot _ => true
    | _ => false
  v.failed || (!inSlot x.acc && !inSlot x.exe && x.acc.hint == .none && x.exe.hint == .none && !x.within && !v.retiring)

def modGang (gid : BitVec 32) (f : Gang → Gang) (s : State) : State :=
  s.modPlinth (fun p => { p with gangs := replaceFirst (fun g => g.gid == gid) f p.gangs })

/-- Bits of a launch record: `w` bits from bit `lo` of the byte at `off` (R293). -/
def recordBits (r : BitVec 2048) (off lo w : Nat) : Nat := nbits r.toNat (8 * off + lo) w

/-- Number of groups of a launch record. -/
def recGroups (r : BitVec 2048) : Nat := recordBits r 0 0 2 + 1

/-- The rectangle of group `g` for an origin of group 0 (R294): left, top, columns, rows; none when it leaves the coordinates. -/
def groupRect (r : BitVec 2048) (g x y : Nat) : Int × Int × Nat × Nat :=
  let o := 32 + 32 * g
  ((x : Int) + intDecode 6 true (recordBits r o 10 6), (y : Int) + intDecode 6 true (recordBits r o 16 6),
   recordBits r o 5 5 + 1, recordBits r o 0 5 + 1)

def inRect (q : Int × Int × Nat × Nat) (x y : Nat) : Bool :=
  let (l, t, w, h) := q
  decide (l ≤ (x : Int)) && decide ((x : Int) < l + w) && decide (t ≤ (y : Int)) && decide ((y : Int) < t + h)

/-- The group of a core in its gang. -/
def groupOf (g : Gang) (c : Nat) : Nat :=
  ((List.range (recGroups g.launch.record)).find? (fun i => inRect (groupRect g.launch.record i g.x g.y) (coreX c) (coreY c))).getD 0

/-! ## Counters of permits (R338) -/

/-- The budget of a core's group and the units that the group holds. -/
def groupPermits (s : State) (c : Nat) : Nat × Nat :=
  match gangOn s c with
  | none => (0, 0)
  | some g => (recordBits g.launch.record (32 + 32 * groupOf g c) 32 16, tget g.held (groupOf g c) 0)

/-- An acquisition of `n` units for a core is possible. -/
def permitPossible (s : State) (c n : Nat) : Bool :=
  let (budget, held) := groupPermits s c
  decide ((s.die (coreDie c)).poolHeld + n ≤ (s.die (coreDie c)).poolSize) && (decide (held + n ≤ budget) || (held == 0 && decide (n ≤ 3)))

/-- Move units between the pool and the group of a core: `add` holds for an acquisition. -/
def movePermit (add : Bool) (c n : Nat) (s : State) : State :=
  let s := s.modDie (coreDie c) (fun d => { d with poolHeld := if add then d.poolHeld + n else d.poolHeld - n })
  match gangOn s c with
  | none => s
  | some g =>
    let i := groupOf g c
    let h := tget g.held i 0
    modGang g.gid (fun g => { g with held := tset g.held i (if add then h + n else h - n) }) s

def permitWaits (d : Die) : Bool := d.permitQ.any (fun r => !r.granted)

/-- Return units; the oldest waiting acquisition is tried again. -/
def releasePermit (c n : Nat) (s : State) : State :=
  let s := movePermit false c n s
  if permitWaits (s.die (coreDie c)) then s.send (.permitGrant (BitVec.ofNat 2 (coreDie c))) else s

/-- The place of context `k` of core `c` in the permit queue of its die. -/
def permitReq (s : State) (c k : Nat) : Option PermitReq :=
  (s.die (coreDie c)).permitQ.find? (fun r => r.core == c && r.ctx == k)

def dropPermitReq (c k : Nat) (s : State) : State :=
  match permitReq s c k with
  | none => s
  | some r =>
    let s := s.modDie (coreDie c) (fun d => { d with permitQ := removeFirst (fun r => r.core == c && r.ctx == k) d.permitQ })
    if r.granted then releasePermit c r.n s else s

/-! ## Taking a trap (R364 to R367, R376) -/

/-- The program counter that a stream saves: that of its HINT word when a hint is pending (R80). -/
def StreamState.savePc (t : StreamState) : Dword := if t.hint = .none then t.pc else t.pc - 4
def StreamState.savePos (t : StreamState) : Nat := if t.hint = .none then t.pos else t.pos - 1

/-- The outcome that a stream will redirect by, when it is known: the stream's own, or the oldest item that waits for it in the
branch-outcome queue (R112, R376). -/
def Ctx.outcome (x : Ctx) (t : Stream) (b : Branch) : Option (Bool × Dword) :=
  match b.outcome with
  | some k => some (k, b.target)
  | none =>
    match t with
    | .acc => x.oqE.head?.map (fun o => (o.taken, if b.indirect then o.target else b.target))
    | .exe => x.oqA.head?.map (fun k => (k, b.target))

/-- The branch in whose delay slot a stream stands. -/
def Ctx.slotOf (x : Ctx) (t : Stream) : Option Branch :=
  match (x.stream t).ctl with
  | .slot b => some b
  | _ => none

/-- What the model keeps of an interrupted context (log 12). -/
def Ctx.savedText (x : Ctx) : SavedText :=
  { pca := x.acc.savePc, pce := x.exe.savePc, area := x.area, accPos := x.acc.savePos, exePos := x.exe.savePos, ahead := x.ahead, loose := x.loose,
    accCtl := x.acc.ctl, exeCtl := x.exe.ctl }

/-- Both streams begin at an address in new text (R364, R377). -/
def Ctx.enter (x : Ctx) (pc : Dword) : Ctx :=
  let p := max x.acc.pos x.exe.pos + 1
  { x with acc := { pc := pc, pos := p }, exe := { pc := pc, pos := p }, ahead := [], loose := false }

/-- The trap record at 0x7E0 of the state area (Table 16-1) as a number of 32 bytes. -/
def trapRecord (t : TrapInfo) (spca spce : Dword) (es pdev rp : Bool) : Nat :=
  spca.toNat + spce.toNat * 2 ^ 64 +
  (t.code + (if es then 2 ^ 8 else 0) + (if t.asy then 2 ^ 9 else 0) + (if pdev then 2 ^ 10 else 0) + (if rp then 2 ^ 11 else 0)
    + t.num.toNat * 2 ^ 16 + (t.va.toNat / 2 ^ 64) * 2 ^ 48) * 2 ^ 128 +
  (t.va.toNat % 2 ^ 64) * 2 ^ 192

/-- A context no longer waits for the sequencer or at SCALEW of its core: it has left the word at which it did. -/
def Core.leaveWaits (v : Core) (k : Nat) : Core :=
  { v with ownWait := v.ownWait.filter (· != k), scaleWait := v.scaleWait.filter (· != k) }

/-- Context `k` of core `c` has left the words at which its streams waited in a queue: for the sequencer, at SCALEW, for permit units.
The place of a context that takes its own units back stays (R340). -/
def leaveQueues (c k : Nat) (s : State) : State :=
  let s := if (s.ctx c k).owed = 0 then dropPermitReq c (k + 16) (dropPermitReq c k s) else s
  s.modCore c (fun v => v.leaveWaits k)

/-- TakeTrap (R364) of context `k` of core `c`: the record in the state area, device privilege, both streams at the vector.
`es` says that the execute stream raised it; `slot`, when the word stood in a delay slot, gives `tk` and the target (R376). -/
def takeTrap (c k : Nat) (t : TrapInfo) (es : Bool) (slot : Option (Bool × Dword)) (s : State) : State :=
  let s := wakeBank c (areaBank (s.ctx c k).area) s
  let x := s.ctx c k
  let (spca, spce) := t.pcs.getD (x.acc.savePc, x.exe.savePc)
  let rec1 := trapRecord t spca spce es x.dev (!x.replay.isEmpty)
  let s := s.store (spPlace c (x.area * 2048 + 0x7E0)) 32 rec1
  let ds := match slot with
    | some (tk, tgt) => BitVec.ofNat 64 (1 + (if tk then 2 else 0) + tgt.toNat / 4 * 4)
    | none => x.ds
  let saved := if t.pcs.isSome && x.saved.any (fun q => q.pca == spca && q.pce == spce && q.area == x.area) then x.saved
    else { x.savedText with pca := spca, pce := spce } :: x.saved
  let y : Ctx := { x with dev := true, tc := BitVec.ofNat 8 t.code, ds := ds, saved := saved, wait := none, within := false, retiring := false }
  leaveQueues c k (s.setCtx c k (y.enter (x.tb + BitVec.ofNat 64 (16 * t.code))))

/-- A core that follows detaches (R115, R117): it fetches for itself. -/
def detach (c : Nat) (s : State) : State :=
  (s.modCore c (fun v => { v with follower := false })).modCtx c 0 (fun x => { x with fol := false })

/-- The leader of a core's follow group: the core of lowest rank that the gang has in the tile (R113). The ranks of a gang's
cores rise with `rank`, so it is the gang's core in the tile with the least rank. -/
def leaderOf (s : State) (c : Nat) : Nat :=
  let v := s.core c
  let same := s.cores.filter (fun e => e.2.gid == v.gid && coreTileG e.1 == coreTileG c)
  same.foldl (fun best e =>
    if ((tget e.2.ctxs 0 {}).rank.toNat % 1024) < ((s.ctx best 0).rank.toNat % 1024) then e.1 else best)
    (match same with
     | [] => c
     | e :: _ => e.1)

/-- The members that follow a leader now. -/
def followersOf (s : State) (c : Nat) : List Nat :=
  (s.cores.filter (fun e => e.2.gid == (s.core c).gid && coreTileG e.1 == coreTileG c && e.2.follower && e.1 != c)).map (·.1)

def agendaReq (m : Msg) (p : Req → Bool) : Bool :=
  match m with
  | .homeRequest r => p r
  | _ => false

/-- The requests that a test picks are taken from everywhere between a core and where they wait. -/
def takeRequests (gone : Req → Bool) (s : State) : State :=
  let core (v : Core) : Core := { v with feWait := v.feWait.filter (fun r => !gone r) }
  let slice (v : Slice) : Slice := { v with
    waiters := v.waiters.filter (fun w => !gone w.req)
    ingress := v.ingress.filter (fun w => !gone w.req)
    held := v.held.filter (fun w => !gone w.req)
    mshrs := v.mshrs.map (fun m => { m with merge := m.merge.filter (fun r => !gone r) }) }
  { s with agenda := s.agenda.filter (fun m => !agendaReq m gone), cores := s.cores.map (fun e => (e.1, core e.2)),
           slices := s.slices.map (fun e => (e.1, slice e.2)) }

/-- A word of the access stream that waits parked at a home is halted without effect when the other stream's trap is taken: its request
goes, and the word executes again from its PC (R365, R374). -/
def dropParked (c k : Nat) (s : State) : State :=
  match (s.ctx c k).wait with
  | none => s
  | some w =>
    if (s.ctx c k).pend.any (fun p => p.id == w.id && p.kind == .access) then
      (takeRequests (fun r => r.core == c && r.ctx == k && r.id == w.id) s).modCtx c k (fun x =>
        { x with pend := x.pend.filter (fun p => p.id != w.id || p.kind != .access) })
    else s

/-- A trap in the leader detaches every follower at the trapping word: the streams of the members of a group stand at the same words
(R19, R117, log 49). A trap in a follower detaches it. -/
def detachFollow (c k : Nat) (s : State) : State :=
  if k ≠ 0 then s
  else if (s.core c).follower then detach c s
  else if (s.ctx c 0).ldr then
    ((followersOf s c).foldl (fun s f => detach f s) s).modCtx c 0 (fun x => { x with ldr := false })
  else s

/-- A stream redirects after the delay slot, once it has the outcome (R78, R112); a follower whose transfer differs from its
leader's detaches (R115). None while it must wait. -/
def redirect (c k : Nat) (t : Stream) (b : Branch) (s : State) : Option State :=
  let x := s.ctx c k
  match x.outcome t b with
  | none => none
  | some (tk, tgt) =>
    let next := if tk then tgt else b.addr + 8
    let pos := (x.stream t).pos
    let go (s : State) : State :=
      s.modCtx c k (fun x =>
        let x := if b.outcome.isNone then
            (match t with
             | .acc => { x with oqE := x.oqE.drop 1 }
             | .exe => { x with oqA := x.oqA.drop 1 }) else x
        x.setStream t { x.stream t with pc := next, ctl := .seq })
    if k = 0 && (s.core c).follower then
      (match (s.core (leaderOf s c)).trail.find? (fun e => e.1 == pos) with
       | none => none
       | some e => if e.2 = next then some (go s) else some (go (detach c s)))
    else if k = 0 && x.ldr then
      some (go (s.modCore c (fun v =>
        if v.trail.any (fun e => e.1 == pos) then v else { v with trail := v.trail ++ [(pos, next)] })))
    else some (go s)

/-- A stream past a delay slot goes on, once it has popped the branch's outcome (R376). -/
def afterSlot (c k : Nat) (t : Stream) (s : State) : Option State :=
  match ((s.ctx c k).stream t).ctl with
  | .redirect b => redirect c k t b s
  | _ => some s

/-- Each stream that stands past a delay slot and has the outcome goes on to the word that it executes next. One that has no outcome
yet stays (log 12). -/
def goOn (c k : Nat) (s : State) : State :=
  let s := (afterSlot c k .acc s).getD s
  (afterSlot c k .exe s).getD s

/-- What a trap in context `k` of core `c` breaks off: a parked word of the context, its follow group, and the other stream at its next
word (R365). -/
def detachForTrap (c k : Nat) (s : State) : State := goOn c k (detachFollow c k (dropParked c k s))

/-- The word that moves raises a precise trap (R365). In a delay slot the trap waits for the branch's outcome (R376). -/
def precise (t : TrapInfo) (s : State) : State :=
  let c := s.cur.core
  let k := s.cur.ctxNo
  let x := s.ctx c k
  let st := s.cur.stream
  match x.slotOf st with
  | none => takeTrap c k t (st = .exe && !t.both) none (detachForTrap c k s)
  | some b =>
    match x.outcome st b with
    | none => s.modCtx c k (fun x => x.setStream st { x.stream st with blk := true })
    | some (tk, tgt) => takeTrap c k t (st = .exe && !t.both) (some (tk, if tk then tgt else b.addr + 8)) (detachForTrap c k s)

/-- The word that moves stalls: its stream is marked, and the counter of its kind of wait counts an unstated number of cycles
(Table 14-9; log 5). -/
def stalled (w : Wait) (s : State) : State :=
  let mark (x : Ctx) : Ctx := x.setStream s.cur.stream { x.stream s.cur.stream with blk := true }
  let n : Dword := BitVec.ofNat 64 (Config.elapsed s.draws)
  match w with
  | .event => s.modCtx s.cur.core s.cur.ctxNo mark
  | .queue => s.drawn.modCtx s.cur.core s.cur.ctxNo (fun x => { mark x with queueStall := x.queueStall + n })
  | .permit => s.drawn.modCtx s.cur.core s.cur.ctxNo (fun x => { mark x with permitWait := x.permitWait + n })

/-- The word that moves stands in a delay slot whose branch has no outcome yet: a trap waits for it, and nothing of the word or of
its trap comes about before (R376). -/
def awaitsOutcome (s : State) : Bool :=
  let x := s.ctx s.cur.core s.cur.ctxNo
  match x.slotOf s.cur.stream with
  | some b => (x.outcome s.cur.stream b).isNone
  | none => false

/-- Run the computation of an instruction. -/
def run (m : M Unit) (s : State) : Host.Outcome State Fault Refusal :=
  match m s with
  | .ok (_, t) => .next t
  | .error (.stall w) => .next (stalled w s)
  | .error (.stallWith t) => .next (stalled .event t)
  | .error (.trap t) => .next (precise t s)
  | .error (.trapWith t s') => .next (precise t (if awaitsOutcome s then s else s'))
  | .error (.instead t) => .next t
  | .error (.before f) => .next (f s)

/-- An event of the machine: it comes about in a step, or nothing changes when it is not enabled. -/
def event (f : State → State) (s : State) : Host.Outcome State Fault Refusal := .next (f s)

/-- What a module that has stopped at 110 °C still takes: a module reset and the host's reads of registers (R399). -/
def mayCome (m : Msg) : Bool :=
  match m with
  | .moduleReset => true
  | .registerRead _ => true
  | _ => false

/-! ## Where a context goes on (R381, R376, R378) -/

/-- Move a text position of the interrupted text into new text. -/
def shiftPos (lo hi base p : Nat) : Nat := if lo ≤ p ∧ p < hi then base + (p - lo) else p

/-- Both streams go on at a pair of program counters: where the model kept what a trap or an upcall interrupted there, with the
text positions and pending branches it kept (log 12); else the words between the two counters are taken as straight text, and
`between` are those, by their distance, that the stream ahead has passed and the other has still to execute. `ds` is the delay-slot
record to honour (R376): without it the stream that trapped does not redirect. `by_` is the stream that evaluates the branch before the slot, if one does: the other consumes the branch's outcome
when it redirects (R232). Program counters are multiples of 4 (R67). -/
def Ctx.resume (x : Ctx) (pca pce : Dword) (es : Bool) (ds : Bool) (target : Dword) (by_ : Option Stream)
    (between : List (Nat × Instr)) : Ctx :=
  let pca := pca / 4 * 4
  let pce := pce / 4 * 4
  let base := max x.acc.pos x.exe.pos + 1
  let taken (o : Outcome) : Outcome := { o with taken := true, target := target }
  let honour (addr : Dword) (c : Ctl) : Ctl :=
    if ds then
      match c with
      | .slot b => .slot { b with target := target, outcome := b.outcome.map (fun _ => true) }
      | _ => .slot { addr := addr - 4, target := target, outcome := some true }
    else
      match c with
      | .slot _ => .seq
      | c => c
  let fresh (t : Stream) (addr : Dword) : Ctl :=
    if ds then
      .slot { addr := addr - 4, target := target
              outcome := if by_ = some t.other && (if t = .acc then !x.oqE.isEmpty else !x.oqA.isEmpty) then none else some true }
    else .seq
  let here (t : SavedText) : Bool := t.pca == pca && t.pce == pce && t.area == x.area
  match x.saved.find? here with
  | some t =>
    let lo := min t.accPos t.exePos
    let hi := max t.accPos t.exePos
    let sh := shiftPos lo hi base
    let accCtl := if es then t.accCtl else honour pca t.accCtl
    let exeCtl := if es || t.accPos == t.exePos then honour pce t.exeCtl else t.exeCtl
    { x with acc := { pc := pca, pos := base + (t.accPos - lo), ctl := accCtl }
             exe := { pc := pce, pos := base + (t.exePos - lo), ctl := exeCtl }
             ahead := t.ahead.map (fun e => (base + (e.1 - lo), e.2))
             loose := t.loose
             saved := removeFirst here x.saved
             ldq := x.ldq.map (fun i => { i with pos := sh i.pos })
             sdq := x.sdq.map (fun i => { i with pos := sh i.pos })
             pend := x.pend.map (fun i => { i with pos := sh i.pos })
             oqE := if ds && !es then (match t.accCtl, x.oqE with
               | .slot b, o :: l => if b.outcome.isNone then taken o :: l else o :: l
               | _, l => l) else x.oqE
             oqA := if ds && (es || t.accPos == t.exePos) then (match t.exeCtl, x.oqA with
               | .slot b, o :: l => if b.outcome.isNone then true :: l else o :: l
               | _, l => l) else x.oqA }
  | none =>
    let n := (max pca.toNat pce.toNat - min pca.toNat pce.toNat) / 4
    { x with acc := { pc := pca, pos := if pce < pca then base + n else base, ctl := if es then .seq else fresh .acc pca }
             exe := { pc := pce, pos := if pca < pce then base + n else base, ctl := if es || pca == pce then fresh .exe pce else .seq }
             ahead := between.map (fun e => (base + e.1, e.2))
             loose := pca != pce
             oqE := if ds && !es && by_ == some .exe then (match x.oqE with
               | [] => []
               | o :: l => taken o :: l) else x.oqE
             oqA := if ds && (es || pca == pce) && by_ == some .acc then (match x.oqA with
               | [] => []
               | _ :: l => true :: l) else x.oqA }

end Sys2Proof.Machine
end

