-- ==== Sys2Proof/Machine/Numbers.lean ====
section
/-! DEFINITION. The number formats of chapter 02: binary floats, tapered formats, integers, and the conversions among them. A
value is computed exactly and rounded once (R31, R37, R40). -/

namespace Sys2Proof.Machine

/-- Flags of `fsn` (Table 2-3) that an operation sets. -/
abbrev Flags := BitVec 7
def fNv : Flags := 1
def fDz : Flags := 2
def fOf : Flags := 4
def fUf : Flags := 8
def fNx : Flags := 16
def fSn : Flags := 32
def fSat : Flags := 64

/-- An exact value: not a number, an infinity, or (-1)^neg * m * 2^e. -/
inductive Val where
  | nan
  | inf (neg : Bool)
  | fin (neg : Bool) (m : Nat) (e : Int)
  deriving DecidableEq, Repr

/-- The shape of a binary format: exponent bits and fraction bits (Table 2-2). -/
structure FloatShape where
  eb : Nat
  fb : Nat
  deriving DecidableEq, Repr
def shapeF32 : FloatShape := ⟨8, 23⟩
def shapeF16 : FloatShape := ⟨5, 10⟩
def shapeBf16 : FloatShape := ⟨8, 7⟩
def FloatShape.bias (f : FloatShape) : Nat := 2 ^ (f.eb - 1) - 1
def FloatShape.maxExp (f : FloatShape) : Nat := 2 ^ f.eb - 1
/-- The canonical NaN of a format (Table 2-2). -/
def FloatShape.nan (f : FloatShape) : Nat := f.maxExp * 2 ^ f.fb + 2 ^ (f.fb - 1)
def FloatShape.infCode (f : FloatShape) (neg : Bool) : Nat := f.maxExp * 2 ^ f.fb + (if neg then 2 ^ (f.eb + f.fb) else 0)

/-- The value of a code of a binary format (R30). -/
def FloatShape.decode (f : FloatShape) (x : Nat) : Val :=
  let neg := x / 2 ^ (f.eb + f.fb) % 2 == 1
  let ex := nbits x f.fb f.eb
  let fr := nbits x 0 f.fb
  if ex = f.maxExp then (if fr = 0 then .inf neg else .nan)
  else if ex = 0 then .fin neg fr (1 - (f.bias : Int) - f.fb)
  else .fin neg (2 ^ f.fb + fr) ((ex : Int) - f.bias - f.fb)

/-- `m * 2^e` as a multiple of `2^q`, to nearest even, and whether it is inexact. -/
def roundTo (m : Nat) (e q : Int) : Nat × Bool :=
  if q ≤ e then (m * 2 ^ (e - q).toNat, false)
  else
    let d := (q - e).toNat
    if Nat.log2 m + 2 ≤ d then (0, m != 0)
    else
      let n := m / 2 ^ d
      let r := m % 2 ^ d
      let up := decide (2 ^ d < 2 * r) || (decide (2 ^ d = 2 * r) && n % 2 == 1)
      (if up then n + 1 else n, r != 0)

/-- Round an exact non-zero magnitude to a format, to nearest even, with the flags of R31 (tininess after rounding). -/
def FloatShape.roundFin (f : FloatShape) (neg : Bool) (m : Nat) (e : Int) : Nat × Flags :=
  let sign := if neg then 2 ^ (f.eb + f.fb) else 0
  if m = 0 then (sign, 0)
  else
    let top : Int := (Nat.log2 m : Int) + e
    let emin : Int := 1 - f.bias
    let q := max (top - f.fb) (emin - f.fb)
    let (n, nx) := roundTo m e q
    let tiny := decide (top < emin) &&
      !(decide (top + 1 = emin) && (roundTo m e (top - f.fb)).1 == 2 ^ (f.fb + 1))
    let (n, q) := if n = 2 ^ (f.fb + 1) then (2 ^ f.fb, q + 1) else (n, q)
    if n < 2 ^ f.fb then (sign + n, if nx then fNx ||| (if tiny then fUf else 0) else 0)
    else
      let ex := (q + f.fb + f.bias).toNat
      if f.maxExp ≤ ex then (f.infCode neg, fOf ||| fNx)
      else (sign + ex * 2 ^ f.fb + (n - 2 ^ f.fb), if nx then fNx ||| (if tiny then fUf else 0) else 0)

/-- Round any exact value to a format (R31). -/
def FloatShape.round (f : FloatShape) : Val → Nat × Flags
  | .nan => (f.nan, 0)
  | .inf neg => (f.infCode neg, 0)
  | .fin neg m e => f.roundFin neg m e

/-! ## Exact arithmetic on values -/

/-- The signed multiple of `2^e` that a finite value is. -/
def sgn (neg : Bool) (m : Nat) : Int := if neg then -(m : Int) else m

/-- A value from a signed integer multiple of `2^e`; `z` is the sign of a zero. -/
def ofInt (i : Int) (e : Int) (z : Bool := false) : Val :=
  if i = 0 then .fin z 0 e else .fin (decide (i < 0)) i.natAbs e

/-- The exact sum, with the flag of an invalid operation; an exact zero is +0, or -0 when both are -0 (R31). -/
def vAdd : Val → Val → Val × Flags
  | .nan, _ => (.nan, 0)
  | _, .nan => (.nan, 0)
  | .inf a, .inf b => if a = b then (.inf a, 0) else (.nan, fNv)
  | .inf a, _ => (.inf a, 0)
  | _, .inf b => (.inf b, 0)
  | .fin a m e, .fin b n g =>
    let q := min e g
    (ofInt (sgn a (m * 2 ^ (e - q).toNat) + sgn b (n * 2 ^ (g - q).toNat)) q (a && b && m == 0 && n == 0), 0)

def vNeg : Val → Val
  | .nan => .nan
  | .inf a => .inf (!a)
  | .fin a m e => .fin (!a) m e

/-- The exact product; 0 × Inf is invalid. -/
def vMul : Val → Val → Val × Flags
  | .nan, _ => (.nan, 0)
  | _, .nan => (.nan, 0)
  | .inf a, .inf b => (.inf (a != b), 0)
  | .inf a, .fin b n _ => if n = 0 then (.nan, fNv) else (.inf (a != b), 0)
  | .fin a m _, .inf b => if m = 0 then (.nan, fNv) else (.inf (a != b), 0)
  | .fin a m e, .fin b n g => (.fin (a != b) (m * n) (e + g), 0)

/-- a × b + c; 0 × Inf sets nv even when the addend is a NaN (R105). -/
def vFma (a b c : Val) : Val × Flags :=
  let (p, f) := vMul a b
  let (r, g) := vAdd p c
  (r, f ||| g)

/-- The order of numbers: `some` of the comparison, none when unordered (R105). -/
def vCmp : Val → Val → Option Ordering
  | .nan, _ => none
  | _, .nan => none
  | .inf a, .inf b => some (if a = b then .eq else if a then .lt else .gt)
  | .inf a, _ => some (if a then .lt else .gt)
  | _, .inf b => some (if b then .gt else .lt)
  | .fin a m e, .fin b n g =>
    let q := min e g
    some (compare (sgn a (m * 2 ^ (e - q).toNat)) (sgn b (n * 2 ^ (g - q).toNat)))

def vSign : Val → Bool
  | .nan => false
  | .inf a => a
  | .fin a _ _ => a

/-- FMIN, FMAX (R31): -0 is less than +0; one NaN gives the other operand. -/
def vPick (max : Bool) (a b : Val) : Val :=
  match vCmp a b with
  | none => if a = .nan then b else a
  | some .lt => if max then b else a
  | some .gt => if max then a else b
  | some .eq => if vSign a = max then b else a

/-! ## Reciprocal, reciprocal square root, power of two (R32) -/

/-- 1/x as an exact value with a sticky last bit. -/
def vRcp : Val → Val × Flags
  | .nan => (.nan, 0)
  | .inf a => (.fin a 0 0, 0)
  | .fin a m e =>
    if m = 0 then (.inf a, fDz)
    else
      let l := Nat.log2 m + 80
      let q := 2 ^ l / m
      (.fin a (2 * q + (if q * m = 2 ^ l then 0 else 1)) (-e - l - 1), 0)

/-- The integer square root, bit by bit from bit `k` down. -/
def isqrt (n : Nat) : Nat → Nat → Nat
  | 0, r => if (r + 1) * (r + 1) ≤ n then r + 1 else r
  | k + 1, r => isqrt n k (if (r + 2 ^ (k + 1)) * (r + 2 ^ (k + 1)) ≤ n then r + 2 ^ (k + 1) else r)

/-- 1/√x as an exact value with a sticky last bit. -/
def vRsq : Val → Val × Flags
  | .nan => (.nan, 0)
  | .inf a => if a then (.nan, fNv) else (.fin false 0 0, 0)
  | .fin a m e =>
    if m = 0 then (.inf a, fDz)
    else if a then (.nan, fNv)
    else
      let (m, e) := if e % 2 = 0 then (m, e) else (2 * m, e - 1)
      let l := Nat.log2 m / 2 + 80
      let q := isqrt (2 ^ (2 * l) / m) (l + 2) 0
      (.fin false (2 * q + (if q * q * m = 2 ^ (2 * l) then 0 else 1)) (-(e / 2) - l - 1), 0)

/-- ln 2 × 2^256, rounded down. -/
def ln2Fixed : Nat := 0xb17217f7d1cf79abc9e3b39803f2f6af40f343267298b62d8a0d175b8baafa2b

/-- The sum of the series of e^y from the term `t` (its index `n`), in units of 2^-256. -/
def expSeries (y : Nat) : Nat → Nat → Nat → Nat
  | 0, _, _ => 0
  | k + 1, n, t => t + expSeries y k (n + 1) (t * y / 2 ^ 256 / (n + 1))

/-- 2^x as a value with a sticky last bit: x = n + f with 0 ≤ f < 1, and 2^f from the series of e^(f ln 2) to 2^-249, beyond
what the nearest value of any lane format can turn on (log 19). -/
def vExp2 : Val → Val × Flags
  | .nan => (.nan, 0)
  | .inf a => if a then (.fin false 0 0, 0) else (.inf false, 0)
  | .fin a m e =>
    if 12 < (Nat.log2 m : Int) + e then (.fin false 1 (if a then -5000 else 5000), 0)
    else if 0 ≤ e then (.fin false 1 (sgn a (m * 2 ^ e.toNat)), 0)
    else
      let d := (-e).toNat
      let i := sgn a m
      let n := i / 2 ^ d
      let f := (i % 2 ^ d).toNat
      if f = 0 then (.fin false 1 n, 0)
      else
        let y := f * ln2Fixed / 2 ^ d
        (.fin false (2 * expSeries y 64 0 (2 ^ 256) + 1) (n - 257), 0)

/-! ## Tapered formats (R35 to R37) -/

/-- The number of leading bits of the `n` low bits of `x` equal to `b`. -/
def leadRun (x : Nat) (b : Nat) : Nat → Nat
  | 0 => 0
  | n + 1 => if x / 2 ^ n % 2 = b then leadRun x b n + 1 else 0

/-- Decode.T (R35). -/
def taperDecode (n es code : Nat) : Val :=
  if code = 0 then .fin false 0 0
  else if code = 2 ^ (n - 1) then .nan
  else
    let neg := code / 2 ^ (n - 1) % 2 == 1
    let c := if neg then 2 ^ n - code else code
    let bits := c % 2 ^ (n - 1)
    let b := bits / 2 ^ (n - 2) % 2
    let m := leadRun bits b (n - 1)
    let k : Int := if b = 1 then (m : Int) - 1 else -(m : Int)
    let len := n - 2 - m
    let rest := bits % 2 ^ len
    let elen := min es len
    let ex := rest / 2 ^ (len - elen) * 2 ^ (es - elen)
    let flen := len - elen
    let fr := rest % 2 ^ flen
    .fin neg (2 ^ flen + fr) (k * 2 ^ es + ex - flen)

/-- Round.T (R37) of an exact value, with its flags. -/
def taperRound (n es : Nat) : Val → Nat × Flags
  | .nan => (2 ^ (n - 1), fNv)
  | .inf _ => (2 ^ (n - 1), fNv)
  | .fin neg m e =>
    if m = 0 then (0, 0)
    else
      let top : Int := (Nat.log2 m : Int) + e
      let lim : Int := ((n - 2) * 2 ^ es : Nat)
      let sign (c : Nat) : Nat := if neg then 2 ^ n - c else c
      let pow2 := m == 2 ^ Nat.log2 m
      if lim < top || (lim == top && !pow2) then (sign (2 ^ (n - 1) - 1), fOf ||| fNx)
      else if top < -lim then (sign 1, fUf ||| fNx)
      else
        let k := top / (2 ^ es : Nat)
        let ex := (top % (2 ^ es : Nat)).toNat
        let fl := Nat.log2 m
        let fr := m - 2 ^ fl
        let (reg, rl) : Nat × Nat := if 0 ≤ k then (2 ^ (k.toNat + 2) - 2, k.toNat + 2) else (1, (-k).toNat + 1)
        let str := (reg * 2 ^ es + ex) * 2 ^ fl + fr
        let len := rl + es + fl
        let c := if n - 1 ≤ len then str / 2 ^ (len - (n - 1)) else str * 2 ^ (n - 1 - len)
        let rem := if n - 1 ≤ len then str % 2 ^ (len - (n - 1)) else 0
        let half := if n - 1 < len then 2 ^ (len - n) else 1
        let up := n - 1 < len && (decide (half < rem) || (decide (half = rem) && c % 2 == 1))
        (sign (if up then c + 1 else c), if rem = 0 then 0 else fNx)

/-! ## Type codes (Table 4-13) -/

/-- The shape of a float type code 0 to 2. -/
def floatShape (t : Nat) : FloatShape :=
  match t with
  | 0 => shapeF32
  | 1 => shapeF16
  | _ => shapeBf16

/-- The width and signedness of an integer type code 5 to 12. -/
def intType (t : Nat) : Nat × Bool :=
  match t with
  | 5 => (8, true) | 6 => (16, true) | 7 => (32, true) | 8 => (64, true)
  | 9 => (8, false) | 10 => (16, false) | 11 => (32, false) | _ => (64, false)

/-- The width of a type code. -/
def typeBits (t : Nat) : Nat :=
  match t with
  | 0 => 32 | 1 => 16 | 2 => 16 | 3 => 8 | 4 => 6
  | t => (intType t).1

/-- The code of an integer, wrapped to a width (R27). -/
def intWrap (w : Nat) (i : Int) : Nat := (i % 2 ^ w).toNat

/-- The least and greatest value of an integer type. -/
def intMin (w : Nat) (signed : Bool) : Int := if signed then -(2 ^ (w - 1)) else 0
def intMax (w : Nat) (signed : Bool) : Int := if signed then 2 ^ (w - 1) - 1 else 2 ^ w - 1

/-- The exact result of a saturating operation clamped to its type (R27). -/
def intClamp (w : Nat) (signed : Bool) (i : Int) : Int × Flags :=
  if i < intMin w signed then (intMin w signed, fSat)
  else if intMax w signed < i then (intMax w signed, fSat)
  else (i, 0)

/-- The value of a code of any type 0 to 12. -/
def typeDecode (t x : Nat) : Val :=
  if t ≤ 2 then (floatShape t).decode x
  else if t = 3 then taperDecode 8 1 (x % 256)
  else if t = 4 then taperDecode 6 0 (x % 64)
  else ofInt (intDecode (intType t).1 (intType t).2 x) 0

/-- An exact value to an integer, to nearest even or towards zero, and whether it is inexact. -/
def vToInt (tz : Bool) (neg : Bool) (m : Nat) (e : Int) : Int × Bool :=
  if 0 ≤ e then (sgn neg (m * 2 ^ e.toNat), false)
  else if tz then
    let d := (-e).toNat
    (sgn neg (m / 2 ^ d), m % 2 ^ d != 0)
  else
    let (n, nx) := roundTo m e 0
    (sgn neg n, nx)

/-- A conversion between type codes (R40, R106, Table 2-6): the code of the target and the flags. A float out of the range of an integer
sets `nv` alone, under .sat too (log 105). -/
def convert (src dst : Nat) (tz sat : Bool) (x : Nat) : Nat × Flags :=
  let v := typeDecode src x
  let float := src ≤ 2
  if src = dst then
    (if float && v == .nan then (floatShape src).nan else x % 2 ^ typeBits src, 0)
  else if dst ≤ 2 then (floatShape dst).round v
  else if dst ≤ 4 then
    let n := if dst = 3 then 8 else 6
    let (c, f) := taperRound n (if dst = 3 then 1 else 0) v
    (c, if v == .nan && !float then 0 else f)
  else
    let (w, signed) := intType dst
    if 5 ≤ src then
      let i := intDecode (intType src).1 (intType src).2 x
      if sat then (let (j, f) := intClamp w signed i; (intWrap w j, f)) else (intWrap w i, 0)
    else
      match v with
      | .nan => (0, fNv)
      | .inf neg => (intWrap w (if neg then intMin w signed else intMax w signed), fNv)
      | .fin neg m e =>
        let (i, nx) := vToInt tz neg m e
        let (j, f) := intClamp w signed i
        if f = 0 then (intWrap w j, if nx then fNx else 0) else (intWrap w j, fNv)

/-- The code of a target type widened to 64 bits as FCVT writes it (R106). -/
def typeExtend (t x : Nat) : Nat :=
  if 5 ≤ t then intWrap 64 (intDecode (intType t).1 (intType t).2 x) else x

end Sys2Proof.Machine
end

