-- ==== Sys2Proof/Machine/Flags.lean ====
section
/-! DEFINITION. The arithmetic status word `fsn` of a context (R33): sticky flags, which arithmetic only sets. -/

namespace Sys2Proof.Machine

/-- The word `fsn` with flags set. -/
def fsnOr (w : Dword) (f : Flags) : Dword := w ||| (f.setWidth 64)

/-- Set flags of the executing context. -/
def setFlags (f : Flags) : M Unit :=
  modS (fun s => if f = 0 then s else s.modCtx s.cur.core s.cur.ctxNo (fun x => { x with fsn := fsnOr x.fsn f }))

/-- Set flags of context `k` of core `c`. -/
def setFlagsOf (c k : Nat) (f : Flags) (s : State) : State := s.modCtx c k (fun x => { x with fsn := fsnOr x.fsn f })

end Sys2Proof.Machine
end

