-- ==== Sys2Proof/Machine/Operands.lean ====
section
/-! DEFINITION. The operand forms: the 6-bit register names (R68, Table 3-2), address registers, vector registers, the data
queues (R227 to R230), the inbox (R235), scoreboard slots (R323 to R325). -/

namespace Sys2Proof.Machine

/-! ## Granules of the executing context (R86) -/

/-- Make a granule readable. Answers false where the granule is absent-zero, so that its registers read zero. -/
def granuleForRead (g : Nat) : M Bool := do
  let c ← coreNo
  let k ← ctxNo
  let s ← get
  let a := (s.ctx c k).area
  match (s.core c).granule a g with
  | .dead => trap 0x0B
  | .absent => do modS (fillGranule c k g); return true
  | .absentZero => do
    if (s.core c).power (areaBank a) = .retention then modS (wakeBankFor c k (areaBank a))
    return false
  | .present _ => do modS (wakeBankFor c k (areaBank a)); return true

/-- Make a granule writable: present and dirty. `whole` holds for a write that covers the granule. -/
def granuleForWrite (g : Nat) (whole : Bool) : M Unit := do
  let c ← coreNo
  let k ← ctxNo
  let s ← get
  let a := (s.ctx c k).area
  match (s.core c).granule a g with
  | .dead => trap 0x0B
  | .absent => do
    if whole then modS (wakeBankFor c k (areaBank a)) else modS (fillGranule c k g)
    modS (fun s => s.modCore c (fun v => v.setGranule a g (.present true)))
  | .absentZero => do
    modS (wakeBankFor c k (areaBank a))
    modS (fun s => s.zero (spPlace c (a * 2048 + g * 64)) 64)
    modS (fun s => s.modCore c (fun v => v.setGranule a g (.present true)))
  | .present _ => do
    modS (wakeBankFor c k (areaBank a))
    modS (fun s => s.modCore c (fun v => v.setGranule a g (.present true)))

/-- The address of an offset of the own scratchpad (R148). -/
def ownVa (off : Nat) : VA := BitVec.ofNat 80 (0xF * 2 ^ 76 + off)

/-- `n` bytes at an offset of the workspace area that lie in granule `off / 64`, as a register read (R86). One that meets an
uncorrectable error is a poisoned read (R368). -/
def readArea (off n : Nat) : M Nat := do
  let present ← granuleForRead (off / 64)
  let s ← get
  let at_ := (s.ctx s.cur.core s.cur.ctxNo).area * 2048 + off
  if present then
    if s.flawed (spPlace s.cur.core at_) n then stop (.trap { code := 0x1E, va := ownVa at_ })
    else return s.load (spPlace s.cur.core at_) n
  else return 0

/-- Write `n` bytes at an offset of the workspace area, as a register write. -/
def writeArea (off n v : Nat) : M Unit := do
  granuleForWrite (off / 64) (n = 64)
  modS (fun s => s.store (spPlace s.cur.core ((s.ctx s.cur.core s.cur.ctxNo).area * 2048 + off)) n v)

/-! ## Data queues (R228 to R230) -/

/-- Pop the load-data queue for the executing word (R228, R230). -/
def popLdq : M Dword := do
  let x ← getCtx
  let n ← myPos
  match x.ldq with
  | i :: l =>
    if i.pos < n then
      match i.val with
      | some v => do modCtx (fun x => { x with ldq := l }); return v
      | none => stop (.stall .queue)
    else if n ≤ x.acc.pos then trap 0x0E else stop (.stall .queue)
  | [] => if n ≤ x.acc.pos then trap 0x0E else stop (.stall .queue)

/-- Pop the store-data queue for the executing word (R230). A wait for an item is none of the queue stalls that Table 14-9 counts. -/
def popSdq : M Dword := do
  let x ← getCtx
  let n ← myPos
  match x.sdq with
  | i :: l =>
    if i.pos < n then do modCtx (fun x => { x with sdq := l }); return i.val
    else if n ≤ x.exe.pos then trap 0x0E else stall
  | [] => if n ≤ x.exe.pos then trap 0x0E else stall

/-- Push the store-data queue (R229). -/
def pushSdq (v : Dword) : M Unit := do
  let x ← getCtx
  let n ← myPos
  if x.sdq.length < 16 then modCtx (fun x => { x with sdq := x.sdq ++ [{ pos := n, val := v }] })
  else stop (.stall .queue)

/-- Pop the next payload dword of the oldest mail entry addressed to the core's running gang (R235); the entry is freed with
its last dword. -/
def popIb : M Dword := do
  let v ← getCore
  let mine (e : InboxEntry) : Bool := e.kind == 0 && e.gid == v.gid
  match v.inbox.find? mine with
  | none => stall
  | some e =>
    match e.payload with
    | [] => stall
    | [w] => do modCore (fun v => { v with inbox := removeFirst mine v.inbox }); return w
    | w :: l => do
      modCore (fun v => { v with inbox := replaceFirst mine (fun e => { e with payload := l }) v.inbox })
      return w

/-! ## Registers -/

/-- Read a register name as a source (R68, R85, R96 to R98). -/
def readS (r : BitVec 6) : M Dword := do
  let n := r.toNat
  if n < 48 then return BitVec.ofNat 64 (← readArea (8 * n) 8)
  else if n < 55 then return tget (← getCtx).o (n - 48) 0
  else if n = 55 then return (← getCore).o7
  else if n = 56 then return (← getCtx).y0
  else if n = 57 then return (← getCtx).y1
  else if n = 58 then return (← getCtx).y2
  else if n = 59 then return (← getCtx).y3
  else if n = 60 then popLdq
  else if n = 62 then popIb
  else return 0

/-- Write a register name as a destination: o7 sets its full bit (R97), sdq pushes (R229), z discards. -/
def writeS (r : BitVec 6) (v : Dword) : M Unit := do
  let n := r.toNat
  if n < 48 then writeArea (8 * n) 8 v.toNat
  else if n < 55 then modCtx (fun x => { x with o := tset x.o (n - 48) v })
  else if n = 55 then modCore (fun k => { k with o7 := v, o7full := true })
  else if n = 61 then pushSdq v
  else pure ()

/-- EnterY (R98). -/
def Ctx.enterY (x : Ctx) (v : Dword) : Ctx := { x with y3 := x.y2, y2 := x.y1, y1 := x.y0, y0 := v }

/-- An execute-stream result: written, entered in the last-result file, and the stream moves on. -/
def finish (d : BitVec 6) (v : Dword) : M Unit := do
  writeS d v
  modCtx (fun x => x.enterY v)
  retire

/-- A scalar result that does not enter y0, of a word of one stream. -/
def finishQuiet (d : BitVec 6) (v : Dword) : M Unit := do
  writeS d v
  retire

/-- A scalar result of a word of both streams. -/
def finishBoth (d : BitVec 6) (v : Dword) : M Unit := do
  writeS d v
  retireBoth

/-- Read an address register (R85). -/
def readA (r : BitVec 4) : M VA := do return BitVec.ofNat 80 (← readArea (0x580 + 16 * r.toNat) 10)

/-- Write an address register; bytes 10 to 15 of its slot are zero. -/
def writeA (r : BitVec 4) (v : VA) : M Unit := writeArea (0x580 + 16 * r.toNat) 16 v.toNat

/-- Read a vector register. -/
def readV (r : BitVec 4) : M VReg := do return BitVec.ofNat 512 (← readArea (0x180 + 64 * r.toNat) 64)

/-- Write a vector register: the write covers its granule. -/
def writeV (r : BitVec 4) (v : VReg) : M Unit := writeArea (0x180 + 64 * r.toNat) 64 v.toNat

/-- The immediate of an I-form word: joined under HINT.PFX, else the 14 bits, sign- or zero-extended (R81, R104). -/
def immediate (i : BitVec 14) (signed : Bool) : M Dword := do
  match (← myHint) with
  | .pfx p => return (p ++ i : BitVec 36).signExtend 64
  | _ => return if signed then i.signExtend 64 else i.setWidth 64

/-! ## Scoreboard slots (R323 to R325) -/

/-- The trap that a slot's cause names (Table 14-1, Table 16-2). -/
def causeTrap (cause : Nat) : Nat :=
  match cause with
  | 1 => 0x12
  | 2 => 0x13
  | 3 => 0x15
  | _ => 0x19

/-- The cause field of slot `n` (1 to 7). -/
def Ctx.slotCause (x : Ctx) (n : Nat) : Nat := nbits x.cause.toNat (4 * (n - 1)) 4
def Ctx.slotErr (x : Ctx) (n : Nat) : Bool := x.err.toNat / 2 ^ (n - 1) % 2 == 1

/-- Set the error of a slot; the first error stands (R325). -/
def Ctx.setErr (x : Ctx) (n cause : Nat) : Ctx :=
  if n = 0 || x.slotErr n then x
  else { x with err := x.err ||| BitVec.ofNat 7 (2 ^ (n - 1)), cause := x.cause ||| BitVec.ofNat 28 (cause * 2 ^ (4 * (n - 1))) }

/-- Clear the error of a slot. -/
def Ctx.clearErr (x : Ctx) (n : Nat) : Ctx :=
  { x with err := x.err &&& ~~~ BitVec.ofNat 7 (2 ^ (n - 1)), cause := x.cause &&& ~~~ BitVec.ofNat 28 (15 * 2 ^ (4 * (n - 1))) }

/-- The first of some slots that carries an error traps, and the trap clears it (R325). -/
def slotErrors : List Nat → M Unit
  | [] => pure ()
  | n :: l => do
    let x ← getCtx
    if x.slotErr n then
      let s ← get
      stop (.trapWith { code := causeTrap (x.slotCause n) } (s.modCtx s.cur.core s.cur.ctxNo (fun x => x.clearErr n)))
    else slotErrors l

/-- Whether the waiting word still waits on a slot: a setter earlier in text is pending, or has not issued in the other stream
(R323). `setter` tells the slot that a word sets. -/
def Ctx.slotWaits (x : Ctx) (setter : Instr → BitVec 3) (ss : BitVec 3) (n : Nat) : Bool :=
  x.pendBefore ss n || x.ahead.any (fun e => e.1 < n && setter e.2 == ss)

/-- A slot with 16 pending instructions stalls a further setter (R323). -/
def slotRoom (ss : BitVec 3) : M Unit := do
  let x ← getCtx
  if ss != 0 && 16 ≤ (x.pend.filter (fun p => p.ss == ss)).length then stall

/-- Join the set of a slot as an outstanding instruction (R323). A seventeenth setter stalls. -/
def joinPend (ss : BitVec 3) (kind : PendKind) (hold : Bool) (dest : ReqDest := .none) : M Nat := do
  let x ← getCtx
  let n ← myPos
  if ss != 0 && 16 ≤ (x.pend.filter (fun p => p.ss == ss)).length then stall
  else
    let id ← freshId
    modCtx (fun x => { x with pend := x.pend ++ [{ id := id, pos := n, ss := ss, kind := kind, hold := hold, dest := dest }] })
    return id

/-- An outstanding instruction completes; a cause other than 0 is an error of its slot (R325). -/
def Ctx.complete (x : Ctx) (id cause : Nat) : Ctx :=
  match x.pend.find? (fun p => p.id == id) with
  | none => x
  | some p =>
    let x := { x with pend := x.pend.filter (fun p => p.id != id) }
    if cause = 0 then x else x.setErr p.ss.toNat cause

def Ctx.hasPend (x : Ctx) (id : Nat) : Bool := x.pend.any (fun p => p.id == id)

/-- A core with an outstanding instruction of one of its contexts completed. -/
def Core.complete (v : Core) (id cause : Nat) : Core :=
  { v with ctxs := v.ctxs.map (fun e => (e.1, if e.2.hasPend id then e.2.complete id cause else e.2)) }

/-- Withdrawn: it is sent, or sent again, only when the context returns (R374). -/
def Ctx.withdrawn (x : Ctx) (id : Nat) : Bool :=
  x.replay.any (fun r => r.id == id) || (!x.replay.isEmpty && x.deferred.any (fun h => h.req.id == id))

/-- An access of the access stream. -/
def PendKind.isAccess (k : PendKind) : Bool := k == .access || k == .atomic || k == .store || k == .fullEmpty

/-- Whether an access-stream access outstanding earlier in text is not complete (R191, R200). -/
def Ctx.accessesBefore (x : Ctx) (n : Nat) : Bool :=
  x.pend.any (fun p => p.pos < n && !x.withdrawn p.id && p.kind.isAccess)

/-- The pending completions of each slot, 5 bits each, sb1 lowest (Table 16-4). -/
def Ctx.slotCounts (x : Ctx) : Nat :=
  (List.range 7).foldl (fun a i => a + (min 31 (x.pend.filter (fun p => p.ss.toNat == i + 1)).length) * 2 ^ (5 * i)) 0

/-- The place of the context record of context `k` in save block `b` (Table 16-3). -/
def contextRecordAt (b k : Nat) : Nat := Config.saveBlock b + 0x5800 + 1024 * k

/-- The save block that holds what a stopped gang keeps under core `c`: that core's, or, once the gang has left its cores, the one
beside its image (R375, log 18). -/
def gangBlock (p : Plinth) (g : Gang) (c : Nat) : Nat :=
  if g.imaged then
    match p.imgUsed.find? (fun e => e.2.1 == g.gid && g.cores[e.2.2]? == some c) with
    | some e => Config.imageBlock e.1
    | none => c
  else c

/-- The Plinth records a completion in save block `b` of a stopped context: `sbs` and the pending completions (R326). -/
def saveSlots (b k : Nat) (x : Ctx) (s : State) : State :=
  hbmWrite s (contextRecordAt b k + 0x150) 16 0 (x.sbs.toNat + x.slotCounts * 2 ^ 64)

/-- The text position of an outstanding access. -/
def Ctx.posOf (x : Ctx) (id : Nat) : Nat := ((x.pend.find? (fun p => p.id == id)).map (·.pos)).getD 0

/-- The requests that a slice holds: linked, queued or held back. -/
def Slice.requests (v : Slice) : List Req :=
  (v.mshrs.map (fun m => m.merge)).flatten ++ (v.ingress ++ v.held).map (fun w => w.req)

/-- Some request that has left its core and is not performed satisfies `p`. -/
def sentAny (s : State) (p : Req → Bool) : Bool :=
  s.agenda.any (fun m => match m with
    | .homeRequest r => p r
    | _ => false) || s.slices.any (fun e => e.2.requests.any p)

/-- Two accesses have a common byte. -/
def reqMeets (r q : Req) : Bool := decide (q.va.toNat < r.va.toNat + r.size) && decide (r.va.toNat < q.va.toNat + q.size)

/-- A WAITA of the same context with a byte in common with `r` is not performed: on its way to its home, or parked there (R183, R198). -/
def waitaAhead (s : State) (r : Req) : Bool :=
  let mine (q : Req) : Bool := q.op == .waita && q.core == r.core && q.ctx == r.ctx && q.id != r.id && reqMeets r q
  sentAny s mine || s.slices.any (fun e => e.2.waiters.any (fun w => mine w.req))

/-- The first access that has issued and may be sent now: behind no earlier one with a common byte, and a STREL once every earlier
access has completed (R183, R191). -/
def Ctx.nextDeferred (x : Ctx) (s : State) : List Held → List Held → Option Held
  | _, [] => none
  | seen, h :: l =>
    if (!h.release || !x.accessesBefore (x.posOf h.req.id)) && !seen.any (fun q => reqMeets h.req q.req) && !waitaAhead s h.req then some h
    else x.nextDeferred s (seen ++ [h]) l

/-- An access that has issued and may not be sent yet: a STREL while an earlier access has not completed (R191), and any access behind a
deferred one, or behind a WAITA, with a common byte (R183). In a handler that withdrawn requests outlast nothing is deferred: a STREL
waits there at issue (log 44). -/
def mustDefer (s : State) (r : Req) (release : Bool) : Bool :=
  let x := s.ctx r.core r.ctx
  x.replay.isEmpty && ((release && x.accessesBefore (x.posOf r.id)) || x.deferred.any (fun q => reqMeets r q.req) || waitaAhead s r)

/-- Send a request of a context, or defer it. -/
def post (r : Req) (release : Bool) (s : State) : State :=
  if mustDefer s r release then
    s.modCtx r.core r.ctx (fun x => { x with deferred := x.deferred ++ [{ req := r, release := release }] })
  else s.send (.homeRequest r)

/-- Send what a context has deferred and may send now. Nothing is sent while withdrawn requests wait for its return (R374). -/
def sendDeferred (c k : Nat) : Nat → State → State
  | 0, s => s
  | n + 1, s =>
    let x := s.ctx c k
    if !x.replay.isEmpty then s
    else
      match x.nextDeferred s [] x.deferred with
      | none => s
      | some h =>
        sendDeferred c k n ((s.modCtx c k (fun x => { x with deferred := removeFirst (fun q => q.req.id == h.req.id) x.deferred })).send
          (.homeRequest { h.req with core := c }))

def kickDeferred (c k : Nat) (s : State) : State := sendDeferred c k (s.ctx c k).deferred.length s

/-- An outstanding instruction of a stopped gang completes: in what was saved of its context, and in its save block (R326). -/
def completeSaved (id cause : Nat) (s : State) : State :=
  let s := s.plinth.gangs.foldl (fun s g => g.savedCores.foldl (fun s e => e.2.ctxs.foldl (fun s f =>
    if f.2.hasPend id then saveSlots (gangBlock s.plinth g e.1) f.1 (f.2.complete id cause) s else s) s) s) s
  { s with plinth := { s.plinth with gangs := s.plinth.gangs.map (fun g =>
      { g with savedCores := g.savedCores.map (fun e => (e.1, e.2.complete id cause)) }) } }

/-- An outstanding instruction of context `k` of core `c` completes; that of a gang that has been stopped or has moved is found by
its name, which no other has (R326). What waited for it to be sent is sent. -/
def completePend (c k id cause : Nat) (s : State) : State :=
  if (s.ctx c k).hasPend id then kickDeferred c k (s.modCtx c k (fun x => x.complete id cause))
  else
    let s := completeSaved id cause { s with cores := s.cores.map (fun e => (e.1, e.2.complete id cause)) }
    s.cores.foldl (fun s e => e.2.ctxs.foldl (fun s f => if f.2.deferred.isEmpty then s else kickDeferred e.1 f.1 s) s) s

/-- Wait until every earlier access-stream access of the context has completed (R191). -/
def waitAccesses : M Unit := do
  let x ← getCtx
  let n ← myPos
  if x.accessesBefore n then stall

/-- Wait until every earlier instruction of the context has completed (R346). -/
def waitAll : M Unit := do
  let x ← getCtx
  let n ← myPos
  if x.pend.any (fun p => p.pos < n && p.kind != .token && !x.withdrawn p.id) then stall

/-- Later access-stream accesses wait behind an acquire or a fence (R190, R200, R330). -/
def waitHolds : M Unit := do
  let x ← getCtx
  let n ← myPos
  if x.pend.any (fun p => p.hold && p.pos < n) then stall

/-! ## Privilege and place -/

/-- A device-only word at user privilege raises the privileged-instruction trap (R75). -/
def deviceOnly : M Unit := do if !(← getCtx).dev then trap 0x02

/-- A word that may not stand in a delay slot (R79). -/
def notInSlot : M Unit := do
  let x ← getCtx
  let t := (← get).cur.stream
  if (x.slotOf t).isSome then trap 1

/-- A stream that stands at a word: it has no transfer to carry out first. -/
def StreamState.arrived (t : StreamState) : Bool :=
  match t.ctl with
  | .redirect _ => false
  | _ => true

/-- Both streams stand at one word. Where the model has not counted the words between them, it is told by their program counters (log
12). -/
def Ctx.together (x : Ctx) : Bool :=
  (x.acc.pos == x.exe.pos || (x.loose && x.acc.pc == x.exe.pc)) && x.acc.arrived && x.exe.arrived

/-- Both streams stand at one word, and so at one text position. -/
def Ctx.align (x : Ctx) : Ctx :=
  if x.loose then
    let p := max x.acc.pos x.exe.pos
    { x with acc := { x.acc with pos := p }, exe := { x.exe with pos := p }, ahead := [], loose := false }
  else x

/-- A word of both streams of which each executes its own copy raises its trap once, with both sequencers at it (R75): the stream
that comes first waits there for the other. -/
def trapTogether {α : Type} (code : Nat) : M α := do if (← getCtx).together then trap code else stall

/-- As `notInSlot`, for a word of which each stream executes its own copy. -/
def copyNotInSlot : M Unit := do
  let x ← getCtx
  let t := (← get).cur.stream
  if (x.slotOf t).isSome then trapTogether 1

/-- A word that is legal only in a control context. -/
def controlOnly : M Unit := do if (← ctxNo) ≠ 0 then trap 1

/-- The full 80-bit address of a program address (R100). -/
def Ctx.textVa (x : Ctx) (pc : Dword) : VA := x.chi ++ pc

end Sys2Proof.Machine
end

