-- ==== Sys2Proof/Machine/Translate.lean ====
section
/-! DEFINITION. Addresses: regions and homes (R147 to R153), region attributes (R169, R278), page walks and their checks (R170,
R171, R281, R282), and the sectors of HBM (R175, R177). -/

namespace Sys2Proof.Machine

/-! ## Region attributes (Table 12-3) -/

def vaRegion (va : VA) : Nat := va.toNat / 2 ^ 76
/-- The attribute entry of a region, as a number. -/
def attOf (s : State) (r : Nat) : Nat := (tget s.regions r 0).toNat
def attValid (a : Nat) : Bool := a % 2 == 1
/-- log2 of the page size. -/
def attP (a : Nat) : Nat :=
  match nbits a 1 2 with
  | 0 => 12
  | 1 => 16
  | 2 => 21
  | _ => 30
def attLevels (a : Nat) : Nat := nbits a 3 3
def attBits (a l : Nat) : Nat := nbits a (6 + 4 * l) 4
def attCache (a : Nat) : Nat := nbits a 26 2
def attGuard (a : Nat) : Bool := nbits a 28 1 == 1
def attAlias (a : Nat) : Bool := nbits a 29 1 == 1
def attHd (a : Nat) : Nat := nbits a 30 3
def attDom (a : Nat) : Bool := nbits a 33 1 == 1
def attRoot (a : Nat) : Nat := nbits a 64 58
/-- The sum of the bits per level (R170). -/
def attW (a : Nat) : Nat := (List.range (attLevels a)).foldl (fun n l => n + attBits a l) 0

/-- The tile hash of Home (R151) over address bits [79:7]. -/
def homeHash (x : Nat) : Nat := (List.range 13).foldl (fun h i => h ^^^ nbits x (6 * i + 7) 6) 0

/-- The home die of an address in a region with dom = 0 (R151). -/
def homeDie (va : VA) (a : Nat) : Nat := if attHd a < 4 then attHd a else nbits va.toNat (attP a) 2

/-- The home slice of R151; for a domain-shared region, the translating slice. -/
def homeSlice (va : VA) (a : Nat) : Nat := homeDie va a * 64 + homeHash va.toNat

/-- The stack of a local physical address, and whether a page of `size` bytes there is wholly populated (Table 7-4). -/
def paStack (pa : Nat) : Nat := pa % 2 ^ 49 / 2 ^ 36
def paPopulated (pa size : Nat) : Bool := decide (paStack pa < 12) && decide (pa % 2 ^ 36 + size ≤ 0xB_2D05_E000)

/-- The physical home slice of a domain-shared line (R153). The slices of this module are 0 to 255; those of module m stand from
256 (m + 1) on, and hold what this module's accesses bring there (log 16). -/
def physSlice (pa : Nat) : Nat :=
  (if pa / 2 ^ 49 = Config.moduleId then 0 else 256 * (pa / 2 ^ 49 + 1)) + paStack pa / 3 * 64 + homeHash (pa % 2 ^ 49)

/-! ## Walks (R170, R171, R282) -/

/-- The permission checks of Table 12-5 on a leaf or on a line filled under one. -/
def permOk (need : AccNeed) (user : Bool) (r w x dev : Bool) : Bool :=
  (match need with
   | .read => r
   | .write => w
   | .atomic => w && r
   | .fetch => x) && !(dev && user)

def leafR (e : Nat) : Bool := nbits e 1 1 == 1
def leafW (e : Nat) : Bool := nbits e 2 1 == 1
def leafX (e : Nat) : Bool := nbits e 3 1 == 1
def leafDev (e : Nat) : Bool := nbits e 4 1 == 1
def leafFrame (e : Nat) : Nat := nbits e 5 46 * 2 ^ 12
def leafKey (e : Nat) : Nat := nbits e 51 12

/-- The physical address that a leaf gives for an address. -/
def leafPa (e : Nat) (va : VA) (a : Nat) : Nat := leafFrame e + va.toNat % 2 ^ attP a

/-- The frame checks of Table 7-8 for one frame and leaf: the trap code, or the record after the check. -/
def frameCheck (r : FrameRec) (e leafAt : Nat) (second : Bool) : Except Nat FrameRec :=
  if r.key ≠ 0 ∧ r.key.toNat ≠ leafKey e then .error 0x08
  else if !second && r.writable && r.leaf != leafAt then .error 0x08
  else if !second && leafW e && !r.writable then .ok { key := BitVec.ofNat 12 (leafKey e), writable := true, leaf := leafAt }
  else .ok (if r.key = 0 then { r with key := BitVec.ofNat 12 (leafKey e) } else r)

/-- The frame checks for every frame of the page. -/
def framesCheck (s : State) (e leafAt : Nat) (second : Bool) : List Nat → Except Nat State
  | [] => .ok s
  | f :: l =>
    match frameCheck (tget s.frames f {}) e leafAt second with
    | .error c => .error c
    | .ok r => framesCheck { s with frames := tset s.frames f r } e leafAt second l

/-- Enter a translation in the translation cache of a slice: 4,096 entries in 8 ways (R168). The set is that of the low 9 bits of the
page number (log 85), and the way replaced a free choice (log 10). -/
def stcFill (sl : Nat) (t : Trans) (s : State) : State :=
  let same := (s.slice sl).stc.filter (fun x => x.vpn % 512 == t.vpn % 512)
  if same.length < 8 then s.modSlice sl (fun v => { v with stc := t :: v.stc })
  else
    let victim := nth same (Config.pick s.draws % 8) t
    s.drawn.modSlice sl (fun v => { v with stc := t :: v.stc.filter (· != victim) })

/-- Check (R171, R282): the form and permission checks of Table 12-5, then those of Table 7-8 (log 20). A walk that passes
enters the slice translation cache. -/
def leafCheck (s : State) (asid : BitVec 12) (va : VA) (a e leafAt : Nat) (need : AccNeed) (user : Bool) : Except Nat (State × Nat) :=
  let P := attP a
  let frame := leafFrame e
  if frame % 2 ^ P ≠ 0 then .error 0x07
  else if leafKey e = 0 && !leafDev e then .error 0x07
  else if !permOk need user (leafR e) (leafW e) (leafX e) (leafDev e) then .error 0x06
  else if !attDom a && frame / 2 ^ 49 != Config.moduleId then .error 0x07
  else if !paPopulated frame (2 ^ P) then .error 0x07
  else if !attDom a && paStack frame / 3 != homeDie va a then .error 0x07
  else if !keyInstalled s (leafKey e) then .error 0x07
  else
    match framesCheck s e leafAt (attAlias a || attDom a) ((List.range (2 ^ (P - 12))).map (frame / 4096 + ·)) with
    | .error c => .error c
    | .ok s =>
      .ok (stcFill (homeSlice va a)
        { asid := asid, region := BitVec.ofNat 4 (vaRegion va), vpn := va.toNat / 2 ^ P, leaf := BitVec.ofNat 64 e } s, e)

/-- The levels of a walk from table `t`; `lo` is the number of address bits still to be used. -/
def walkLevels (s : State) (asid : BitVec 12) (va : VA) (a : Nat) (need : AccNeed) (user : Bool) :
    List Nat → Nat → Nat → Except Nat (State × Nat)
  | [], _, _ => .error 0x06
  | l :: ls, t, lo =>
    let b := attBits a l
    let at_ := t + 8 * nbits va.toNat (lo - b) b
    let e := hbmRead s at_ 8 0
    if e % 2 = 0 then .error 0x06
    else if ls.isEmpty then
      (if e / 2 ^ 63 = 1 then .error 0x06 else leafCheck s asid va a e at_ need user)
    else if nbits e 1 4 ≠ 0 ∨ e / 2 ^ 51 ≠ 0 then .error 0x06
    else walkLevels s asid va a need user ls (leafFrame e) (lo - b)

/-- Walk (R170). -/
def walk (s : State) (asid : BitVec 12) (va : VA) (a : Nat) (need : AccNeed) (user : Bool) : Except Nat (State × Nat) :=
  let top := attP a + attW a
  if top < 76 ∧ nbits va.toNat top (76 - top) ≠ 0 then .error 0x04
  else
    let e := hbmRead s (attRoot a + 8 * asid.toNat) 8 0
    if e % 2 = 0 then .error 0x06
    else if nbits e 1 4 ≠ 0 ∨ e / 2 ^ 51 ≠ 0 then .error 0x06
    else walkLevels s asid va a need user (List.range (attLevels a)) (leafFrame e) top

/-- The translation that a slice holds of the page of an address. -/
def heldTrans (s : State) (asid : BitVec 12) (va : VA) (a : Nat) : Option Trans :=
  (s.slice (homeSlice va a)).stc.find? (fun t =>
    t.asid == asid && t.region.toNat == vaRegion va && t.vpn == va.toNat / 2 ^ attP a)

/-- The key id of a cached line agrees with that of the page of an address, as far as the slice holds its translation (R157, R162; a
request carries no key id of its own, log 86). -/
def keyFits (s : State) (asid : BitVec 12) (va : VA) (key : BitVec 12) : Bool :=
  match heldTrans s asid va (attOf s (vaRegion va)) with
  | some t => leafKey t.leaf.toNat == key.toNat
  | none => true

/-- The page of an address among those that queued and running macro-ops and reports to be written have probed: it stays mapped until
they complete (R124, R397). -/
def keptTrans (s : State) (asid : BitVec 12) (va : VA) (a : Nat) : Option Trans :=
  let here (t : Trans) : Bool := t.asid == asid && t.region.toNat == vaRegion va && t.vpn == va.toNat / 2 ^ attP a
  match s.cores.findSome? (fun e => e.2.queue.findSome? (fun m => m.pages.find? here)) with
  | some t => some t
  | none => s.dies.findSome? (fun e => e.2.attests.findSome? (fun r => r.pages.find? here))

/-- Translate at the slice (R168): the translation cache or a page that stays mapped, then a walk. Answers the leaf. -/
def translate (s : State) (asid : BitVec 12) (va : VA) (need : AccNeed) (user : Bool) : Except Nat (State × Nat) :=
  let r := vaRegion va
  let a := attOf s r
  if !attValid a then .error 0x04
  else
    match (heldTrans s asid va a).or (keptTrans s asid va a) with
    | some t =>
      let e := t.leaf.toNat
      if permOk need user (leafR e) (leafW e) (leafX e) (leafDev e) then .ok (s, e) else .error 0x06
    | none => walk s asid va a need user

/-! ## Where an access goes -/

/-- A place of an HBM-backed access: its slice, the tag of its line, the physical address, the permissions that came with the
translation, and the cacheability of its region. -/
structure Loc where
  slice : Nat
  tag   : LineTag
  pa    : Nat
  r     : Bool
  w     : Bool
  x     : Bool
  dev   : Bool
  cache : Nat
  dom   : Bool
  va    : VA
  asid  : BitVec 12
  deriving DecidableEq, Repr

/-- The target of an access: a scratchpad, an Ashlar bank, or an HBM-backed location. -/
inductive Target where
  | sp (core off : Nat)
  | ash (bank off : Nat)
  | hbm (l : Loc)
  deriving DecidableEq, Repr

/-- Two tags name one line of one address space, whatever its key id. -/
def sameTag (a b : LineTag) : Bool := a.phys == b.phys && a.line == b.line && a.asid == b.asid

/-- The match of tags on an access: the key id takes part (R162). -/
def sameLine (a b : LineTag) : Bool := sameTag a b && a.key == b.key

/-- A region 0xF address (R148), for an access by core `c` of gang `gid`. An engine names every scratchpad with rem = 1; an engine's
address with rem = 0 is taken as the scratchpad of the core that submitted the work (log 87). -/
def resolveSp (s : State) (c : Nat) (gid : BitVec 32) (va : VA) : Except Nat Target :=
  let v := va.toNat
  if nbits v 31 45 ≠ 0 then .error 0x04
  else if nbits v 30 1 = 0 then (if nbits v 18 12 ≠ 0 then .error 0x04 else .ok (.sp c (v % 2 ^ 18)))
  else
    let t := nbits v 28 2 * 1024 + nbits v 18 10
    if (s.core t).gid = gid then .ok (.sp t (v % 2 ^ 18)) else .error 0x05

/-- A region 0xE address (R149, R302): the bank must be the gang's and the bytes below its merge-buffer partition. -/
def resolveAsh (s : State) (gid : BitVec 32) (va : VA) (size : Nat) : Except Nat Target :=
  let v := va.toNat
  if nbits v 25 51 ≠ 0 then .error 0x04
  else
    let bank := nbits v 23 2 * 128 + nbits v 17 6 * 2 + nbits v 16 1
    let u := s.ashlar bank
    if u.gid ≠ gid then .error 0x05
    else if u.mst * 256 < v % 2 ^ 16 + size then .error 0x05
    else .ok (.ash bank (v % 2 ^ 16))

/-- The place of an address under a leaf. -/
def leafLoc (asid : BitVec 12) (va : VA) (a e : Nat) : Loc :=
  let pa := leafPa e va a
  let key := BitVec.ofNat 12 (leafKey e)
  { slice := if attDom a then physSlice pa else homeSlice va a
    tag := if attDom a then { phys := true, line := pa / 128, asid := 0, key := key }
      else { phys := false, line := va.toNat / 128, asid := asid, key := key }
    pa := pa, r := leafR e, w := leafW e, x := leafX e, dev := leafDev e, cache := attCache a, dom := attDom a, va := va, asid := asid }

/-- The leaf under which a place was found: what a request carries of its translation (log 6). -/
def Loc.leaf (l : Loc) (a : Nat) : Dword :=
  BitVec.ofNat 64 (1 + (if l.r then 2 else 0) + (if l.w then 4 else 0) + (if l.x then 8 else 0) + (if l.dev then 16 else 0) +
    (l.pa - l.va.toNat % 2 ^ attP a) / 2 ^ 12 * 2 ^ 5 + l.tag.key.toNat * 2 ^ 51)

/-- An HBM-backed address: a line of the LLC that holds it answers by its permission bits, else the slice translates (R168). -/
def resolveHbm (s : State) (asid : BitVec 12) (va : VA) (need : AccNeed) (user : Bool) : Except Nat (Target × State) :=
  let a := attOf s (vaRegion va)
  if !attValid a then .error 0x04
  else
    let hs := homeSlice va a
    let vtag : LineTag := { phys := false, line := va.toNat / 128, asid := asid, key := 0 }
    match (if attDom a then none else (s.slice hs).lines.find? (fun l =>
      sameTag l.tag vtag && !l.replica && keyFits s asid va l.tag.key)) with
    | some l =>
      if permOk need user l.r l.w l.x l.dev then
        .ok (.hbm { slice := hs, tag := l.tag, pa := l.pa + va.toNat % 128, r := l.r, w := l.w, x := l.x, dev := l.dev,
                    cache := attCache a, dom := false, va := va, asid := asid }, s)
      else .error 0x06
    | none =>
      match translate s asid va need user with
      | .error c => .error c
      | .ok (s, e) => .ok (.hbm (leafLoc asid va a e), s)

/-- Resolve any address for an access by core `c` of gang `gid` and address space `asid`. -/
def resolve (s : State) (c : Nat) (gid : BitVec 32) (asid : BitVec 12) (va : VA) (size : Nat) (need : AccNeed) (user : Bool) :
    Except Nat (Target × State) :=
  if vaRegion va = 15 then
    (match resolveSp s c gid va with
     | .error e => .error e
     | .ok t => .ok (t, s))
  else if vaRegion va = 14 then
    (match resolveAsh s gid va size with
     | .error e => .error e
     | .ok t => .ok (t, s))
  else resolveHbm s asid va need user

/-- Whether bytes of a scratchpad touch the area of a live context of that core (R92). -/
def touchesLiveArea (s : State) (c off size : Nat) : Bool :=
  (s.core c).ctxs.any (fun e => e.2.live && decide (e.2.area * 2048 < off + size) && decide (off < e.2.area * 2048 + 2048))

end Sys2Proof.Machine
end

