-- ==== Sys2Proof/Machine/Llc.lean ====
section
/-! DEFINITION. The caches and the homes: LLC slices with fills, victims and bypasses (R162 to R167), L1 invalidations (R159), the
remote-access monitor and replicas (R172, R173), and reads and writes at a home. -/

namespace Sys2Proof.Machine

/-! ## Lines -/

/-- The set of a line in its slice (R151): VA[21:13] XOR VA[30:22], and, for a physically tagged line of a domain-shared region, whose
set the manual does not give, the same bits of its PA (log 88). -/
def lineSet (t : LineTag) : Nat := nbits t.line 6 9 ^^^ nbits t.line 15 9

/-- The line of a slice with a tag, replica or not. -/
def findLine (s : State) (sl : Nat) (t : LineTag) (replica : Bool) : Option Line :=
  (s.slice sl).lines.find? (fun l => sameLine l.tag t && l.replica == replica)

def modLine (sl : Nat) (t : LineTag) (replica : Bool) (f : Line → Line) (s : State) : State :=
  s.modSlice sl (fun v => { v with lines := replaceFirst (fun l => sameLine l.tag t && l.replica == replica) f v.lines })

def dropLine (sl : Nat) (t : LineTag) (replica : Bool) (s : State) : State :=
  s.modSlice sl (fun v => { v with lines := removeFirst (fun l => sameLine l.tag t && l.replica == replica) v.lines })

def bitAt (b : BitVec n) (i : Nat) : Bool := b.getLsbD i

/-- The bytes of a sector of a line. -/
def sectorOf (data : BitVec 1024) (i : Nat) : Nat := nbits data.toNat (256 * i) 256

/-- The sectors that `n` bytes at byte `off` of a line touch. -/
def sectorMask (off n : Nat) : Nat :=
  (List.range 4).foldl (fun m i => if off / 32 ≤ i ∧ i ≤ (off + n - 1) / 32 then m + 2 ^ i else m) 0

/-! ## L1 copies (R157, R159) -/

/-- Remove the ordinary L1 copies of a home line from the cores of `dies` but one (R159). It reaches every copy, whether or not a
presence vector flags it: one of another die, or that of a core whose own store cleared the vector (log 21). An invariant line stays
(R188). -/
def dropL1On (dies : Nat → Bool) (home : LineTag) (keep : Option Nat) (s : State) : State :=
  { s with cores := s.cores.map (fun e =>
      if keep = some e.1 || !dies (coreDie e.1) then e
      else (e.1, { e.2 with l1 := e.2.l1.filter (fun l => !(sameTag l.home home && !l.inv)) })) }

def dropL1 (home : LineTag) (keep : Option Nat) (s : State) : State := dropL1On (fun _ => true) home keep s

/-- The block of 2 by 2 tiles of a core (R159). -/
def presenceBit (c : Nat) : Nat := 4 * (coreTile c / 8 / 2) + coreTile c % 8 / 2

/-- The sectors of one line put over those of another. -/
def spliceSectors (mask : BitVec 4) (new old : BitVec 1024) : BitVec 1024 :=
  BitVec.ofNat 1024 ((List.range 4).foldl (fun x i => if bitAt mask i then spliceBytes x (32 * i) 32 (sectorOf new i) else x) old.toNat)

/-- Sectors of a line join an L1 line. An ordinary load that meets an invariant line fetches it anew (R188). -/
def L1Line.join (n l : L1Line) : L1Line :=
  if l.inv && !n.inv then n
  else { l with valid := l.valid ||| n.valid, data := spliceSectors n.valid n.data l.data, inv := l.inv && n.inv }

/-- Put sectors of a line into the L1 of a core (R157): 64 sets of 4 ways, the set by VA[12:7] (log 100); the victim is a free choice
(log 10). -/
def l1Fill (c : Nat) (n : L1Line) (s : State) : State :=
  let v := s.core c
  let mine (l : L1Line) : Bool := l.line == n.line && l.asid == n.asid && l.key == n.key
  match v.l1.find? mine with
  | some _ => s.modCore c (fun v => { v with l1 := replaceFirst mine n.join v.l1 })
  | none =>
    let same := v.l1.filter (fun l => l.line % 64 == n.line % 64)
    if same.length < 4 then s.modCore c (fun v => { v with l1 := n :: v.l1 })
    else
      let victim := nth same (Config.pick s.draws % 4) n
      s.drawn.modCore c (fun v => { v with l1 := n :: v.l1.filter (fun l => l != victim) })

/-- Put sectors of a line into the constant cache of a core (R160): 16 KiB in 128 lines; the line replaced is a free choice
(log 10). -/
def ccFill (c : Nat) (n : CodeLine) (s : State) : State :=
  let v := s.core c
  let mine (l : CodeLine) : Bool := l.line == n.line && l.asid == n.asid && l.key == n.key
  match v.cc.find? mine with
  | some _ =>
    let join (l : CodeLine) : CodeLine := { l with valid := l.valid ||| n.valid, data := spliceSectors n.valid n.data l.data }
    s.modCore c (fun v => { v with cc := replaceFirst mine join v.cc })
  | none =>
    if v.cc.length < 128 then s.modCore c (fun v => { v with cc := n :: v.cc })
    else
      let victim := nth v.cc (Config.pick s.draws % 128) n
      s.drawn.modCore c (fun v => { v with cc := n :: v.cc.filter (fun l => l != victim) })

/-! ## The fault log (R409) -/

def logFault (d : Nat) (e : BitVec 128) (s : State) : State :=
  s.modDie d (fun v => if v.faultLog.length < 64 then { v with faultLog := v.faultLog ++ [e] } else { v with dropped := v.dropped + 1 })

/-- An entry with a code, a die and nothing else (Table 21-2). -/
def faultEntry (code d : Nat) : BitVec 128 := BitVec.ofNat 128 (code * 2 ^ 80 + d * 2 ^ 44)

/-! ## Reports (R368) -/

/-- A poisoned write-back is reported to the rank-0 control context of every running gang launched under the key id, and to the
error log (R368). Where a report of the kind is pending, this one is counted in the die's fault log only (R367). -/
def reportPoison (key pa : Nat) (s : State) : State :=
  let s := s.modPlinth (fun p => { p with errorLog := p.errorLog ++ [pa] })
  if key = 0 then s
  else s.plinth.gangs.foldl (fun s g =>
    if g.launch.key.toNat = key && !g.stopped then
      let c := g.cores.headD 0
      if (s.ctx c 0).poisonReport.isSome then logFault (coreDie c) (faultEntry 0x31 (coreDie c)) s
      else (s.modCtx c 0 (fun x => { x with poisonReport := some (BitVec.ofNat 58 pa) })).send (.asyncReport c 0)
    else s) s

/-! ## Filling and evicting (R162 to R167) -/

/-- Write the dirty sectors of a line back to HBM under its key id; a poisoned dirty sector is written poisoned (R368). -/
def writeBack (l : Line) (s : State) : State :=
  (List.range 4).foldl (fun s i =>
    if bitAt l.dirty i then
      let s := sectorWrite s (l.pa + 32 * i) l.tag.key.toNat (sectorOf l.data i) (bitAt l.poison i)
      if bitAt l.poison i then reportPoison l.tag.key.toNat (l.pa + 32 * i) s else s
    else s) s

/-- The replica slice of a home slice on a die (R173). -/
def replicaSlice (home d : Nat) : Nat := d * 64 + home % 64

/-- Drop every replica of a line of a home slice, with their L1 copies but that of one core (R173). -/
def dropReplicas (home : Nat) (t : LineTag) (keep : Option Nat) (s : State) : State :=
  (List.range 4).foldl (fun s d =>
    let mine (l : Line) : Bool := l.replica && sameTag l.tag t
    if (s.slice (replicaSlice home d)).lines.any mine then
      dropL1On (· == d) t keep (s.modSlice (replicaSlice home d) (fun v => { v with lines := v.lines.filter (fun l => !mine l) }))
    else s) s

/-- Remove a line from a slice: its dirty sectors are written back, its copies dropped (log 101). -/
def evict (sl : Nat) (l : Line) (s : State) : State :=
  if l.replica then dropL1On (· == sl / 64) l.tag none (dropLine sl l.tag true s)
  else dropL1 l.tag none (dropReplicas sl l.tag none (dropLine sl l.tag false (writeBack l s)))

/-- Demote a handle: it and every line of it on the die fall to priority 0 (R167). -/
def setHandlePri (d h : Nat) (pri : BitVec 3) (s : State) : State :=
  let s := s.modDie d (fun v =>
    let e := tget v.handles h 0
    { v with handles := tset v.handles h ((e &&& ~~~ (14 : BitVec 256)) ||| (pri.setWidth 256 <<< 1)) })
  { s with slices := s.slices.map (fun e =>
      if e.1 / 64 = d then (e.1, { e.2 with lines := e.2.lines.map (fun l => if l.handle = some h then { l with pri := pri } else l) })
      else e) }

/-- The least-priority handle among the managed ways of a set, ties to the lowest number (R167). -/
def leastHandle (ways : List Line) : Option Nat :=
  ((ways.filter (fun l => l.pri != 0)).foldl (fun (best : Option (Nat × Nat)) l =>
    match l.handle, best with
    | some h, none => some (l.pri.toNat, h)
    | some h, some b => if l.pri.toNat < b.1 ∨ (l.pri.toNat = b.1 ∧ h < b.2) then some (l.pri.toNat, h) else best
    | none, b => b) none).map (·.2)

/-- The ways of the set of a line. -/
def setWays (s : State) (sl : Nat) (t : LineTag) : List Line := (s.slice sl).lines.filter (fun l => lineSet l.tag == lineSet t)

/-- Every way of the set of a line is pinned (R166). -/
def setPinned (s : State) (sl : Nat) (t : LineTag) : Bool :=
  decide (16 ≤ (setWays s sl t).length) && (setWays s sl t).all (fun l => !l.pins.isEmpty)

/-- Make room in the set of a line, demoting handles while there is no unmanaged way to take. Answers false when every way is
pinned (R163, R166, R167). -/
def makeRoomBy : Nat → Nat → LineTag → State → State × Bool
  | 0, _, _, s => (s, false)
  | n + 1, sl, t, s =>
    if (setWays s sl t).length < 16 then (s, true)
    else
      match (setWays s sl t).filter (fun l => l.pins.isEmpty && l.pri == 0) with
      | l :: ls => (evict sl (nth (l :: ls) (Config.pick s.draws % (ls.length + 1)) l) s.drawn, true)
      | [] =>
        if setPinned s sl t then (s, false)
        else
          match leastHandle (setWays s sl t) with
          | none => (s, false)
          | some h => makeRoomBy n sl t (setHandlePri (sl / 64) h 0 s)

def makeRoom (sl : Nat) (t : LineTag) (s : State) : State × Bool := makeRoomBy 17 sl t s

/-- The open handle of a die that covers a virtual line (R204). -/
def handleOf (s : State) (d line : Nat) (asid : BitVec 12) : Option (Nat × BitVec 3) :=
  ((s.die d).handles.find? (fun e =>
    let h := e.2.toNat
    let len := if nbits h 144 40 = 0 then 2 ^ 40 else nbits h 144 40
    h % 2 == 1 && nbits h 4 12 == asid.toNat && decide (nbits h 64 80 ≤ line * 128) &&
      decide (line * 128 < nbits h 64 80 + len))).map
    (fun e => (e.1, BitVec.ofNat 3 (nbits e.2.toNat 1 3)))

/-- Bring sectors of a line into its slice from HBM. Answers false when the set is wholly pinned. -/
def ensureLine (l : Loc) (mask : Nat) (s : State) : State × Bool :=
  let base := l.pa / 128 * 128
  let key := l.tag.key.toNat
  match findLine s l.slice l.tag false with
  | some n =>
    let need := (List.range 4).filter (fun i => nbits mask i 1 == 1 && !bitAt n.valid i)
    let data := need.foldl (fun x i => spliceBytes x (32 * i) 32 (sectorRead s (base + 32 * i) key)) n.data.toNat
    let bits := need.foldl (fun m i => m + 2 ^ i) 0
    let pois := need.foldl (fun m i => if sectorPoison s (base + 32 * i) then m + 2 ^ i else m) 0
    (if need.isEmpty then s
     else modLine l.slice l.tag false (fun n => { n with data := BitVec.ofNat 1024 data, valid := n.valid ||| BitVec.ofNat 4 bits,
                                                         poison := n.poison ||| BitVec.ofNat 4 pois }) s, true)
  | none =>
    match makeRoom l.slice l.tag s with
    | (s, false) => (s, false)
    | (s, true) =>
      let need := (List.range 4).filter (fun i => nbits mask i 1 == 1)
      let data := need.foldl (fun x i => spliceBytes x (32 * i) 32 (sectorRead s (base + 32 * i) key)) 0
      let pois := need.foldl (fun m i => if sectorPoison s (base + 32 * i) then m + 2 ^ i else m) 0
      let h := handleOf s (l.slice / 64) (l.va.toNat / 128) l.asid
      let n : Line := { tag := l.tag, r := l.r, w := l.w, x := l.x, dev := l.dev, pa := base, replica := false,
                        valid := BitVec.ofNat 4 mask, dirty := 0, poison := BitVec.ofNat 4 pois, data := BitVec.ofNat 1024 data,
                        presence := 0, replicas := 0, pins := [], handle := h.map (·.1), pri := (h.map (·.2)).getD 0 }
      (s.modSlice l.slice (fun v => { v with lines := n :: v.lines }), true)

/-! ## Replicas and the monitor (R172, R173) -/

/-- Drop every replica of a 64 KiB block, with their L1 copies (R173). -/
def dropReplicaBlock (asid : BitVec 12) (block : Nat) (s : State) : State :=
  s.slices.foldl (fun s e => e.2.lines.foldl (fun s l =>
    if l.replica && l.tag.asid == asid && l.tag.line / 512 == block then evict e.1 l s else s) s) s

/-- The monitor counts a read from another die, or a write, of a block (R172). -/
def monitorCount (l : Loc) (write : Bool) (s : State) : State :=
  if l.dom || vaRegion l.va = 13 then s
  else
    let d := l.slice / 64
    let block := l.va.toNat / 2 ^ 16
    let mine (m : Monitored) : Bool := m.asid == l.asid && m.block == block
    let old := ((s.die d).monitor.find? mine).getD { asid := l.asid, block := block, reads := 0, writes := 0, replicated := false }
    let m := if write then { old with writes := old.writes + 1 } else { old with reads := old.reads + 1 }
    let rep := if m.replicated then !decide (4 < m.writes) else decide (64 < m.reads) && m.writes == 0
    let changed := rep != m.replicated
    let rest := (s.die d).monitor.filter (fun x => !mine x)
    let full := decide (1024 ≤ rest.length)
    let lost := if full then rest.head? else none
    let s := s.modDie d (fun v => { v with
      monitor := (if full then rest.drop 1 else rest) ++ [{ m with replicated := rep }]
      pageMode := v.pageMode + (if changed then 1 else 0) + (if lost.any (·.replicated) then 1 else 0) })
    let s := if changed && !rep then dropReplicaBlock l.asid block s else s
    match lost with
    | some x => if x.replicated then dropReplicaBlock x.asid x.block s else s
    | none => s

/-- Whether a line of a slice holds sectors. -/
def holds (s : State) (sl : Nat) (t : LineTag) (replica : Bool) (mask : Nat) : Bool :=
  match findLine s sl t replica with
  | some x => (List.range 4).all (fun i => nbits mask i 1 == 0 || bitAt x.valid i)
  | none => false

/-- A read of `n` bytes by a party on die `d` hits a replica line there (R173). -/
def replicaHits (s : State) (d : Nat) (l : Loc) (n : Nat) : Bool :=
  d != l.slice / 64 && holds s (replicaSlice l.slice d) l.tag true (sectorMask (l.pa % 128) n)

/-- The bytes of a replica line on die `d`. -/
def replicaBytes (s : State) (d : Nat) (l : Loc) (n : Nat) : Nat :=
  match findLine s (replicaSlice l.slice d) l.tag true with
  | some x => nbits x.data.toNat (8 * (l.pa % 128)) (8 * n)
  | none => 0

/-- A read from die `rd` in replicated mode fills sectors of a replica line there (R173). -/
def replicaFill (l : Loc) (rd : Nat) (mask : Nat) (s : State) : State :=
  let d := l.slice / 64
  let rs := replicaSlice l.slice rd
  let on := (s.die d).monitor.any (fun m => m.asid == l.asid && m.block == l.va.toNat / 2 ^ 16 && m.replicated)
  if l.dom || rd = d || !on then s
  else
    match findLine s l.slice l.tag false with
    | none => s
    | some n =>
      let bits := n.valid &&& BitVec.ofNat 4 mask
      let mark (s : State) : State := modLine l.slice l.tag false (fun n => { n with replicas := n.replicas ||| BitVec.ofNat 4 (2 ^ rd) }) s
      if (findLine s rs l.tag true).isSome then
        mark (modLine rs l.tag true (fun q => { q with
          valid := q.valid ||| bits, poison := q.poison ||| (n.poison &&& bits), data := spliceSectors bits n.data q.data }) s)
      else
        match makeRoom rs l.tag s with
        | (s, false) => s
        | (s, true) => mark (s.modSlice rs (fun v => { v with lines :=
            { n with replica := true, valid := bits, poison := n.poison &&& bits, dirty := 0, presence := 0, replicas := 0, pins := []
                     handle := none, pri := 0 } :: v.lines }))

/-! ## Reading and writing at a home -/

/-- Poison of any sector that an access touches. -/
def locPoison (l : Loc) (n : Nat) (s : State) : Bool :=
  (List.range 4).any (fun i => nbits (sectorMask (l.pa % 128) n) i 1 == 1 &&
    (match findLine s l.slice l.tag false with
     | some x => if bitAt x.valid i then bitAt x.poison i else sectorPoison s (l.pa / 128 * 128 + 32 * i)
     | none => sectorPoison s (l.pa / 128 * 128 + 32 * i)))

/-- The sectors of a line that are not poisoned. -/
def cleanSectors (l : Loc) (s : State) : BitVec 4 :=
  BitVec.ofNat 4 ((List.range 4).foldl (fun m i =>
    if locPoison { l with pa := l.pa / 128 * 128 + 32 * i } 32 s then m else m + 2 ^ i) 0)

/-- A sector as it stands: in its line where that holds it, else in HBM. -/
def sectorNow (l : Loc) (i : Nat) (s : State) : Nat :=
  match findLine s l.slice l.tag false with
  | some x => if bitAt x.valid i then sectorOf x.data i else sectorRead s (l.pa / 128 * 128 + 32 * i) l.tag.key.toNat
  | none => sectorRead s (l.pa / 128 * 128 + 32 * i) l.tag.key.toNat

/-- `n` bytes of a location as they stand. -/
def locNow (l : Loc) (n : Nat) (s : State) : Nat :=
  let off := l.pa % 128
  let line := (List.range 4).foldl (fun d i =>
    if nbits (sectorMask off n) i 1 = 1 then d + sectorNow l i s * 2 ^ (256 * i) else d) 0
  nbits line (8 * off) (8 * n)

/-- Read `n` bytes at an HBM-backed home: what the access misses is filled first where the region is cached and the set has room
(R166); `alloc` is false for a hinted access, which allocates nothing (R184). -/
def locRead (l : Loc) (n : Nat) (alloc : Bool) (s : State) : State × Nat :=
  let s := if l.cache = 0 || !alloc then s else (ensureLine l (sectorMask (l.pa % 128) n) s).1
  (s, locNow l n s)

/-- A demand request that misses in a set whose every way is pinned is served as a bypass, and counts (R166). -/
def countBypass (l : Loc) (alloc : Bool) (s : State) : State :=
  if l.cache != 0 && alloc && (findLine s l.slice l.tag false).isNone && setPinned s l.slice l.tag then
    s.modDie (l.slice / 64) (fun d => { d with pinBypass := d.pinBypass + 1 })
  else s

/-- A read from another die counts; an atomic is a read beside the write (R172, log 102). -/
def countRemote (d : Nat) (l : Loc) (s : State) : State := if d = l.slice / 64 then s else monitorCount l false s

/-- A read by a party on die `d` at a home. -/
def homeRead (d : Nat) (l : Loc) (n : Nat) (alloc : Bool) (s : State) : State × Nat :=
  locRead l n alloc (countBypass l alloc (countRemote d l s))

/-- A prefetch by a party on die `d` at a home: no demand request, it counts no bypass (R166). -/
def homePrefetch (d : Nat) (l : Loc) (n : Nat) (s : State) : State := (locRead l n true (countRemote d l s)).1

/-- The sectors that a write covers whole. -/
def wholeMask (off n : Nat) : Nat :=
  (List.range 4).foldl (fun m i => if off ≤ 32 * i ∧ 32 * i + 32 ≤ off + n then m + 2 ^ i else m) 0

/-- Put bytes of a store into the L1 copy of the storing core (R158). -/
def l1Merge (c : Nat) (l : Loc) (n v : Nat) (s : State) : State :=
  s.modCore c (fun k => { k with l1 := k.l1.map (fun x =>
    if x.line == l.va.toNat / 128 && x.asid == l.asid then
      { x with data := BitVec.ofNat 1024 (spliceBytes x.data.toNat (l.pa % 128) n v) }
    else x) })

/-- The invalidations before a write at a home, and the vectors cleared (R159, R173); `keep` names the storing core, whose own copy
takes the bytes. -/
def invalidate (l : Loc) (keep : Option Nat) (s : State) : State :=
  modLine l.slice l.tag false (fun x => { x with presence := 0, replicas := 0 }) (dropL1 l.tag keep (dropReplicas l.slice l.tag keep s))

/-- Put `n` bytes at an HBM-backed home, sector by sector: into the line where that holds the sector, else past it (R166, R184). -/
def locPut (l : Loc) (n v : Nat) (s : State) : State :=
  let off := l.pa % 128
  (List.range 4).foldl (fun s i =>
    if nbits (sectorMask off n) i 1 = 0 then s
    else
      let lo := max off (32 * i)
      let hi := min (off + n) (32 * i + 32)
      let part := v / 2 ^ (8 * (lo - off)) % 2 ^ (8 * (hi - lo))
      if (findLine s l.slice l.tag false).any (fun x => bitAt x.valid i) then
        modLine l.slice l.tag false (fun x => { x with
          data := BitVec.ofNat 1024 (spliceBytes x.data.toNat lo (hi - lo) part)
          dirty := x.dirty ||| BitVec.ofNat 4 (2 ^ i)
          poison := if hi - lo = 32 then x.poison &&& ~~~ BitVec.ofNat 4 (2 ^ i) else x.poison }) s
      else hbmWrite s (l.pa / 128 * 128 + lo) (hi - lo) l.tag.key.toNat part) s

/-- Store `n` bytes at an HBM-backed home: the sectors that it touches are filled first where the region is cached and the set has
room. -/
def locStore (l : Loc) (n v : Nat) (alloc : Bool) (s : State) : State :=
  locPut l n v (if l.cache = 0 || !alloc then s else (ensureLine l (sectorMask (l.pa % 128) n) s).1)

/-! ## Waiters (R198, R199, R330) -/

/-- Whether a SIGWAIT's condition holds of a signal: its count at most the threshold, or its status set. -/
def sigReady (v : Nat) (t : Dword) : Bool := decide (v % 2 ^ 56 ≤ t.toNat % 2 ^ 56) || decide (v / 2 ^ 56 % 256 ≠ 0)

/-- Wake the waiters of a line in park order, after a write of it. A SIGWAIT whose condition does not hold parks again behind
the others. -/
def wakeLine (l : Loc) (s : State) : State :=
  let sl := s.slice l.slice
  let mine := sl.waiters.filter (fun w => sameTag w.line l.tag)
  let s := s.modSlice l.slice (fun v => { v with waiters := v.waiters.filter (fun w => !sameTag w.line l.tag) })
  mine.foldl (fun s w =>
    let v := locNow { l with pa := l.pa / 128 * 128 + w.req.va.toNat % 128 } w.req.size s
    if w.req.op == .sigwait && !sigReady v w.req.y then
      s.modSlice l.slice (fun k => { k with waiters := k.waiters ++ [w] })
    else s.send (.loadReturn w.req.core w.req.ctx w.req.id (BitVec.ofNat 512 v))) s

/-- What comes before the bytes of a write at a home: the monitor counts it, and every copy that could show an older value goes
(R159, R172, R173). -/
def beforeWrite (l : Loc) (keep : Option Nat) (s : State) : State := invalidate l keep (monitorCount l true s)

/-- The bytes of a write at a home, and the wakes (R199). -/
def landStore (l : Loc) (n v : Nat) (alloc : Bool) (s : State) : State := wakeLine l (locStore l n v alloc s)

/-- The store part of a write at a home; the own copy of the storing core takes the bytes (R158). -/
def homeStore (l : Loc) (n v : Nat) (alloc : Bool) (keep : Option Nat) (s : State) : State :=
  let s := beforeWrite l keep s
  landStore l n v alloc (match keep with
    | some c => l1Merge c l n v s
    | none => s)

/-- A store that was performed into the fill buffer stands in the line now, behind the reads that were linked before it. The copies
that those have filled since go, and the storing core's takes the bytes (R159, R165, R216). -/
def landMerged (l : Loc) (n v : Nat) (alloc : Bool) (c : Nat) (s : State) : State :=
  landStore l n v alloc (l1Merge c l n v (invalidate l (some c) (countBypass l alloc s)))

/-- A write at a home by any party. -/
def homeWrite (l : Loc) (n v : Nat) (alloc : Bool) (keep : Option Nat) (s : State) : State :=
  homeStore l n v alloc keep (countBypass l alloc s)

/-! ## Scratchpads and Ashlar banks -/

/-- Set the granules of a scratchpad that `n` bytes touch full (R155). -/
def setFull (c off n : Nat) (s : State) : State :=
  let more (f : List Nat) : List Nat :=
    (List.range ((off + n - 1) / 16 - off / 16 + 1)).foldl (fun f i => insertNat (off / 16 + i) f) f
  s.modCore c (fun v => { v with full := more v.full })

/-- Bytes of a live area written at device privilege change the register and set dirty where the granule is present (R92). -/
def touchGranules (c off n : Nat) (s : State) : State :=
  s.modCore c (fun v => (List.range ((off + n - 1) / 64 - off / 64 + 1)).foldl (fun v i =>
    let g := off / 64 + i
    let a := g / 32
    match v.granule a (g % 32) with
    | .present false => if g % 32 < 26 then v.setGranule a (g % 32) (.present true) else v
    | _ => v) v)

def spRead (c off n : Nat) (s : State) : State × Nat :=
  let s := wakeBank c (off / 16384) s
  (s, s.load (spPlace c off) n)
def spWrite (c off n v : Nat) (s : State) : State :=
  touchGranules c off n ((wakeBank c (off / 16384) s).store (spPlace c off) n v)

/-- Whether a granule of a scratchpad is full. -/
def isFull (s : State) (c g : Nat) : Bool := (s.core c).full.contains g

def setEmpty (c g : Nat) (s : State) : State := s.modCore c (fun v => { v with full := v.full.filter (· != g) })

end Sys2Proof.Machine
end

