-- ==== Sys2Proof/Machine/Home.lean ====
section
/-! DEFINITION. Requests at their homes, and the events of the memory system: HOME_REQUEST, LLC_FILL, LOAD_RETURN, STORE_ACK,
WAITA_TIMEOUT, SIGWAIT_REPOLL, PAGE_WALK, MONITOR_WINDOW, GRANULE_FILL, BANK_WAKE (R164 to R173, R180 to R201, R330). -/

namespace Sys2Proof.Machine

/-! ## The operation at the home -/

/-- What an access needs of its leaf (Table 12-5). -/
def reqNeed : ReqOp → AccNeed
  | .write | .writeFull | .writeWhenEmpty => .write
  | .atomic _ => .atomic
  | _ => .read

/-- Operation of an atomic (Table 8-4) on `w` bits: the new value, or none when nothing is written. -/
def atomicOp (op : AtOp) (w old x nv : Nat) : Option Nat :=
  let so := intDecode w true old
  let sx := intDecode w true x
  match op with
  | .add => some ((old + x) % 2 ^ w)
  | .minS => some (if so ≤ sx then old else x)
  | .maxS => some (if so ≤ sx then x else old)
  | .minN => some (min old x)
  | .maxN => some (max old x)
  | .and => some (old &&& x)
  | .or => some (old ||| x)
  | .xor => some (old ^^^ x)
  | .swp => some x
  | .cas => if old = x then some nv else none

/-- The item that a load returns: sign- or zero-extended to 64 bits (R185, R197). -/
def extend (n : Nat) (sx : Bool) (v : Nat) : BitVec 512 :=
  if sx then BitVec.ofNat 512 (intWrap 64 (intDecode (8 * n) true v)) else BitVec.ofNat 512 v

/-- An atomic on a value just read: the value to write and the value returned. -/
def atomicResult (r : Req) (op : AtOp) (old : Nat) : Option Nat × BitVec 512 :=
  (atomicOp op (8 * r.size) old (r.x.toNat % 2 ^ (8 * r.size)) (r.y.toNat % 2 ^ (8 * r.size)),
   extend r.size (op == .minS || op == .maxS) old)

/-! ## Scratchpads and full/empty bits (R154, R155, R194, R195) -/

/-- The offset of a request in the scratchpad that performs it, and its bank. -/
def reqOff (r : Req) : Nat := r.va.toNat % 2 ^ 18
def reqBank (r : Req) : Nat := reqOff r / 16384

/-- A full/empty request that can wait: LDFE or STFE.CLEAR. -/
def mayWait (r : Req) : Bool :=
  match r.op with
  | .readWhenFull _ | .writeWhenEmpty => true
  | _ => false

/-- A request at a scratchpad whose time has come: the write before the bit (R155), and LDFE.CLEAR empties its granule with the read. -/
def spPerform (c : Nat) (r : Req) (s : State) : State :=
  let off := reqOff r
  match r.op with
  | .read =>
    let (s, v) := spRead c off r.size s
    s.send (.loadReturn r.core r.ctx r.id (extend r.size r.sx v))
  | .readWhenFull clear =>
    let (s, v) := spRead c off r.size s
    (if clear then setEmpty c (off / 16) s else s).send (.loadReturn r.core r.ctx r.id (BitVec.ofNat 512 v))
  | .write => (spWrite c off r.size r.x.toNat s).send (.storeAck r.core r.ctx r.id)
  | .writeFull | .writeWhenEmpty => (setFull c off r.size (spWrite c off r.size r.x.toNat s)).send (.storeAck r.core r.ctx r.id)
  | .atomic op =>
    let (s, old) := spRead c off r.size s
    let (w, ret) := atomicResult r op old
    (match w with
     | some v => spWrite c off r.size v s
     | none => s).send (.loadReturn r.core r.ctx r.id ret)
  | _ => s.send (.storeAck r.core r.ctx r.id)

/-- Whether the granule lets a request be performed. -/
def feReady (s : State) (c : Nat) (r : Req) : Bool :=
  match r.op with
  | .readWhenFull _ => isFull s c (reqOff r / 16)
  | .writeWhenEmpty => !isFull s c (reqOff r / 16)
  | _ => true

/-- An earlier request of the same context to a common byte comes first (R183, R211 case a). -/
def feBlocks (r q : Req) : Bool :=
  q.core == r.core && q.ctx == r.ctx && decide (reqOff q < reqOff r + r.size) && decide (reqOff r < reqOff q + q.size)

/-- The oldest waiting request that can be performed: behind no earlier one of its context to its bytes, and, where it waits for a bit,
among the 32 that its bank holds (R195). -/
def feNext (s : State) (c : Nat) : List Req → List Req → Option Req
  | _, [] => none
  | seen, r :: l =>
    if feReady s c r && !seen.any (feBlocks r) &&
        (!mayWait r || decide ((seen.filter (fun q => mayWait q && reqBank q == reqBank r)).length < 32)) then some r
    else feNext s c (seen ++ [r]) l

/-- Serve the waiting requests of a scratchpad, oldest first, after a change of a bit (R195). -/
def feServe (c : Nat) : Nat → State → State
  | 0, s => s
  | fuel + 1, s =>
    match feNext s c [] (s.core c).feWait with
    | none => s
    | some r => feServe c fuel (spPerform c r (s.modCore c (fun v => { v with feWait := removeFirst (fun q => q.id == r.id) v.feWait })))

def feChanged (c : Nat) (s : State) : State := feServe c (s.core c).feWait.length s

/-- A request of a core at a scratchpad: its bank is on first (R156), then it is performed or waits there. -/
def performSp (r : Req) (c : Nat) (s : State) : State :=
  let s := wakeBank c (reqBank r) s
  let first (q : Req) : Bool := feBlocks r q || (reqOff q / 16 == reqOff r / 16 && feReady s c q)
  feChanged c (if feReady s c r && !(s.core c).feWait.any first then spPerform c r s
    else s.modCore c (fun v => { v with feWait := v.feWait ++ [r] }))

/-- A request of a core at an Ashlar bank. -/
def performAsh (r : Req) (b off : Nat) (s : State) : State :=
  match r.op with
  | .read => s.send (.loadReturn r.core r.ctx r.id (extend r.size r.sx (s.load (ashPlace b off) r.size)))
  | .write => (s.store (ashPlace b off) r.size r.x.toNat).send (.storeAck r.core r.ctx r.id)
  | .atomic op =>
    let (w, ret) := atomicResult r op (s.load (ashPlace b off) r.size)
    (match w with
     | some v => s.store (ashPlace b off) r.size v
     | none => s).send (.loadReturn r.core r.ctx r.id ret)
  | _ => s.send (.storeAck r.core r.ctx r.id)

/-! ## Copies toward a core (R157, R159, R173, R186 to R188) -/

/-- The line of a slice that a core's fill comes from: the replica on its die, else the home's. -/
def fillSource (s : State) (l : Loc) (c : Nat) : Nat × Bool :=
  let rs := replicaSlice l.slice (coreDie c)
  if coreDie c != l.slice / 64 && (findLine s rs l.tag true).isSome then (rs, true) else (l.slice, false)

/-- A read of a core fills sectors of its L1 or its constant cache, where the region and the instruction allow it. A fill of the L1
sets the presence bit of the slice that it comes from, if that is on the core's die; an LDI sets none. -/
def fillCopies (r : Req) (l : Loc) (s : State) : State :=
  let (sl, replica) := fillSource s l r.core
  match findLine s sl l.tag replica with
  | none => s
  | some x =>
    let bits := x.valid &&& BitVec.ofNat 4 (sectorMask (l.pa % 128) r.size)
    let line := l.va.toNat / 128
    if l.cache ≠ 2 || r.nt || 12 < vaRegion l.va || bits = 0 then s
    else
      match r.path with
      | .constant => ccFill r.core { line := line, asid := l.asid, key := l.tag.key, data := x.data, valid := bits } s
      | .invariant =>
        l1Fill r.core { line := line, asid := l.asid, key := l.tag.key, valid := bits, inv := true, data := x.data, home := l.tag } s
      | .plain =>
        let s := l1Fill r.core { line := line, asid := l.asid, key := l.tag.key, valid := bits, inv := false, data := x.data, home := l.tag } s
        if coreDie r.core = sl / 64 then
          modLine sl l.tag replica (fun x => { x with presence := x.presence ||| BitVec.ofNat 16 (2 ^ presenceBit r.core) }) s
        else s

/-- The copies that a read of a core at a home leaves behind: in replicated mode a replica on the core's die, and the core's own. -/
def leaveCopies (r : Req) (l : Loc) (s : State) : State :=
  fillCopies r l (replicaFill l (coreDie r.core) (sectorMask (l.pa % 128) r.size) s)

/-- A read of a core at a home. -/
def readHome (r : Req) (l : Loc) (s : State) : State × Nat :=
  let (s, v) := homeRead (coreDie r.core) l r.size (!r.nt) s
  (if r.nt then s else leaveCopies r l s, v)

/-! ## Line operations (R201, R202) -/

/-- The lines of a slice that are a line's own, whatever their key id: what an operation on tags alone finds. -/
def ownLines (s : State) (l : Loc) : List Line := (s.slice l.slice).lines.filter (fun x => sameTag x.tag l.tag && !x.replica)

/-- Pin a line for a gang: when every way of the set holds another pinned line, nothing is pinned (R201, R202). -/
def pinLine (l : Loc) (gid : BitVec 32) (s : State) : State :=
  match ensureLine l 15 s with
  | (s, true) => modLine l.slice l.tag false (fun x => { x with pins := if x.pins.contains gid then x.pins else x.pins ++ [gid] }) s
  | (s, false) => s

/-- Clear a gang's pin on a line. -/
def unpinLine (l : Loc) (gid : BitVec 32) (s : State) : State :=
  s.modSlice l.slice (fun v => { v with lines := v.lines.map (fun x =>
    if sameTag x.tag l.tag && !x.replica then { x with pins := x.pins.filter (· != gid) } else x) })

/-- Where a request is performed under the translation of its page, or, where that has gone and its key has not (R176), under the one
that it was sent with (log 6). -/
def reqHome (s : State) (r : Req) (need : AccNeed) : Except Nat (Target × State) :=
  match resolveHbm s r.asid r.va need false with
  | .ok t => .ok t
  | .error e => if r.leaf = 0 || !keyInstalled s (leafKey r.leaf.toNat) then .error e else .ok (.hbm (leafLoc r.asid r.va (attOf s (vaRegion r.va)) r.leaf.toNat), s)

/-- Wake the waiters of a line that no write has named (R199): each by the place of a waiter. -/
def wakeParked (l : Loc) (s : State) : State :=
  match (s.slice l.slice).waiters.find? (fun w => sameTag w.line l.tag) with
  | none => s
  | some w =>
    match reqHome s w.req .read with
    | .ok (.hbm q, s) => wakeLine { q with slice := l.slice, tag := { l.tag with key := q.tag.key } } s
    | _ => s

/-- CFLUSH at the home (Table 8-5): write back, invalidate every copy and replica, and the line itself unless it is pinned; wake its
waiters. -/
def flushLine (l : Loc) (s : State) : State :=
  let s := dropL1 l.tag none (dropReplicas l.slice l.tag none s)
  wakeParked l ((ownLines s l).foldl (fun s x =>
    let s := writeBack x s
    if x.pins.isEmpty then dropLine l.slice x.tag false s
    else modLine l.slice x.tag false (fun x => { x with dirty := 0, presence := 0, replicas := 0 }) s) s)

/-- CINV at the issuing core: the line leaves its L1 and its constant cache. -/
def dropOwn (c line : Nat) (asid : BitVec 12) (s : State) : State :=
  s.modCore c (fun v => { v with
    l1 := v.l1.filter (fun k => !(k.line == line && k.asid == asid))
    cc := v.cc.filter (fun k => !(k.line == line && k.asid == asid)) })

/-- CINV at the home: a clean, unpinned line is invalidated, with the copies of it. -/
def invalidateClean (l : Loc) (s : State) : State :=
  (ownLines s l).foldl (fun s x => if x.dirty = 0 && x.pins.isEmpty then evict l.slice x s else s) s

/-- A tag-only operation (R201): CFLUSH, CINV and CUNPIN translate nothing. -/
def tagOnly : ReqOp → Bool
  | .cflush | .cinv | .cunpin => true
  | _ => false

/-! ## Requests at an HBM-backed home -/

/-- Park a request in the waiter table of a slice (R198). -/
def park (r : Req) (l : Loc) (s : State) : State :=
  s.modSlice l.slice (fun k => { k with waiters := k.waiters ++ [{ line := l.tag, req := r }] })

/-- The slice's table of 256 parked waiters is full (R198). -/
def watchFull (s : State) (sl : Nat) : Bool := decide (256 ≤ (s.slice sl).waiters.length)

/-- A request of a core at an HBM-backed home whose sectors are there (or that takes a path past the LLC). -/
def performHbm (r : Req) (l : Loc) (s : State) : State :=
  match r.op with
  | .read | .readWhenFull _ =>
    let (s, v) := readHome r l s
    s.send (.loadReturn r.core r.ctx r.id (extend r.size r.sx v))
  | .write | .writeFull | .writeWhenEmpty =>
    (homeWrite l r.size r.x.toNat (!r.nt) (some r.core) s).send (.storeAck r.core r.ctx r.id)
  | .atomic op =>
    let (s, old) := homeRead (coreDie r.core) l r.size true s
    let (w, ret) := atomicResult r op old
    (match w with
     | some v => homeStore l r.size v true none s
     | none => wakeLine l (beforeWrite l none s)).send (.loadReturn r.core r.ctx r.id ret)
  | .waita =>
    let (s, v) := homeRead (coreDie r.core) l r.size true s
    if v != r.x.toNat % 2 ^ (8 * r.size) || watchFull s l.slice then s.send (.loadReturn r.core r.ctx r.id (BitVec.ofNat 512 v))
    else park r l s
  | .sigwait =>
    let (s, v) := homeRead (coreDie r.core) l r.size true s
    if sigReady v r.y then s.send (.loadReturn r.core r.ctx r.id (BitVec.ofNat 512 v))
    else if watchFull s l.slice then s
    else park r l s
  | .pref => if r.nt then s else leaveCopies r l (homePrefetch (coreDie r.core) l r.size s)
  | .cflush => (flushLine l s).send (.storeAck r.core r.ctx r.id)
  | .cinv => (invalidateClean l (dropOwn r.core (r.va.toNat / 128) r.asid s)).send (.storeAck r.core r.ctx r.id)
  | .cpin => (pinLine l r.gid s).send (.storeAck r.core r.ctx r.id)
  | .cunpin => (unpinLine l r.gid s).send (.storeAck r.core r.ctx r.id)

/-- The sectors that a request needs at the home before it is performed there; none for an operation on tags alone. -/
def reqMask (r : Req) (l : Loc) : Nat :=
  match r.op with
  | .cflush | .cinv | .cunpin => 0
  | .pref => if r.nt then 0 else 15
  | .cpin => 15
  | _ => if l.cache = 0 || r.nt then 0 else sectorMask (l.pa % 128) r.size

/-- Whether the sectors that a request needs are at the home. -/
def reqHit (r : Req) (l : Loc) (s : State) : Bool := reqMask r l == 0 || holds s l.slice l.tag false (reqMask r l)

/-- The line of a tag-only operation in a domain-shared region: by the translation of its page, whatever that permits. -/
def tagHome (s : State) (r : Req) : Except Nat (Target × State) :=
  match reqHome s r .read with
  | .ok t => .ok t
  | .error _ =>
    match reqHome s r .write with
    | .ok t => .ok t
    | .error _ => reqHome s r .fetch

/-- Where a request of a core is performed. A tag-only operation finds its line by its address, in a domain-shared region by the
translation of its page. -/
def reqTarget (s : State) (r : Req) : Except Nat (Target × State) :=
  let a := attOf s (vaRegion r.va)
  if 14 ≤ vaRegion r.va then resolve s r.core r.gid r.asid r.va r.size (reqNeed r.op) false
  else if tagOnly r.op && !attDom a then
    .ok (.hbm { slice := homeSlice r.va a, tag := { phys := false, line := r.va.toNat / 128, asid := r.asid, key := 0 }
                pa := r.va.toNat % 128, r := true, w := true, x := true, dev := false, cache := attCache a, dom := false
                va := r.va, asid := r.asid }, s)
  else if tagOnly r.op then tagHome s r
  else reqHome s r (reqNeed r.op)

/-- A request that finds no place. An operation on tags alone in a domain-shared region whose page has no translation acts on the
copies at the cores. A store to a scratchpad or a bank that its gang no longer has completes without effect; a load of a context that
still waits for it is sent again, for no value can answer it (R218, log 6). -/
def requestLost (r : Req) (s : State) : State :=
  let line := r.va.toNat / 128
  match r.op with
  | .cinv => (dropOwn r.core line r.asid s).send (.storeAck r.core r.ctx r.id)
  | .cflush =>
    let less (v : Core) : Core := { v with l1 := v.l1.filter (fun k => !(k.line == line && k.asid == r.asid && !k.inv)) }
    State.send { s with cores := s.cores.map (fun e => (e.1, less e.2)) } (.storeAck r.core r.ctx r.id)
  | .write | .writeFull | .writeWhenEmpty | .cpin | .cunpin => s.send (.storeAck r.core r.ctx r.id)
  | .pref => s
  | _ => if (s.ctx r.core r.ctx).hasPend r.id then s.send (.homeRequest r) else s

/-! ## Misses and their order (R164, R165) -/

/-- A request meets the pending miss of its line: on an access the key id takes part in the match, for an operation on tags alone it
does not. -/
def meetsMiss (r : Req) (l : Loc) (m : Mshr) : Bool := if tagOnly r.op then sameTag m.tag l.tag else sameLine m.tag l.tag

/-- A request linked to a pending miss. A store to a sector whose fill is pending merges into the fill buffer and is performed at that
moment: what could show an older value goes, and it is acknowledged; its bytes stand in the line, behind those of earlier requests,
when the fill lands (R165). -/
def linkRequest (r : Req) (l : Loc) (s : State) : State :=
  let early := r.op == .write && !holds s l.slice l.tag false (sectorMask (l.pa % 128) r.size)
  let link (m : Mshr) : Mshr := { m with merge := m.merge ++ [r], acked := if early then m.acked ++ [r.id] else m.acked }
  let s := s.modSlice l.slice (fun v => { v with mshrs := replaceFirst (meetsMiss r l) link v.mshrs })
  if early then (l1Merge r.core l r.size r.x.toNat (beforeWrite l (some r.core) s)).send (.storeAck r.core r.ctx r.id) else s

/-- A request enters the ingress queue of its slice, or, with the queue full, is held back by the mesh. `counted` holds for one that
has been in the queue already. -/
def queueRequest (r : Req) (l : Loc) (counted : Bool) (s : State) : State :=
  let w : Waiter := { line := l.tag, req := r }
  if 128 ≤ (s.slice l.slice).ingress.length then s.modSlice l.slice (fun v => { v with held := v.held ++ [w] })
  else
    (s.modSlice l.slice (fun v => { v with ingress := v.ingress ++ [w] })).modDie (l.slice / 64)
      (fun d => if counted then d else { d with ingressWait := d.ingressWait + 1 })

/-- A request arrives at its home slice: performed, linked, or placed in the ingress queue, behind every earlier request to its line and,
at its source, of its core (R164). A pending miss has a merge list of 32 beside the request that missed. -/
def arriveAt (r : Req) (l : Loc) (counted : Bool) (s : State) : State :=
  let v := s.slice l.slice
  if v.held.any (fun w => sameTag w.line l.tag || w.req.core == r.core) then
    s.modSlice l.slice (fun v => { v with held := v.held ++ [{ line := l.tag, req := r }] })
  else if v.ingress.any (fun w => sameTag w.line l.tag) then queueRequest r l counted s
  else
    match v.mshrs.find? (meetsMiss r l) with
    | some m => if m.merge.length < 33 then linkRequest r l s else queueRequest r l counted s
    | none =>
      if reqHit r l s then performHbm r l s
      else if v.mshrs.length < 256 then
        ((s.modDie (l.slice / 64) (fun d => { d with llcMiss := d.llcMiss + 1 })).modSlice l.slice (fun v => { v with
          mshrs := v.mshrs ++ [{ tag := l.tag, pa := l.pa, perm := 0, merge := [r] }] })).send (.llcFill l.slice l.tag)
      else queueRequest r l counted s

/-- A request of the same context, or one of the same core that writes, to a line is on its way or waits at its home: an access of the
context takes its place behind it (R158, R183). -/
def lineBusy (s : State) (c k line : Nat) : Bool :=
  let mine (r : Req) : Bool := r.core == c && r.va.toNat / 128 == line && r.op != .pref &&
    (r.ctx == k || r.op == .write || (match r.op with
      | .atomic _ => true
      | _ => false))
  sentAny s mine || s.slices.any (fun e => e.2.waiters.any (fun w => w.req.ctx == k && mine w.req)) || (s.core c).ctxs.any (fun e => e.2.deferred.any (fun h => mine h.req))

/-- Whether a request of a context to a line has issued and is not performed. -/
def lineInFlight (s : State) (c k line : Nat) : Bool :=
  let mine (r : Req) : Bool := r.core == c && r.ctx == k && r.va.toNat / 128 == line
  sentAny s mine || (s.ctx c k).deferred.any (fun h => mine h.req && !(s.ctx c k).withdrawn h.req.id)

/-- A read of a core for an address of another die is served at the replica slice of its own when a replica holds its sectors (R173). -/
def replicaServes (r : Req) (l : Loc) (s : State) : Bool :=
  r.op == .read && replicaHits s (coreDie r.core) l r.size && !lineBusy s r.core r.ctx (r.va.toNat / 128)

/-- A read served by a replica. -/
def replicaRead (r : Req) (l : Loc) (s : State) : State :=
  (fillCopies r l s).send (.loadReturn r.core r.ctx r.id (extend r.size r.sx (replicaBytes s (coreDie r.core) l r.size)))

def arrive (r : Req) (l : Loc) (s : State) : State := if replicaServes r l s then replicaRead r l s else arriveAt r l false s

/-- HOME_REQUEST: a request reaches its home and is performed, linked or queued (R147, R154, R164). -/
def homeRequest (r : Req) (s : State) : State :=
  match reqTarget s r with
  | .error _ => requestLost r s
  | .ok (.sp c _, s) => performSp r c s
  | .ok (.ash b off, s) => performAsh r b off s
  | .ok (.hbm l, s) => arrive r l s

/-- Do something with a request at its HBM-backed home. -/
def atHome (r : Req) (f : Loc → State → State) (s : State) : State :=
  match reqTarget s r with
  | .ok (.hbm l, s) => f l s
  | .ok (_, s) => requestLost r s
  | .error _ => requestLost r s

/-- LLC_FILL: a fill lands at its MSHR; the merge list is served in link order, then waiting requests go on (R164, R165). -/
def llcFill (sl : Nat) (t : LineTag) (s : State) : State :=
  match (s.slice sl).mshrs.find? (fun m => sameLine m.tag t) with
  | none => s
  | some m =>
    let s := s.modSlice sl (fun v => { v with mshrs := removeFirst (fun m => sameLine m.tag t) v.mshrs })
    let s := m.merge.foldl (fun s r => atHome r (fun l =>
      if m.acked.contains r.id then landMerged l r.size r.x.toNat (!r.nt) r.core else performHbm r l) s) s
    let v := s.slice sl
    let s := s.modSlice sl (fun v => { v with ingress := [], held := [] })
    let s := v.ingress.foldl (fun s w => atHome w.req (fun l => arriveAt w.req l true) s) s
    v.held.foldl (fun s w => atHome w.req (fun l => arriveAt w.req l false) s) s

/-- A request to a line waits at its slice. -/
def lineWaits (s : State) (l : Loc) : Bool :=
  let v := s.slice l.slice
  v.mshrs.any (fun m => sameTag m.tag l.tag) || v.ingress.any (fun w => sameTag w.line l.tag) ||
    v.held.any (fun w => sameTag w.line l.tag)

/-- An access that the model makes at once comes behind the requests to its line that have arrived (R164, R222): the fills that they
wait for land first. -/
def settleBy : Nat → Loc → State → State
  | 0, _, s => s
  | n + 1, l, s =>
    if lineWaits s l then
      match (s.slice l.slice).mshrs.find? (fun m => sameTag m.tag l.tag), (s.slice l.slice).mshrs with
      | some m, _ => settleBy n l (llcFill l.slice m.tag s)
      | none, m :: _ => settleBy n l (llcFill l.slice m.tag s)
      | none, [] => s
    else s

def settle (l : Loc) (s : State) : State :=
  let v := s.slice l.slice
  settleBy (v.ingress.length + v.held.length + v.mshrs.foldl (fun n m => n + m.merge.length) 0) l s

/-! ## Engine accesses: coherent, synchronous reads and writes by engines, the Plinth and firmware -/

/-- Read `n` bytes at once, for a party on a die: at a replica there, else at the home, with the replica that it leaves behind (R173). -/
def readAtOnce (d : Nat) (l : Loc) (n : Nat) (s : State) : State × Nat :=
  let s := settle l s
  if replicaHits s d l n then (s, replicaBytes s d l n)
  else
    let (s, v) := homeRead d l n true s
    (replicaFill l d (sectorMask (l.pa % 128) n) s, v)

/-- Write `n` bytes at a home at once; `keep` is the core whose own L1 copy takes them. -/
def writeAtOnce (l : Loc) (n v : Nat) (keep : Option Nat) (s : State) : State := homeWrite l n v true keep (settle l s)

/-- Read `n` bytes (within one line or one scratchpad) as an engine of gang `gid`. -/
def engRead (c : Nat) (gid : BitVec 32) (asid : BitVec 12) (user : Bool) (va : VA) (n : Nat) (s : State) :
    Except Nat (State × Nat) :=
  match resolve s c gid asid va n .read user with
  | .error e => .error e
  | .ok (.sp k off, s) => if s.flawed (spPlace k off) n then .error 0x1E else .ok (spRead k off n s)
  | .ok (.ash b off, s) => if s.flawed (ashPlace b off) n then .error 0x1E else .ok (s, s.load (ashPlace b off) n)
  | .ok (.hbm l, s) => if locPoison l n s then .error 0x1E else .ok (readAtOnce (coreDie c) l n s)

/-- Write `n` bytes (within one line or one scratchpad) as an engine: scratchpad granules become full (R155). -/
def engWrite (c : Nat) (gid : BitVec 32) (asid : BitVec 12) (user : Bool) (va : VA) (n v : Nat) (s : State) :
    Except Nat State :=
  match resolve s c gid asid va n .write user with
  | .error e => .error e
  | .ok (.sp k off, s) => .ok (feChanged k (setFull k off n (spWrite k off n v s)))
  | .ok (.ash b off, s) => .ok (s.store (ashPlace b off) n v)
  | .ok (.hbm l, s) => .ok (writeAtOnce l n v none s)

/-- Cut a range of addresses at 64-byte boundaries: pairs of address and length. -/
def chunks (fuel : Nat) (va n : Nat) : List (Nat × Nat) :=
  match fuel with
  | 0 => []
  | f + 1 =>
    if n = 0 then [] else
    let k := min n (64 - va % 64)
    (va, k) :: chunks f (va + k) (n - k)

/-- Read any number of bytes as an engine, lowest address first. -/
def engReadBytes (c : Nat) (gid : BitVec 32) (asid : BitVec 12) (user : Bool) (va : VA) (n : Nat) (s : State) :
    Except Nat (State × List Byte) :=
  (chunks (n / 64 + 2) va.toNat n).foldl (fun r ch =>
    match r with
    | .error e => .error e
    | .ok (s, l) =>
      match engRead c gid asid user (BitVec.ofNat 80 ch.1) ch.2 s with
      | .error e => .error e
      | .ok (s, v) => .ok (s, l ++ leBytes ch.2 v)) (.ok (s, []))

/-- Write bytes as an engine, lowest address first; on a fault the writes already performed stay. -/
def engWriteBytes (c : Nat) (gid : BitVec 32) (asid : BitVec 12) (user : Bool) (va : VA) (l : List Byte) (s : State) :
    State × Option Nat :=
  (chunks (l.length / 64 + 2) va.toNat l.length).foldl (fun (r : State × Option Nat × List Byte) ch =>
    match r with
    | (s, some e, l) => (s, some e, l)
    | (s, none, l) =>
      match engWrite c gid asid user (BitVec.ofNat 80 ch.1) ch.2 (leNat (l.take ch.2)) s with
      | .error e => (s, some e, l)
      | .ok s => (s, none, l.drop ch.2)) (s, none, l) |> fun r => (r.1, r.2.1)

/-- DecSig (R329) at the home of a signal, by the device; returns the old dword. A signal that has no translation is left. -/
def decSig (asid : BitVec 12) (va : VA) (n status : Nat) (s : State) : State × Nat :=
  match resolveHbm s asid va .atomic false with
  | .error _ => (s, 0)
  | .ok (.hbm l, s) =>
    let (s, old) := readAtOnce (l.slice / 64) l 8 s
    let cnt := if old % 2 ^ 56 < n then 0 else old % 2 ^ 56 - n
    let st := if old / 2 ^ 56 = 0 then status else old / 2 ^ 56
    (homeStore l 8 (st * 2 ^ 56 + cnt) true none s, old)
  | .ok (_, s) => (s, 0)

/-- A device decrement of an optional signal named by VA[63:0] in region 0xD; 0 names none. -/
def decSigOpt (asid : BitVec 12) (sig : VA) (status : Nat) (s : State) : State :=
  if sig = 0 then s else (decSig asid sig 1 status s).1

/-! ## Values come back -/

/-- Write a register of a context from outside its streams: the completion of an LA or VLD (R196). A dead granule takes nothing. -/
def writeAreaOf (c k off n v : Nat) (s : State) : State :=
  let a := (s.ctx c k).area
  let g := off / 64
  match (s.core c).granule a g with
  | .dead => s
  | st =>
    let s := if n < 64 then
        (match st with
         | .absent => fillGranule c k g s
         | .absentZero => (wakeBankFor c k (areaBank a) s).zero (spPlace c (a * 2048 + g * 64)) 64
         | _ => wakeBankFor c k (areaBank a) s)
      else wakeBankFor c k (areaBank a) s
    (s.store (spPlace c (a * 2048 + off)) n v).modCore c (fun v => v.setGranule a g (.present true))

/-- The destination of a returning value. -/
def deliver (c k : Nat) (p : Pend) (v : BitVec 512) (s : State) : State :=
  match p.dest with
  | .none => s.modCtx c k (fun x =>
      match x.wait with
      | some w => if w.id = p.id then { x with wait := some { w with val := some (v.setWidth 64) } } else x
      | none => x)
  | .ldq => s.modCtx c k (fun x =>
      let ldq := x.ldq.map (fun i => if i.id == p.id then { i with val := some (v.setWidth 64) } else i)
      { x with ldq := ldq })
  | .addr n => writeAreaOf c k (0x580 + 16 * n.toNat) 16 (v.toNat % 2 ^ 80) s
  | .vec n => writeAreaOf c k (0x180 + 64 * n.toNat) 64 v.toNat s

/-- LOAD_RETURN: a value returns to its context (R180). -/
def loadReturn (c k id : Nat) (v : BitVec 512) (s : State) : State :=
  match (s.ctx c k).pend.find? (fun p => p.id == id) with
  | none => s
  | some p => completePend c k id 0 (deliver c k p v s)

/-- STORE_ACK: a store is acknowledged and its slot completes (R181). -/
def storeAck (c k id : Nat) (s : State) : State := completePend c k id 0 s

/-! ## The other events of the memory system -/

/-- WAITA_TIMEOUT: a parked WAITA that has a timeout, or whose gang is being stopped, completes with the current value (R199). -/
def waitaTimeout (sl id : Nat) (s : State) : State :=
  match (s.slice sl).waiters.find? (fun w => w.req.id == id && w.req.op == .waita) with
  | none => s
  | some w =>
    if w.req.y = 0 && !s.plinth.gangs.any (fun g => g.gid == (s.core w.req.core).gid && g.stopping) then s
    else
    let s := s.modSlice sl (fun v => { v with waiters := removeFirst (fun w => w.req.id == id && w.req.op == .waita) v.waiters })
    match reqHome s w.req .read with
    | .ok (.hbm l, s) =>
      let s := settle l s
      s.send (.loadReturn w.req.core w.req.ctx id (BitVec.ofNat 512 (locNow l w.req.size s)))
    | _ => requestLost w.req s

/-- SIGWAIT_REPOLL: a SIGWAIT that found the table full, and so waits at its core, reads the signal again (R330). Its request
is the one that its context's wait names. -/
def sigwaitRepoll (c k : Nat) (s : State) : State :=
  let x := s.ctx c k
  match x.wait with
  | none => s
  | some w =>
    if w.val.isSome || !x.pend.any (fun p => p.id == w.id) then s
    else if sentAny s (fun r => r.id == w.id) || s.slices.any (fun e => e.2.waiters.any (fun q => q.req.id == w.id)) ||
        x.deferred.any (fun h => h.req.id == w.id) then s
    else s.modCtx c k (fun x => { x with pend := x.pend.filter (fun p => p.id != w.id), wait := none })

/-- PAGE_WALK: a slice walks for a page; a walk that passes enters the translation (R170, R171). -/
def pageWalk (asid : BitVec 12) (va : VA) (need : AccNeed) (user : Bool) (s : State) : State :=
  if 14 ≤ vaRegion va then s
  else
    match translate s asid va need user with
    | .ok (s, _) => s
    | .error _ => s

/-- MONITOR_WINDOW: a window begins and the counts of a die's monitor reset (R172). -/
def monitorWindow (d : Nat) (s : State) : State :=
  s.modDie d (fun v => { v with monitor := v.monitor.map (fun m => { m with reads := 0, writes := 0 }) })

/-- GRANULE_FILL: a lazy fill of an absent granule of a live context (R87). -/
def granuleFill (c k g : Nat) (s : State) : State :=
  let x := s.ctx c k
  if x.live && decide (g < 26) && (s.core c).granule x.area g = .absent then fillGranule c k g s else s

/-- An uncorrectable error of a unit of a scratchpad or Ashlar bank (R368). In the state area of a live context it is one of core-held
state, with which the core fails. -/
def unitError (p : Nat) (s : State) : State :=
  let c := (p - 2 ^ 58) / 2 ^ 18
  let off := p % 2 ^ 18
  if p < 2 ^ 59 && (s.core c).areaLive (off / 2048) && decide (0x680 ≤ off % 2048) then s.send (.coreFailure c true)
  else { s with flaws := insertNat (p / 16) s.flaws }

/-- SECTOR_ERROR, an input: ECC finds an uncorrectable error at a place of the stores. A sector of HBM, or the copy of it in the LLC, is
then poisoned (R177): the next access that needs it faults, or its write-back writes it poisoned and is reported. It brings about
LLC_FILL, the event in which a fill meets the error. -/
def sectorError (pa : Nat) (s : State) : State :=
  if 2 ^ 58 ≤ pa then unitError pa s
  else
  let base := pa / 128 * 128
  let i := pa % 128 / 32
  let copy (x : Line) : Bool := x.pa == base && !x.replica && bitAt x.valid i
  if s.slices.any (fun e => e.2.lines.any copy) then
    { s with slices := s.slices.map (fun e => (e.1, { e.2 with lines := e.2.lines.map (fun x =>
        if copy x then { x with poison := x.poison ||| BitVec.ofNat 4 (2 ^ i) } else x) })) }
  else { s with sectors := tset s.sectors (pa / 32) { tget s.sectors (pa / 32) { material := keyMaterial s 0 } with poison := true } }

/-- BANK_WAKE: a bank that is not on wakes or powers up for an access (R156). -/
def bankWake (c b : Nat) (s : State) : State := if b < 16 then wakeBank c b s else s

/-! ## The events -/

def execHomeRequest (s : State) : Host.Outcome State Fault Refusal :=
  event (fun s => match s.ev with
    | .homeRequest r => homeRequest r s
    | _ => s) s
def execLlcFill (s : State) : Host.Outcome State Fault Refusal :=
  event (fun s => match s.ev with
    | .llcFill sl t => llcFill sl t s
    | .sectorError pa => sectorError pa s
    | .correctedError d => s.modDie d.toNat (fun v => { v with corrected := v.corrected + 1 })
    | _ => s) s
def execLoadReturn (s : State) : Host.Outcome State Fault Refusal :=
  event (fun s => match s.ev with
    | .loadReturn c k id v => loadReturn c k id v s
    | _ => s) s
def execStoreAck (s : State) : Host.Outcome State Fault Refusal :=
  event (fun s => match s.ev with
    | .storeAck c k id => storeAck c k id s
    | _ => s) s
def execWaitaTimeout (s : State) : Host.Outcome State Fault Refusal :=
  event (fun s => match s.ev with
    | .waitaTimeout sl id => waitaTimeout sl id s
    | _ => s) s
def execSigwaitRepoll (s : State) : Host.Outcome State Fault Refusal :=
  event (fun s => match s.ev with
    | .sigwaitRepoll c k => sigwaitRepoll c k s
    | _ => s) s
def execPageWalk (s : State) : Host.Outcome State Fault Refusal :=
  event (fun s => match s.ev with
    | .pageWalk asid va need user => pageWalk asid va need user s
    | _ => s) s
def execMonitorWindow (s : State) : Host.Outcome State Fault Refusal :=
  event (fun s => match s.ev with
    | .monitorWindow d => monitorWindow d.toNat s
    | _ => s) s
def execGranuleFill (s : State) : Host.Outcome State Fault Refusal :=
  event (fun s => match s.ev with
    | .granuleFill c k g => granuleFill c k g s
    | _ => s) s
def execBankWake (s : State) : Host.Outcome State Fault Refusal :=
  event (fun s => match s.ev with
    | .bankWake c b => bankWake c b s
    | _ => s) s

end Sys2Proof.Machine
end

