-- ==== Sys2Proof/Machine/Uses.lean ====
section
/-! DEFINITION. Which registers, queues and slots a word names (R83, R230, R323), from its fields. A register name stands for its
code, y0 to y3 for 56, an address register n for 100 + n, a vector register n for 200 + n; a pop of ldq, a push of sdq and a pop
of ib write 60, 61 and 62. -/

namespace Sys2Proof.Machine

/-- What a source field reads and, by a pop, writes. -/
def useS (r : BitVec 6) : List Nat × List Nat :=
  let n := r.toNat
  if n < 56 then ([n], []) else if n < 60 then ([56], []) else if n = 60 then ([], [60]) else if n = 62 then ([], [62]) else ([], [])
/-- What a destination field writes. -/
def useD (r : BitVec 6) : List Nat × List Nat :=
  let n := r.toNat
  if n < 56 then ([], [n]) else if n = 61 then ([], [61]) else ([], [])
/-- A destination that enters the last-result file. -/
def useY (r : BitVec 6) : List Nat × List Nat := let u := useD r; (u.1, 56 :: u.2)
/-- A destination that is read first. -/
def useX (r : BitVec 6) : List Nat × List Nat := let u := useS r; let v := useD r; (u.1, u.2 ++ v.2)
def useA (r : BitVec 4) : List Nat × List Nat := ([100 + r.toNat], [])
def useT (r : BitVec 4) : List Nat × List Nat := ([], [100 + r.toNat])
def useU (r : BitVec 4) : List Nat × List Nat := ([100 + r.toNat], [100 + r.toNat])
def useV (r : BitVec 4) : List Nat × List Nat := ([200 + r.toNat], [])
def useW (r : BitVec 4) : List Nat × List Nat := ([], [200 + r.toNat])
def useV2 (r : BitVec 4) : List Nat × List Nat := ([200 + r.toNat], [200 + r.toNat])
def useP (r : BitVec 4) : List Nat × List Nat := ([], [200 + r.toNat, 201 + r.toNat])
/-- Both of two uses. -/
def uses (a b : List Nat × List Nat) : List Nat × List Nat := (a.1 ++ b.1, a.2 ++ b.2)

/-- What a word reads and writes. -/
def instrUses : Instr → List Nat × List Nat
  | .add d a b => uses (uses (useY d) (useS a)) (useS b)
  | .sub d a b => uses (uses (useY d) (useS a)) (useS b)
  | .mul d a b => uses (uses (useY d) (useS a)) (useS b)
  | .mulh d a b => uses (uses (useY d) (useS a)) (useS b)
  | .mulhn d a b => uses (uses (useY d) (useS a)) (useS b)
  | .divs d a b => uses (uses (useY d) (useS a)) (useS b)
  | .divn d a b => uses (uses (useY d) (useS a)) (useS b)
  | .rems d a b => uses (uses (useY d) (useS a)) (useS b)
  | .remn d a b => uses (uses (useY d) (useS a)) (useS b)
  | .andd d a b => uses (uses (useY d) (useS a)) (useS b)
  | .orr d a b => uses (uses (useY d) (useS a)) (useS b)
  | .xorr d a b => uses (uses (useY d) (useS a)) (useS b)
  | .andn d a b => uses (uses (useY d) (useS a)) (useS b)
  | .shl d a b => uses (uses (useY d) (useS a)) (useS b)
  | .shr d a b => uses (uses (useY d) (useS a)) (useS b)
  | .sha d a b => uses (uses (useY d) (useS a)) (useS b)
  | .rot d a b => uses (uses (useY d) (useS a)) (useS b)
  | .clz d a => uses (useY d) (useS a)
  | .popc d a => uses (useY d) (useS a)
  | .mins d a b => uses (uses (useY d) (useS a)) (useS b)
  | .maxs d a b => uses (uses (useY d) (useS a)) (useS b)
  | .minn d a b => uses (uses (useY d) (useS a)) (useS b)
  | .maxn d a b => uses (uses (useY d) (useS a)) (useS b)
  | .cmpeq d a b => uses (uses (useY d) (useS a)) (useS b)
  | .cmplt d a b => uses (uses (useY d) (useS a)) (useS b)
  | .cmpltn d a b => uses (uses (useY d) (useS a)) (useS b)
  | .cmple d a b => uses (uses (useY d) (useS a)) (useS b)
  | .sel d a b => uses (uses (uses ([], [56]) (useX d)) (useS a)) (useS b)
  | .addSats d a b => uses (uses (useY d) (useS a)) (useS b)
  | .addSatn d a b => uses (uses (useY d) (useS a)) (useS b)
  | .subSats d a b => uses (uses (useY d) (useS a)) (useS b)
  | .subSatn d a b => uses (uses (useY d) (useS a)) (useS b)
  | .mulSats d a b => uses (uses (useY d) (useS a)) (useS b)
  | .mulSatn d a b => uses (uses (useY d) (useS a)) (useS b)
  | .addi d a _ => uses (useY d) (useS a)
  | .andi d a _ => uses (useY d) (useS a)
  | .ori d a _ => uses (useY d) (useS a)
  | .xori d a _ => uses (useY d) (useS a)
  | .shli d a _ => uses (useY d) (useS a)
  | .shri d a _ => uses (useY d) (useS a)
  | .shai d a _ => uses (useY d) (useS a)
  | .movi d _ => useY d
  | .ext d a _ _ => uses (useY d) (useS a)
  | .extS d a _ _ => uses (useY d) (useS a)
  | .ins d a _ _ => uses (uses ([], [56]) (useX d)) (useS a)
  | .fadd d a b _ => uses (uses (useY d) (useS a)) (useS b)
  | .fsub d a b _ => uses (uses (useY d) (useS a)) (useS b)
  | .fmul d a b _ => uses (uses (useY d) (useS a)) (useS b)
  | .ffma d a b _ => uses (uses (uses ([], [56]) (useX d)) (useS a)) (useS b)
  | .fmin d a b _ => uses (uses (useY d) (useS a)) (useS b)
  | .fmax d a b _ => uses (uses (useY d) (useS a)) (useS b)
  | .fcmp d a b _ => uses (uses (useY d) (useS a)) (useS b)
  | .fcvt d a _ _ _ _ => uses (useY d) (useS a)
  | .fabs d a _ => uses (useY d) (useS a)
  | .fneg d a _ => uses (useY d) (useS a)
  | .rdcyc d => useY d
  | .rdperf d a => uses (useY d) (useS a)
  | .vadd d a b _ _ => uses (uses (useW d) (useV a)) (useV b)
  | .vsub d a b _ _ => uses (uses (useW d) (useV a)) (useV b)
  | .vmul d a b _ _ => uses (uses (useW d) (useV a)) (useV b)
  | .vfma d a b _ => uses (uses (useV2 d) (useV a)) (useV b)
  | .vmax d a b _ => uses (uses (useW d) (useV a)) (useV b)
  | .vmin d a b _ => uses (uses (useW d) (useV a)) (useV b)
  | .vexp2 d a _ => uses (useW d) (useV a)
  | .vrcp d a _ => uses (useW d) (useV a)
  | .vrsq d a _ => uses (useW d) (useV a)
  | .vredAdd a x _ => uses (useV a) (useY x)
  | .vredMax a x _ => uses (useV a) (useY x)
  | .vredMin a x _ => uses (useV a) (useY x)
  | .vcvt d a _ _ _ _ => uses (useW d) (useV a)
  | .vpack d a b _ _ _ _ => uses (uses (useW d) (useV a)) (useV b)
  | .vunpk d a _ _ _ _ => uses (useP d) (useV a)
  | .vsel d a b m _ => uses (uses (uses (useW d) (useV a)) (useV b)) (useV m)
  | .vshf d a b _ => uses (uses (useW d) (useV a)) (useV b)
  | .vbcast d x _ => uses (useW d) (useS x)
  | .vcmp d a b _ _ => uses (uses (useW d) (useV a)) (useV b)
  | .tidset _ => ([], [60])
  | .tidget d _ _ => useY d
  | .scalek d a b => uses (uses (useY d) (useS a)) (useS b)
  | .scalew d => useY d
  | .mcmd _ a b => uses (useS a) (useS b)
  | .mcap d a => uses (useY d) (useS a)
  | .permit d a => uses (useY d) (useS a)
  | .permrel d a => uses (useY d) (useS a)
  | .aadd d a b => uses (uses (useT d) (useA a)) (useA b)
  | .asub d a b => uses (uses (useT d) (useA a)) (useA b)
  | .amov d a => uses (uses (useT d) (useA a)) ([], [60])
  | .acmpEq d a b => uses (uses (useT d) (useA a)) (useA b)
  | .acmpNe d a b => uses (uses (useT d) (useA a)) (useA b)
  | .acmpLt d a b => uses (uses (useT d) (useA a)) (useA b)
  | .acmpLe d a b => uses (uses (useT d) (useA a)) (useA b)
  | .amask d a b => uses (uses (useT d) (useA a)) (useA b)
  | .aidx d a b _ => uses (uses (useT d) (useA a)) (useS b)
  | .aaddi d a _ => uses (useT d) (useA a)
  | .ld a _ _ _ _ _ => useA a
  | .st a _ _ _ _ => useA a
  | .ldacq a _ _ _ _ _ => useA a
  | .strel a _ _ _ _ _ => useA a
  | .ldc a _ _ _ _ _ => useA a
  | .ldi a _ _ _ _ _ => useA a
  | .ldfe a _ _ _ _ _ => useA a
  | .stfe a _ _ _ _ _ => useA a
  | .la a _ _ t _ => uses (useA a) (useT t)
  | .atadd a _ _ _ _ => useA a
  | .atmin a _ _ _ _ => useA a
  | .atmax a _ _ _ _ => useA a
  | .atand a _ _ _ _ => useA a
  | .ator a _ _ _ _ => useA a
  | .atxor a _ _ _ _ => useA a
  | .atswp a _ _ _ _ => useA a
  | .atcas a _ _ _ _ => useA a
  | .waita a _ _ _ _ => useA a
  | .pref a _ _ _ => useA a
  | .cflush a _ _ _ => useA a
  | .cinv a _ _ _ => useA a
  | .cpin a _ _ _ => useA a
  | .cunpin a _ _ _ => useA a
  | .vld a _ _ t _ => uses (useA a) (useW t)
  | .vst a _ _ t _ => uses (useA a) (useV t)
  | .vstfe a _ _ t _ => uses (useA a) (useV t)
  | .asopReduceAdd a _ _ _ => useA a
  | .asopReduceMax a _ _ _ => useA a
  | .asopAxpy a _ _ _ => useA a
  | .asopConvert a _ _ _ => useA a
  | .asopScale a _ _ _ => useA a
  | .asopGather a _ _ _ => useA a
  | .asopScatterAdd a _ _ _ => useA a
  | .asopSmerge a _ _ _ => useA a
  | .jcsub d a _ => uses (useD d) (useA a)
  | .jcwait d a _ => uses (useD d) (useS a)
  | .segopen d a b _ => uses (uses (useD d) (useA a)) (useS b)
  | .segput _ a b _ => uses (useA a) (useS b)
  | .segput2 _ a b _ => uses (useA a) (useS b)
  | .segputPfx _ a b _ => uses (useA a) (useS b)
  | .segclose d a _ _ => uses (useD d) (useA a)
  | .segcnt d a _ _ => uses (useD d) (useA a)
  | .ascfg d a b _ => uses (uses (useD d) (useA a)) (useS b)
  | .put r _ _ _ => uses (useS r) (useV (r.setWidth 4))
  | .get r _ _ => uses (useD r) (useW (r.setWidth 4))
  | .offerPut r _ _ _ => uses (useS r) (useV (r.setWidth 4))
  | .poll r _ _ => useD r
  | .retract r _ _ => useD r
  | .conload r _ => useA r
  | .condrop r _ => useS r
  | .constat r _ => useX r
  | .pbind r _ _ => useS r
  | .pgsub d a _ => uses (useD d) (useA a)
  | .pgunsub d a _ => uses (useD d) (useS a)
  | .pgpass d a _ => uses (useD d) (useA a)
  | .pgrecv d a _ => uses (useD d) (useA a)
  | .pgrecvFree a _ => useA a
  | .mrgput a b _ => uses (useA a) (useS b)
  | .mrgget d a b _ => uses (uses (useD d) (useA a)) (useS b)
  | .mrgcfg d a b _ => uses (uses (useD d) (useA a)) (useS b)
  | .sigdec d a b _ => uses (uses (useD d) (useA a)) (useS b)
  | .sigwait d a b _ => uses (uses (useD d) (useA a)) (useS b)
  | .dcinit d a b _ => uses (uses (useD d) (useS a)) (useS b)
  | .dcdec d a b _ => uses (uses (useD d) (useS a)) (useS b)
  | .rhopen d a b _ => uses (uses (useD d) (useA a)) (useS b)
  | .rhpri a b _ => uses (useS a) (useS b)
  | .rhdemote a _ => useS a
  | .rhevict a _ => useS a
  | .rhclose a _ => useS a
  | .bre c _ => useS c
  | .beqz c _ => useS c
  | .bnez c _ => useS c
  | .bra a _ => useA a
  | .loop a _ => useU a
  | .jmpi a => useS a
  | .join d a => uses (useD d) (useS a)
  | .endc a => useS a
  | .rets m d => uses (useS m) (useS d)
  | .rdsw d _ => useD d
  | .wrsw a _ => useS a
  | .tnsub d a => uses (useD d) (useA a)
  | .tndone d => useD d
  | .amsg a => useS a
  | .inbx d => useD d
  | .inbxWait d => useD d
  | .fibsw a => useA a
  | .upret a => useA a
  | .wrpriv a => useS a
  | .xinvPage d a => uses (useA d) (useS a)
  | .xinvAsid a => useS a
  | .xinvFrame a _ => useS a
  | .keysetRand d a => uses (useD d) (useS a)
  | .keysetLoad d a m => uses (uses (useD d) (useS a)) (useA m)
  | .keysetRetire d a => uses (useD d) (useS a)
  | .attest d a _ => uses (useD d) (useA a)
  | .sparemap d a => uses (useD d) (useS a)
  | .start c _ => useD c
  | _ => ([], [])

/-- What a word that is about to execute reads and writes: a put or get form names a register of the kind of its slot's width, and a PUT
that waits for its firing has read it (R263). -/
def issueUses (v : Core) (i : Instr) : List Nat × List Nat :=
  let q (p : BitVec 4) : PortSlot := tget v.slots p.toNat {}
  match i with
  | .put r p _ _ => if (q p).blk && (q p).owner.isSome then ([], []) else if (q p).wide then useV (r.setWidth 4) else useS r
  | .offerPut r p _ _ => if (q p).wide then useV (r.setWidth 4) else useS r
  | .get r p _ => if (q p).wide then useW (r.setWidth 4) else useD r
  | i => instrUses i

/-- The scoreboard slot that a word sets (R72, Tables 4-3, 4-4, 4-7); 0 for none. -/
def instrSetter : Instr → BitVec 3
  | .swapstat s => s
  | .accz _ _ s => s
  | .acczMark s => s
  | .accld _ _ s => s
  | .accst _ _ s => s
  | .accadd _ _ s => s
  | .mcmd s _ _ => s
  | .tcvt _ _ _ _ s => s
  | .tcopy _ _ _ s => s
  | .ld _ s _ _ _ _ => s
  | .st _ s _ _ _ => s
  | .ldacq _ s _ _ _ _ => s
  | .strel _ s _ _ _ _ => s
  | .ldc _ s _ _ _ _ => s
  | .ldi _ s _ _ _ _ => s
  | .ldfe _ s _ _ _ _ => s
  | .stfe _ s _ _ _ _ => s
  | .la _ s _ _ _ => s
  | .atadd _ s _ _ _ => s
  | .atmin _ s _ _ _ => s
  | .atmax _ s _ _ _ => s
  | .atand _ s _ _ _ => s
  | .ator _ s _ _ _ => s
  | .atxor _ s _ _ _ => s
  | .atswp _ s _ _ _ => s
  | .atcas _ s _ _ _ => s
  | .waita _ s _ _ _ => s
  | .pref _ s _ _ => s
  | .cflush _ s _ _ => s
  | .cinv _ s _ _ => s
  | .cpin _ s _ _ => s
  | .cunpin _ s _ _ => s
  | .fenceCore s => s
  | .fenceTile s => s
  | .fenceDie s => s
  | .fenceModule s => s
  | .fenceDomain s => s
  | .vld _ s _ _ _ => s
  | .vst _ s _ _ _ => s
  | .vstfe _ s _ _ _ => s
  | .asopReduceAdd _ s _ _ => s
  | .asopReduceMax _ s _ _ => s
  | .asopAxpy _ s _ _ => s
  | .asopConvert _ s _ _ => s
  | .asopScale _ s _ _ => s
  | .asopGather _ s _ _ => s
  | .asopScatterAdd _ s _ _ => s
  | .asopSmerge _ s _ _ => s
  | .jcsub _ _ s => s
  | .jcwait _ _ s => s
  | .segopen _ _ _ s => s
  | .segput _ _ _ s => s
  | .segput2 _ _ _ s => s
  | .segputPfx _ _ _ s => s
  | .segclose _ _ _ s => s
  | .segcnt _ _ _ s => s
  | .ascfg _ _ _ s => s
  | .put _ _ s _ => s
  | .get _ _ s => s
  | .offerPut _ _ s _ => s
  | .offerGet _ s => s
  | .poll _ _ s => s
  | .retract _ _ s => s
  | .conload _ s => s
  | .condrop _ s => s
  | .constat _ s => s
  | .pbind _ _ s => s
  | .pgsub _ _ s => s
  | .pgunsub _ _ s => s
  | .pgpass _ _ s => s
  | .pgrecv _ _ s => s
  | .pgrecvFree _ s => s
  | .mrgput _ _ s => s
  | .mrgget _ _ _ s => s
  | .mrgcfg _ _ _ s => s
  | .sigdec _ _ _ s => s
  | .sigwait _ _ _ s => s
  | .dcinit _ _ _ s => s
  | .dcdec _ _ _ s => s
  | .rhopen _ _ _ s => s
  | .rhpri _ _ s => s
  | .rhdemote _ s => s
  | .rhevict _ s => s
  | .rhclose _ s => s
  | .attest _ _ s => s
  | _ => 0

end Sys2Proof.Machine
end

