-- ==== Sys2Proof/Machine/Memory.lean ====
section
/-! DEFINITION. Loads, stores, atomics, full/empty accesses, fences and line operations of the access stream: majors 0x22 to
0x2F (R179 to R202), and the page-fault upcall (R377). Every check of an access is made at its issue (log 6). -/

namespace Sys2Proof.Machine

/-! ## Queue images (Tables 16-4, 16-5) -/

/-- The dword of an execute-to-access outcome item (Table 10-1): taken in bit 0, the target of a JMPI above. -/
def outcomeWord (o : Outcome) : Nat := (if o.taken then 1 else 0) + o.target.toNat / 4 * 4
def outcomeOf (w : Nat) : Outcome := { taken := w % 2 == 1, target := BitVec.ofNat 64 (w / 4 * 4) }

/-- The access-to-execute outcome bits, oldest in bit 0. -/
def outcomeBits : List Bool → Nat
  | [] => 0
  | b :: l => (if b then 1 else 0) + 2 * outcomeBits l

/-- The counts dword: ldq positions, reserved ones among them, sdq, and the outcome items of both directions. -/
def queueCounts (x : Ctx) : Nat :=
  x.ldq.length + (x.ldq.filter (fun i => i.val.isNone)).length * 2 ^ 5 + x.sdq.length * 2 ^ 10 + x.oqE.length * 2 ^ 15 +
    x.oqA.length * 2 ^ 19

/-- Pad dwords to a count and give their bytes. -/
def dwordBytes (n : Nat) (l : List Nat) : List Byte := ((List.range n).map (fun i => leBytes 8 (nth l i 0))).flatten

/-- The queue part of a record: 0x000 to 0x14F of a context record, or 0x040 to 0x18F of a frame. -/
def queueBytes (x : Ctx) : List Byte :=
  dwordBytes 16 (x.ldq.map (fun i => (i.val.getD 0).toNat)) ++ dwordBytes 16 (x.sdq.map (fun i => i.val.toNat)) ++
    dwordBytes 8 (x.oqE.map outcomeWord) ++ leBytes 8 (outcomeBits x.oqA) ++ leBytes 8 (queueCounts x)

/-- A dword of a byte image. -/
def dwordAt (l : List Byte) (off : Nat) : Nat := leNat ((l.drop off).take 8)

/-- The queues of a context from the queue part of a record; reserved positions are named by replay entries (R374). -/
def Ctx.loadQueues (x : Ctx) (l : List Byte) : Ctx :=
  let counts := dwordAt l 0x148
  { x with
    ldq := (List.range (nbits counts 0 5)).map (fun i => { pos := 0, id := 0, val := some (BitVec.ofNat 64 (dwordAt l (8 * i))) })
    sdq := (List.range (nbits counts 10 5)).map (fun i => { pos := 0, val := BitVec.ofNat 64 (dwordAt l (0x80 + 8 * i)) })
    oqE := (List.range (nbits counts 15 4)).map (fun i => outcomeOf (dwordAt l (0x100 + 8 * i)))
    oqA := (List.range (nbits counts 19 4)).map (fun i => nbits (dwordAt l 0x140) i 1 == 1) }

/-- Empty queues. -/
def Ctx.noQueues (x : Ctx) : Ctx := { x with ldq := [], sdq := [], oqE := [], oqA := [] }

/-! ## Accesses of a context outside the request path -/

/-- Trap with a faulting address. -/
def trapVa {α : Type} (code : Nat) (va : VA) : M α := stop (.trap { code := code, va := va })

/-- Resolve an address for the executing context, with every fault but the upcall: guard (R188) for a write, the faults of R148
to R153 and R170, the workspace guard at user privilege (R92), an uncorrectable error for a read (R177, R368). -/
def checkAccess (s : State) (c k : Nat) (va : VA) (size : Nat) (need : AccNeed) : Except Nat (Target × State) :=
  let x := s.ctx c k
  let v := s.core c
  let write := need == .write || need == .atomic
  if write && vaRegion va < 14 && attGuard (attOf s (vaRegion va)) then .error 0x09
  else
    match resolve s c v.gid v.asid va size need (!x.dev) with
    | .error e => .error e
    | .ok (.sp t off, s) =>
      if !x.dev && touchesLiveArea s t off size then .error 0x0A
      else if need != .write && s.flawed (spPlace t off) size then .error 0x1E
      else .ok (.sp t off, s)
    | .ok (.ash b off, s) => if need != .write && s.flawed (ashPlace b off) size then .error 0x1E else .ok (.ash b off, s)
    | .ok (.hbm l, s) => if need != .write && locPoison l size s then .error 0x1E else .ok (.hbm l, s)

/-- The page by which an access has found its place. -/
def pageOf (s : State) (t : Target) : List Trans :=
  match t with
  | .hbm l =>
    let a := attOf s (vaRegion l.va)
    [{ asid := l.asid, region := BitVec.ofNat 4 (vaRegion l.va), vpn := l.va.toNat / 2 ^ attP a, leaf := l.leaf a }]
  | _ => []

/-- A list of pages with some more, each once. -/
def addPages (l p : List Trans) : List Trans := l ++ p.filter (fun t => !l.contains t)

/-- Read `n` bytes as the context does, at once. -/
def readNow (s : State) (c k : Nat) (va : VA) (n : Nat) : Except Nat (State × Nat) :=
  match checkAccess s c k va n .read with
  | .error e => .error e
  | .ok (.sp t off, s) => .ok (spRead t off n s)
  | .ok (.ash b off, s) => .ok (s, s.load (ashPlace b off) n)
  | .ok (.hbm l, s) => .ok (readAtOnce (coreDie c) l n s)

/-- Write `n` bytes as the context does, at once. -/
def writeNow (s : State) (c k : Nat) (va : VA) (n v : Nat) : Except Nat State :=
  match checkAccess s c k va n .write with
  | .error e => .error e
  | .ok (.sp t off, s) => .ok (spWrite t off n v s)
  | .ok (.ash b off, s) => .ok (s.store (ashPlace b off) n v)
  | .ok (.hbm l, s) => .ok (writeAtOnce l n v (some c) s)

/-- Read bytes as the context does. -/
def readBytesNow (s : State) (c k : Nat) (va : VA) (n : Nat) : Except Nat (State × List Byte) :=
  (chunks (n / 64 + 2) va.toNat n).foldl (fun r ch =>
    match r with
    | .error e => .error e
    | .ok (s, l) =>
      match readNow s c k (BitVec.ofNat 80 ch.1) ch.2 with
      | .error e => .error e
      | .ok (s, v) => .ok (s, l ++ leBytes ch.2 v)) (.ok (s, []))

/-- Write bytes as the context does. -/
def writeBytesNow (s : State) (c k : Nat) (va : VA) (l : List Byte) : Except Nat State :=
  let r : Except Nat (State × List Byte) := (chunks (l.length / 64 + 2) va.toNat l.length).foldl (fun r ch =>
    match r with
    | .error e => .error e
    | .ok (s, l) =>
      match writeNow s c k (BitVec.ofNat 80 ch.1) ch.2 (leNat (l.take ch.2)) with
      | .error e => .error e
      | .ok s => .ok (s, l.drop ch.2)) (.ok (s, l))
  r.map (·.1)

/-! ## Page faults (R377) -/

/-- The fibre frame image 0x000 to 0x037 (Table 16-5). -/
def frameHead (pca pce wp : Dword) (flags : Nat) (target : Dword) (va : VA) : List Byte :=
  leBytes 8 pca.toNat ++ leBytes 8 pce.toNat ++ leBytes 8 wp.toNat ++ leBytes 8 flags ++ leBytes 8 target.toNat ++
    leBytes 8 (va.toNat % 2 ^ 64) ++ leBytes 8 (va.toNat / 2 ^ 64)

/-- Write a frame at a14: its head, and the queues; the notice address at 0x038 stays as the runtime wrote it. -/
def writeFrame (s : State) (c k : Nat) (at_ : VA) (head : List Byte) : Except Nat State :=
  match writeBytesNow s c k at_ head with
  | .error e => .error e
  | .ok s' => writeBytesNow s' c k (at_ + 0x40) (queueBytes (s.ctx c k))

/-- Whether the frame address takes the upcall: 512-byte aligned, and a 512-byte write there raises no fault. -/
def frameOk (s : State) (c k : Nat) (at_ : VA) : Bool :=
  at_.toNat % 512 = 0 && (List.range 8).all (fun i =>
    match checkAccess s c k (at_ + BitVec.ofNat 80 (64 * i)) 64 .write with
    | .ok _ => true
    | .error _ => false)

/-- Enter the upcall handler: write the frame, tell the control core (R377). -/
def upcall (c k : Nat) (fr : VA) (head : List Byte) (va : VA) (acc : Nat) (orElse s : State) : State :=
  match writeFrame s c k fr head with
  | .error _ => orElse
  | .ok s =>
    let notice := match readNow s c k (fr + 0x38) 8 with
      | .ok (_, v) => v
      | .error _ => 0
    let f : FaultRecord := { asid := (s.core c).asid, va := va, kind := BitVec.ofNat 2 acc, notice := BitVec.ofNat 64 notice }
    leaveQueues c k ((s.modDie (coreDie c) (fun d => { d with pageFaults := d.pageFaults ++ [f] })).modCtx c k
      (fun x => { x.noQueues with tc := 6, wait := none, within := false, retiring := false, saved := x.savedText :: x.saved }.enter x.uh))

/-- A page fault at the word that moves: an upcall to the context's runtime when the conditions of R377 hold, else the precise
trap. `acc` is 0 for a read, 1 for a write, 2 for an atomic; `both` holds for a word of both streams. -/
def pageFaultAt (va : VA) (acc : Nat) (both : Bool) (s : State) : State :=
  let c := s.cur.core
  let k := s.cur.ctxNo
  let x := s.ctx c k
  let t := s.cur.stream
  let trapped := precise { code := 0x06, va := va, both := both } s
  if x.dev || !x.ue || x.uh = 0 then trapped
  else
    match readA 14 s with
    | .error _ => trapped
    | .ok (fr, s1) =>
      let es := t = .exe && !both
      if !frameOk s1 c k fr then trapped
      else if x.accessesBefore (max (x.stream t).pos x.acc.pos) then stalled .event s
      else
        let s1 := detachForTrap c k s1
        let x := s1.ctx c k
        match x.slotOf t with
        | some b =>
          (match x.outcome t b with
           | none => stalled .event s
           | some (tk, tgt) =>
             let flags := 1 + 2 + (if tk then 4 else 0) + 6 * 2 ^ 8 + (if es then 2 ^ 16 else 0) + acc * 2 ^ 17
             upcall c k fr (frameHead x.acc.savePc x.exe.savePc x.wp flags (if tk then tgt else b.addr + 8) va) va acc trapped s1)
        | none =>
          let flags := 1 + 6 * 2 ^ 8 + (if es then 2 ^ 16 else 0) + acc * 2 ^ 17
          upcall c k fr (frameHead x.acc.savePc x.exe.savePc x.wp flags 0 va) va acc trapped s1

/-- A page fault ends the instruction: nothing of it has come about. -/
def pageFault {α : Type} (va : VA) (acc : Nat) (both : Bool := false) : M α := stop (.before (pageFaultAt va acc both))

/-- A fault code of an access becomes its trap or upcall. -/
def accessFault {α : Type} (code : Nat) (va : VA) (need : AccNeed) (both : Bool := false) : M α :=
  if code = 0x06 then
    pageFault va (match need with
      | .write => 1
      | .atomic => 2
      | _ => 0) both
  else stop (.trap { code := code, va := va, both := both })

/-- The sectors of an access that meets poison stand in the LLC afterwards, poisoned (R177). -/
def bringPoison (c : Nat) (va : VA) (size : Nat) (need : AccNeed) (s : State) : State :=
  match resolveHbm s (s.core c).asid va need false with
  | .ok (.hbm l, s) => if l.cache = 0 then s else (ensureLine l (sectorMask (l.pa % 128) size) s).1
  | _ => s

/-- A fault code of a read of the executing context; poison is brought into the LLC. -/
def readFault {α : Type} (code : Nat) (va : VA) (size : Nat) (both : Bool := false) : M α :=
  if code = 0x1E then
    stop (.before (fun s => precise { code := 0x1E, va := va, both := both } (bringPoison s.cur.core va size .read s)))
  else accessFault code va .read both

/-- Check an access of the executing context; its translation stays with the slice. -/
def check (va : VA) (size : Nat) (need : AccNeed) : M Target := do
  let s ← get
  match checkAccess s s.cur.core s.cur.ctxNo va size need with
  | .error 0x1E => stop (.before (fun s => precise { code := 0x1E, va := va } (bringPoison s.cur.core va size .read s)))
  | .error code => accessFault code va need
  | .ok (t, s') => do set s'; return t

/-- An earlier full/empty access of a context to common bytes of a scratchpad waits at its bank. -/
def spBusy (s : State) (c k : Nat) (va : VA) (n : Nat) : Bool :=
  match resolveSp s c (s.core c).gid va with
  | .ok (.sp t off) => vaRegion va == 15 && (s.core t).feWait.any (fun q =>
      q.core == c && q.ctx == k && decide (reqOff q < off + n) && decide (off < reqOff q + q.size))
  | _ => false

/-- Read bytes at the executing word with the translation and faults of a load. Earlier accesses of the context to the line
come first (R183). -/
def readWord (va : VA) (n : Nat) (both : Bool := false) : M (List Byte) := do
  let s ← get
  let c := s.cur.core
  let k := s.cur.ctxNo
  let r : Req := { core := c, ctx := k, id := s.nextId, op := .read, asid := 0, gid := 0, va := va, size := n, x := 0, y := 0, sx := false,
                   dest := .none, path := .plain, nt := false }
  if lineInFlight s c k (va.toNat / 128) || spBusy s c k va n || waitaAhead s r then stall
  else
    match readBytesNow s c k va n with
    | .error code => readFault code va n both
    | .ok (s', l) => do set s'; return l

/-! ## The shape of an access (R179 to R184) -/

/-- Wait on a slot as the ws field names it; an errored slot traps (R181, R325). -/
def waitSlot (ws : BitVec 3) : M Unit := do
  if ws = 0 then pure ()
  else
    let x ← getCtx
    let n ← myPos
    if x.slotWaits instrSetter ws n then stall else slotErrors [ws.toNat]

/-- The effective address (R179). -/
def effective (a : BitVec 4) (off : BitVec n) (unit : Nat) : M VA := do
  let base ← readA a
  return base + off.signExtend 80 * BitVec.ofNat 80 unit

/-- A fresh load-data queue position (R228). -/
def reserveLdq (id : Nat) : M Unit := do
  let x ← getCtx
  let n ← myPos
  if 16 ≤ x.ldq.length then stall
  else modCtx (fun x => { x with ldq := x.ldq ++ [{ pos := n, id := id, val := none }] })

/-- The timeout that a HINT.MOD gives (R199): 0 for none. -/
def hintTmo : M (BitVec 5) := do
  match ← myHint with
  | .mod _ tmo => return tmo
  | _ => return 0

/-- Whether the word carries the nt hint (R184). -/
def hintNt : M Bool := do
  match (← myHint) with
  | .mod nt _ => return nt
  | _ => return false

/-- Count an L1 hit or miss of a load (Table 14-9): a load of a region that admits L1. -/
def countL1 (c : Nat) (hit : Bool) (s : State) : State :=
  s.modCore c (fun v => if hit then { v with l1Hit := v.l1Hit + 1 } else { v with l1Miss := v.l1Miss + 1 })

/-- A cached copy serves an access of `n` bytes: the line, the address space and the key id match, and the sectors are there (R157). -/
def copyServes (s : State) (asid : BitVec 12) (va : VA) (n : Nat) (line : Nat) (of : BitVec 12) (key : BitVec 12) (valid : BitVec 4) :
    Bool :=
  line == va.toNat / 128 && of == asid && keyFits s asid va key &&
    (List.range 4).all (fun i => nbits (sectorMask (va.toNat % 128) n) i 1 == 0 || bitAt valid i)

/-- The bytes that the caches of a core hold for a read: LDC looks in the constant cache (R187), LDI in the L1, and any other load in the
ordinary lines of the L1 (R186, R188). -/
def cachedCopy (s : State) (v : Core) (r : Req) : Option Nat :=
  let bytes (data : BitVec 1024) : Nat := nbits data.toNat (8 * (r.va.toNat % 128)) (8 * r.size)
  match r.path with
  | .constant => (v.cc.find? (fun l => copyServes s r.asid r.va r.size l.line l.asid l.key l.valid)).map (fun l => bytes l.data)
  | .invariant => (v.l1.find? (fun l => copyServes s r.asid r.va r.size l.line l.asid l.key l.valid)).map (fun l => bytes l.data)
  | .plain => (v.l1.find? (fun l => !l.inv && copyServes s r.asid r.va r.size l.line l.asid l.key l.valid)).map (fun l => bytes l.data)

/-- What an access instruction is. -/
structure Access where
  size : Nat
  op   : ReqOp
  x    : VReg := 0
  y    : Dword := 0
  sx   : Bool := false
  dest : ReqDest := .none
  path : ReqPath := .plain
  kind : PendKind := .access
  hold : Bool := false
  release : Bool := false

/-- A full/empty operation (R194). -/
def feOp : ReqOp → Bool
  | .writeFull | .writeWhenEmpty | .readWhenFull _ => true
  | _ => false

/-- The fault of an access before its translation: alignment (R179); a full/empty access outside region 0xF (R194), a WAITA in
region 0xE or 0xF (R198). It comes before the guard trap of R188: R365 orders no two traps of one access, and the order is the model's
(log 89). -/
def accessStop (va : VA) (q : Access) : Option Nat :=
  if va.toNat % q.size ≠ 0 then some 0x03
  else if feOp q.op && vaRegion va != 15 then some 0x04
  else if q.op == .waita && decide (14 ≤ vaRegion va) then some 0x04
  else none

/-- Whether an access may use the core's L1 and constant caches (R157, R160). -/
def admitsL1 (t : Target) (va : VA) : Bool :=
  match t with
  | .hbm l => l.cache == 2 && decide (vaRegion va ≤ 12)
  | _ => false

/-- The translation that an access found, as its request carries it (log 6). -/
def Target.leaf (s : State) : Target → Dword
  | .hbm l => l.leaf (attOf s (vaRegion l.va))
  | _ => 0

/-- The request of an access of the context that moves, as it stands in `s`; its name is the next fresh one. -/
def accessRequest (s : State) (va : VA) (q : Access) (t : Target) (path : ReqPath) (nt : Bool) : Req :=
  let v := s.core s.cur.core
  { core := s.cur.core, ctx := s.cur.ctxNo, id := s.nextId, op := q.op, asid := v.asid, gid := v.gid, va := va, size := q.size,
    x := q.x, y := q.y, sx := q.sx, dest := q.dest, path := path, nt := nt, leaf := t.leaf s }

/-- An access leaves its core `v`: a cached copy answers at once, an ordinary load only while no access of the context to the line, and
no store of the core, is still to be performed (R158, R183); else the request goes to its home. An atomic drops the core's own copy. -/
def sendOut (v : Core) (r : Req) (l1 release : Bool) (s : State) : State :=
  match r.op with
  | .read =>
    let copy := if l1 then cachedCopy s v r else none
    let s := if l1 && r.path != .constant then countL1 r.core copy.isSome s else s
    match copy with
    | some d =>
      if r.path == .plain && lineBusy s r.core r.ctx (r.va.toNat / 128) then post r release s
      else s.send (.loadReturn r.core r.ctx r.id (extend r.size r.sx d))
    | none => post r release s
  | .atomic _ =>
    post r release (s.modCore r.core (fun v => { v with
      l1 := v.l1.filter (fun l => !(l.line == r.va.toNat / 128 && l.asid == r.asid)) }))
  | _ => post r release s

/-- LA and VLD write a register: a dead granule raises its fault before the access is sent (Table 5-2). -/
def destAlive (d : ReqDest) : M Unit := do
  let x ← getCtx
  let v ← getCore
  let dead (off : Nat) : Bool := v.granule x.area (off / 64) == .dead
  match d with
  | .addr n => if dead (0x580 + 16 * n.toNat) then trap 0x0B
  | .vec n => if dead (0x180 + 64 * n.toNat) then trap 0x0B
  | _ => pure ()

/-- A seventeenth full/empty access of a context waits (R195). -/
def feWaits (kind : PendKind) : M Unit := do
  let x ← getCtx
  if kind == .fullEmpty && decide (16 ≤ (x.pend.filter (fun p => p.kind == .fullEmpty)).length) then stall

/-- Send an access whose operands have been read: alignment, the region's rules, the checks, the slot, the reserved position, and
the request (R179 to R182). -/
def sendAccess (va : VA) (ss : BitVec 3) (q : Access) : M Unit := do
  match accessStop va q with
  | some code => trapVa code va
  | none => do
    feWaits q.kind
    let t ← check va q.size (reqNeed q.op)
    destAlive q.dest
    let nt ← hintNt
    let s ← get
    let id ← joinPend ss q.kind q.hold q.dest
    if q.dest = .ldq then reserveLdq id
    let l1 := admitsL1 t va
    modS (sendOut (s.core s.cur.core) (accessRequest s va q t (if l1 then q.path else .plain) nt) l1 q.release)
    retire

/-- The bytes of a size field (Table 4-3). -/
def szBytes (z : BitVec 2) : Nat := 2 ^ z.toNat

/-! ## Loads -/

/-- The shape of LD, LDC, LDI, LDACQ (R185 to R190). -/
def loadWord (a : BitVec 4) (ss ws : BitVec 3) (z : BitVec 2) (sx : Bool) (off : BitVec 12) (path : ReqPath) (hold : Bool) : M Unit := do
  waitSlot ws
  waitHolds
  let va ← effective a off (szBytes z)
  sendAccess va ss { size := szBytes z, op := .read, sx := sx, dest := .ldq, path := path, hold := hold }

def execLd (a : BitVec 4) (ss ws : BitVec 3) (z : BitVec 2) (q : BitVec 1) (o : BitVec 12) (s : State) :
    Host.Outcome State Fault Refusal := run (loadWord a ss ws z (q == 1) o .plain false) s
def execLdc (a : BitVec 4) (ss ws : BitVec 3) (z : BitVec 2) (q : BitVec 1) (o : BitVec 12) (s : State) :
    Host.Outcome State Fault Refusal := run (loadWord a ss ws z (q == 1) o .constant false) s
def execLdi (a : BitVec 4) (ss ws : BitVec 3) (z : BitVec 2) (q : BitVec 1) (o : BitVec 12) (s : State) :
    Host.Outcome State Fault Refusal := run (loadWord a ss ws z (q == 1) o .invariant false) s
/-- LDACQ: every later access-stream access waits until it has completed (R190); every scope waits alike (R192). -/
def execLdacq (a : BitVec 4) (ss ws : BitVec 3) (z : BitVec 2) (_q : BitVec 2) (o : BitVec 12) (s : State) :
    Host.Outcome State Fault Refusal := run (loadWord a ss ws z false o .plain true) s

/-- LDFE: waits at the bank for a full granule; .CLEAR empties it (R194). -/
def execLdfe (a : BitVec 4) (ss ws : BitVec 3) (z : BitVec 2) (q : BitVec 1) (o : BitVec 12) (s : State) :
    Host.Outcome State Fault Refusal :=
  run (do
    waitSlot ws
    waitHolds
    let va ← effective a o (szBytes z)
    sendAccess va ss { size := szBytes z, op := .readWhenFull (q == 1), dest := .ldq, kind := .fullEmpty }) s

/-! ## Stores -/

/-- The shape of ST, STREL and STFE: the data come from sdq (R189, R191, R194). The item is popped, and waited for, before a fault of
the address is raised: the manual does not order the two, and the order is the model's (log 89). -/
def storeWord (a : BitVec 4) (ss ws : BitVec 3) (z : BitVec 2) (off : BitVec 12) (op : ReqOp) (kind : PendKind) (release : Bool) :
    M Unit := do
  waitSlot ws
  waitHolds
  if release && !(← getCtx).replay.isEmpty then waitAccesses
  let va ← effective a off (szBytes z)
  let x ← popSdq
  sendAccess va ss { size := szBytes z, op := op, x := (x.toNat % 2 ^ (8 * szBytes z) : Nat), kind := kind, release := release }

def execSt (a : BitVec 4) (ss ws : BitVec 3) (z : BitVec 2) (o : BitVec 12) (s : State) : Host.Outcome State Fault Refusal :=
  run (storeWord a ss ws z o .write .store false) s
/-- STREL is sent once every earlier access-stream access of the context has completed, and holds no later access but one to its own
line (R183, R191). -/
def execStrel (a : BitVec 4) (ss ws : BitVec 3) (z : BitVec 2) (_q : BitVec 2) (o : BitVec 12) (s : State) :
    Host.Outcome State Fault Refusal := run (storeWord a ss ws z o .write .store true) s
/-- STFE: .CLEAR waits at the bank for an empty granule; the write sets it full (R194). -/
def execStfe (a : BitVec 4) (ss ws : BitVec 3) (z : BitVec 2) (q : BitVec 1) (o : BitVec 12) (s : State) :
    Host.Outcome State Fault Refusal :=
  run (if q = 1 then storeWord a ss ws z o .writeWhenEmpty .fullEmpty false else storeWord a ss ws z o .writeFull .store false) s

/-! ## Whole registers (R196) -/

def execLa (a : BitVec 4) (ss ws : BitVec 3) (t : BitVec 4) (o : BitVec 8) (s : State) : Host.Outcome State Fault Refusal :=
  run (do
    waitSlot ws
    waitHolds
    let va ← effective a o 16
    sendAccess va ss { size := 16, op := .read, dest := .addr t }) s
def execVld (a : BitVec 4) (ss ws : BitVec 3) (t : BitVec 4) (o : BitVec 8) (s : State) : Host.Outcome State Fault Refusal :=
  run (do
    waitSlot ws
    waitHolds
    let va ← effective a o 64
    sendAccess va ss { size := 64, op := .read, dest := .vec t }) s
/-- The shape of VST and VSTFE. -/
def vstore (a : BitVec 4) (ss ws : BitVec 3) (t : BitVec 4) (o : BitVec 8) (op : ReqOp) : M Unit := do
  waitSlot ws
  waitHolds
  let va ← effective a o 64
  let v ← readV t
  sendAccess va ss { size := 64, op := op, x := v, kind := .store }
def execVst (a : BitVec 4) (ss ws : BitVec 3) (t : BitVec 4) (o : BitVec 8) (s : State) : Host.Outcome State Fault Refusal :=
  run (vstore a ss ws t o .write) s
def execVstfe (a : BitVec 4) (ss ws : BitVec 3) (t : BitVec 4) (o : BitVec 8) (s : State) : Host.Outcome State Fault Refusal :=
  run (vstore a ss ws t o .writeFull) s

/-! ## Atomics and WAITA (R197 to R199) -/

/-- The shape of an atomic of `n` bytes; ATCAS pops a second item. -/
def atomicWord (a : BitVec 4) (ss ws : BitVec 3) (n : Nat) (off : BitVec 12) (op : AtOp) : M Unit := do
  waitSlot ws
  waitHolds
  let va ← effective a off n
  let x ← popSdq
  let y ← if op = .cas then popSdq else pure 0
  sendAccess va ss { size := n, op := .atomic op, x := x.setWidth 512, y := y, dest := .ldq, kind := .atomic }

/-- The size of an atomic: sz 10 is 4 bytes, 11 is 8 (R71); the field of one bit is the low bit of sz. -/
def atBytes (z : BitVec 1) : Nat := if z = 0 then 4 else 8

def execAtadd (a : BitVec 4) (ss ws : BitVec 3) (z : BitVec 1) (o : BitVec 12) (s : State) : Host.Outcome State Fault Refusal :=
  run (atomicWord a ss ws (atBytes z) o .add) s
/-- ATMIN, ATMAX: sz 10 and 11 signed, 00 and 01 natural, of 4 and 8 bytes (R71). -/
def execAtmin (a : BitVec 4) (ss ws : BitVec 3) (z : BitVec 2) (o : BitVec 12) (s : State) : Host.Outcome State Fault Refusal :=
  run (atomicWord a ss ws (if z.getLsbD 0 then 8 else 4) o (if z.getLsbD 1 then .minS else .minN)) s
def execAtmax (a : BitVec 4) (ss ws : BitVec 3) (z : BitVec 2) (o : BitVec 12) (s : State) : Host.Outcome State Fault Refusal :=
  run (atomicWord a ss ws (if z.getLsbD 0 then 8 else 4) o (if z.getLsbD 1 then .maxS else .maxN)) s
def execAtand (a : BitVec 4) (ss ws : BitVec 3) (z : BitVec 1) (o : BitVec 12) (s : State) : Host.Outcome State Fault Refusal :=
  run (atomicWord a ss ws (atBytes z) o .and) s
def execAtor (a : BitVec 4) (ss ws : BitVec 3) (z : BitVec 1) (o : BitVec 12) (s : State) : Host.Outcome State Fault Refusal :=
  run (atomicWord a ss ws (atBytes z) o .or) s
def execAtxor (a : BitVec 4) (ss ws : BitVec 3) (z : BitVec 1) (o : BitVec 12) (s : State) : Host.Outcome State Fault Refusal :=
  run (atomicWord a ss ws (atBytes z) o .xor) s
def execAtswp (a : BitVec 4) (ss ws : BitVec 3) (z : BitVec 1) (o : BitVec 12) (s : State) : Host.Outcome State Fault Refusal :=
  run (atomicWord a ss ws (atBytes z) o .swp) s
def execAtcas (a : BitVec 4) (ss ws : BitVec 3) (z : BitVec 1) (o : BitVec 12) (s : State) : Host.Outcome State Fault Refusal :=
  run (atomicWord a ss ws (atBytes z) o .cas) s

/-- WAITA: its expected value comes from sdq; it parks at the home while the value is the expected one (R198). The request carries
the timeout of its hint, 0 for none (R199). -/
def execWaita (a : BitVec 4) (ss ws : BitVec 3) (z : BitVec 1) (o : BitVec 12) (s : State) : Host.Outcome State Fault Refusal :=
  run (do
    waitSlot ws
    waitHolds
    let va ← effective a o (atBytes z)
    let x ← popSdq
    let tmo ← hintTmo
    sendAccess va ss { size := atBytes z, op := .waita, x := x.setWidth 512, y := tmo.setWidth 64, dest := .ldq }) s

/-! ## Line operations (R201) -/

/-- The line of an address. -/
def lineOf (va : VA) : VA := BitVec.ofNat 80 (va.toNat / 128 * 128)

/-- A line operation or prefetch in region 0xE or 0xF changes nothing (R201); at user privilege one whose line touches the area of a live
context takes the workspace-guard fault first (R92; that R92 stands before R201 is log 89). -/
def lineOutside (va : VA) (ss : BitVec 3) : M Unit := do
  let s ← get
  match checkAccess s s.cur.core s.cur.ctxNo (lineOf va) 128 .read with
  | .error 0x0A => trapVa 0x0A va
  | _ => do
    slotRoom ss
    retire

/-- The shape of CFLUSH, CINV, CPIN, CUNPIN: only CPIN translates. -/
def lineWord (a : BitVec 4) (ss ws : BitVec 3) (o : BitVec 12) (op : ReqOp) : M Unit := do
  waitSlot ws
  waitHolds
  let va ← effective a o 128
  if 14 ≤ vaRegion va then lineOutside va ss
  else
    let t ← if op == .cpin then check (lineOf va) 128 .read else pure (.sp 0 0)
    let s ← get
    let _ ← joinPend ss .access false
    modS (post (accessRequest s (lineOf va) { size := 128, op := op } t .plain false) false)
    retire

def execCflush (a : BitVec 4) (ss ws : BitVec 3) (o : BitVec 12) (s : State) : Host.Outcome State Fault Refusal :=
  run (lineWord a ss ws o .cflush) s
def execCinv (a : BitVec 4) (ss ws : BitVec 3) (o : BitVec 12) (s : State) : Host.Outcome State Fault Refusal :=
  run (lineWord a ss ws o .cinv) s
def execCpin (a : BitVec 4) (ss ws : BitVec 3) (o : BitVec 12) (s : State) : Host.Outcome State Fault Refusal :=
  run (lineWord a ss ws o .cpin) s
def execCunpin (a : BitVec 4) (ss ws : BitVec 3) (o : BitVec 12) (s : State) : Host.Outcome State Fault Refusal :=
  run (lineWord a ss ws o .cunpin) s

/-- PREF with nt loads the translation into the slice translation cache, a hit in the LLC or not (R184). -/
def loadTranslation (nt : Bool) (asid : BitVec 12) (va : VA) (user : Bool) (s : State) : State :=
  if nt then
    match translate s asid va .read user with
    | .ok (s, _) => s
    | .error _ => s
  else s

/-- PREF completes at issue, so it sets its slot for no time; a fault of translation cancels it silently (Table 8-1, R201). -/
def execPref (a : BitVec 4) (ss ws : BitVec 3) (o : BitVec 12) (s : State) : Host.Outcome State Fault Refusal :=
  run (do
    waitSlot ws
    waitHolds
    let va ← effective a o 128
    if 14 ≤ vaRegion va then lineOutside va ss
    else
      slotRoom ss
      let s ← get
      let nt ← hintNt
      match checkAccess s s.cur.core s.cur.ctxNo (lineOf va) 128 .read with
      | .error _ => retire
      | .ok (t, s') =>
        let s' := loadTranslation nt (s.core s.cur.core).asid (lineOf va) (!(s.ctx s.cur.core s.cur.ctxNo).dev) s'
        set { post (accessRequest s (lineOf va) { size := 128, op := .pref } t .plain nt) false s' with nextId := s.nextId + 1 }
        retire) s

/-! ## FENCE (R200) -/

/-- FENCE waits for every earlier access-stream access and every pending slot, then traps for the lowest errored slot. Every
scope waits for the same events (R192, R200). -/
def fence : M Unit := do
  waitHolds
  waitAccesses
  let x ← getCtx
  let n ← myPos
  if x.pend.any (fun p => p.ss != 0 && p.pos < n) then stall
  slotErrors [1, 2, 3, 4, 5, 6, 7]
  retire

def execFenceCore (_ss : BitVec 3) (s : State) : Host.Outcome State Fault Refusal := run fence s
def execFenceTile (_ss : BitVec 3) (s : State) : Host.Outcome State Fault Refusal := run fence s
def execFenceDie (_ss : BitVec 3) (s : State) : Host.Outcome State Fault Refusal := run fence s
def execFenceModule (_ss : BitVec 3) (s : State) : Host.Outcome State Fault Refusal := run fence s
def execFenceDomain (_ss : BitVec 3) (s : State) : Host.Outcome State Fault Refusal := run fence s

end Sys2Proof.Machine
end

