-- ==== Sys2Proof/Machine/Permits.lean ====
section
/-! DEFINITION. Permits: acquisition, PERMIT, PERMREL and PERMIT_GRANT (R137, R338 to R340). -/

namespace Sys2Proof.Machine

/-! ## Acquisition -/

/-- Acquire `n` units under a place `key` of core `c` in the die's queue, in its order: the state with the units, or none with the
state that waits. -/
def queuedPermit (c key n : Nat) (s : State) : Option State × State :=
  match permitReq s c key with
  | some r =>
    if r.granted && r.n = n then
      (some (s.modDie (coreDie c) (fun d => { d with permitQ := removeFirst (fun r => r.core == c && r.ctx == key) d.permitQ })), s)
    else if r.n = n then (none, s)
    else (none, dropPermitReq c key s)
  | none =>
    if !permitWaits (s.die (coreDie c)) && permitPossible s c n then (some (movePermit true c n s), s)
    else
      let r : PermitReq := { core := c, ctx := key, n := n, granted := false }
      (none, (s.modDie (coreDie c) (fun d => { d with permitQ := d.permitQ ++ [r] })).send (.permitGrant (BitVec.ofNat 2 (coreDie c))))

/-- The place of the executing stream in the permit queue. -/
def permitKey (m : Mover) : Nat := if m.stream = .acc then m.ctxNo + 16 else m.ctxNo

/-- Acquire `n` units for the executing word, which waits until it holds them: a wait leaves the word as it stood in `s0`. -/
def takePermitFrom (s0 : State) (n : Nat) : M Unit := do
  let s ← get
  match queuedPermit s.cur.core (permitKey s.cur) n s with
  | (some s, _) => set s
  | (none, _) =>
    if (permitReq s s.cur.core (permitKey s.cur)).any (fun r => r.n == n) then stop (.stall .permit)
    else stop (.instead (stalled .permit (queuedPermit s0.cur.core (permitKey s0.cur) n s0).2))

def takePermit (n : Nat) : M Unit := do takePermitFrom (← get) n

/-- PERMIT_GRANT: the oldest waiting acquisition of a die is granted when it is possible. -/
def permitGrant (d : Nat) (s : State) : State :=
  match (s.die d).permitQ.find? (fun r => !r.granted) with
  | none => s
  | some r =>
    if permitPossible s r.core r.n then
      let grant := replaceFirst (fun q => q == r) (fun q : PermitReq => { q with granted := true })
      let s := (movePermit true r.core r.n s).modDie d (fun v => { v with permitQ := grant v.permitQ })
      let s := if 1000 ≤ r.ctx then s.send (.jobDispatch (BitVec.ofNat 2 d)) else s
      if permitWaits (s.die d) then s.send (.permitGrant (BitVec.ofNat 2 d)) else s
    else s

def execPermitGrant (s : State) : Host.Outcome State Fault Refusal :=
  event (fun s => match s.ev with
    | .permitGrant d => permitGrant d.toNat s
    | _ => s) s

/-! ## PERMIT, PERMREL (R339) -/

/-- Whether PERMIT refuses `n` units. -/
def permitRefused (s : State) (c k : Nat) (v : Dword) : Bool :=
  let n := v.toNat % 2 ^ 16
  let (budget, held) := groupPermits s c
  decide (v.toNat / 2 ^ 16 ≠ 0) || n == 0 || decide ((s.die (coreDie c)).poolSize < n) ||
    (decide (budget < n) && (held != 0 || decide (3 < n))) || decide (65535 < (s.ctx c k).held + n)

def execPermit (d a : BitVec 6) (s : State) : Host.Outcome State Fault Refusal :=
  run (do
    let s0 ← get
    let v ← readS a
    let s ← get
    let c ← coreNo
    let k ← ctxNo
    let x ← getCtx
    let n := v.toNat % 2 ^ 16
    if (permitReq s c k).isNone && permitRefused s c k v then finish d (BitVec.ofNat 64 (2 ^ 63 + x.held))
    else do
      takePermitFrom s0 n
      modCtx (fun x => { x with held := x.held + n })
      finish d (BitVec.ofNat 64 (x.held + n))) s

def execPermrel (d a : BitVec 6) (s : State) : Host.Outcome State Fault Refusal :=
  run (do
    let v ← readS a
    let c ← coreNo
    let k ← ctxNo
    let x ← getCtx
    let core ← getCore
    if core.queue.any (fun m => m.ctx == k && m.own) then stall
    else do
      let n := v.toNat % 2 ^ 16
      let r := if v.toNat / 2 ^ 16 ≠ 0 then 0 else if n = 0 then x.held else min n x.held
      modS (releasePermit c r)
      modCtx (fun x => { x with held := x.held - r })
      finish d (BitVec.ofNat 64 (x.held - r))) s

end Sys2Proof.Machine
end

