-- ==== Sys2Proof/Machine/Issue.lean ====
section
/-! DEFINITION. Fetching and issuing: the instruction cache (R161), the two sequencers of a context (R67, R76 to R80), the register
order between the streams (R83), and what moves next (log 4). -/

namespace Sys2Proof.Machine

/-! ## Fetch (R161) -/

/-- The instruction word at an address of a core's instruction cache, when it holds the line. -/
def icWord (v : Core) (va : VA) : Option Word :=
  (v.ic.find? (fun l => l.line == va.toNat / 128 && l.asid == v.asid && bitAt l.valid (va.toNat % 128 / 32))).map
    (fun l => BitVec.ofNat 32 (nbits l.data.toNat (8 * (va.toNat % 128)) 32))

/-- Put sectors of a line into an instruction cache of 256 lines; the line replaced is a free choice (log 10). -/
def icFill (c : Nat) (n : CodeLine) (s : State) : State :=
  let v := s.core c
  let mine (l : CodeLine) : Bool := l.line == n.line && l.asid == n.asid
  if v.ic.any mine then
    s.modCore c (fun v => { v with ic := replaceFirst mine (fun l =>
      { n with valid := l.valid ||| n.valid, data := spliceSectors n.valid n.data l.data }) v.ic })
  else if v.ic.length < 256 then s.modCore c (fun v => { v with ic := n :: v.ic })
  else
    let victim := nth v.ic (Config.pick s.draws % 256) n
    s.drawn.modCore c (fun v => { v with ic := n :: v.ic.filter (fun l => l != victim) })

/-- Fetch a word by the instruction cache of core `c`, filling it from the home slice with the sectors of the line that are not
poisoned. Text lies in no scratchpad or Ashlar bank (log 22). -/
def fetch (s : State) (c : Nat) (va : VA) (user : Bool) : Except Nat (Word × State) :=
  match icWord (s.core c) va with
  | some w => .ok (w, s)
  | none =>
    if 14 ≤ vaRegion va then .error 0x04
    else
      match resolveHbm s (s.core c).asid va .fetch user with
      | .error e => .error e
      | .ok (.hbm l, s) =>
        if locPoison l 4 s then .error 0x1E
        else
          let l := { l with pa := l.pa / 128 * 128 }
          let valid := cleanSectors l s
          let (s, d) := readAtOnce (coreDie c) l 128 s
          let n : CodeLine := { line := va.toNat / 128, asid := (s.core c).asid, key := l.tag.key, data := BitVec.ofNat 1024 d, valid := valid }
          .ok (BitVec.ofNat 32 (nbits d (8 * (va.toNat % 128)) 32), icFill c n s)
      | .ok (_, s) => .ok (0, s)

/-- The core whose fetch feeds a context: a follower's control context is fed by its leader (R113). -/
def fetchCore (s : State) (c k : Nat) : Nat := if k = 0 && (s.core c).follower then leaderOf s c else c

def fetchFor (s : State) (c k : Nat) (pc : Dword) : Except Nat (Word × State) :=
  fetch s (fetchCore s c k) ((s.ctx c k).textVa pc) (!(s.ctx c k).dev)

/-- The sector whose fetch met poison stands in the LLC afterwards (R177). -/
def fetchPoison (e c : Nat) (va : VA) (s : State) : State := if e = 0x1E then bringPoison c va 4 .fetch s else s

/-! ## Whose word it is -/

/-- The streams that execute a word (R67). -/
inductive Owner where
  | exe | acc | both
  deriving DecidableEq, Repr

def wordOwner (w : Word) : Owner :=
  let m := w.toNat / 2 ^ 26
  if m < 0x20 then .exe else if m < 0x38 then .acc else .both

/-- Whether each stream executes its own copy of a word of both streams: branches, HINT, NOP and YIELD. Every other word of both
streams is executed once, with both streams at it (R75, R327, R346). -/
def ownCopy : Instr → Bool
  | .bre _ _ | .beqz _ _ | .bnez _ _ | .bra _ _ | .jmp _ | .call _ | .loop _ _ | .jmpi _ | .ret | .nop | .yield
  | .hintPfx _ | .hintSched _ | .hintMod _ _ | .hintPrio _ => true
  | _ => false

/-- The stream that evaluates a word of both streams of which each executes its own copy (R76, R77). -/
def evaluator : Instr → Option Stream
  | .bre _ _ | .beqz _ _ | .bnez _ _ | .jmpi _ => some .exe
  | .bra _ _ | .loop _ _ => some .acc
  | _ => none

/-- A stream uses the operands of a word that it executes, but for a copy that the other stream evaluates (R112). -/
def usesOperands (i : Instr) (t : Stream) : Bool := !ownCopy i || evaluator i == some t

/-- The stream that owns a word or, at a branch, evaluates it. -/
def firstStream (w : Word) : Stream :=
  let m := w.toNat / 2 ^ 26
  if m < 0x20 then .exe
  else if 0x38 ≤ m ∧ m ≤ 0x3A then .exe
  else if m = 0x3C ∧ nbits w.toNat 8 6 = 1 then .exe
  else .acc

/-! ## Register order between the streams (R83) -/

def anyIn (a b : List Nat) : Bool := a.any b.contains

/-- Whether a word must wait: an earlier word of the other stream has still to write what it reads or writes, or to read what it
writes; or an LA or VLD has still to write such a register (R83, R196). -/
def hazard (v : Core) (x : Ctx) (pos : Nat) (i : Instr) : Bool :=
  let u := issueUses v i
  x.ahead.any (fun e => e.1 < pos &&
    (let p := if e.1 = x.acc.pos then issueUses v e.2 else instrUses e.2
     anyIn p.2 u.1 || anyIn p.2 u.2 || anyIn p.1 u.2)) ||
  x.pend.any (fun p => p.pos < pos &&
    (match p.dest with
     | .addr n => (u.1 ++ u.2).contains (100 + n.toNat)
     | .vec n => (u.1 ++ u.2).contains (200 + n.toNat)
     | _ => false))

/-- The granule of a register that a use names, but for a vector register that is only written. -/
def useGranule (n : Nat) : Option Nat :=
  if n < 48 then some (n / 8) else if 100 ≤ n ∧ n < 116 then some (22 + (n - 100) / 4) else none
def readGranule (n : Nat) : Option Nat := if 200 ≤ n ∧ n < 216 then some (6 + (n - 200)) else useGranule n

/-- Fill the absent granules that a word names, one after another, before it runs (R87). -/
def fillNamed (c k : Nat) (i : Instr) (s : State) : State :=
  let u := issueUses (s.core c) i
  (u.1.filterMap readGranule ++ u.2.filterMap useGranule).foldl (fun s g =>
    if (s.core c).granule (s.ctx c k).area g = .absent then fillGranule c k g s else s) s

/-! ## One turn of a stream -/

/-- What a turn comes to: a state, an instruction to execute in a state, or a turn of the follow group of a leader. -/
inductive Action where
  | done (s : State)
  | exec (i : Instr) (s : State)
  | group (leader : Nat) (t : Stream) (s : State)

/-- Mark the stream as waiting. -/
def block (c k : Nat) (t : Stream) (s : State) : State :=
  s.modCtx c k (fun x => x.setStream t { x.stream t with blk := true })

/-- The stream passes over a word of the other stream; the word is remembered while the other stream has it still to execute. -/
def passOver (c k : Nat) (t : Stream) (i : Option Instr) (s : State) : State :=
  s.modCtx c k (fun x =>
    let st := x.stream t
    let other := x.stream t.other
    let x := match i with
      | some i => if other.pos ≤ st.pos then { x with ahead := x.ahead ++ [(st.pos, i)] } else x
      | none => x
    x.setStream t st.pass)

/-- One turn of stream `t` at the word that it stands at. -/
def turnAt (c k : Nat) (t : Stream) (s : State) : Action :=
  let x := s.ctx c k
  let st := x.stream t
  match fetchFor s c k st.pc with
  | .error e =>
    if x.together then
      .done (precise { code := e, va := x.textVa st.pc, both := true } (fetchPoison e c (x.textVa st.pc) { s with cur := .ctx c k .acc }))
    else .done (block c k t s)
  | .ok (w, s) =>
    let mine := match wordOwner w, t with
      | .both, _ => true
      | .exe, .exe => true
      | .acc, .acc => true
      | _, _ => false
    match decodeWord w with
    | none =>
      if !mine then .done (passOver c k t none s)
      else if wordOwner w = .both then
        (if x.together then .exec .illegalInstructionWord { s with cur := .ctx c k .acc, ev := .illegalInstructionWord w }
         else .done (block c k t s))
      else .exec .illegalInstructionWord { s with cur := .ctx c k t, ev := .illegalInstructionWord w }
    | some i =>
      if !mine then .done (passOver c k t (some i) s)
      else if wordOwner w = .both && !ownCopy i then
        (if !x.together then .done (block c k t s)
         else if hazard (s.core c) x.align x.align.acc.pos i then .done (block c k t s)
         else .exec i { fillNamed c k i (s.modCtx c k Ctx.align) with cur := .ctx c k .acc })
      else if !usesOperands i t then .exec i { s with cur := .ctx c k t }
      else if hazard (s.core c) x st.pos i then .done (block c k t s)
      else .exec i { fillNamed c k i s with cur := .ctx c k t }

/-- One turn of a stream: it redirects first where it stands past a delay slot. The access stream begins the slot of a JMPI when
the execute stream has read the target: a misaligned one traps before the slot (R111). -/
def turn (c k : Nat) (t : Stream) (s : State) : Action :=
  match ((s.ctx c k).stream t).ctl with
  | .redirect b =>
    match redirect c k t b s with
    | none => .done (block c k t s)
    | some s => turnAt c k t s
  | .slot b =>
    if b.indirect && ((s.ctx c k).outcome t b).isNone then .done (block c k t s) else turnAt c k t s
  | .seq => turnAt c k t s

/-- A control context that belongs to a follow group, and the leader of that group (R19, R113). -/
def inGroup (s : State) (c : Nat) : Bool := (s.core c).follower || ((s.ctx c 0).ldr && !(followersOf s c).isEmpty)
def leaderIn (s : State) (c : Nat) : Nat := if (s.core c).follower then leaderOf s c else c

/-- The turn of a stream of a context. A context that has ended, whose core has failed, or whose operation firmware emulates (R379)
does not move; one that gang-stop halted first takes its permit units back (R340), which is a permit wait (Table 14-9). -/
def turnCtx (c k : Nat) (t : Stream) (s : State) : Action :=
  let x := s.ctx c k
  if !x.live || x.emulating || (s.core c).failed then .done s
  else if x.owed ≠ 0 then
    match queuedPermit c k x.owed s with
    | (some s, _) => .done (s.modCtx c k (fun x => { x with held := x.held + x.owed, owed := 0 }))
    | (none, s) => .done (stalled .permit { s with cur := .ctx c k t })
  else turn c k t s

end Sys2Proof.Machine
end

