-- ==== Sys2Proof/Machine/FetchPlace.lean ====
section
/-! DEFINITION. Where a program comes to stand: what `State.withFetchWord` sets (log 17). -/

namespace Sys2Proof.Machine

/-- The control context of core 0 about to issue an instruction word: the context is live with both streams at one address, at a
boundary, and the word stands in the core's instruction cache, where a gang launch puts the text (R349 step 3). -/
def placeWord (s : State) (w : Word) : State :=
  let v := s.core 0
  let x := s.ctx 0 0
  let va := (x.textVa x.acc.pc).toNat
  let x := { x with live := true, emulating := false, ahead := [], wait := none,
                    acc := { pc := x.acc.pc, pos := x.acc.pos }, exe := { pc := x.acc.pc, pos := x.acc.pos } }
  let n : CodeLine := { line := va / 128, asid := v.asid, key := 0, data := BitVec.ofNat 1024 (w.toNat * 2 ^ (8 * (va % 128))) }
  let v := { v with ctxs := tset v.ctxs 0 x, follower := false, ic := n :: v.ic, gid := if v.gid = 0 then 1 else v.gid }
  { s with cores := tset s.cores 0 v, agenda := [], ring := [(0, 0, firstStream w), (0, 0, (firstStream w).other)], stopped := false, turn := false,
           plinth := { s.plinth with interps := [] } }

/-- Interpreter 0 about to execute a queue-program word: it is busy with a packet of a loaded queue whose program is that word. -/
def placeQueueWord (s : State) (w : Dword) : State :=
  let q := tget s.plinth.queues 0 {}
  let p := s.plinth
  { s with agenda := [], ring := [], stopped := false, turn := false,
           plinth := { p with queues := tset p.queues 0 { q with prog := [w], dis := false, budget := max q.budget 1 },
                              interps := [(0, { busy := true })] } }

/-- The next word of the packet that an interpreter runs. -/
def interpWord (s : State) (n : Nat) : Option Instr :=
  let i := tget s.plinth.interps n {}
  match (tget s.plinth.queues i.queue {}).prog[i.pc]? with
  | none => none
  | some w => decodeQueueWord w

/-- The first interpreter that runs a packet, from number `n` on. -/
def busyInterp (s : State) : Option Nat := (s.plinth.interps.find? (fun e => e.2.busy && e.2.ended.isNone)).map (·.1)

/-- What the machine does next when no message is due: an interpreter's word, or a turn of the next stream of the ring: the contexts
take turns by round robin, separately in each stream (R18). -/
def nextAction (s : State) : Action :=
  match busyInterp s with
  | some n =>
    match interpWord s n with
    | some i => .exec i { s with cur := .interp n, turn := true }
    | none => .done { s with turn := true }
  | none =>
    match s.ring with
    | [] => .done { s with turn := true }
    | (c, k, t) :: l =>
      let s := { s with ring := l ++ [(c, k, t)], cur := .ctx c k t, ev := .idle, turn := true }
      if k = 0 && inGroup s c then .group (leaderIn s c) t s else turnCtx c k t s

/-- A module that has stopped takes nothing but a module reset and the host's reads of registers (R399). -/
def mayMove (s : State) : Bool := !s.stopped || s.agenda.any mayCome

/-- The messages that the module may still take, oldest first. -/
def toTake (s : State) : List Msg := if s.stopped then s.agenda.dropWhile (fun m => !mayCome m) else s.agenda

/-- The message that is due, and the state without it. -/
def dueMessage (s : State) : Option (Instr × State) :=
  if s.turn || (s.ring.isEmpty && (busyInterp s).isNone) then
    match toTake s with
    | [] => none
    | m :: l =>
      match m.instr with
      | some i => some (i, { s with agenda := l, ev := m, cur := .none, turn := false })
      | none => none
  else none

end Sys2Proof.Machine
end

