-- ==== Sys2Proof/Machine/Alu.lean ====
section
/-! DEFINITION. Integer and logic instructions of the execute stream: majors 0x00 to 0x07 (R103, R104, R27, R28). -/

namespace Sys2Proof.Machine

/-- A result and the flags that it sets. -/
def finishFlags (d : BitVec 6) (r : Dword × Flags) : M Unit := do
  setFlags r.2
  finish d r.1

/-- The shape of R103: read a, read b, compute, write d, enter y0. -/
def alu3 (f : Dword → Dword → Dword × Flags) (d a b : BitVec 6) : M Unit := do
  let x ← readS a
  let y ← readS b
  finishFlags d (f x y)

/-- The shape of R104: read a, compute, write d, enter y0. -/
def alu2 (f : Dword → Dword) (d a : BitVec 6) : M Unit := do
  let x ← readS a
  finish d (f x)

/-! ## The operations of Table 5-8 -/

def plain (f : Dword → Dword → Dword) (x y : Dword) : Dword × Flags := (f x y, 0)
def opMulh (x y : Dword) : Dword := BitVec.ofInt 64 (x.toInt * y.toInt / 2 ^ 64)
def opMulhn (x y : Dword) : Dword := BitVec.ofNat 64 (x.toNat * y.toNat / 2 ^ 64)
/-- DIVS: towards zero; a zero divisor gives all ones and dz (R28, Table 2-1). -/
def opDivs (x y : Dword) : Dword × Flags :=
  if y = 0 then (BitVec.allOnes 64, fDz) else (BitVec.ofInt 64 (x.toInt.tdiv y.toInt), 0)
def opDivn (x y : Dword) : Dword × Flags :=
  if y = 0 then (BitVec.allOnes 64, fDz) else (BitVec.ofNat 64 (x.toNat / y.toNat), 0)
/-- REMS: the sign of the dividend; a zero divisor gives the dividend and dz. -/
def opRems (x y : Dword) : Dword × Flags :=
  if y = 0 then (x, fDz) else (BitVec.ofInt 64 (x.toInt.tmod y.toInt), 0)
def opRemn (x y : Dword) : Dword × Flags :=
  if y = 0 then (x, fDz) else (BitVec.ofNat 64 (x.toNat % y.toNat), 0)
/-- The shift count: b[5:0]. -/
def shiftCount (y : Dword) : Nat := y.toNat % 64
def opClz (x : Dword) : Dword := BitVec.ofNat 64 (if x = 0 then 64 else 63 - Nat.log2 x.toNat)
def opPopc (x : Dword) : Dword :=
  BitVec.ofNat 64 ((List.range 64).foldl (fun n i => if x.getLsbD i then n + 1 else n) 0)
def opTest (b : Bool) : Dword := if b then 1 else 0
/-- A saturating operation: the exact result clamped, with sat (R27). -/
def opSat (signed : Bool) (f : Int → Int → Int) (x y : Dword) : Dword × Flags :=
  let r := if signed then f x.toInt y.toInt else f x.toNat y.toNat
  let (c, g) := intClamp 64 signed r
  (BitVec.ofInt 64 c, g)

def execAdd (d a b : BitVec 6) (s : State) : Host.Outcome State Fault Refusal := run (alu3 (plain (· + ·)) d a b) s
def execSub (d a b : BitVec 6) (s : State) : Host.Outcome State Fault Refusal := run (alu3 (plain (· - ·)) d a b) s
def execMul (d a b : BitVec 6) (s : State) : Host.Outcome State Fault Refusal := run (alu3 (plain (· * ·)) d a b) s
def execMulh (d a b : BitVec 6) (s : State) : Host.Outcome State Fault Refusal := run (alu3 (plain opMulh) d a b) s
def execMulhn (d a b : BitVec 6) (s : State) : Host.Outcome State Fault Refusal := run (alu3 (plain opMulhn) d a b) s
def execDivs (d a b : BitVec 6) (s : State) : Host.Outcome State Fault Refusal := run (alu3 opDivs d a b) s
def execDivn (d a b : BitVec 6) (s : State) : Host.Outcome State Fault Refusal := run (alu3 opDivn d a b) s
def execRems (d a b : BitVec 6) (s : State) : Host.Outcome State Fault Refusal := run (alu3 opRems d a b) s
def execRemn (d a b : BitVec 6) (s : State) : Host.Outcome State Fault Refusal := run (alu3 opRemn d a b) s
def execAndd (d a b : BitVec 6) (s : State) : Host.Outcome State Fault Refusal := run (alu3 (plain (· &&& ·)) d a b) s
def execOrr (d a b : BitVec 6) (s : State) : Host.Outcome State Fault Refusal := run (alu3 (plain (· ||| ·)) d a b) s
def execXorr (d a b : BitVec 6) (s : State) : Host.Outcome State Fault Refusal := run (alu3 (plain (· ^^^ ·)) d a b) s
def execAndn (d a b : BitVec 6) (s : State) : Host.Outcome State Fault Refusal :=
  run (alu3 (plain (fun x y => x &&& ~~~y)) d a b) s
def execShl (d a b : BitVec 6) (s : State) : Host.Outcome State Fault Refusal :=
  run (alu3 (plain (fun x y => x <<< shiftCount y)) d a b) s
def execShr (d a b : BitVec 6) (s : State) : Host.Outcome State Fault Refusal :=
  run (alu3 (plain (fun x y => x >>> shiftCount y)) d a b) s
def execSha (d a b : BitVec 6) (s : State) : Host.Outcome State Fault Refusal :=
  run (alu3 (plain (fun x y => x.sshiftRight (shiftCount y))) d a b) s
def execRot (d a b : BitVec 6) (s : State) : Host.Outcome State Fault Refusal :=
  run (alu3 (plain (fun x y => x.rotateLeft (shiftCount y))) d a b) s
def execClz (d a : BitVec 6) (s : State) : Host.Outcome State Fault Refusal := run (alu2 opClz d a) s
def execPopc (d a : BitVec 6) (s : State) : Host.Outcome State Fault Refusal := run (alu2 opPopc d a) s
def execMins (d a b : BitVec 6) (s : State) : Host.Outcome State Fault Refusal :=
  run (alu3 (plain (fun x y => if x.sle y then x else y)) d a b) s
def execMaxs (d a b : BitVec 6) (s : State) : Host.Outcome State Fault Refusal :=
  run (alu3 (plain (fun x y => if x.sle y then y else x)) d a b) s
def execMinn (d a b : BitVec 6) (s : State) : Host.Outcome State Fault Refusal :=
  run (alu3 (plain (fun x y => if x.ule y then x else y)) d a b) s
def execMaxn (d a b : BitVec 6) (s : State) : Host.Outcome State Fault Refusal :=
  run (alu3 (plain (fun x y => if x.ule y then y else x)) d a b) s
def execCmpeq (d a b : BitVec 6) (s : State) : Host.Outcome State Fault Refusal :=
  run (alu3 (plain (fun x y => opTest (x == y))) d a b) s
def execCmplt (d a b : BitVec 6) (s : State) : Host.Outcome State Fault Refusal :=
  run (alu3 (plain (fun x y => opTest (x.slt y))) d a b) s
def execCmpltn (d a b : BitVec 6) (s : State) : Host.Outcome State Fault Refusal :=
  run (alu3 (plain (fun x y => opTest (x.ult y))) d a b) s
def execCmple (d a b : BitVec 6) (s : State) : Host.Outcome State Fault Refusal :=
  run (alu3 (plain (fun x y => opTest (x.sle y))) d a b) s

/-- SEL reads the old d as a third source (R103). -/
def execSel (d a b : BitVec 6) (s : State) : Host.Outcome State Fault Refusal :=
  run (do
    let x ← readS a
    let y ← readS b
    let o ← readS d
    finishFlags d (if o.getLsbD 0 then x else y, 0)) s

def execAddSats (d a b : BitVec 6) (s : State) : Host.Outcome State Fault Refusal := run (alu3 (opSat true (· + ·)) d a b) s
def execAddSatn (d a b : BitVec 6) (s : State) : Host.Outcome State Fault Refusal := run (alu3 (opSat false (· + ·)) d a b) s
def execSubSats (d a b : BitVec 6) (s : State) : Host.Outcome State Fault Refusal := run (alu3 (opSat true (· - ·)) d a b) s
def execSubSatn (d a b : BitVec 6) (s : State) : Host.Outcome State Fault Refusal := run (alu3 (opSat false (· - ·)) d a b) s
def execMulSats (d a b : BitVec 6) (s : State) : Host.Outcome State Fault Refusal := run (alu3 (opSat true (· * ·)) d a b) s
def execMulSatn (d a b : BitVec 6) (s : State) : Host.Outcome State Fault Refusal := run (alu3 (opSat false (· * ·)) d a b) s

/-! ## Immediate forms (Table 5-9) -/

/-- The shape of ADDI, ANDI, ORI, XORI: a register and an immediate. -/
def aluImm (f : Dword → Dword → Dword) (signed : Bool) (d a : BitVec 6) (i : BitVec 14) : M Unit := do
  let v ← immediate i signed
  let x ← readS a
  finish d (f x v)

def execAddi (d a : BitVec 6) (i : BitVec 14) (s : State) : Host.Outcome State Fault Refusal :=
  run (aluImm (· + ·) true d a i) s
def execAndi (d a : BitVec 6) (i : BitVec 14) (s : State) : Host.Outcome State Fault Refusal :=
  run (aluImm (· &&& ·) false d a i) s
def execOri (d a : BitVec 6) (i : BitVec 14) (s : State) : Host.Outcome State Fault Refusal :=
  run (aluImm (· ||| ·) false d a i) s
def execXori (d a : BitVec 6) (i : BitVec 14) (s : State) : Host.Outcome State Fault Refusal :=
  run (aluImm (· ^^^ ·) false d a i) s
def execShli (d a n : BitVec 6) (s : State) : Host.Outcome State Fault Refusal := run (alu2 (· <<< n.toNat) d a) s
def execShri (d a n : BitVec 6) (s : State) : Host.Outcome State Fault Refusal := run (alu2 (· >>> n.toNat) d a) s
def execShai (d a n : BitVec 6) (s : State) : Host.Outcome State Fault Refusal :=
  run (alu2 (fun x => x.sshiftRight n.toNat) d a) s
def execMovi (d : BitVec 6) (i : BitVec 14) (s : State) : Host.Outcome State Fault Refusal :=
  run (do
    let v ← immediate i true
    finish d v) s

/-- The mask of the `len` low bits. -/
def lowMask (len : Nat) : Dword := BitVec.ofNat 64 (2 ^ len - 1)

/-- EXT: `len` bits from `pos`, zero-extended; the field `l` holds len less one (Table 4-11). -/
def opExt (l p : BitVec 6) (x : Dword) : Dword := (x >>> p.toNat) &&& lowMask (l.toNat + 1)
/-- EXT.S: the same field, sign-extended from its top bit. -/
def opExtS (l p : BitVec 6) (x : Dword) : Dword := BitVec.ofInt 64 (intDecode (l.toNat + 1) true (opExt l p x).toNat)
/-- INS: the low bits of a replace the field of the old d. -/
def opIns (l p : BitVec 6) (x o : Dword) : Dword :=
  (o &&& ~~~(lowMask (l.toNat + 1) <<< p.toNat)) ||| ((x &&& lowMask (l.toNat + 1)) <<< p.toNat)

def execExt (d a l p : BitVec 6) (s : State) : Host.Outcome State Fault Refusal := run (alu2 (opExt l p) d a) s
def execExtS (d a l p : BitVec 6) (s : State) : Host.Outcome State Fault Refusal := run (alu2 (opExtS l p) d a) s
def execIns (d a l p : BitVec 6) (s : State) : Host.Outcome State Fault Refusal :=
  run (do
    let x ← readS a
    let o ← readS d
    finish d (opIns l p x o)) s

end Sys2Proof.Machine
end

