-- ==== Sys2Proof/Machine/Address.lean ====
section
/-! DEFINITION. Address instructions of the access stream: majors 0x20 and 0x21 (R107). They set no flag and enter nothing in
the last-result file; results wrap modulo 2^80. -/

namespace Sys2Proof.Machine

/-- The shape of a two-register address operation. -/
def addr3 (f : VA → VA → VA) (d a b : BitVec 4) : M Unit := do
  let x ← readA a
  let y ← readA b
  writeA d (f x y)
  retire

def addrTest (b : Bool) : VA := if b then 1 else 0

def execAadd (d a b : BitVec 4) (s : State) : Host.Outcome State Fault Refusal := run (addr3 (· + ·) d a b) s
def execAsub (d a b : BitVec 4) (s : State) : Host.Outcome State Fault Refusal := run (addr3 (· - ·) d a b) s
def execAcmpEq (d a b : BitVec 4) (s : State) : Host.Outcome State Fault Refusal :=
  run (addr3 (fun x y => addrTest (x == y)) d a b) s
def execAcmpNe (d a b : BitVec 4) (s : State) : Host.Outcome State Fault Refusal :=
  run (addr3 (fun x y => addrTest (x != y)) d a b) s
def execAcmpLt (d a b : BitVec 4) (s : State) : Host.Outcome State Fault Refusal :=
  run (addr3 (fun x y => addrTest (x.ult y)) d a b) s
def execAcmpLe (d a b : BitVec 4) (s : State) : Host.Outcome State Fault Refusal :=
  run (addr3 (fun x y => addrTest (x.ule y)) d a b) s
def execAmask (d a b : BitVec 4) (s : State) : Host.Outcome State Fault Refusal := run (addr3 (· &&& ·) d a b) s

/-- AMOV: the high 16 bits of a with the next load-data item below them. -/
def execAmov (d a : BitVec 4) (s : State) : Host.Outcome State Fault Refusal :=
  run (do
    let x ← readA a
    let v ← popLdq
    writeA d (x.extractLsb' 64 16 ++ v)
    retire) s

/-- AIDX: a plus the sign-extended data register times 2^n. -/
def execAidx (d a : BitVec 4) (b : BitVec 6) (n : BitVec 3) (s : State) : Host.Outcome State Fault Refusal :=
  run (do
    let x ← readA a
    let y ← readS b
    writeA d (x + y.signExtend 80 <<< n.toNat)
    retire) s

/-- AADDI: a plus the sign-extended immediate, joined under HINT.PFX. -/
def execAaddi (d a : BitVec 4) (i : BitVec 14) (s : State) : Host.Outcome State Fault Refusal :=
  run (do
    let v ← immediate i true
    let x ← readA a
    writeA d (x + v.signExtend 80)
    retire) s

end Sys2Proof.Machine
end

