-- ==== Sys2Proof/Machine/Control.lean ====
section
/-! DEFINITION. Control words: branches (R76 to R79, R101, R102, R111, R112), NOP, YIELD, hints (R80, R81, R118), follow groups
(R113 to R117), and the trap of a word that is not an instruction (R75). -/

namespace Sys2Proof.Machine

/-! ## Branches: each stream executes its own copy -/

/-- The stream passes the branch and stands at its delay slot. -/
def enterSlot (b : Branch) : M Unit := do
  let t := (← get).cur.stream
  modCtx (fun x =>
    let x := x.moved t
    x.setStream t { x.stream t with ctl := .slot b })

/-- A context in which stream `t` has passed its copy of word `i` at position `p`: what the other stream has still to read by
evaluating it stays in order before later words (R83, R230). -/
def Ctx.awaiting (x : Ctx) (t : Stream) (p : Nat) (i : Instr) : Ctx :=
  if (x.stream t.other).pos ≤ p then { x with ahead := x.ahead ++ [(p, i)] } else x

/-- The copy of a branch that the other stream evaluates: it waits for nothing (R112). -/
def passCopy (i : Instr) (b : Branch) : M Unit := do
  let t := (← get).cur.stream
  let p ← myPos
  enterSlot b
  modCtx (fun x => x.awaiting t p i)

/-- The target of a B-form word: its address + 4 × disp20 (R76). -/
def branchTarget (pc : Dword) (d : BitVec 20) : Dword := pc + d.signExtend 64 <<< 2

/-- The evaluating stream pushes the outcome; a full direction stalls it (R232). -/
def pushOutcome (t : Stream) (o : Outcome) : M Unit := do
  let x ← getCtx
  match t with
  | .exe => if x.oqE.length < 8 then modCtx (fun x => { x with oqE := x.oqE ++ [o] }) else stall
  | .acc => if x.oqA.length < 8 then modCtx (fun x => { x with oqA := x.oqA ++ [o.taken] }) else stall

/-- A conditional branch `i`: `by_` evaluates `cond` and pushes the outcome; the other stream's copy waits for nothing (R77, R112). -/
def condBranch (i : Instr) (by_ : Stream) (cond : M Bool) (d : BitVec 20) : M Unit :=
  asBoth (do
    copyNotInSlot
    let pc ← myPc
    if (← get).cur.stream = by_ then do
      let taken ← cond
      pushOutcome by_ { taken := taken, target := 0 }
      enterSlot { addr := pc, target := branchTarget pc d, outcome := some taken }
    else passCopy i { addr := pc, target := branchTarget pc d, outcome := none })

def execBre (c : BitVec 6) (d : BitVec 20) (s : State) : Host.Outcome State Fault Refusal :=
  run (condBranch (.bre c d) .exe (do return (← readS c).getLsbD 0) d) s
def execBeqz (c : BitVec 6) (d : BitVec 20) (s : State) : Host.Outcome State Fault Refusal :=
  run (condBranch (.beqz c d) .exe (do return (← readS c) == 0) d) s
def execBnez (c : BitVec 6) (d : BitVec 20) (s : State) : Host.Outcome State Fault Refusal :=
  run (condBranch (.bnez c d) .exe (do return (← readS c) != 0) d) s
def execBra (a : BitVec 4) (d : BitVec 20) (s : State) : Host.Outcome State Fault Refusal :=
  run (condBranch (.bra a d) .acc (do return (← readA a).getLsbD 0) d) s
/-- LOOP: the register is decremented whether or not the branch is taken (R111). -/
def execLoop (a : BitVec 4) (d : BitVec 20) (s : State) : Host.Outcome State Fault Refusal :=
  run (condBranch (.loop a d) .acc (do
    let v := (← readA a) - 1
    writeA a v
    return v != 0) d) s

def execJmp (d : BitVec 20) (s : State) : Host.Outcome State Fault Refusal :=
  run (asBoth (do
    copyNotInSlot
    let pc ← myPc
    enterSlot { addr := pc, target := branchTarget pc d, outcome := some true })) s

/-- The return stack as a stream sees it (R101). -/
def Ctx.returnStack (x : Ctx) : Stream → List Dword
  | .acc => x.rsA
  | .exe => x.rsE
def Ctx.setReturnStack (x : Ctx) (t : Stream) (l : List Dword) : Ctx :=
  match t with
  | .acc => { x with rsA := l }
  | .exe => { x with rsE := l }

/-- Where entry `i` of the return stack, counted from the oldest, lies once it has left the core (R101). -/
def spillPlace (s : State) (c k i : Nat) : Nat := spPlace c ((s.ctx c k).area * 2048 + 0x680 + 8 * i)

/-- The entry that leaves the sixteen held in the core is written to the state area of the context's area (R101). -/
def spillReturn (c k : Nat) (l : List Dword) (s : State) : State :=
  if l.length ≤ 16 then s
  else (wakeBank c (areaBank (s.ctx c k).area) s).store (spillPlace s c k (l.length - 17)) 8 (nth l 16 0).toNat

/-- After a RET left `l`, the youngest entry of the state area comes back into the core (R101). -/
def refillReturn (c k : Nat) (l : List Dword) (s : State) : State × List Dword :=
  if l.length ≤ 15 then (s, l)
  else
    let s := wakeBank c (areaBank (s.ctx c k).area) s
    (s, l.take 15 ++ BitVec.ofNat 64 (s.load (spillPlace s c k (l.length - 16)) 8 / 4 * 4) :: l.drop 16)

/-- CALL pushes the address after its delay slot; at depth 32 it traps (R101, R102). A CALL that makes an entry leave the core waits
until the other stream has come to it, so that no entry is overwritten that a RET of that stream has still to read. -/
def execCall (d : BitVec 20) (s : State) : Host.Outcome State Fault Refusal :=
  run (asBoth (do
    copyNotInSlot
    let pc ← myPc
    let t := (← get).cur.stream
    let p ← myPos
    let x ← getCtx
    if 32 ≤ (x.returnStack t).length then trapTogether 0x0C
    else if 16 ≤ (x.returnStack t).length && decide ((x.stream t.other).pos < p) then stall
    else
      let l := (pc + 8) :: x.returnStack t
      modCtx (fun x => x.setReturnStack t l)
      if (x.stream t.other).pos ≤ p then modS (fun s => spillReturn s.cur.core s.cur.ctxNo l s)
      enterSlot { addr := pc, target := branchTarget pc d, outcome := some true })) s

/-- RET takes its target from the return stack; at depth 0 it traps (R101, R102). -/
def execRet (s : State) : Host.Outcome State Fault Refusal :=
  run (asBoth (do
    copyNotInSlot
    let pc ← myPc
    let t := (← get).cur.stream
    let x ← getCtx
    match x.returnStack t with
    | [] => trapTogether 0x0D
    | r :: l => do
      let s ← get
      let (s, l) := refillReturn s.cur.core s.cur.ctxNo l s
      set s
      modCtx (fun x => x.setReturnStack t l)
      enterSlot { addr := pc, target := r, outcome := some true })) s

/-- The access stream stands in the slot of the JMPI that the execute stream is at. -/
def Ctx.slotAhead (x : Ctx) : Bool :=
  match x.acc.ctl with
  | .slot b => b.indirect && x.acc.pos == x.exe.pos + 1
  | _ => false

/-- A misaligned target traps at the JMPI, with both sequencers at it (R75, R111): an access stream that stands in its slot has not
begun that word, and goes back. -/
def jmpiTrap (s0 : State) : M Unit := do
  let x := s0.ctx s0.cur.core s0.cur.ctxNo
  if x.slotAhead then
    stop (.trapWith { code := 1, both := true } (s0.modCtx s0.cur.core s0.cur.ctxNo (fun x =>
      { x with acc := { x.acc with pc := x.acc.pc - 4, pos := x.exe.pos, ctl := .seq } })))
  else trapTogether 1

/-- JMPI: the execute stream reads the target and passes it to the access stream (R76, R111). -/
def execJmpi (a : BitVec 6) (s : State) : Host.Outcome State Fault Refusal :=
  run (asBoth (do
    copyNotInSlot
    let pc ← myPc
    match (← get).cur.stream with
    | .exe => do
      let s0 ← get
      let v ← readS a
      if v.toNat % 4 ≠ 0 then jmpiTrap s0
      else do
        pushOutcome .exe { taken := true, target := v }
        enterSlot { addr := pc, target := v, outcome := some true }
    | .acc => passCopy (.jmpi a) { addr := pc, target := 0, outcome := none, indirect := true })) s

def execNop (s : State) : Host.Outcome State Fault Refusal := run retire s
/-- YIELD changes timing only (R345). -/
def execYield (s : State) : Host.Outcome State Fault Refusal := run retire s

/-! ## Hints (R80, R81, R118) -/

/-- HINT.PFX is accepted by the immediate forms of majors 0x01 to 0x04, 0x06 and 0x21. -/
def takesPfx : Instr → Bool
  | .addi _ _ _ | .andi _ _ _ | .ori _ _ _ | .xori _ _ _ | .movi _ _ | .aaddi _ _ _ => true
  | _ => false
def takesNt : Instr → Bool
  | .ld _ _ _ _ _ _ | .st _ _ _ _ _ | .vld _ _ _ _ _ | .vst _ _ _ _ _ | .pref _ _ _ _ => true
  | _ => false
def takesTmo : Instr → Bool
  | .waita _ _ _ _ _ => true
  | _ => false
def isHint : Instr → Bool
  | .hintPfx _ | .hintSched _ | .hintMod _ _ | .hintPrio _ => true
  | _ => false

/-- A hint word: it applies to the stream's next word when that word accepts it; else the illegal-instruction trap stands at the
HINT word, raised once with both streams at it (R80). A next word that cannot be fetched raises its own fault. `any` says that a word
that is no instruction takes the hint, and then traps for itself (HINT.SCHED only, log 80). -/
def hintWord (h : Hint) (takes : Word → Instr → Bool) (any : Bool) : M Unit :=
  asBoth (do
    copyNotInSlot
    let s ← get
    let c ← coreNo
    let k ← ctxNo
    let pc ← myPc
    let t := s.cur.stream
    let good (w : Word) : Bool :=
      match decodeWord w with
      | some i => !isHint i && takes w i
      | none => any
    let apply : M Unit := do
      retire
      modCtx (fun x => x.setStream t { x.stream t with hint := h })
    match fetchFor s c k (pc + 4) with
    | .error _ => apply
    | .ok (w, s') =>
      if good w then do set s'; apply
      else trapTogether 1)

def execHintPfx (p : BitVec 22) (s : State) : Host.Outcome State Fault Refusal :=
  run (hintWord (.pfx p) (fun _ i => takesPfx i) false) s
/-- HINT.SCHED changes timing only (R118). Every instruction accepts it; before a word that is no instruction the hint applies and the
illegal-instruction trap stands at that word, in its own stream: the model's choice, since R80 speaks of instructions (log 80). -/
def execHintSched (n : BitVec 8) (s : State) : Host.Outcome State Fault Refusal :=
  run (hintWord (.sched n) (fun _ _ => true) true) s
def execHintMod (t : BitVec 5) (n : BitVec 1) (s : State) : Host.Outcome State Fault Refusal :=
  run (hintWord (.mod (n == 1) t) (fun _ i =>
    (takesNt i || takesTmo i) && (n == 0 || takesNt i) && (t == 0 || takesTmo i)) false) s
/-- HINT.PRIO changes timing only; majors 0x22 to 0x30 take it (Table 4-15). -/
def execHintPrio (l : BitVec 3) (s : State) : Host.Outcome State Fault Refusal :=
  run (hintWord (.prio l) (fun w _ => decide (0x22 ≤ w.toNat / 2 ^ 26) && decide (w.toNat / 2 ^ 26 ≤ 0x30)) false) s

/-! ## Follow groups (R113 to R117) -/

/-- The gang's other cores in the tile that are enrolled, run, and fetch for themselves. -/
def detachedMembers (s : State) (c : Nat) : List Nat :=
  (s.cores.filter (fun e => e.2.gid == (s.core c).gid && coreTileG e.1 == coreTileG c && e.1 != c && e.2.enrolled &&
    !e.2.follower && e.2.retired == .no)).map (·.1)

/-- The cores of the tile that wait at rejoin point `r`. -/
def arrivedAt (s : State) (c : Nat) (r : BitVec 8) : List Nat :=
  (s.cores.filter (fun e => e.2.gid == (s.core c).gid && coreTileG e.1 == coreTileG c && e.1 != c && !e.2.follower &&
    (tget e.2.ctxs 0 {}).atFollow == some r)).map (·.1)

/-- A context both of whose streams stand at position `old` goes on at position `pos` of new text: what the words before have
queued or begun stays before. -/
def Ctx.renumber (x : Ctx) (old pos : Nat) : Ctx :=
  let move (p : Nat) : Nat := p + pos - (old + 1)
  { x with
    ahead := []
    ldq := x.ldq.map (fun i => { i with pos := move i.pos })
    sdq := x.sdq.map (fun i => { i with pos := move i.pos })
    pend := x.pend.map (fun p => { p with pos := move p.pos }) }

/-- An arrived member becomes a follower at the word after the leader's FOLLOW. -/
def joinGroup (pc : Dword) (pos : Nat) (f : Nat) (s : State) : State :=
  (s.modCore f (fun v => { v with enrolled := true, follower := true })).modCtx f 0 (fun x =>
    { x.renumber x.acc.pos pos with fol := true, atFollow := none, acc := { pc := pc, pos := pos }, exe := { pc := pc, pos := pos } })

def execFollow (r : BitVec 8) (s : State) : Host.Outcome State Fault Refusal :=
  run (do
    controlOnly
    notInSlot
    let s ← get
    let c ← coreNo
    let x ← getCtx
    let lead := leaderOf s c
    if (s.core c).follower then
      (if x.acc.pos < (s.ctx lead 0).acc.pos then retireBoth else stall)
    else if lead = c then
      if (detachedMembers s c).all (fun m => (s.ctx m 0).atFollow == some r) then do
        let pc ← myPc
        modS (fun s => (arrivedAt s c r).foldl (fun s m => joinGroup (pc + 4) (x.acc.pos + 1) m s) s)
        modCtx (fun x => { x with ldr := true, atFollow := none })
        retireBoth
      else stop (.stallWith (s.modCtx c 0 (fun x => { x with atFollow := some r })))
    else stop (.stallWith (s.modCtx c 0 (fun x => { x with atFollow := some r })))) s

/-- LEAVE: every member that executes it is detached and not enrolled; on a detached core it withdraws that core (R116). -/
def execLeave (s : State) : Host.Outcome State Fault Refusal :=
  run (do
    controlOnly
    notInSlot
    modCore (fun v => { v with enrolled := false, follower := false })
    modCtx (fun x => { x with fol := false, ldr := false })
    retireBoth) s

/-! ## A word that is not an instruction (R75) -/

/-- The illegal-instruction trap at a fetched word: raised in the stream that the major selects, once for a word of both. -/
def execIllegalInstructionWord (s : State) : Host.Outcome State Fault Refusal :=
  match s.ev, s.cur with
  | .illegalInstructionWord w, .ctx _ _ _ => run (stop (.trap { code := 1, both := decide (0x38 ≤ w.toNat / 2 ^ 26) })) s
  | _, _ => event id s

/-! ## SBWAIT (R327) -/

/-- SBWAIT stops both streams until the wait on every named slot has ended; an errored slot then traps. -/
def execSbwait (m : BitVec 7) (s : State) : Host.Outcome State Fault Refusal :=
  run (do
    let x ← getCtx
    let n ← myPos
    let named := (List.range 7).filter (fun i => m.getLsbD i) |>.map (· + 1)
    if named.any (fun i => x.pendBefore (BitVec.ofNat 3 i) n) then stall
    slotErrors named
    retireBoth) s

end Sys2Proof.Machine
end

