-- ==== Sys2Proof/Machine/Keccak.lean ====
section
/-! DEFINITION. SHAKE256 (FIPS 202), which the capability tags (R287), connector measurements (R253) and firmware images (R396)
use. The manual names the function and does not restate it (PRESUMED, log 9). -/

namespace Sys2Proof.Machine

/-- The 25 lanes of the state, lane (x, y) at 5 y + x. -/
abbrev Lanes := List (BitVec 64)

def lane (a : Lanes) (x y : Nat) : BitVec 64 := nth a (5 * (y % 5) + x % 5) 0

def keccakRotations : List Nat :=
  [0, 1, 62, 28, 27, 36, 44, 6, 55, 20, 3, 10, 43, 25, 39, 41, 45, 15, 21, 8, 18, 2, 61, 56, 14]

def keccakRounds : List (BitVec 64) :=
  [0x0000000000000001, 0x0000000000008082, 0x800000000000808A, 0x8000000080008000, 0x000000000000808B, 0x0000000080000001,
   0x8000000080008081, 0x8000000000008009, 0x000000000000008A, 0x0000000000000088, 0x0000000080008009, 0x000000008000000A] ++
  [0x000000008000808B, 0x800000000000008B, 0x8000000000008089, 0x8000000000008003, 0x8000000000008002, 0x8000000000000080,
   0x000000000000800A, 0x800000008000000A, 0x8000000080008081, 0x8000000000008080, 0x0000000080000001, 0x8000000080008008]

/-- One round: theta, rho with pi, chi, iota. -/
def keccakRound (a : Lanes) (rc : BitVec 64) : Lanes :=
  let c := (List.range 5).map (fun x => lane a x 0 ^^^ lane a x 1 ^^^ lane a x 2 ^^^ lane a x 3 ^^^ lane a x 4)
  let d := (List.range 5).map (fun x => nth c ((x + 4) % 5) 0 ^^^ (nth c ((x + 1) % 5) 0).rotateLeft 1)
  let t := (List.range 25).map (fun i => (nth a i 0 ^^^ nth d (i % 5) 0).rotateLeft (nth keccakRotations i 0))
  -- lane (x, y) goes to (y, 2 x + 3 y): position (X, Y) comes from x = X + 3 Y, y = X
  let b := (List.range 25).map (fun i => lane t (i % 5 + 3 * (i / 5)) (i % 5))
  let e := (List.range 25).map (fun i =>
    lane b i (i / 5) ^^^ (~~~ lane b (i % 5 + 1) (i / 5) &&& lane b (i % 5 + 2) (i / 5)))
  match e with
  | h :: l => (h ^^^ rc) :: l
  | [] => []

def keccakF (a : Lanes) : Lanes := keccakRounds.foldl keccakRound a

/-- Absorb a block of 136 bytes. -/
def keccakAbsorb (a : Lanes) (block : List Byte) : Lanes :=
  keccakF ((List.range 25).map (fun i =>
    nth a i 0 ^^^ (if i < 17 then BitVec.ofNat 64 (leNat ((block.drop (8 * i)).take 8)) else 0)))

/-- The message with SHAKE's padding to whole blocks. -/
def shakePad (m : List Byte) : List Byte :=
  let k := 135 - m.length % 136
  if k = 0 then m ++ [0x9F] else m ++ [0x1F] ++ List.replicate (k - 1) 0 ++ [0x80]

def shakeBlocks : Nat → List Byte → Lanes → Lanes
  | 0, _, a => a
  | n + 1, m, a => shakeBlocks n (m.drop 136) (keccakAbsorb a (m.take 136))

/-- The first `n` bytes (at most 136) of SHAKE256 of a message. -/
def shake256 (m : List Byte) (n : Nat) : List Byte :=
  let p := shakePad m
  let a := shakeBlocks (p.length / 136) p (List.replicate 25 0)
  ((List.range 17).map (fun i => leBytes 8 (nth a i 0).toNat)).flatten.take n

end Sys2Proof.Machine
end

