-- ==== Sys2Proof/Machine/Tensors.lean ====
section
/-! DEFINITION. Tensor identifier entries (R128, R276, R277), the bytes they name, their probe (R124), the reads and writes of a
running macro-op, element conversions and E8 scales (R39, R40, R140). -/

namespace Sys2Proof.Machine

/-! ## Entries (Table 12-1) -/

def tnValid (e : BitVec 256) : Bool := e.getLsbD 127
def tnBase (e : BitVec 256) : Nat := nbits e.toNat 0 80
def tnRows (e : BitVec 256) : Nat := nbits e.toNat 80 16 + 1
def tnCols (e : BitVec 256) : Nat := nbits e.toNat 96 16 + 1
def tnFmt (e : BitVec 256) : Nat := nbits e.toNat 112 4
def tnByCol (e : BitVec 256) : Bool := e.getLsbD 116
def tnSparse (e : BitVec 256) : Bool := e.getLsbD 117
def tnScaled (e : BitVec 256) : Bool := e.getLsbD 118
def tnStride (e : BitVec 256) : Nat := nbits e.toNat 128 40
def tnSbase (e : BitVec 256) : Nat := nbits e.toNat 64 16 * 2 ^ 64 + nbits e.toNat 192 64

/-- The size of an element in bytes (Table 12-2); 0 for a reserved code. -/
def tnSize (f : Nat) : Nat :=
  match f with
  | 0 => 4 | 1 => 2 | 2 => 2 | 3 => 1 | 4 => 1 | 5 => 1 | 9 => 1 | 14 => 8
  | _ => 0

/-- Bits that an element occupies: a T6 element stands in bits [5:0] of its byte (R128). -/
def tnElemBits (f : Nat) : Nat := if f = 4 then 6 else 8 * tnSize f

/-- E8 blocks in a row (R276): `nb`. -/
def tnBlocks (e : BitVec 256) : Nat := ((if tnSparse e then 2 * tnCols e else tnCols e) + 31) / 32

/-- The rules of R277 for an image whose valid bit is 1. -/
def tnLegal (e : BitVec 256) : Bool :=
  let f := tnFmt e
  let z := tnSize f
  z != 0 && (!tnScaled e || f == 3 || f == 4 || f == 5) && (!tnSparse e || decide (f ≤ 5)) &&
    tnBase e % z == 0 && tnStride e % z == 0 &&
    (if tnByCol e then decide (tnRows e * z ≤ tnStride e) else decide (tnCols e * z ≤ tnStride e)) &&
    (!tnSparse e || (!tnByCol e && tnCols e == 32)) && (tnScaled e || nbits e.toNat 192 64 == 0) &&
    nbits e.toNat 119 8 == 0 && nbits e.toNat 168 24 == 0

/-- Addr (R128). -/
def tnAddr (e : BitVec 256) (i k : Nat) : Nat :=
  if tnByCol e then tnBase e + k * tnStride e + i * tnSize (tnFmt e) else tnBase e + i * tnStride e + k * tnSize (tnFmt e)

/-- The contiguous runs of the elements of rows `r0` to `r1 - 1` and columns `c0` to `c1 - 1`: address and length in bytes. -/
def tnRuns (e : BitVec 256) (r0 r1 c0 c1 : Nat) : List (Nat × Nat) :=
  if tnByCol e then (List.range (c1 - c0)).map (fun k => (tnAddr e r0 (c0 + k), (r1 - r0) * tnSize (tnFmt e)))
  else (List.range (r1 - r0)).map (fun i => (tnAddr e (r0 + i) c0, (c1 - c0) * tnSize (tnFmt e)))

def tnAllRuns (e : BitVec 256) : List (Nat × Nat) := tnRuns e 0 (tnRows e) 0 (tnCols e)

/-- The scale bytes of an entry, when it has any, and its 2:4 metadata (R128). -/
def tnScaleRun (e : BitVec 256) : List (Nat × Nat) := if tnScaled e then [(tnSbase e, tnRows e * tnBlocks e)] else []
def tnMetaAt (e : BitVec 256) : Nat := tnBase e + tnRows e * tnStride e
def tnMetaRun (e : BitVec 256) : List (Nat × Nat) := if tnSparse e then [(tnMetaAt e, 8 * tnRows e)] else []

def runsMeet (a b : List (Nat × Nat)) : Bool :=
  a.any (fun x => b.any (fun y => decide (x.1 < y.1 + y.2) && decide (y.1 < x.1 + x.2)))

/-! ## The probe (R124) -/

/-- Probe every byte of some runs for an access by context `k` of core `c`: the first byte that faults gives the trap code and the
address (log 24). The translations found stay with the slices; the pages are answered. -/
def probeRuns (c k : Nat) (need : AccNeed) (runs : List (Nat × Nat)) (s : State) : Except (Nat × VA) (State × List Trans) :=
  runs.foldl (fun r run =>
    (chunks (run.2 / 64 + 2) run.1 run.2).foldl (fun r ch =>
      match r with
      | .error e => .error e
      | .ok (s, pages) =>
        let va : VA := BitVec.ofNat 80 ch.1
        match checkAccess s c k va ch.2 need with
        | .error e => .error (e, va)
        | .ok (t, s) => .ok (s, addPages pages (pageOf s t))) r) (.ok (s, []))

/-! ## Reads and writes of a running macro-op (R124, R127) -/

/-- Bytes read by a macro-op of core `c`. Its pages stay mapped; a poisoned sector reads as free bytes, and nothing is reported: a
macro-op never faults after issue (R124, log 90). -/
def mxRead (c : Nat) (asid : BitVec 12) (a n : Nat) (s : State) : State × List Byte :=
  match engReadBytes c (s.core c).gid asid false (BitVec.ofNat 80 a) n s with
  | .ok r => r
  | .error _ =>
    ({ s with draws := s.draws + n }, (List.range n).map (fun i => Config.freeByte (s.draws + i)))

def mxWrite (c : Nat) (asid : BitVec 12) (a : Nat) (l : List Byte) (s : State) : State :=
  (engWriteBytes c (s.core c).gid asid false (BitVec.ofNat 80 a) l s).1

/-- Codes of elements of `z` bytes each. -/
def codesOf (z : Nat) : Nat → List Byte → List Nat
  | 0, _ => []
  | n + 1, l => leNat (l.take z) :: codesOf z n (l.drop z)

def codeBytes (z : Nat) (l : List Nat) : List Byte := (l.map (leBytes z)).flatten

/-- Exchange rows and columns of `n` columns. -/
def flipRows (n : Nat) (m : List (List Nat)) : List (List Nat) := (List.range n).map (fun j => m.map (fun r => nth r j 0))

/-- Element codes of a rectangle, row by row. -/
def readRect (c : Nat) (asid : BitVec 12) (e : BitVec 256) (r0 r1 c0 c1 : Nat) (s : State) : State × List (List Nat) :=
  let z := tnSize (tnFmt e)
  let (s, m) := (tnRuns e r0 r1 c0 c1).foldl (fun (r : State × List (List Nat)) run =>
    let (s, b) := mxRead c asid run.1 run.2 r.1
    (s, r.2 ++ [(codesOf z (run.2 / z) b).map (fun x => x % 2 ^ tnElemBits (tnFmt e))])) (s, [])
  (s, if tnByCol e then flipRows (r1 - r0) m else m)

/-- Write element codes of a rectangle, given row by row. -/
def writeRect (c : Nat) (asid : BitVec 12) (e : BitVec 256) (r0 r1 c0 c1 : Nat) (m : List (List Nat)) (s : State) : State :=
  let z := tnSize (tnFmt e)
  let m := if tnByCol e then flipRows (c1 - c0) m else m
  ((tnRuns e r0 r1 c0 c1).zip m).foldl (fun s x => mxWrite c asid x.1.1 (codeBytes z x.2) s) s

/-! ## Values and scales -/

def shapeF64 : FloatShape := ⟨11, 52⟩

/-- Val of an element code (R38). -/
def tnVal (f code : Nat) : Val := if f = 14 then shapeF64.decode code else typeDecode f code

/-- A value times a power of two. -/
def vScale (v : Val) (n : Int) : Val :=
  match v with
  | .fin s m e => .fin s m (e + n)
  | v => v

/-- MaxPos (R140). -/
def maxPos (f : Nat) : Nat :=
  match f with
  | 3 => 4096
  | 4 => 16
  | _ => 127

/-- |a| < |b|, for values that are not NaN. -/
def absLess (a b : Val) : Bool :=
  let abs (v : Val) : Val := match v with
    | .fin _ m e => .fin false m e
    | .inf _ => .inf false
    | .nan => .nan
  vCmp (abs a) (abs b) == some .lt

/-- The E8 scale of a block (R140). -/
def blockScale (f : Nat) (vs : List Val) : Nat × Flags :=
  if vs.any (· == .nan) then (255, fSn)
  else
    match vs.foldl (fun a b => if absLess a b then b else a) (.fin false 0 0) with
    | .fin _ m e =>
      if m = 0 then (127, 0)
      else
        let p := maxPos f
        let l : Int := (Nat.log2 m : Int) + e - Nat.log2 p
        let above := vCmp (.fin false p l) (.fin false m e) == some .lt
        let q := 127 + (if above then l + 1 else l)
        if 254 < q then (254, fOf) else if q < 0 then (0, fUf) else (q.toNat, 0)
    | _ => (254, fOf)

/-- Where the NaN of an element to be stored came from: a float NaN; a NaR, which sets `nv` only on its way to an integer (Table
2-6); a scale-NaN, which never sets it (R45). -/
inductive NanSource where
  | float | nar | scale
  deriving DecidableEq, Repr

/-- Convert an exact value to an element code (Table 2-6). -/
def storeCode (f : Nat) (tz : Bool) (from_ : NanSource) (v : Val) : Nat × Flags :=
  if f = 14 then shapeF64.round v
  else if f ≤ 2 then (floatShape f).round v
  else if f ≤ 4 then
    let (c, g) := taperRound (if f = 3 then 8 else 6) (if f = 3 then 1 else 0) v
    (c, if v == .nan && from_ != .float then 0 else g)
  else
    let (w, sg) := intType f
    match v with
    | .nan => (0, if from_ = .scale then 0 else fNv)
    | .inf n => (intWrap w (if n then intMin w sg else intMax w sg), fNv)
    | .fin n m e =>
      let (i, nx) := vToInt tz n m e
      let (j, g) := intClamp w sg i
      (intWrap w j, if g = 0 then (if nx then fNx else 0) else fNv)

/-- An element to be stored: its exact value and, should that be a NaN, where it came from. -/
abbrev Elem := Val × NanSource

/-- Cut a list in parts of `w`. -/
def cut (w : Nat) : Nat → List α → List (List α)
  | 0, _ => []
  | n + 1, l => l.take w :: cut w n (l.drop w)

/-- Convert a row for an entry: its codes, its scale bytes, the flags (R140). A block of an entry holds `w` elements. -/
def storeRow (f : Nat) (scaled tz : Bool) (w : Nat) (row : List Elem) : List Nat × List Nat × Flags :=
  (cut w ((row.length + w - 1) / w) row).foldl (fun (r : List Nat × List Nat × Flags) blk =>
    let (q, g) := if scaled then blockScale f (blk.map (·.1)) else (127, 0)
    let codes := blk.map (fun v => storeCode f tz v.2 (if scaled && q != 255 then vScale v.1 (127 - (q : Int)) else v.1))
    (r.1 ++ codes.map (·.1), r.2.1 ++ [q], codes.foldl (fun a x => a ||| x.2) (r.2.2 ||| g))) ([], [], 0)

/-! ## TIDSET, TIDGET (R131 to R133) -/

/-- The tids that a macro-op's word names. -/
def namedTids : Instr → List (BitVec 6)
  | .mms _ a b _ _ _ => [a, b]
  | .mmss _ a b _ _ _ => [a, b]
  | .ldstat b _ => [b]
  | .accld _ t _ => [t]
  | .accst t _ _ => [t]
  | .tcvt d a _ _ _ => [d, a]
  | .tcopy d a _ _ => [d, a]
  | _ => []

def entryOf (x : Ctx) (t : BitVec 6) : BitVec 256 := tget x.tids t.toNat 0

/-- An entry image as the entry holds it: the reserved fields of an invalid one are dropped and read zero (R6). -/
def storedImage (e : BitVec 256) : BitVec 256 :=
  if tnValid e then e else e &&& ~~~ BitVec.ofNat 256 (2 ^ 127 - 2 ^ 119 + (2 ^ 192 - 2 ^ 168))

/-- TIDSET: the four items are popped even when the image is refused. -/
def execTidset (t : BitVec 6) (s : State) : Host.Outcome State Fault Refusal :=
  run (do
    let d0 ← popLdq
    let d1 ← popLdq
    let d2 ← popLdq
    let d3 ← popLdq
    let v ← getCore
    let k ← ctxNo
    if v.queue.any (fun m => m.ctx == k && (namedTids m.word).contains t) then stall
    let e : BitVec 256 := d3 ++ d2 ++ d1 ++ d0
    if tnValid e && !tnLegal e then stop (.trapWith { code := 0x10 } (← get))
    modCtx (fun x => { x with tids := tset x.tids t.toNat (storedImage e) })
    retire) s

def execTidget (d t : BitVec 6) (n : BitVec 2) (s : State) : Host.Outcome State Fault Refusal :=
  run (do
    let x ← getCtx
    finish d (BitVec.ofNat 64 (nbits (entryOf x t).toNat (64 * n.toNat) 64))) s

end Sys2Proof.Machine
end

