-- ==== Sys2Proof/Machine/Sequencer.lean ====
section
/-! DEFINITION. The matrix array: the checks at issue (R130), the sequencer queue and its owner (R122 to R126), the steps of every
macro-op (R134 to R142), the sums (R41 to R46), and the operations that firmware emulates (R47, R48, R379). -/

namespace Sys2Proof.Machine

/-! ## Planes and accumulators (R119) -/

def planeEl (p : Plane) (k j : Nat) : Nat := (tget p.el (32 * k + j) 0).toNat
def planeScale (p : Plane) (j : Nat) : Nat := nbits p.scale.toNat (8 * j) 8

/-- The exact value of a plane element. -/
def planeVal (p : Plane) (k j : Nat) : Val :=
  if p.fmt = 14 then shapeF64.decode (planeEl p k j) else shapeF32.decode (planeEl p k j)

/-- How a plane holds an element of format `f` (R38, R119). -/
def planeCode (f code : Nat) : BitVec 64 :=
  if f = 0 ∨ f = 14 then BitVec.ofNat 64 code else BitVec.ofNat 64 (shapeF32.round (tnVal f code)).1

def accWord (v : Core) (n i j : Nat) : Nat := (tget v.cacc (1024 * n + 32 * i + j) 0).toNat
def accMode (v : Core) (n : Nat) : Nat := (tget v.mode n 0).toNat

/-- The value of an accumulator element under the accumulator's mode. -/
def accVal (v : Core) (n i j : Nat) : Val :=
  match accMode v n with
  | 1 => taperDecode 8 1 (accWord v n i j % 256)
  | 2 => shapeF64.decode (accWord v (n / 2 * 2) i j * 2 ^ 32 + accWord v (n / 2 * 2 + 1) i j)
  | _ => shapeF32.decode (accWord v n i j)

def setAccWord (n i j x : Nat) (v : Core) : Core := { v with cacc := tset v.cacc (1024 * n + 32 * i + j) (BitVec.ofNat 32 x) }

/-- Zero every word of an accumulator. -/
def zeroAcc (n : Nat) (v : Core) : Core := { v with cacc := v.cacc.filter (fun e => e.1 / 1024 != n) }

/-- The modes after one accumulator takes a mode (R138): f64 mode is held by both members of a pair, and ends with it. -/
def modesSet (a mode : Nat) (t : Table (BitVec 2)) : Table (BitVec 2) :=
  let b := if a % 2 = 0 then a + 1 else a - 1
  if mode = 2 then tset (tset t a 2) b 2
  else if tget t b 0 = 2 then tset (tset t a (BitVec.ofNat 2 mode)) b 0
  else tset t a (BitVec.ofNat 2 mode)

/-- Zero an accumulator and set its mode (R138). -/
def accZero (a mode : Nat) (v : Core) : Core :=
  let b := if a % 2 = 0 then a + 1 else a - 1
  let v' := if mode = 2 ∨ accMode v b = 2 then zeroAcc b v else v
  { zeroAcc a v' with mode := modesSet a mode v.mode }

/-! ## Sums (R41, R44, R45, R129) -/

/-- The elements of a compressed row at their dense positions, and whether a group of its metadata is invalid (R129). The two
products of an invalid group are NaN. -/
def denseRow (row : List Val) (md : Nat) : List (Option Val) × Bool :=
  (List.range 16).foldl (fun r g =>
    let p1 := nbits md (4 * g) 2
    let p2 := nbits md (4 * g + 2) 2
    let bad := decide (p2 ≤ p1)
    let els : List (Option Val) := (List.range 4).map (fun p =>
      if bad then (if p < 2 then some .nan else none)
      else if p = p1 then some (nth row (2 * g) .nan)
      else if p = p2 then some (nth row (2 * g + 1) .nan)
      else none)
    (r.1 ++ els, r.2 || bad)) ([], false)

/-- Chunk (R41) as an exact value with its flags, before its one rounding. s8 operands are integers: a zero product is +0. An invalid
product sets `nv` beside a NaN operand too, and infinities of both signs beside one do not (log 106). -/
def chunkVal (isInt : Bool) (as : List (Option Val)) (bs : List Val) (sa sb : Nat) : Val × Flags :=
  if sa = 255 ∨ sb = 255 then (.nan, fSn)
  else
    let ps : List (Val × Flags) := (as.zip bs).filterMap (fun x => x.1.map (fun a =>
      let (p, f) := vMul a x.2
      let p : Val := match p with
        | .fin s m e => .fin (s && !(isInt && m == 0)) m (e + (sa : Int) - 127 + (sb : Int) - 127)
        | p => p
      (p, f)))
    let nv := ps.foldl (fun f p => f ||| p.2) 0
    let vs := ps.map (·.1)
    if vs.any (· == .nan) then (.nan, nv)
    else if vs.any (· == .inf false) && vs.any (· == .inf true) then (.nan, fNv)
    else
      match vs with
      | [] => (.fin false 0 0, 0)
      | v :: l => (l.foldl (fun a b => (vAdd a b).1) v, 0)

/-- The flags that a matrix sum may set (R34). -/
def sumFlags (f : Flags) : Flags := f &&& (fNv ||| fOf ||| fSn)

/-- Add a chunk to an accumulator element, or overwrite it: the new code and flags. `mode` is the accumulator's: f32, T8 or f64
(R41, R48). A NaN that Round.T is given sets no further flag (R45, log 81). -/
def accumulate (mode : Nat) (ovw : Bool) (old : Val) (chunk : Val × Flags) : Nat × Flags :=
  match mode with
  | 1 =>
    let (x, f) := shapeF32.round chunk.1
    let (v, g) := if ovw then (shapeF32.decode x, 0) else vAdd old (shapeF32.decode x)
    let (y, h) := taperRound 8 1 v
    (y, sumFlags (chunk.2 ||| f ||| g ||| (if v == .nan then 0 else h)))
  | m =>
    let sh := if m = 2 then shapeF64 else shapeF32
    let (x, f) := sh.round chunk.1
    if ovw then (x, sumFlags (chunk.2 ||| f))
    else
      let (v, g) := vAdd old (sh.decode x)
      let (y, h) := sh.round v
      (y, sumFlags (chunk.2 ||| f ||| g ||| h))

/-- The value of a code that `accumulate` gave. -/
def accCode (mode x : Nat) : Val :=
  match mode with
  | 1 => taperDecode 8 1 x
  | 2 => shapeF64.decode x
  | _ => shapeF32.decode x

/-- Write an accumulator element: one word, or the two words of an f64 pair (R48). -/
def putAcc (n i j x : Nat) (v : Core) : Core :=
  if accMode v n = 2 then setAccWord (n / 2 * 2) i j (x / 2 ^ 32) (setAccWord (n / 2 * 2 + 1) i j (x % 2 ^ 32) v)
  else setAccWord n i j x v

/-! ## Checks at issue (R130, Table 6-5) -/

/-- The tags and modes as they will stand once every queued macro-op has completed. -/
structure Projected where
  active : Plane
  shadow : Plane
  mode   : Table (BitVec 2)

def projectOne (p : Projected) (m : MacroOp) : Projected :=
  match m.word with
  | .ldstat b _ => { p with shadow := { tid := b, fmt := BitVec.ofNat 4 (tnFmt m.entA), ld := true } }
  | .swapstat _ => { p with active := p.shadow, shadow := p.active }
  | .accz c md _ => { p with mode := modesSet c.toNat md.toNat p.mode }
  | .accld c _ _ => { p with mode := modesSet c.toNat (if tnFmt m.entA = 14 then 2 else 0) p.mode }
  | _ => p

def projected (v : Core) : Projected := v.queue.foldl projectOne { active := v.active, shadow := v.shadow, mode := v.mode }

/-- What a matrix instruction is issued with: its entries, the weight of its permit, whether firmware emulates it, the pages
that it has probed. -/
structure Plan where
  entA   : BitVec 256 := 0
  entB   : BitVec 256 := 0
  weight : Nat := 0
  emu    : Bool := false
  pages  : List Trans := []

/-- The weight of a permit (R137). -/
def permitWeight (f : Nat) : Nat :=
  match f with
  | 0 => 1
  | 4 => 3
  | _ => 2

/-- The accumulator that step `s` of an MMS writes: by its even member for f64 (R136, R48). -/
def stepAcc (acc f s : Nat) : Nat := if f = 14 then (acc + 2 * s) % 4 else (acc + s) % 4

def okIf (b : Bool) (code : Nat) : Except (Nat × VA) Unit := if b then .ok () else .error (code, 0)

/-- The checks of MMS and MMSS. -/
def mmsCheck (x : Ctx) (p : Projected) (sp : Bool) (acc : Nat) (a b : BitVec 6) (steps : Nat) : Except (Nat × VA) Plan := do
  let e := entryOf x a
  let f := tnFmt e
  let accs := (List.range (steps + 1)).map (stepAcc acc f)
  okIf (tnValid e && tnValid (entryOf x b)) 0x0F
  okIf (p.active.ld && p.active.tid == b) 0x0F
  okIf (!sp || (p.shadow.ld && p.shadow.tid == b + 1)) 0x0F
  okIf (p.active.fmt.toNat == f && (!sp || p.shadow.fmt.toNat == f)) 0x10
  okIf (tnSparse e == sp) 0x10
  okIf (tnCols e == 32 && decide (tnRows e ≤ 256) && steps + 1 == (tnRows e + 31) / 32) 0x10
  okIf (f != 9 && tnFmt (entryOf x b) != 9) 0x10
  okIf (if f = 14 then acc % 2 == 0 && accs.all (fun n => tget p.mode n 0 == 2) else accs.all (fun n => tget p.mode n 0 != 2)) 0x10
  let emu := f == 14 || accs.any (fun n => tget p.mode n 0 == 1)
  return { entA := e, entB := entryOf x b, weight := if emu then 0 else permitWeight f, emu := emu }

/-- TCVT and TCOPY: shapes, dense entries, formats (R142). -/
def copyCheck (x : Ctx) (d a : BitVec 6) (tr : Bool) (convert tz : Bool) : Except (Nat × VA) Plan := do
  let ed := entryOf x d
  let ea := entryOf x a
  okIf (tnValid ed && tnValid ea) 0x0F
  okIf (!tz || tnFmt ed == 5 || tnFmt ed == 9) 0x01
  okIf (if tr then tnRows ed == tnCols ea && tnCols ed == tnRows ea else tnRows ed == tnRows ea && tnCols ed == tnCols ea) 0x10
  okIf (!tnSparse ed && !tnSparse ea) 0x10
  okIf (if convert then tnFmt ed != 14 && tnFmt ea != 14 else tnFmt ed == tnFmt ea && tnScaled ed == tnScaled ea) 0x10
  return { entA := ea, entB := ed }

/-- The checks of an instruction's word, before its probe. -/
def mxCheck (v : Core) (x : Ctx) (i : Instr) : Except (Nat × VA) Plan :=
  let p := projected v
  let square (e : BitVec 256) : Bool := tnRows e == 32 && tnCols e == 32
  match i with
  | .mms c a b _ m s => do okIf (m.toNat < 2) 0x01; mmsCheck x p false c.toNat a b s.toNat
  | .mmss c a b _ m s => do okIf (m.toNat < 2) 0x01; mmsCheck x p true c.toNat a b s.toNat
  | .ldstat b _ => do
    let e := entryOf x b
    okIf (tnValid e) 0x0F
    okIf (square e && !tnSparse e && tnFmt e != 9) 0x10
    return { entA := e }
  | .accz c m _ => do okIf (m != 2 || c.toNat % 2 == 0) 0x01; return {}
  | .acczMark ss => do okIf (ss != 0) 0x01; return {}
  | .accld c t _ => do
    let e := entryOf x t
    okIf (tnValid e) 0x0F
    okIf (square e && (tnFmt e != 14 || c.toNat % 2 == 0)) 0x10
    return { entA := e }
  | .accst t c _ => do
    let e := entryOf x t
    let f64 := tget p.mode c.toNat 0 == 2
    okIf (tnValid e) 0x0F
    okIf (square e && (tnFmt e == 14) == f64 && (!f64 || c.toNat % 2 == 0)) 0x10
    return { entA := e }
  | .accadd d e _ => do
    let md := tget p.mode d.toNat 0
    okIf (md == tget p.mode e.toNat 0) 0x10
    okIf (md != 2 || (d.toNat % 2 == 0 && e.toNat % 2 == 0)) 0x10
    return { emu := md == 1 || md == 2 }
  | .tcvt d a z r _ => copyCheck x d a (r == 1) true (z == 1)
  | .tcopy d a r _ => copyCheck x d a (r == 1) false false
  | _ => .ok {}

/-- The bytes that an instruction reads and writes. -/
def mxRuns (i : Instr) (p : Plan) : List (Nat × Nat) × List (Nat × Nat) :=
  match i with
  | .mms _ _ _ _ _ _ | .mmss _ _ _ _ _ _ => (tnAllRuns p.entA ++ tnMetaRun p.entA ++ tnScaleRun p.entA, [])
  | .ldstat _ _ => (tnAllRuns p.entA ++ (if tnScaled p.entA then [(tnSbase p.entA, 32)] else []), [])
  | .accld _ _ _ => (tnAllRuns p.entA ++ tnScaleRun p.entA, [])
  | .accst _ _ _ => ([], tnAllRuns p.entA ++ tnScaleRun p.entA)
  | .tcvt _ _ _ _ _ => (tnAllRuns p.entA ++ tnScaleRun p.entA, tnAllRuns p.entB ++ tnScaleRun p.entB)
  | .tcopy _ _ _ _ => (tnAllRuns p.entA ++ tnScaleRun p.entA, tnAllRuns p.entB ++
      (if tnScaled p.entB then [(tnSbase p.entB, tnRows p.entA * tnBlocks p.entA)] else []))
  | _ => ([], [])

/-- Checks and probe of an instruction for context `k` of core `c`: a trap code with its address and access, or the plan. -/
def mxPlan (s : State) (c k : Nat) (i : Instr) : Except (Nat × VA × AccNeed) (Plan × State) :=
  match mxCheck (s.core c) (s.ctx c k) i with
  | .error e => .error (e.1, e.2, .read)
  | .ok p =>
    let (rd, wr) := mxRuns i p
    match probeRuns c k .read rd s with
    | .error e => .error (e.1, e.2, .read)
    | .ok (s, l) =>
      match probeRuns c k .write wr s with
      | .error e => .error (e.1, e.2, .write)
      | .ok (s, l') => .ok ({ p with pages := addPages l l' }, s)

/-! ## The steps (R125) -/

def setFsn (c k : Nat) (f : Flags) (s : State) : State := setFlagsOf c k f s

/-- LDSTAT (R134). -/
def stepLdstat (c : Nat) (m : MacroOp) (b : BitVec 6) (tr : Bool) (s : State) : State :=
  let e := m.entA
  let f := tnFmt e
  let (s, rows) := readRect c m.asid e 0 32 0 32 s
  let (s, sc) := if tnScaled e then mxRead c m.asid (tnSbase e) 32 s else (s, List.replicate 32 127)
  let rows := if tr then flipRows 32 rows else rows
  let el := (List.range 1024).map (fun n => (n, planeCode f (nth (nth rows (n / 32) []) (n % 32) 0)))
  let p : Plane := { el := el, tid := b, fmt := BitVec.ofNat 4 f, sc := tnScaled e, ld := true,
                     scale := BitVec.ofNat 256 (leNat sc) }
  s.modCore c (fun v => { v with shadow := p })

/-- One element of a step: the new code of c[n][i, j] after chunk 0 and, in MMSS, chunk 1. -/
def mmsElem (f mode : Nat) (ovw : Bool) (old : Val) (a0 a1 : List (Option Val)) (b0 b1 : List Val) (sa : List Nat) (s0 s1 : Nat)
    (sp : Bool) : Nat × Flags :=
  let (x, g) := accumulate mode ovw old (chunkVal (f == 5) a0 b0 (nth sa 0 127) s0)
  if sp then
    let (y, h) := accumulate mode false (accCode mode x) (chunkVal (f == 5) a1 b1 (nth sa 1 127) s1)
    (y, g ||| h)
  else (x, g)

/-- One 32-row step of MMS or MMSS (R136). -/
def stepMms (c : Nat) (m : MacroOp) (sp : Bool) (acc : Nat) (tr ovw : Bool) (s : State) : State :=
  let e := m.entA
  let f := tnFmt e
  let r0 := 32 * m.step
  let r1 := min (r0 + 32) (tnRows e)
  let n := stepAcc acc f m.step
  let nb := tnBlocks e
  let ovw := ovw && decide (m.step < (if f = 14 then 2 else 4))
  let (s, rows) := readRect c m.asid e r0 r1 0 32 s
  let (s, md) := if sp then mxRead c m.asid (tnMetaAt e + 8 * r0) (8 * (r1 - r0)) s else (s, [])
  let (s, sc) := if tnScaled e then mxRead c m.asid (tnSbase e + nb * r0) (nb * (r1 - r0)) s else (s, [])
  let v := s.core c
  let mode := accMode v n
  let col (p : Plane) (j : Nat) : List Val := (List.range 32).map (fun k => if tr then planeVal p j k else planeVal p k j)
  let cols0 := (List.range 32).map (col v.active)
  let cols1 := if sp then (List.range 32).map (col v.shadow) else []
  let (v', fl) := (List.range (r1 - r0)).foldl (fun (r : Core × Flags) i =>
    let vals := (nth rows i []).map (tnVal f)
    let (dense, bad) := if sp then denseRow vals (leNat ((md.drop (8 * i)).take 8)) else (vals.map some, false)
    let sa := if tnScaled e then ((sc.drop (nb * i)).take nb).map (·.toNat) else [127, 127]
    let r := if bad then (r.1, r.2 ||| fNv) else r
    (List.range 32).foldl (fun r j =>
      let (x, g) := mmsElem f mode ovw (accVal v n i j) (dense.take 32) (dense.drop 32) (nth cols0 j []) (nth cols1 j []) sa
        (planeScale v.active j) (planeScale v.shadow j) sp
      (putAcc n i j x r.1, r.2 ||| g)) r) (v, 0)
  setFsn c m.ctx fl (s.setCore c v')

/-- ACCLD (R139). -/
def stepAccld (c : Nat) (m : MacroOp) (a : Nat) (s : State) : State :=
  let e := m.entA
  let f := tnFmt e
  let nb := tnBlocks e
  let (s, rows) := readRect c m.asid e 0 32 0 32 s
  let (s, sc) := if tnScaled e then mxRead c m.asid (tnSbase e) (32 * nb) s else (s, [])
  let v := accZero a (if f = 14 then 2 else 0) (s.core c)
  let (v, fl) := (List.range 1024).foldl (fun (r : Core × Flags) n =>
    let i := n / 32
    let j := n % 32
    let code := nth (nth rows i []) j 0
    if f = 14 then (putAcc a i j code r.1, r.2)
    else
      let q := if tnScaled e then (nth sc (nb * i + j * nb / 32) 0).toNat else 127
      let (x, g) := if q = 255 then (shapeF32.nan, fSn) else shapeF32.round (vScale (tnVal f code) ((q : Int) - 127))
      (putAcc a i j x r.1, r.2 ||| g)) (v, 0)
  setFsn c m.ctx fl (s.setCore c v)

/-- ACCST (R140). -/
def stepAccst (c : Nat) (m : MacroOp) (n : Nat) (s : State) : State :=
  let e := m.entA
  let f := tnFmt e
  let v := s.core c
  let from_ : NanSource := if accMode v n = 1 then .nar else .float
  let rows := (List.range 32).map (fun i =>
    if f = 14 then ((List.range 32).map (fun j => accWord v n i j * 2 ^ 32 + accWord v (n + 1) i j), [], 0)
    else storeRow f (tnScaled e) false (32 / tnBlocks e) ((List.range 32).map (fun j => (accVal v n i j, from_))))
  let s := writeRect c m.asid e 0 32 0 32 (rows.map (·.1)) s
  let s := if tnScaled e then mxWrite c m.asid (tnSbase e) ((rows.map (fun r => r.2.1.map (BitVec.ofNat 8))).flatten) s else s
  setFsn c m.ctx (rows.foldl (fun a r => a ||| r.2.2) 0) s

/-- ACCADD (R141), and its emulated forms (R48). -/
def stepAccadd (c : Nat) (m : MacroOp) (d e : Nat) (s : State) : State :=
  let v := s.core c
  let mode := accMode v d
  let (v', fl) := (List.range 1024).foldl (fun (r : Core × Flags) n =>
    let i := n / 32
    let j := n % 32
    let (x, g) := vAdd (accVal v d i j) (accVal v e i j)
    let (y, h) := if mode = 1 then (let (y, h) := taperRound 8 1 x; (y, if x == .nan then 0 else h)) else if mode = 2 then shapeF64.round x else shapeF32.round x
    (putAcc d i j y r.1, r.2 ||| sumFlags (g ||| h))) (v, 0)
  setFsn c m.ctx fl (s.setCore c v')

/-- Free codes in place of what an overlap leaves unspecified (R142; log 11). -/
def freeCodes (z : Nat) (rows : List (List Nat)) (s : State) : State × List (List Nat) :=
  let w := (rows.headD []).length
  ({ s with draws := s.draws + rows.length * w },
   (List.range rows.length).map (fun i => (List.range w).map (fun j =>
     (Config.freeDword (s.draws + i * w + j)).toNat % 2 ^ (8 * z))))

/-- One step of TCVT (R142): 32 rows of the source. Between s8 and n8, a pair that Table 2-6 does not list, unscaled integers wrap
and scaled ones clamp with `nv` (log 82). -/
def stepTcvt (c : Nat) (m : MacroOp) (tr tz : Bool) (s : State) : State :=
  let ea := m.entA
  let ed := m.entB
  let r0 := 32 * m.step
  let r1 := min (r0 + 32) (tnRows ea)
  let f := tnFmt ea
  let g := tnFmt ed
  let nb := tnBlocks ea
  let (s, rows) := readRect c m.asid ea r0 r1 0 (tnCols ea) s
  let (s, sc) := if tnScaled ea then mxRead c m.asid (tnSbase ea + nb * r0) (nb * (r1 - r0)) s else (s, [])
  let scaleOf (i j : Nat) : Nat := if tnScaled ea then (nth sc (nb * i + j / 32) 0).toNat else 127
  let bad := tnScaled ea && sc.any (· == 255)
  -- integers to integers without scales wrap (Table 2-6); every other conversion is of the exact value
  let plain := 5 ≤ f && 5 ≤ g && !tnScaled ea && !tnScaled ed
  let elem (i j code : Nat) : Elem :=
    let q := scaleOf i j
    if q = 255 then (.nan, .scale)
    else
      let v := if plain then ofInt (intDecode (intType g).1 (intType g).2 code) 0 else tnVal f code
      (vScale v ((q : Int) - 127), if f ≤ 2 then .float else .nar)
  let vals := (List.range (r1 - r0)).map (fun i => (List.range (tnCols ea)).map (fun j => elem i j (nth (nth rows i []) j 0)))
  let vals := if tr then (List.range (tnCols ea)).map (fun j => vals.map (fun r => nth r j (.nan, .scale))) else vals
  let out := vals.map (storeRow g (tnScaled ed) tz 32)
  let fl := out.foldl (fun a r => a ||| r.2.2) (if bad then fSn else 0)
  let codes := out.map (·.1)
  let qs := out.map (·.2.1)
  let meet := runsMeet (tnAllRuns ea ++ tnScaleRun ea) (tnAllRuns ed ++ tnScaleRun ed)
  let (s, codes) := if meet then freeCodes (tnSize g) codes s else (s, codes)
  let (s, qs) := if meet then freeCodes 1 qs s else (s, qs)
  let s := if tr then writeRect c m.asid ed 0 (tnCols ea) r0 r1 codes s else writeRect c m.asid ed r0 r1 0 (tnCols ea) codes s
  let nbd := tnBlocks ed
  let s := if tnScaled ed then
      qs.zipIdx.foldl (fun s r =>
        let at_ := if tr then tnSbase ed + nbd * r.2 + m.step else tnSbase ed + nbd * (r0 + r.2)
        mxWrite c m.asid at_ (r.1.map (BitVec.ofNat 8)) s) s
    else s
  setFsn c m.ctx fl s

/-- One step of TCOPY (R142): bits and scale bytes; under tr a scale byte keeps its place in the scale array (log 25). -/
def stepTcopy (c : Nat) (m : MacroOp) (tr : Bool) (s : State) : State :=
  let ea := m.entA
  let ed := m.entB
  let r0 := 32 * m.step
  let r1 := min (r0 + 32) (tnRows ea)
  let nb := tnBlocks ea
  let (s, rows) := readRect c m.asid ea r0 r1 0 (tnCols ea) s
  let (s, sc) := if tnScaled ea then mxRead c m.asid (tnSbase ea + nb * r0) (nb * (r1 - r0)) s else (s, [])
  let scd := if tnScaled ed then [(tnSbase ed, tnRows ea * nb)] else []
  let meet := runsMeet (tnAllRuns ea ++ tnScaleRun ea) (tnAllRuns ed ++ scd)
  let (s, rows) := if meet then freeCodes (tnSize (tnFmt ed)) rows s else (s, rows)
  let (s, scs) := if meet then freeCodes 1 [sc.map (·.toNat)] s else (s, [sc.map (·.toNat)])
  let s := if tr then writeRect c m.asid ed 0 (tnCols ea) r0 r1 (flipRows (tnCols ea) rows) s
    else writeRect c m.asid ed r0 r1 0 (tnCols ea) rows s
  if tnScaled ed then mxWrite c m.asid (tnSbase ed + nb * r0) (scs.flatten.map (BitVec.ofNat 8)) s else s

/-- The number of stated steps of a macro-op (Table under R125). -/
def macroSteps (m : MacroOp) : Nat :=
  match m.word with
  | .mms _ _ _ _ _ n => n.toNat + 1
  | .mmss _ _ _ _ _ n => n.toNat + 1
  | .tcvt _ _ _ _ _ | .tcopy _ _ _ _ => (tnRows m.entA + 31) / 32
  | _ => 1

/-- One stated step of a macro-op. -/
def macroStep (c : Nat) (m : MacroOp) (s : State) : State :=
  match m.word with
  | .mms a _ _ t o _ => stepMms c m false a.toNat (t == 1) (o == 1) s
  | .mmss a _ _ t o _ => stepMms c m true a.toNat (t == 1) (o == 1) s
  | .ldstat b t => stepLdstat c m b (t == 1) s
  | .swapstat _ => s.modCore c (fun v => { v with active := v.shadow, shadow := v.active })
  | .accz a md _ => s.modCore c (accZero a.toNat md.toNat)
  | .accld a _ _ => stepAccld c m a.toNat s
  | .accst _ a _ => stepAccst c m a.toNat s
  | .accadd d e _ => stepAccadd c m d.toNat e.toNat s
  | .tcvt _ _ z r _ => stepTcvt c m (r == 1) (z == 1) s
  | .tcopy _ _ r _ => stepTcopy c m (r == 1) s
  | _ => s

/-! ## The queue (R122, R123, R126) -/

/-- The head of a core's queue takes its next step: by the array, or by firmware. -/
def kickMatrix (c : Nat) (s : State) : State :=
  match (s.core c).queue with
  | [] => s
  | m :: _ => s.send (if m.emu then .emulationComplete c else .macroOpStep c)

/-- The oldest matrix command that waits in a core's inbox is tried again (R234). -/
def kickCommand (c : Nat) (s : State) : State :=
  match (s.core c).inbox.find? (fun e => e.kind == 3) with
  | none => s
  | some e => s.send (.mcmdArrival (nth e.payload 0 0) (nth e.payload 1 0)
      (e.sdie.toNat * 1024 + e.src.toNat) e.ctx e.id)

/-- A macro-op enters the queue of a core. -/
def enqueueMacro (c : Nat) (m : MacroOp) (s : State) : State :=
  let idle := (s.core c).queue.isEmpty
  let s := s.modCore c (fun v => { v with
    queue := v.queue ++ [m], owner := some m.ctx
    ownWait := if m.reply.isSome then v.ownWait else v.ownWait.filter (· != m.ctx) })
  if idle then kickMatrix c s else s

/-- The macro-op at the head completes: its permit is released, its slot set, and ownership passes when the queue empties. -/
def finishMacro (c : Nat) (m : MacroOp) (s : State) : State :=
  let s := s.modCore c (fun v =>
    let q := v.queue.drop 1
    { v with queue := q, owner := if q.isEmpty then none else v.owner })
  let s := if m.permit = 0 then s else releasePermit c m.permit s
  let s := match m.reply with
    | none => completePend c m.ctx m.id 0 s
    | some r => completePend r.core r.ctx r.id 0 s
  kickCommand c (kickMatrix c s)

/-- The place in the permit queue of a macro-op that gang-stop halted. -/
def resumedKey : Nat := 254

/-- The entries that a word names, as its context holds them now: what is streamed or read, and what is written. -/
def macroEntries (x : Ctx) : Instr → BitVec 256 × BitVec 256
  | .mms _ a b _ _ _ => (entryOf x a, entryOf x b)
  | .mmss _ a b _ _ _ => (entryOf x a, entryOf x b)
  | .ldstat b _ => (entryOf x b, 0)
  | .accld _ t _ => (entryOf x t, 0)
  | .accst t _ _ => (entryOf x t, 0)
  | .tcvt d a _ _ _ => (entryOf x a, entryOf x d)
  | .tcopy d a _ _ => (entryOf x a, entryOf x d)
  | _ => (0, 0)

/-- What a macro-op does again when its gang resumes (R125): its entries are read, its bytes probed and its permit taken. The
state in which its core goes on, and the macro-op when it may go on; it waits while a probe fails (log 83). -/
def resumeMacro (c : Nat) (m : MacroOp) (s : State) : State × Option MacroOp :=
  if !m.owed then (s, some m)
  else
    let (a, b) := macroEntries (s.ctx c m.ctx) m.word
    let m := { m with entA := a, entB := b }
    let (rd, wr) := mxRuns m.word { entA := a, entB := b }
    match probeRuns c m.ctx .read rd s with
    | .error _ => (s, none)
    | .ok (s, l) =>
      match probeRuns c m.ctx .write wr s with
      | .error _ => (s, none)
      | .ok (s, l') =>
        let ready := { m with owed := false, pages := addPages l l' }
        let set_ (s : State) : State := s.modCore c (fun v => { v with queue := ready :: v.queue.drop 1 })
        if m.permit = 0 then (set_ s, some ready)
        else
          match queuedPermit c resumedKey m.permit s with
          | (some s, _) => (set_ s, some ready)
          | (none, s) => (s, none)

/-- The macro-op at the head of a core's queue goes on to its next step. -/
def nextStep (c : Nat) (m : MacroOp) (s : State) : State :=
  kickMatrix c (s.modCore c (fun v => { v with queue := { m with step := m.step + 1 } :: v.queue.drop 1 }))

/-- MACRO_OP_STEP: one stated step of the running macro-op. Gang-stop halts it between its steps (R125). -/
def macroOpStep (c : Nat) (s : State) : State :=
  match (s.core c).queue with
  | [] => s
  | m :: _ =>
    if halting s c || m.emu then s
    else
      match resumeMacro c m s with
      | (s, none) => s.send (.macroOpStep c)
      | (s, some m) =>
        let s := macroStep c m s
        if macroSteps m ≤ m.step + 1 then finishMacro c m s else nextStep c m s

/-- EMULATION_COMPLETE: firmware has carried out a 32-row step of the operation at the head of a core's queue (R47). With the last
one the operation is complete, and its context goes on (R48, R379); gang-stop halts it between its steps. -/
def emulationComplete (c : Nat) (s : State) : State :=
  match (s.core c).queue with
  | [] => s
  | m :: _ =>
    if !m.emu || halting s c then s
    else
      match resumeMacro c m s with
      | (s, none) => s.send (.emulationComplete c)
      | (s, some m) =>
        let s := macroStep c m s
        if macroSteps m ≤ m.step + 1 then
          let s := s.modCtx c m.ctx (fun x => { x with emulating := false })
          let s := s.modDie (coreDie c) (fun d =>
            { d with emuRecords := removeFirst (fun r => r.core == c && r.ctx == m.ctx) d.emuRecords })
          finishMacro c m s
        else nextStep c m s

def execMacroOpStep (s : State) : Host.Outcome State Fault Refusal :=
  event (fun s => match s.ev with
    | .macroOpStep c => macroOpStep c s
    | _ => s) s
def execEmulationComplete (s : State) : Host.Outcome State Fault Refusal :=
  event (fun s => match s.ev with
    | .emulationComplete c => emulationComplete c s
    | _ => s) s

end Sys2Proof.Machine
end

