-- ==== Sys2Proof/Machine/Matrix.lean ====
section
/-! DEFINITION. The matrix instructions: majors 0x11 to 0x13 (R122 to R146), capabilities (R286 to R288), matrix commands. -/

namespace Sys2Proof.Machine

/-! ## Issue (R123, R124) -/

/-- Ownership and a free queue position (R123). -/
def ownSequencer : M Unit := do
  let v ← getCore
  let k ← ctxNo
  let mine := v.owner == some k || (v.owner.isNone && v.ownWait.headD k == k)
  if mine && decide (v.queue.length < 4) then pure ()
  else if mine || v.ownWait.contains k then stall
  else
    let s ← get
    stop (.stallWith (s.modCore s.cur.core (fun v => { v with ownWait := v.ownWait ++ [k] })))

/-- Issue of a matrix instruction: ownership, checks, probe, permit or emulation, queue. -/
def issueMatrix (i : Instr) (ss : BitVec 3) : M Unit := do
  slotRoom ss
  ownSequencer
  let s ← get
  let c ← coreNo
  let k ← ctxNo
  let x ← getCtx
  match mxPlan s c k i with
  | .error (code, va, need) => accessFault code va need
  | .ok (p, s') => do
    set s'
    let own := decide (p.weight ≠ 0) && decide (p.weight ≤ x.held)
    let n := if own then 0 else p.weight
    if n ≠ 0 then takePermit n
    let id ← joinPend ss .macroOp false
    let m : MacroOp := { word := i, ctx := k, id := id, entA := p.entA, entB := p.entB, permit := n, own := own, step := 0,
                         reply := none, emu := p.emu, asid := (s.core c).asid, pages := p.pages }
    if p.emu then do
      modCtx (fun x => { x with emulating := true })
      let r : EmuRecord := { core := c, ctx := k, word := i, entA := p.entA, entB := p.entB }
      modS (fun s => s.modDie (coreDie c) (fun d => { d with emuRecords := d.emuRecords ++ [r] }))
    modS (enqueueMacro c m)
    retire

def execMms (c : BitVec 2) (a b : BitVec 6) (t : BitVec 1) (m : BitVec 2) (n : BitVec 3) (s : State) :
    Host.Outcome State Fault Refusal := run (issueMatrix (.mms c a b t m n) 0) s
def execMmss (c : BitVec 2) (a b : BitVec 6) (t : BitVec 1) (m : BitVec 2) (n : BitVec 3) (s : State) :
    Host.Outcome State Fault Refusal := run (issueMatrix (.mmss c a b t m n) 0) s
def execLdstat (b : BitVec 6) (t : BitVec 1) (s : State) : Host.Outcome State Fault Refusal := run (issueMatrix (.ldstat b t) 0) s
def execSwapstat (ss : BitVec 3) (s : State) : Host.Outcome State Fault Refusal := run (issueMatrix (.swapstat ss) ss) s
def execAccz (c m : BitVec 2) (ss : BitVec 3) (s : State) : Host.Outcome State Fault Refusal := run (issueMatrix (.accz c m ss) ss) s
def execAcczMark (ss : BitVec 3) (s : State) : Host.Outcome State Fault Refusal := run (issueMatrix (.acczMark ss) ss) s
def execAccld (c : BitVec 2) (t : BitVec 6) (ss : BitVec 3) (s : State) : Host.Outcome State Fault Refusal :=
  run (issueMatrix (.accld c t ss) ss) s
def execAccst (t : BitVec 6) (c : BitVec 2) (ss : BitVec 3) (s : State) : Host.Outcome State Fault Refusal :=
  run (issueMatrix (.accst t c ss) ss) s
def execAccadd (d e : BitVec 2) (ss : BitVec 3) (s : State) : Host.Outcome State Fault Refusal :=
  run (issueMatrix (.accadd d e ss) ss) s
def execTcvt (d a : BitVec 6) (z r : BitVec 1) (ss : BitVec 3) (s : State) : Host.Outcome State Fault Refusal :=
  run (issueMatrix (.tcvt d a z r ss) ss) s
def execTcopy (d a : BitVec 6) (r : BitVec 1) (ss : BitVec 3) (s : State) : Host.Outcome State Fault Refusal :=
  run (issueMatrix (.tcopy d a r ss) ss) s

/-! ## Scale links (R143) -/

/-- The gang's other cores in the tile of a core. -/
def tilePeers (s : State) (c : Nat) : List Nat :=
  (s.cores.filter (fun e => e.2.gid == (s.core c).gid && coreTileG e.1 == coreTileG c && e.1 != c)).map (·.1)

/-- The sum of two E8 scales. -/
def addScales (qa qb : Nat) : Nat × Flags :=
  if qa = 255 ∨ qb = 255 then (255, fSn)
  else if 254 + 127 < qa + qb then (254, fOf)
  else if qa + qb < 127 then (0, fUf)
  else (qa + qb - 127, 0)

/-- The eight sums of two dwords of scales. -/
def addScaleDwords (a b : Dword) : Dword × Flags :=
  let q := (List.range 8).map (fun m => addScales (nbits a.toNat (8 * m) 8) (nbits b.toNat (8 * m) 8))
  (BitVec.ofNat 64 (leNat (q.map (fun x => BitVec.ofNat 8 x.1))), q.foldl (fun f x => f ||| x.2) 0)

def execScalek (d a b : BitVec 6) (s : State) : Host.Outcome State Fault Refusal :=
  run (do
    let s ← get
    let c ← coreNo
    let peers := tilePeers s c
    illegalUnless (leaderOf s c = c && !peers.isEmpty)
    let x ← readS a
    let y ← readS b
    let there := peers.filter (fun p => (s.core p).retired != .byEnd)
    if there.any (fun p => (s.core p).o7full) then stall
    let (r, f) := addScaleDwords x y
    modS (fun s => there.foldl (fun s p => s.modCore p (fun v => { v with o7 := r, o7full := true })) s)
    setFlags f
    finish d r) s

/-- SCALEW waits its turn among the SCALEWs of its core, which are served in issue order (R143). -/
def awaitScale : M Unit := do
  let v ← getCore
  let k ← ctxNo
  if v.scaleWait.headD k = k && v.o7full then pure ()
  else if v.scaleWait.contains k then stall
  else
    let s ← get
    stop (.stallWith (s.modCore s.cur.core (fun v => { v with scaleWait := v.scaleWait ++ [k] })))

def execScalew (d : BitVec 6) (s : State) : Host.Outcome State Fault Refusal :=
  run (do
    awaitScale
    let v ← getCore
    let k ← ctxNo
    finish d v.o7
    modCore (fun v => { v with o7full := false, scaleWait := v.scaleWait.filter (· != k) })) s

/-! ## Capabilities (R286 to R288) -/

/-- The tag of a capability: the first 4 bytes of SHAKE256 over the key and D. -/
def capTag (s : State) (low : Nat) (gid : BitVec 32) : Nat :=
  leNat (shake256 ((List.range 32).map (fun i => (Config.capKey s.capDraw).extractLsb' (8 * i) 8) ++ leBytes 8 (low % 2 ^ 32 + gid.toNat * 2 ^ 32)) 4)

/-- The capability that names a core and gang with rights, or 0 when a reserved bit is set. -/
def mintCap (s : State) (a : Dword) : Dword :=
  let low := a.toNat % 2 ^ 32
  if low / 2 ^ 15 ≠ 0 then 0
  else BitVec.ofNat 64 (low + capTag s low (BitVec.ofNat 32 (a.toNat / 2 ^ 32)) * 2 ^ 32)

/-- The right that a class of words needs: the bit of Table 12-8. -/
def rightBit : Instr → Nat
  | .ldstat _ _ | .swapstat _ => 12
  | .mms _ _ _ _ _ _ | .mmss _ _ _ _ _ _ => 13
  | _ => 14

/-- CapOK (R288) for target core `c`. -/
def capOk (s : State) (c : Nat) (cap : Dword) (i : Instr) : Bool :=
  let n := cap.toNat
  nbits n 15 17 == 0 && nbits n 0 10 == c % 1024 && nbits n 10 2 == coreDie c &&
    nbits n 32 32 == capTag s (n % 2 ^ 32) (s.core c).gid && nbits n (rightBit i) 1 == 1

def execMcap (d a : BitVec 6) (s : State) : Host.Outcome State Fault Refusal :=
  run (do
    deviceOnly
    let v ← readS a
    finish d (mintCap (← get) v)) s

/-! ## Matrix commands (R144, R145) -/

/-- The instruction of a command, when it is one that a command may carry. A word of the listed majors that is illegal as a word
(am 1x, an odd accumulator in f64 mode, a reserved bit) or would trap so in every place (accz.mark without a slot) is none:
the MCMD traps (log 84). -/
def commandWord (w : Word) : Option Instr :=
  match decodeWord w with
  | none => none
  | some i =>
    match i with
    | .mms _ _ _ _ m _ => if m.toNat < 2 then some i else none
    | .mmss _ _ _ _ m _ => if m.toNat < 2 then some i else none
    | .ldstat _ _ => some i
    | .swapstat ss | .accz _ _ ss | .accld _ _ ss | .accst _ _ ss | .accadd _ _ ss => if ss = 0 then some i else none
    | _ => none

/-- Entries of the shared part of an inbox, those on their way counted (R233, R234). -/
def inboxShared (s : State) (c : Nat) : Nat :=
  ((s.core c).inbox.filter (fun e => e.kind != 2)).length +
    (s.agenda.filter (fun m => match m with
      | .inboxArrival t e => t == c && e.kind != 2
      | _ => false)).length

/-- The gang to which a command for core `t` is addressed: a stopped gang that `t` served and whose capability `cap` is, else the gang
that runs there, else one that stopped there (R145, Table 10-3, log 24). -/
def addressedGang (s : State) (t : Nat) (cap : Dword) : BitVec 32 :=
  let here (g : Gang) : Bool := g.stopped && (tfind g.savedCores t).isSome
  let named (g : Gang) : Bool := here g && nbits cap.toNat 32 32 == capTag s (cap.toNat % 2 ^ 32) g.gid
  match s.plinth.gangs.find? named with
  | some g => g.gid
  | none => if (s.core t).gid = 0 then ((s.plinth.gangs.find? here).map (·.gid)).getD 0 else (s.core t).gid

def execMcmd (ss : BitVec 3) (a b : BitVec 6) (s : State) : Host.Outcome State Fault Refusal :=
  run (do
    let cmd ← readS a
    let cap ← readS b
    illegalUnless (cmd.toNat / 2 ^ 44 = 0 && (commandWord (BitVec.ofNat 32 cmd.toNat)).isSome)
    let s ← get
    let c ← coreNo
    let k ← ctxNo
    let target := nbits cmd.toNat 42 2 * 1024 + nbits cmd.toNat 32 10
    if 16 ≤ inboxShared s target then stall
    let id ← joinPend ss .engine false
    let e : InboxEntry := { kind := 3, port := 0, gid := addressedGang s target cap, src := BitVec.ofNat 10 (c % 1024),
                            sdie := BitVec.ofNat 2 (coreDie c), payload := [cmd, cap], ctx := k, id := id }
    modS (fun s => s.send (.inboxArrival target e))
    retire) s

/-- The core that a command names. -/
def commandTarget (cmd : Dword) : Nat := nbits cmd.toNat 42 2 * 1024 + nbits cmd.toNat 32 10

/-- The place of a core's matrix commands in the permit queue: a context number that no context has. -/
def commandCtx : Nat := 255

/-- A command of a core's inbox begins to wait for the sequencer, in turn with the core's contexts (R123). -/
def commandWaits (t : Nat) (s : State) : State :=
  s.modCore t (fun v =>
    if (v.ownWait.filter (· == commandCtx)).length < (v.inbox.filter (fun e => e.kind == 3)).length then
      { v with ownWait := v.ownWait ++ [commandCtx] }
    else v)

/-- A command whose check fails: the sender's slot completes with its error bit (R145). -/
def rejectCommand (e : InboxEntry) (s : State) : State := completePend (e.sdie.toNat * 1024 + e.src.toNat) e.ctx e.id 1 s

/-- MCMD_ARRIVAL (R145): the oldest command is checked as the target's control context would issue its word, and run or rejected.
It waits while the sequencer is another context's, or another began to wait for it first, or its queue is full. -/
def mcmdArrival (cmd cap : Dword) (c k id : Nat) (s : State) : State :=
  let mine (e : InboxEntry) : Bool := e.kind == 3 && e.payload == [cmd, cap] && e.ctx == k && e.id == id &&
    e.sdie.toNat * 1024 + e.src.toNat == c
  let t := if (s.core (commandTarget cmd)).inbox.any mine then commandTarget cmd
    else ((s.cores.find? (fun e => e.2.inbox.any mine)).map (·.1)).getD (commandTarget cmd)
  let v := s.core t
  let oldest := (v.inbox.find? (fun e => e.kind == 3)).any mine
  if !v.inbox.any mine || halting s t then s
  else if !oldest then commandWaits t s
  else
    let free (s : State) : State := s.modCore t (fun v => { v with
      inbox := removeFirst mine v.inbox, ownWait := v.ownWait.erase commandCtx })
    match commandWord (BitVec.ofNat 32 cmd.toNat) with
    | none => free s
    | some i =>
      if !capOk s t cap i then kickCommand t (completePend c k id 1 (free s))
      else if v.owner.any (· != 0) || decide (4 ≤ v.queue.length) then commandWaits t s
      else if v.owner.isNone && v.ownWait.headD commandCtx ≠ commandCtx then (commandWaits t s).send (.mcmdArrival cmd cap c k id)
      else
        match mxPlan s t 0 i with
        | .error _ => kickCommand t (completePend c k id 2 (free s))
        | .ok (p, s') =>
          if p.emu then kickCommand t (completePend c k id 2 (free s))
          else
            let x := s.ctx t 0
            let own := decide (p.weight ≠ 0) && decide (p.weight ≤ x.held)
            let n := if own then 0 else p.weight
            let m : MacroOp := { word := i, ctx := 0, id := 0, entA := p.entA, entB := p.entB, permit := n, own := own, step := 0,
                                 reply := some ⟨c, k, id⟩, emu := false, asid := v.asid, pages := p.pages }
            if n = 0 then kickCommand t (enqueueMacro t m (free s'))
            else
              match queuedPermit t commandCtx n s' with
              | (some s', _) => kickCommand t (enqueueMacro t m (free s'))
              | (none, s') => s'.send (.mcmdArrival cmd cap c k id)

def execMcmdArrival (s : State) : Host.Outcome State Fault Refusal :=
  event (fun s => match s.ev with
    | .mcmdArrival cmd cap c k id => mcmdArrival cmd cap c k id s
    | _ => s) s

end Sys2Proof.Machine
end

