-- ==== Sys2Proof/Machine/Engines.lean ====
section
/-! DEFINITION. Engine jobs and near-memory operators: job cards (R290 to R292), what an engine does with one (R206, R207, R291,
R314), ASOP, JCSUB, JCWAIT (R208, R239, R240) and the events JOB_DISPATCH, JOB_COMPLETE, OPERATOR_COMPLETE (R223, R238). -/

namespace Sys2Proof.Machine

/-! ## Job cards (Tables 12-10, 12-11) -/

def cardKind (c : Nat) : Nat := nbits c 0 4
def cardOp (c : Nat) : Nat := nbits c 4 4
def cardStyp (c : Nat) : Nat := nbits c 8 4
def cardDtyp (c : Nat) : Nat := nbits c 12 4
def cardLen (c : Nat) : Nat := nbits c 16 40
def cardRl (c : Nat) : Nat := nbits c 56 8
def cardSig (c : Nat) : Nat := nbits c 64 64
/-- Operand entry `i`. -/
def cardEntry (c i : Nat) : Nat := nbits c (128 + 128 * i) 128
def entVa (e : Nat) : Nat := nbits e 0 80
def entExt (e : Nat) : Nat := nbits e 80 40
def entW (e : Nat) : Bool := nbits e 120 1 == 1
def entFp (e : Nat) : Bool := nbits e 121 1 == 1

/-- The address that a VA[63:0] in region 0xD names; 0 for none (R275). -/
def signalVa (x : Nat) : VA := if x = 0 then 0 else BitVec.ofNat 80 (0xD000 * 2 ^ 64 + x)

/-- The type and row-length rules of an operator (R207). -/
def opTypesOk (op styp dtyp rl : Nat) : Bool :=
  match op with
  | 0 | 1 => (styp == 0 || styp == 7) && dtyp == styp && rl == 0
  | 2 | 4 | 7 => styp == 0 && dtyp == 0 && rl == 0
  | 3 => decide (styp ≤ 12) && decide (dtyp ≤ 12) && rl == 0
  | 5 | 6 => styp == 0 && dtyp == 0 && rl != 0
  | _ => false

def opUsesE2 (op : Nat) : Bool := op == 2 || op == 4 || op == 5 || op == 6

/-- A card without the faults of R291 other than an empty footprint. -/
def cardOk (c : Nat) : Bool :=
  let res := (List.range 3).all (fun i => nbits (cardEntry c i) 122 6 == 0)
  match cardKind c with
  | 1 => res && nbits c 4 12 == 0 && cardRl c == 0 && cardEntry c 2 == 0
  | 2 => res && nbits c 4 12 == 0 && cardRl c == 0 && cardEntry c 2 == 0 && cardEntry c 0 / 2 ^ 64 == 0
  | 3 => res && opTypesOk (cardOp c) (cardStyp c) (cardDtyp c) (cardRl c) && (opUsesE2 (cardOp c) || cardEntry c 2 == 0)
  | _ => false

def cardFootprint (c : Nat) : List Nat := ((List.range 3).map (cardEntry c)).filter entFp

/-- A job that draws a permit: an operator other than gather-rows (R208, R291). -/
def cardPermit (c : Nat) : Bool := cardKind c == 3 && cardOp c != 5

/-! ## What an engine does -/

/-- A computation of an engine: it ends, or meets a fault with the writes already performed. -/
abbrev EngM := StateT State (Except State)

def engFail {α : Type} : EngM α := fun s => .error s

/-- Who an engine acts for. -/
structure Actor where
  core : Nat
  gid  : BitVec 32
  asid : BitVec 12
  user : Bool

def eRead (a : Actor) (va n : Nat) : EngM Nat := fun s =>
  match engReadBytes a.core a.gid a.asid a.user (BitVec.ofNat 80 va) n s with
  | .error _ => .error s
  | .ok (s, l) => .ok (leNat l, s)

def eWrite (a : Actor) (va n v : Nat) : EngM Unit := fun s =>
  match engWriteBytes a.core a.gid a.asid a.user (BitVec.ofNat 80 va) (leBytes n v) s with
  | (s, some _) => .error s
  | (s, none) => .ok ((), s)

/-- `n` bytes that the manual leaves open (R207, R291; log 11). -/
def eFree (n : Nat) : EngM Nat := fun s =>
  .ok (leNat ((List.range n).map (fun i => Config.freeByte (s.draws + i))), { s with draws := s.draws + n })

/-- Do something for each number below `n`, in ascending order. -/
def eFor (n : Nat) (f : Nat → EngM Unit) : EngM Unit :=
  match n with
  | 0 => pure ()
  | k + 1 => do eFor k f; f k

/-- Two ranges of bytes have one in common; an empty range has none. -/
def rangesMeet (a n b m : Nat) : Bool := decide (0 < n) && decide (0 < m) && decide (a < b + m) && decide (b < a + n)

/-- Move or fill `len` bytes at `dst` in pieces of 64. -/
def ePieces (a : Actor) (dst len : Nat) (piece : Nat → Nat → EngM Nat) : EngM Unit :=
  eFor ((len + 63) / 64) (fun i => do
    let n := min 64 (len - 64 * i)
    eWrite a (dst + 64 * i) n (← piece (64 * i) n))

/-! ### f32 arithmetic of the unit, which keeps no flags (R207, R314) -/

def f32Of (x : Nat) : Val := shapeF32.decode x
def f32Add (x y : Nat) : Nat := (shapeF32.round (vAdd (f32Of x) (f32Of y)).1).1
def f32Sub (x y : Nat) : Nat := (shapeF32.round (vAdd (f32Of x) (vNeg (f32Of y))).1).1
def f32Mul (x y : Nat) : Nat := (shapeF32.round (vMul (f32Of x) (f32Of y)).1).1
def f32Fma (x y z : Nat) : Nat := (shapeF32.round (vFma (f32Of x) (f32Of y) (f32Of z)).1).1
/-- The greater of two as FMAX takes it, which drops a single NaN (R31, Table 8-8, log 108). -/
def f32Max (x y : Nat) : Nat := (shapeF32.round (vPick true (f32Of x) (f32Of y))).1
def f32Exp2 (x : Nat) : Nat := (shapeF32.round (vExp2 (f32Of x)).1).1

/-- The correctly rounded quotient: the exact quotient with a sticky last bit. -/
def f32Div (x y : Nat) : Nat :=
  match f32Of x, f32Of y with
  | .nan, _ => shapeF32.nan
  | _, .nan => shapeF32.nan
  | .inf _, .inf _ => shapeF32.nan
  | .inf s, .fin t _ _ => shapeF32.infCode (s != t)
  | .fin s _ _, .inf t => (shapeF32.round (.fin (s != t) 0 0)).1
  | .fin s m e, .fin t n g =>
    if n = 0 then (if m = 0 then shapeF32.nan else shapeF32.infCode (s != t))
    else
      let q := m * 2 ^ 80 / n
      (shapeF32.round (.fin (s != t) (2 * q + (if q * n = m * 2 ^ 80 then 0 else 1)) (e - g - 81))).1

def f32NegInf : Nat := 0xFF80_0000

/-- Merge (R314) of a partial into a state that is not empty. -/
def mergeInto (s p : Partial) : Partial :=
  let m := f32Max s.m.toNat p.m.toNat
  let ea := if s.m.toNat = f32NegInf then 0 else f32Exp2 (f32Sub s.m.toNat m)
  let eb := if p.m.toNat = f32NegInf then 0 else f32Exp2 (f32Sub p.m.toNat m)
  let wa := f32Mul s.l.toNat ea
  let wb := f32Mul p.l.toNat eb
  let l := f32Add wa wb
  let zero := decide (l % 2 ^ 31 = 0)
  { m := BitVec.ofNat 32 m, l := BitVec.ofNat 32 l,
    o := (s.o.zip p.o).map (fun x =>
      let u := f32Fma x.2.toNat wb (f32Mul x.1.toNat wa)
      BitVec.ofNat 32 (if zero then 0 else f32Div u l)) }

/-! ### Operators (Table 8-8) -/

/-- Size(t) of an element of an operator: a T6 element occupies a byte (R110). -/
def opSize (t : Nat) : Nat := (typeBits t + 7) / 8

/-- A greatest or summed element over `n` elements at `va`, from the first on. -/
def eFold (a : Actor) (va n : Nat) (none_ : Nat) (f : Nat → Nat → Nat) : EngM Nat := do
  match n with
  | 0 => return none_
  | k + 1 =>
    let x ← eRead a va 4
    (List.range k).foldlM (fun acc i => do return f acc (← eRead a (va + 4 * (i + 1)) 4)) x

def s32Add (x y : Nat) : Nat := (x + y) % 2 ^ 32
def s32Max (x y : Nat) : Nat := if intDecode 32 true x < intDecode 32 true y then y else x

/-- The row indexes of gather-rows and scatter-add. -/
def eIndexes (a : Actor) (va n : Nat) : EngM (List Nat) :=
  (List.range n).foldlM (fun l i => do return l ++ [← eRead a (va + 4 * i) 4]) []

/-- A record of Table 13-9 with `dv` elements. -/
def eRecord (a : Actor) (va dv : Nat) : EngM Partial := do
  let m ← eRead a va 4
  let l ← eRead a (va + 4) 4
  let o ← (List.range dv).foldlM (fun o i => do return o ++ [BitVec.ofNat 32 (← eRead a (va + 0x40 + 4 * i) 4)]) []
  return { m := BitVec.ofNat 32 m, l := BitVec.ofNat 32 l, o := o }

/-- A near-memory operator (R207). Where the bytes of e0 overlap those of e1 the results are free values; every operand is read all the
same. The scale and the indexes of e2 are read before anything is written, an e1 that overlaps them too (log 107). -/
def eOperator (a : Actor) (c : Nat) : EngM Unit := do
  let e0 := entVa (cardEntry c 0)
  let e1 := entVa (cardEntry c 1)
  let e2 := entVa (cardEntry c 2)
  let n := cardLen c
  let st := cardStyp c
  let dt := cardDtyp c
  let row := cardRl c * 64
  let out (meet : Bool) (va n v : Nat) : EngM Unit := do
    if meet then eWrite a va n (← eFree n) else eWrite a va n v
  match cardOp c with
  | 0 => do
    let v ← eFold a e0 n 0 (if st = 0 then f32Add else s32Add)
    out (rangesMeet e0 (4 * n) e1 4) e1 4 v
  | 1 => do
    let v ← eFold a e0 n (if st = 0 then f32NegInf else 2 ^ 31) (if st = 0 then f32Max else s32Max)
    out (rangesMeet e0 (4 * n) e1 4) e1 4 v
  | 2 => do
    let k ← eRead a e2 4
    let meet := e0 != e1 && rangesMeet e0 (4 * n) e1 (4 * n)
    eFor n (fun i => do
      let x ← eRead a (e0 + 4 * i) 4
      let y ← eRead a (e1 + 4 * i) 4
      out meet (e1 + 4 * i) 4 (f32Fma k x y))
  | 3 => do
    let meet := rangesMeet e0 (opSize st * n) e1 (opSize dt * n)
    eFor n (fun i => do
      let x ← eRead a (e0 + opSize st * i) (opSize st)
      out meet (e1 + opSize dt * i) (opSize dt) (convert st dt false true x).1)
  | 4 => do
    let k ← eRead a e2 4
    let meet := e0 != e1 && rangesMeet e0 (4 * n) e1 (4 * n)
    eFor n (fun i => do
      let x ← eRead a (e0 + 4 * i) 4
      out meet (e1 + 4 * i) 4 (f32Mul x k))
  | 5 => do
    let idx ← eIndexes a e2 n
    let meet := idx.any (fun k => rangesMeet (e0 + k * row) row e1 (n * row))
    eFor n (fun i =>
      ePieces a (e1 + i * row) row (fun off k => do
        let x ← eRead a (e0 + nth idx i 0 * row + off) k
        if meet then eFree k else return x))
  | 6 => do
    let idx ← eIndexes a e2 n
    let meet := idx.any (fun k => rangesMeet (e1 + k * row) row e0 (n * row))
    eFor n (fun i => eFor (row / 4) (fun j => do
      let x ← eRead a (e0 + i * row + 4 * j) 4
      let at_ := e1 + nth idx i 0 * row + 4 * j
      let y ← eRead a at_ 4
      out meet at_ 4 (f32Add y x)))
  | _ => do
    let p ← eRecord a e0 n
    let s ← eRecord a e1 n
    let meet := rangesMeet e0 (0x40 + 4 * n) e1 (0x40 + 4 * n)
    let r := if s.l.toNat % 2 ^ 31 = 0 && s.m.toNat == f32NegInf then p else mergeInto s p
    out meet e1 4 r.m.toNat
    out meet (e1 + 4) 4 r.l.toNat
    eFor n (fun j => out meet (e1 + 0x40 + 4 * j) 4 (nth r.o j 0).toNat)

/-- What a card asks for (R291). -/
def eCard (a : Actor) (c : Nat) : EngM Unit :=
  let e0 := cardEntry c 0
  let e1 := entVa (cardEntry c 1)
  let n := cardLen c
  match cardKind c with
  | 1 =>
    let meet := rangesMeet (entVa e0) n e1 n
    ePieces a e1 n (fun off k => do
      let x ← eRead a (entVa e0 + off) k
      if meet then eFree k else return x)
  | 2 =>
    let pat := leNat (List.replicate 9 (leBytes 8 (nbits e0 0 64))).flatten
    ePieces a e1 n (fun off k => return pat / 2 ^ (8 * (off % 8)) % 2 ^ (8 * k))
  | _ => eOperator a c

/-- Run a card: the state, and whether a fault stopped it. -/
def runCard (a : Actor) (c : Nat) (s : State) : State × Bool :=
  match eCard a c s with
  | .ok (_, s) => (s, false)
  | .error s => (s, true)

def Job.actor (j : Job) : Actor := { core := j.core, gid := j.gid, asid := j.asid, user := j.user }

/-! ## ASOP (R206, R208) -/

/-- The Ashlar unit that runs an operator, by its destination (R208): unit 0 of the slice where the manual leaves the unit open. -/
def opUnit (s : State) (core : Nat) (c : Nat) : Nat :=
  let v := entVa (cardEntry c 1)
  let va : VA := BitVec.ofNat 80 v
  if vaRegion va = 14 then nbits v 23 2 * 128 + nbits v 17 6 * 2 + nbits v 16 1
  else if vaRegion va = 15 then
    (let owner := if nbits v 30 1 = 0 then core else nbits v 28 2 * 1024 + nbits v 18 10
     coreTileG owner * 2)
  else homeSlice va (attOf s (vaRegion va)) * 2

/-- ASOP: the descriptor is read and checked, the permit taken, and the operator sent (R206, R208). -/
def asop (op : Nat) (a : BitVec 4) (ss ws : BitVec 3) (o : BitVec 12) : M Unit := do
  waitSlot ws
  waitHolds
  let ea ← effective a o 64
  if ea.toNat % 64 ≠ 0 then trapVa 0x03 ea
  waitAccesses
  let card := leNat (← readWord ea 64)
  trapUnless (cardKind card = 3 && cardOp card = op && cardOk card) 0x14
  slotRoom ss
  if cardPermit card then takePermit 1
  let id ← joinPend ss .engine false
  let s ← get
  let c ← coreNo
  let k ← ctxNo
  let x ← getCtx
  let v ← getCore
  let j : Job := { num := 0, card := BitVec.ofNat 512 card, asid := v.asid, gid := v.gid, core := c, ctx := k, id := id, user := !x.dev,
                   node := none, running := true, permit := cardPermit card }
  set ((s.modDie (coreDie c) (fun d => { d with ops := d.ops ++ [j] })).send (.operatorComplete id))
  retire

def execAsopReduceAdd (a : BitVec 4) (ss ws : BitVec 3) (o : BitVec 12) (s : State) : Host.Outcome State Fault Refusal :=
  run (asop 0 a ss ws o) s
def execAsopReduceMax (a : BitVec 4) (ss ws : BitVec 3) (o : BitVec 12) (s : State) : Host.Outcome State Fault Refusal :=
  run (asop 1 a ss ws o) s
def execAsopAxpy (a : BitVec 4) (ss ws : BitVec 3) (o : BitVec 12) (s : State) : Host.Outcome State Fault Refusal :=
  run (asop 2 a ss ws o) s
def execAsopConvert (a : BitVec 4) (ss ws : BitVec 3) (o : BitVec 12) (s : State) : Host.Outcome State Fault Refusal :=
  run (asop 3 a ss ws o) s
def execAsopScale (a : BitVec 4) (ss ws : BitVec 3) (o : BitVec 12) (s : State) : Host.Outcome State Fault Refusal :=
  run (asop 4 a ss ws o) s
def execAsopGather (a : BitVec 4) (ss ws : BitVec 3) (o : BitVec 12) (s : State) : Host.Outcome State Fault Refusal :=
  run (asop 5 a ss ws o) s
def execAsopScatterAdd (a : BitVec 4) (ss ws : BitVec 3) (o : BitVec 12) (s : State) : Host.Outcome State Fault Refusal :=
  run (asop 6 a ss ws o) s
def execAsopSmerge (a : BitVec 4) (ss ws : BitVec 3) (o : BitVec 12) (s : State) : Host.Outcome State Fault Refusal :=
  run (asop 7 a ss ws o) s

/-- The die that runs an operator. -/
def opDie (s : State) (id : Nat) : Option (Nat × Job) :=
  (List.range 4).findSome? (fun d => ((s.die d).ops.find? (fun j => j.id == id)).map (fun j => (d, j)))

/-- OPERATOR_COMPLETE: the operator runs, its permit is released, its signal decremented, its slot set; a fault goes to the slot,
or to the fault log when there is none (R208). -/
def operatorComplete (id : Nat) (s : State) : State :=
  match opDie s id with
  | none => s
  | some (d, j) =>
    let (s, bad) := runCard j.actor j.card.toNat s
    let s := s.modDie d (fun v => { v with ops := v.ops.filter (fun j => j.id != id) })
    let s := if j.permit then releasePermit j.core 1 s else s
    let s := decSigOpt j.asid (signalVa (cardSig j.card.toNat)) 0 s
    let quiet := !(s.ctx j.core j.ctx).pend.any (fun p => p.id == id && p.ss != 0)
    let s := if bad && quiet then logFault d (faultEntry 0x15 d) s else s
    completePend j.core j.ctx id (if bad then 3 else 0) s

def execOperatorComplete (s : State) : Host.Outcome State Fault Refusal :=
  event (fun s => match s.ev with
    | .operatorComplete id => operatorComplete id s
    | _ => s) s

/-! ## The job queue (R238 to R240) -/

/-- A footprint entry as addresses that compare across cores: a scratchpad named by its core. -/
def footAddr (core : Nat) (e : Nat) : Nat :=
  let v := entVa e
  if v / 2 ^ 76 = 15 && nbits v 30 1 = 0 then v + 2 ^ 30 + coreDie core * 2 ^ 28 + core % 1024 * 2 ^ 18 else v

/-- J2 waits for J1: a write region of either overlaps a region of the other (R223). Regions of different address spaces are taken to
overlap in regions 0xE and 0xF only, which are the same to all: the manual does not say (log 93). -/
def footEdge (a b : Job) : Bool :=
  (cardFootprint a.card.toNat).any (fun x => (cardFootprint b.card.toNat).any (fun y =>
    (entW x || entW y) && (a.asid == b.asid || decide (14 ≤ entVa x / 2 ^ 76)) &&
      rangesMeet (footAddr a.core x) (entExt x) (footAddr b.core y) (entExt y)))

/-- A footprint that touches a live workspace area, or a scratchpad or bank outside the gang (R240). -/
def footRefused (s : State) (c : Nat) (gid : BitVec 32) (card : Nat) : Bool :=
  (cardFootprint card).any (fun e =>
    let v := entVa e
    let n := entExt e
    if v / 2 ^ 76 = 15 then
      (List.range (n / 2 ^ 18 + 2)).any (fun i =>
        let lo := max v (v / 2 ^ 18 * 2 ^ 18 + i * 2 ^ 18)
        let hi := min (v + n) (v / 2 ^ 18 * 2 ^ 18 + (i + 1) * 2 ^ 18)
        decide (lo < hi) &&
        (match resolveSp s c gid (BitVec.ofNat 80 lo) with
         | .ok (.sp t off) => touchesLiveArea s t off (hi - lo)
         | .ok _ => false
         | .error code => code == 5))
    else if v / 2 ^ 76 = 14 then
      (List.range (n / 2 ^ 16 + 2)).any (fun i =>
        let lo := max v (v / 2 ^ 16 * 2 ^ 16 + i * 2 ^ 16)
        decide (lo < v + n) && (s.ashlar (nbits lo 23 2 * 128 + nbits lo 17 6 * 2 + nbits lo 16 1)).gid != gid)
    else false)

/-- The jobs that hold one of the queue's 512 entries: those that no engine runs yet (R238, log 110). -/
def jobsQueued (d : Die) : Nat := (d.jobs.filter (fun j => !j.running)).length

/-- A job enters the queue of a die. -/
def enqueueJob (d : Nat) (j : Job) (s : State) : State :=
  (s.modDie d (fun v => { v with jobs := v.jobs ++ [{ j with num := v.jobNext }], jobNext := v.jobNext + 1 })).send
    (.jobDispatch (BitVec.ofNat 2 d))

/-- JCSUB (R239, R240). The job number of a refused card is not stated: the model writes 0 (log 92). -/
def execJcsub (d : BitVec 6) (a : BitVec 4) (ss : BitVec 3) (s : State) : Host.Outcome State Fault Refusal :=
  run (do
    waitHolds
    slotRoom ss
    let va ← readA a
    if va.toNat % 64 ≠ 0 then trapVa 0x03 va
    let card := leNat (← readWord va 64)
    trapUnless (cardOk card && !(cardFootprint card).isEmpty) 0x14
    let s ← get
    let c ← coreNo
    let k ← ctxNo
    let x ← getCtx
    let v ← getCore
    let die := coreDie c
    if footRefused s c v.gid card then finishQuiet d (BitVec.ofNat 64 (die * 2 ^ 32 + 2 ^ 62))
    else if 512 ≤ jobsQueued (s.die die) then stall
    else do
      let id ← joinPend ss .token false
      let j : Job := { num := 0, card := BitVec.ofNat 512 card, asid := v.asid, gid := v.gid, core := c, ctx := k, id := id,
                       user := !x.dev, node := none, running := false, permit := false }
      let num := (s.die die).jobNext
      modS (enqueueJob die j)
      finishQuiet d (BitVec.ofNat 64 (num.toNat + die * 2 ^ 32))) s

/-- JCWAIT (R239): a number among the die's jobs waits; a completion among the last 1,024 answers; any other is unknown. -/
def execJcwait (d a : BitVec 6) (ss : BitVec 3) (s : State) : Host.Outcome State Fault Refusal :=
  run (do
    waitHolds
    slotRoom ss
    let j ← readS a
    let s ← get
    let num : BitVec 32 := j.setWidth 32
    let die := s.die (nbits j.toNat 32 2)
    if nbits j.toNat 62 2 = 1 then finishQuiet d 2
    else if die.jobs.any (fun q => q.num == num) then stall
    else
      match die.jobDone.find? (fun q => q.1 == num) with
      | some q => finishQuiet d (if q.2 then 1 else 0)
      | none => finishQuiet d 0xFF) s

/-- A gang that is stopped or being stopped: its queued jobs wait for it (log 33). -/
def gangIdle (s : State) (gid : BitVec 32) : Bool := s.plinth.gangs.any (fun g => g.gid == gid && (g.stopped || g.stopping))

/-- Try to start job `j` of die `d`: no earlier job of the queue holds it, and its permit is granted. -/
def tryJob (d : Nat) (s : State) (num : BitVec 32) : State :=
  let jobs := (s.die d).jobs
  match jobs.find? (fun j => j.num == num) with
  | none => s
  | some j =>
    if j.running || gangIdle s j.gid || (jobs.takeWhile (fun q => q.num != num)).any (fun q => footEdge q j) then s
    else
      let go (p : Bool) (s : State) : State :=
        let begin (l : List Job) : List Job := replaceFirst (fun q => q.num == num) (fun q => { q with running := true, permit := p }) l
        (s.modDie d (fun v => { v with jobs := begin v.jobs })).send (.jobComplete (BitVec.ofNat 2 d) num)
      if cardPermit j.card.toNat then
        match queuedPermit j.core (1000 + j.id) 1 s with
        | (some s, _) => go true s
        | (none, s) => s
      else go false s

/-- JOB_DISPATCH: every queued job whose footprint edges are satisfied starts, oldest first. -/
def jobDispatch (d : Nat) (s : State) : State := ((s.die d).jobs.map (·.num)).foldl (tryJob d) s

/-- JOB_COMPLETE: a running job is carried out and completes or faults (R240, R292). -/
def jobComplete (d : Nat) (num : BitVec 32) (s : State) : State :=
  match (s.die d).jobs.find? (fun j => j.num == num && j.running) with
  | none => s
  | some j =>
    let (s, bad) := runCard j.actor j.card.toNat s
    let s := s.modDie d (fun v =>
      let done := v.jobDone ++ [(num, bad)]
      { v with jobs := v.jobs.filter (fun q => q.num != num), jobDone := done.drop (done.length - 1024) })
    let s := if j.permit then releasePermit j.core 1 s else s
    let s := decSigOpt j.asid (signalVa (cardSig j.card.toNat)) 0 s
    let s := match j.node with
      | none => completePend j.core j.ctx j.id (if bad then 3 else 0) s
      | some (g, n) => s.send (.nodeComplete (BitVec.ofNat 2 d) g n)
    if (s.die d).jobs.isEmpty then s else s.send (.jobDispatch (BitVec.ofNat 2 d))

def execJobDispatch (s : State) : Host.Outcome State Fault Refusal :=
  event (fun s => match s.ev with
    | .jobDispatch d => jobDispatch d.toNat s
    | _ => s) s
def execJobComplete (s : State) : Host.Outcome State Fault Refusal :=
  event (fun s => match s.ev with
    | .jobComplete d num => jobComplete d.toNat num s
    | _ => s) s

end Sys2Proof.Machine
end

