-- ==== Sys2Proof/Machine/Keystones.lean ====
section
/-! DEFINITION. Keystones and connectors: firing rules and images (R247 to R254), decisions (R255 to R258), the protocol messages
that reach a Keystone (R259, R266 to R268), failover (R273) and the checkpoint area (R274). -/

namespace Sys2Proof.Machine

/-! ## Where a connector is held -/

/-- The Keystone and slot that serve connector slot `i` of Keystone `k`: those of its neighbour once `k` has failed (R273). -/
def homeConn (s : State) (k i : Nat) : Nat × Nat :=
  if (s.keystone k).failed && !(s.keystone (k ^^^ 1)).failed then (k ^^^ 1, 16 + i) else (k, i)

/-- The connector that serves connector slot `i` of Keystone `k`. -/
def connAt (s : State) (k i : Nat) : Connector := s.conn (homeConn s k i).1 (homeConn s k i).2

def putConn (k i : Nat) (v : Connector) (s : State) : State := s.setConn (homeConn s k i).1 (homeConn s k i).2 v

/-! ## Enabled rules (R256) -/

/-- Bytes 0 to 7 of a parcel as an n64, bytes beyond its length zero (R248). -/
def parcelKey (p : List Byte) : Nat := leNat (p.take 8)

/-- A predicate on a parcel (Table 11-6). -/
def Pred.holds (p : Pred) (x : Nat) : Bool :=
  if p.kind = 0 then x == p.v1.toNat
  else if p.kind = 1 then x &&& p.v1.toNat == p.v2.toNat
  else decide (p.v1.toNat ≤ x) && decide (x ≤ p.v2.toNat)

def guardTerm (q : Rule) (t : Nat) : Nat := nbits q.guard.toNat (16 * t) 16
def termKind (g : Nat) : Nat := nbits g 13 3
def termPort (g : Nat) : Nat := nbits g 7 6
def termFifo (g : Nat) : Nat := nbits g 7 5
def termPred (g : Nat) : Nat := nbits g 2 5

def Connector.fifo (c : Connector) (f : Nat) : Fifo := nth c.fifos f ⟨0, 0, 0, []⟩
def Connector.pred (c : Connector) (p : Nat) : Pred := nth c.preds p ⟨0, 0, 0⟩

/-- A guard term on the current offers and cells; a predicate term on a port that is not offering, or on an empty FIFO, does not
hold (log 29). -/
def termHolds (c : Connector) (g : Nat) : Bool :=
  let onPort (want : Bool) : Bool := match tfind c.offers (termPort g) with
    | some o => (c.pred (termPred g)).holds (parcelKey o.parcel) == want
    | none => false
  let onHead (want : Bool) : Bool := match (c.fifo (termFifo g)).items with
    | p :: _ => (c.pred (termPred g)).holds (parcelKey p) == want
    | [] => false
  match termKind g with
  | 0 => true
  | 1 => decide ((c.fifo (termFifo g)).items.length < (c.fifo (termFifo g)).cap)
  | 2 => !(c.fifo (termFifo g)).items.isEmpty
  | 3 => (tfind c.offers (termPort g)).isNone
  | 4 => onPort true
  | 5 => onPort false
  | 6 => onHead true
  | _ => onHead false

/-- Whether a rule is enabled (R256). -/
def enabled (c : Connector) (q : Rule) : Bool :=
  (List.range 64).all (fun p => !q.ports.getLsbD p || (tfind c.offers p).isSome) &&
  (List.range 32).all (fun f =>
    let x := c.fifo f
    (!q.pop.getLsbD f || !x.items.isEmpty) &&
    (!q.push.getLsbD f || decide (x.items.length < x.cap + (if q.pop.getLsbD f then 1 else 0)))) &&
  (List.range 4).all (fun t => termHolds c (guardTerm q t))

/-- The enabled rule of the greatest age, the lowest number among equals (R256). -/
def chooseRule (c : Connector) : Option Nat :=
  ((List.range c.rules.length).filter (fun q => match c.rules[q]? with
    | some r => enabled c r
    | none => false)).foldl (fun best q =>
      match best with
      | none => some q
      | some b => if tget c.ages b 0 < tget c.ages q 0 then some q else best) none

/-! ## Data maps -/

def mapDst (m : BitVec 16) : Nat := nbits m.toNat 0 6
def mapToFifo (m : BitVec 16) : Bool := m.getLsbD 6
def mapSrc (m : BitVec 16) : Nat := nbits m.toNat 7 6
def mapFromFifo (m : BitVec 16) : Bool := m.getLsbD 13

/-- The parcel that a data-map entry delivers, by the offers and heads before the firing. -/
def mapParcel (c : Connector) (m : BitVec 16) : List Byte :=
  if mapFromFifo m then (c.fifo (mapSrc m)).items.headD []
  else match tfind c.offers (mapSrc m) with
    | some o => o.parcel
    | none => []

/-- What a destination receives in a firing. -/
def mapOut (c : Connector) (q : Rule) (toFifo : Bool) (d : Nat) : List Byte :=
  match q.dmap.find? (fun m => mapToFifo m == toFifo && mapDst m == d) with
  | some m => mapParcel c m
  | none => []

/-! ## The checkpoint area (R274, Table 11-14) -/

def descKey (d : BitVec 512) : Nat := nbits d.toNat 132 6 + 64 * nbits d.toNat 138 2
def descIndex (d : BitVec 512) : Nat := nbits d.toNat 128 4
def Connector.imageVa (c : Connector) : VA := c.hi ++ c.desc.setWidth 64
def Connector.ckptVa (c : Connector) : VA := c.hi ++ (c.desc >>> 64).setWidth 64

/-- Write bytes of the checkpoint area, with the translation, key and permissions of the loading context (R267). -/
def ckWrite (c : Connector) (off : Nat) (l : List Byte) (s : State) : State :=
  (engWriteBytes c.loader.core c.gid c.asid c.user (c.ckptVa + BitVec.ofNat 80 off) l s).1

/-- A FIFO state of 4 bytes. -/
def fifoState (f : Fifo) : List Byte := leBytes 4 (f.first + f.head * 2 ^ 8 + f.items.length * 2 ^ 16 + f.cap * 2 ^ 24)
def fifoStates (c : Connector) : List Byte := ((List.range 32).map (fun f => fifoState (c.fifo f))).flatten
def agesBytes (c : Connector) (n : Nat) : List Byte := ((List.range n).map (fun q => leBytes 2 (tget c.ages q 0))).flatten

/-- A binding of 8 bytes. -/
def bindBytes (b : Option Binding) : List Byte :=
  match b with
  | none => leBytes 8 0
  | some b => leBytes 8 (b.core % 1024 + b.core / 1024 * 2 ^ 10 + b.slot * 2 ^ 12 + (if b.wide then 2 ^ 16 else 0) + 2 ^ 17)

/-- The checkpoint area that CONLOAD writes: empty cells, FIFO states, no bindings, ages zero, descriptor, measurement. -/
def ckptImage (c : Connector) : List Byte :=
  List.replicate 0x800 0 ++ fifoStates c ++ List.replicate (0xD00 - 0x880) 0 ++ leBytes 64 c.desc.toNat ++
    leBytes 64 c.measure.toNat ++ List.replicate 0x280 0

/-- The cell of a FIFO that takes its next parcel. -/
def nextCell (f : Fifo) : Nat := f.first + (f.head + f.items.length) % f.cap

/-! ## A decision (R256) -/

def Fifo.popped (f : Fifo) : Fifo := { f with head := (f.head + 1) % f.cap, items := f.items.drop 1 }

/-- FIFO `f` of a connector after the pops of rule `q`. -/
def fifoPopped (c : Connector) (q : Rule) (f : Nat) : Fifo := if q.pop.getLsbD f then (c.fifo f).popped else c.fifo f

/-- The connector after rule number `n`, `q`, fires. -/
def fired (c : Connector) (n : Nat) (q : Rule) : Connector :=
  { c with
    fifos := (List.range c.fifos.length).map (fun f =>
      let x := fifoPopped c q f
      if q.push.getLsbD f then { x with items := x.items ++ [mapOut c q true f] } else x)
    offers := c.offers.filter (fun o => !q.ports.getLsbD o.1)
    ages := (List.range c.rules.length).map (fun r => (r, if r = n then 0 else min (tget c.ages r 0 + 1) 65535))
    fires := c.fires + 1 }

/-- The checkpoint writes of a decision: the cells that it filled with their lengths, the FIFO states, the ages. -/
def ckDecision (old new : Connector) (q : Rule) (s : State) : State :=
  let s := (List.range old.fifos.length).foldl (fun s f =>
    if q.push.getLsbD f then
      let cell := nextCell (fifoPopped old q f)
      let p := mapOut old q true f
      ckWrite new (0x880 + cell) (leBytes 1 (p.length - 1)) (ckWrite new (64 * cell) (p ++ List.replicate (64 - p.length) 0) s)
    else s) s
  ckWrite new 0xB00 (agesBytes new new.rules.length) (ckWrite new 0x800 (fifoStates new) s)

/-- Decide (R256): fire one enabled rule, or nothing. -/
def decision (k i : Nat) (s : State) : State :=
  let c := connAt s k i
  match chooseRule c with
  | none => s
  | some n =>
    match c.rules[n]? with
    | none => s
    | some q =>
      let new := fired c n q
      let s := putConn k i new (ckDecision c new q s)
      let s := c.offers.foldl (fun s o =>
        if q.ports.getLsbD o.1 then
          s.send (.fireMsg o.2.core o.2.slot o.2.serial (if c.nputs ≤ o.1 then mapOut c q false o.1 else []))
        else s) s
      s.send (.decision k i)

def execDecision (s : State) : Host.Outcome State Fault Refusal :=
  event (fun s => match s.ev with
    | .decision k i => if (connAt s k i).loaded then decision k i s else s
    | _ => s) s

/-! ## Offers and retractions at the Keystone (R255, R259) -/

/-- The completion that an offer's slot tracks. -/
def tokenDone (q : PortSlot) (s : State) : State :=
  match q.token with
  | some t => completePend t.core t.ctx t.id 0 s
  | none => s

/-- The connector of a slot's pending offer is dropped (R268). -/
def dropOffer (core slot : Nat) (s : State) : State :=
  let q := s.port core slot
  let ans : Option Nat :=
    if q.ans = some 8 || q.ans = some 9 then none else if q.offer = .retracting then some 3 else q.ans
  tokenDone q (s.setPort core slot { q with bound := false, offer := .dropped, token := none,
                                            ans := ans })

/-- Whether a port of a connector is bound to a slot of a core. -/
def boundTo (c : Connector) (port core slot : Nat) : Bool :=
  match tfind c.binds port with
  | some b => b.core == core && b.slot == slot
  | none => false

def execOfferMsg (s : State) : Host.Outcome State Fault Refusal :=
  event (fun s => match s.ev with
    | .offerMsg k i port core slot serial parcel =>
      let c := connAt s k i
      if c.loaded && boundTo c port core slot then
        (putConn k i { c with offers := tset c.offers port ⟨core, slot, serial, parcel⟩ } s).send (.decision k i)
      else
        let q := s.port core slot
        if q.serial = serial && (q.offer = .pending || q.offer = .retracting) then dropOffer core slot s else s
    | _ => s) s

def execRetractMessage (s : State) : Host.Outcome State Fault Refusal :=
  event (fun s => match s.ev with
    | .retractMessage k i port core slot serial =>
      let c := connAt s k i
      match tfind c.offers port with
      | some o =>
        if o.core = core && o.slot = slot && o.serial = serial then
          ((putConn k i { c with offers := terase c.offers port } s).send (.rack core slot serial)).send (.decision k i)
        else s.send (.rlate core slot serial)
      | none => s.send (.rlate core slot serial)
    | _ => s) s

/-! ## Binding (R266) -/

/-- A gang whose cores may bind ports: the loading gang or a valid gang id of the load descriptor. -/
def mayBind (c : Connector) (gid : BitVec 32) : Bool :=
  c.gid == gid || (List.range 4).any (fun n => nbits c.desc.toNat (140 + n) 1 == 1 && nbits c.desc.toNat (256 + 32 * n) 32 == gid.toNat)

/-- Record a binding of a connector port, or clear it, at the Keystone and in the checkpoint area (Table 11-14, log 29). -/
def setBinding (k i port : Nat) (b : Option Binding) (s : State) : State :=
  let c := connAt s k i
  let c := { c with binds := match b with
    | some x => tset c.binds port x
    | none => terase c.binds port }
  ckWrite c (0x900 + 8 * port) (bindBytes b) (putConn k i c s)

def execBindMsg (s : State) : Host.Outcome State Fault Refusal :=
  event (fun s => match s.ev with
    | .bindMsg k i port core _ slot wide gid =>
      let c := connAt s k i
      if c.ver then s.send s.ev
      else
        let other := match tfind c.binds port with
          | some b => b.core != core || b.slot != slot || b.gid != gid
          | none => false
        if !c.loaded || decide (c.nports ≤ port) || other || !mayBind c gid then s.send (.bref core slot)
        else (setBinding k i port (some ⟨core, slot, wide, gid⟩) s).send (.back core slot (decide (c.nputs ≤ port)))
    | _ => s) s

def execUnbindMsg (s : State) : Host.Outcome State Fault Refusal :=
  event (fun s => match s.ev with
    | .unbindMsg k i port core slot =>
      let s := if boundTo (connAt s k i) port core slot then setBinding k i port none s else s
      s.send (.back core slot false)
    | _ => s) s

/-! ## Images (R252 to R254) -/

/-- What an image gives. -/
structure Image where
  nports : Nat
  nputs  : Nat
  rules  : List Rule
  preds  : List Pred
  caps   : List Nat
  ndmap  : List (BitVec 16)
  deriving DecidableEq, Repr

def up64 (n : Nat) : Nat := (n + 63) / 64 * 64

/-- The offsets of the tables and of the signature, by the header. -/
def fifoOff : Nat := 64
def predOff (h : Nat) : Nat := fifoOff + up64 (2 * nbits h 63 6)
def ruleOff (h : Nat) : Nat := predOff h + up64 (24 * nbits h 75 6)
def dmapOff (h : Nat) : Nat := ruleOff h + up64 (32 * nbits h 54 9)
def sigOff (h : Nat) : Nat := dmapOff h + up64 (2 * nbits h 81 11)
def sigLen : Nat := 29792

/-- The header's own checks: magic, format, counts in range, reserved fields zero. -/
def headerOk (h : Nat) : Bool :=
  nbits h 0 32 == 0x434E_4B53 && nbits h 32 8 == 1 && decide (1 ≤ nbits h 40 7 ∧ nbits h 40 7 ≤ 64) &&
  decide (nbits h 47 7 ≤ nbits h 40 7) && decide (1 ≤ nbits h 54 9 ∧ nbits h 54 9 ≤ 256) && decide (nbits h 63 6 ≤ 32) &&
  decide (nbits h 69 6 ≤ 32) && decide (nbits h 75 6 ≤ 32) && decide (nbits h 81 11 ≤ 1024) && nbits h 92 4 == 0 &&
  nbits h 104 24 == 0 && nbits h 192 320 == 0

/-- An entry of `n` bytes of a table. -/
def entryAt (img : List Byte) (off n i : Nat) : Nat := leNat ((img.drop (off + n * i)).take n)

def readImage (h : Nat) (img : List Byte) : Image :=
  let dmap := (List.range (nbits h 81 11)).map (fun i => BitVec.ofNat 16 (entryAt img (dmapOff h) 2 i))
  { nports := nbits h 40 7
    nputs := nbits h 47 7
    ndmap := dmap
    caps := (List.range (nbits h 63 6)).map (fun i => nbits (entryAt img fifoOff 2 i) 0 4)
    preds := (List.range (nbits h 75 6)).map (fun i =>
      let e := entryAt img (predOff h) 24 i
      ⟨BitVec.ofNat 2 e, BitVec.ofNat 64 (e / 2 ^ 64), BitVec.ofNat 64 (e / 2 ^ 128)⟩)
    rules := (List.range (nbits h 54 9)).map (fun i =>
      let e := entryAt img (ruleOff h) 32 i
      ⟨BitVec.ofNat 64 e, BitVec.ofNat 32 (e / 2 ^ 64), BitVec.ofNat 32 (e / 2 ^ 96), BitVec.ofNat 64 (e / 2 ^ 128),
        (dmap.drop (nbits e 192 10)).take (nbits e 202 7)⟩) }

/-- A guard term: known fields, unused fields zero (R254). -/
def termOk (m : Image) (g : Nat) : Bool :=
  let fifo := nbits g 12 1 == 0 && decide (termFifo g < m.caps.length)
  let port := decide (termPort g < m.nports)
  let pred := decide (termPred g < m.preds.length)
  nbits g 0 2 == 0 &&
  (match termKind g with
   | 0 => g == 0
   | 1 | 2 => fifo && termPred g == 0
   | 3 => port && termPred g == 0
   | 4 | 5 => port && pred
   | _ => fifo && pred)

/-- A data-map entry of a rule (R254). -/
def mapOk (m : Image) (q : Rule) (e : BitVec 16) : Bool :=
  (if mapFromFifo e then decide (mapSrc e < m.caps.length) && q.pop.getLsbD (mapSrc e)
   else decide (mapSrc e < m.nputs) && q.ports.getLsbD (mapSrc e)) &&
  (if mapToFifo e then decide (mapDst e < m.caps.length) && q.push.getLsbD (mapDst e)
   else decide (m.nputs ≤ mapDst e) && q.ports.getLsbD (mapDst e))

/-- A rule (R254), given its entry. -/
def ruleOk (m : Image) (q : Rule) (e : Nat) : Bool :=
  let entries (toFifo : Bool) (d : Nat) : Nat := (q.dmap.filter (fun x => mapToFifo x == toFifo && mapDst x == d)).length
  q.ports != 0 && decide (q.ports.toNat < 2 ^ m.nports) && decide (q.pop.toNat < 2 ^ m.caps.length) &&
  decide (q.push.toNat < 2 ^ m.caps.length) && nbits e 209 47 == 0 && decide (nbits e 202 7 ≤ 64) &&
  decide (nbits e 192 10 + nbits e 202 7 ≤ m.ndmap.length) &&
  (List.range 4).all (fun t => termOk m (guardTerm q t)) && q.dmap.all (mapOk m q) &&
  (List.range 64).all (fun p => !q.ports.getLsbD p || decide (p < m.nputs) || entries false p == 1) &&
  (List.range 32).all (fun f => !q.push.getLsbD f || entries true f == 1)

/-- The Keystone's checks of an image other than its signature (R254). -/
def imageOk (h : Nat) (img : List Byte) (m : Image) : Bool :=
  headerOk h && nbits h 69 6 == m.caps.foldl (· + ·) 0 &&
  (List.range m.caps.length).all (fun f =>
    decide (1 ≤ nth m.caps f 0 ∧ nth m.caps f 0 ≤ 8) && nbits (entryAt img fifoOff 2 f) 4 12 == 0 &&
    m.rules.any (fun q => q.pop.getLsbD f) && m.rules.any (fun q => q.push.getLsbD f)) &&
  (List.range m.preds.length).all (fun p =>
    let x := nth m.preds p ⟨0, 0, 0⟩
    x.kind != 3 && nbits (entryAt img (predOff h) 24 p) 2 62 == 0 && (x.kind != 0 || x.v2 == 0)) &&
  m.ndmap.all (fun e => nbits e.toNat 14 2 == 0) &&
  (List.range m.rules.length).all (fun i => ruleOk m (nth m.rules i ⟨0, 0, 0, 0, []⟩) (entryAt img (ruleOff h) 32 i))

/-- Read the whole image of a connector, header and signature included. -/
def fetchImage (c : Connector) (s : State) : Option (State × Nat × List Byte) :=
  match engReadBytes c.loader.core c.gid c.asid c.user c.imageVa 64 s with
  | .error _ => none
  | .ok (s, hd) =>
    let h := leNat hd
    if !headerOk h then none
    else
      match engReadBytes c.loader.core c.gid c.asid c.user c.imageVa (sigOff h + sigLen) s with
      | .error _ => none
      | .ok (s, img) => some (s, h, img)

/-- Empty FIFOs of given capacities (R253). -/
def emptyFifos : List Nat → Nat → List Fifo
  | [], _ => []
  | n :: l, first => ⟨n, first, 0, []⟩ :: emptyFifos l (first + n)

def measureOf (img : List Byte) : BitVec 512 := BitVec.ofNat 512 (leNat (shake256 img 64))

/-- The checkpoint area is where R251 allows it. -/
def ckptOk (s : State) (c : Connector) : Bool :=
  c.ckptVa.toNat % 4096 == 0 && decide (vaRegion c.ckptVa < 13) && !attDom (attOf s (vaRegion c.ckptVa))

/-- The descriptor's reserved fields are zero and the image is aligned (Table 11-4, log 29). -/
def descOk (c : Connector) : Bool :=
  nbits c.desc.toNat 144 112 == 0 && nbits c.desc.toNat 384 128 == 0 && nbits c.desc.toNat 0 6 == 0

/-- Pin the 32 lines of the checkpoint area for the loading gang (R274). -/
def pinCkpt (c : Connector) (s : State) : State :=
  (List.range 32).foldl (fun s i =>
    match resolve s c.loader.core c.gid c.asid (c.ckptVa + BitVec.ofNat 80 (128 * i)) 8 .write c.user with
    | .ok (.hbm l, s) => pinLine l c.gid s
    | _ => s) s

/-- A signature has been written: its place does not hold the zeros that the compiler leaves there (R61). -/
def signed (img : List Byte) (off : Nat) : Bool := (img.drop off).any (· != 0)

/-- Verify and load (R254, R267): the loaded connector and the state, or a refusal. -/
def tryLoad (c : Connector) (s : State) : Option (State × Connector) :=
  if !descOk c || !ckptOk s c then none
  else
    match fetchImage c s with
    | none => none
    | some (s, h, img) =>
      let m := readImage h img
      match tfind s.plinth.connKeys (nbits h 96 8) with
      | none => none
      | some key =>
        if !imageOk h img m || !signed img (sigOff h) || !Config.slhDsaVerifies key (img.take (sigOff h)) (img.drop (sigOff h)) then none
        else
          let n : Connector := { c with ver := false, loaded := true, nports := m.nports, nputs := m.nputs, rules := m.rules,
                                        preds := m.preds, fifos := emptyFifos m.caps 0, measure := measureOf img }
          match engWriteBytes n.loader.core n.gid n.asid n.user n.ckptVa (ckptImage n) s with
          | (s, none) => some (pinCkpt n s, n)
          | (_, some _) => none

def execLoadConn (s : State) : Host.Outcome State Fault Refusal :=
  event (fun s => match s.ev with
    | .loadConn k i core ctx id desc hi asid gid user =>
      let c := connAt s k i
      if (s.keystone k).failed || c.ver || c.loaded then s.send (.lack core ctx id false)
      else (putConn k i { ver := true, desc := desc, hi := hi, asid := asid, gid := gid, user := user,
                          loader := ⟨core, ctx, id⟩ } s).send (.connectorVerified k i)
    | _ => s) s

def execConnectorVerified (s : State) : Host.Outcome State Fault Refusal :=
  event (fun s => match s.ev with
    | .connectorVerified k i =>
      let c := connAt s k i
      if !c.ver then s
      else
        match tryLoad c s with
        | some (s, n) => (putConn k i n s).send (.lack c.loader.core c.loader.ctx c.loader.id true)
        | none => (putConn k i {} s).send (.lack c.loader.core c.loader.ctx c.loader.id false)
    | _ => s) s

/-! ## Dropping (R268) -/

/-- Drop the connector in slot `i` of Keystone `k` (the slot itself, reserve slots included): pending offers are answered,
bindings and FIFO contents discarded. An offer that is still on its way is answered when it arrives. The slots of a stopped gang learn
of it when the gang resumes (R272). -/
def dropConn (k i : Nat) (s : State) : State :=
  let c := s.conn k i
  let id := if i < 16 then 16 * k + i else 16 * (k ^^^ 1) + (i - 16)
  let s := c.binds.foldl (fun s b =>
    let q := s.port b.2.core b.2.slot
    if !q.bound || q.conn.toNat != id || q.port.toNat != b.1 || (s.core b.2.core).gid != b.2.gid then s
    else if (tfind c.offers b.1).isSome then dropOffer b.2.core b.2.slot s
    else s.setPort b.2.core b.2.slot { q with bound := false }) s
  s.setConn k i {}

/-- A CONDROP reaches its Keystone. It waits out a verification (log 111); a connector that another gang has loaded meanwhile stays. -/
def execDropMsg (s : State) : Host.Outcome State Fault Refusal :=
  event (fun s => match s.ev with
    | .dropMsg k i core ctx =>
      if (connAt s k i).ver then s.send s.ev
      else if (connAt s k i).gid != (s.core core).gid then s.send (.dack core ctx)
      else (dropConn (homeConn s k i).1 (homeConn s k i).2 s).send (.dack core ctx)
    | _ => s) s

/-! ## Failover (R273) -/

/-- The parcels of a FIFO as its checkpoint holds them. -/
def restoreFifo (ck : List Byte) (f : Nat) : Fifo :=
  let e := leNat ((ck.drop (0x800 + 4 * f)).take 4)
  let first := nbits e 0 8
  let head := nbits e 8 8
  let cap := nbits e 24 8
  { cap := cap, first := first, head := head
    items := (List.range (nbits e 16 8)).map (fun j =>
      let cell := first + (head + j) % cap
      (ck.drop (64 * cell)).take (leNat ((ck.drop (0x880 + cell)).take 1) + 1)) }

/-- A binding as its checkpoint holds it; the gang comes from the bindings `t` of the failed Keystone. -/
def restoreBind (t : Table Binding) (ck : List Byte) (p : Nat) : Option (Nat × Binding) :=
  let e := leNat ((ck.drop (0x900 + 8 * p)).take 8)
  let gid := match tfind t p with
    | some b => b.gid
    | none => 0
  if nbits e 17 1 = 1 then some (p, ⟨nbits e 0 10 + 1024 * nbits e 10 2, nbits e 12 4, nbits e 16 1 == 1, gid⟩) else none

/-- The connector that the neighbour restores: its image read again and checked against the measurement recorded at load. -/
def restore (c : Connector) (s : State) : Option (State × Connector) :=
  match fetchImage c s with
  | none => none
  | some (s, h, img) =>
    match engReadBytes c.loader.core c.gid c.asid c.user c.ckptVa 4096 s with
    | .error _ => none
    | .ok (s, ck) =>
      if (ck.drop 0xD40).take 64 ≠ shake256 img 64 then none
      else
        let m := readImage h img
        some (s, { c with
          failover := true
          nports := m.nports
          nputs := m.nputs
          rules := m.rules
          preds := m.preds
          fifos := (List.range m.caps.length).map (restoreFifo ck)
          offers := []
          binds := (List.range 64).filterMap (restoreBind c.binds ck)
          ages := (List.range m.rules.length).map (fun q => (q, leNat ((ck.drop (0xB00 + 2 * q)).take 2))) })

/-- A message from a core about an offer to connector `i` of Keystone `k`, which failover re-sends (R273). -/
def offerTo (k i : Nat) (m : Msg) : Bool :=
  match m with
  | .offerMsg k' i' _ _ _ _ _ => k' == k && i' == i
  | .retractMessage k' i' _ _ _ _ => k' == k && i' == i
  | _ => false

/-- Move the connector in slot `i` of the failed Keystone `k` to its neighbour, or drop it when that has failed too or cannot
restore it (R273, log 29). -/
def moveConn (k i : Nat) (s : State) : State :=
  let c := s.conn k i
  if c.ver then (s.setConn k i {}).send (.lack c.loader.core c.loader.ctx c.loader.id false)
  else if !c.loaded then s
  else if i < 16 && !(s.keystone (k ^^^ 1)).failed then
    match restore c s with
    | none => dropConn k i s
    | some (s, n) =>
      let s := { (s.setConn k i {}).setConn (k ^^^ 1) (16 + i) n with agenda := s.agenda.filter (fun m => !offerTo k i m) }
      (n.binds.foldl (fun s b => s.send (.failover b.2.core k i)) s).send (.decision k i)
  else dropConn k i s

def execKeystoneFailure (s : State) : Host.Outcome State Fault Refusal :=
  event (fun s => match s.ev with
    | .keystoneFailure k =>
      if 256 ≤ k || (s.keystone k).failed then s
      else
        let s := { s with keystones := tset s.keystones k { s.keystone k with failed := true } }
        (List.range 32).foldl (fun s i => moveConn k i s) s
    | _ => s) s

end Sys2Proof.Machine
end

