-- ==== Sys2Proof/Machine/Ports.lean ====
section
/-! DEFINITION. Ports of a core: the ten P-form words (R262 to R270) and the messages that reach a core from a Keystone (Table
11-7). What answers a slot's question stands in its `ans`: 0 retracted, 1 fired, 3 dropped (R265); 4, 5 bound as put or get (or
unbound), 6 refused, 10, 11 the same as 4, 5 while the old port is being left, 12, 13 once it has been (R266); 8 an offer that
gang-stop has parked, 9 a retraction that gang-stop has sent (R271). -/

namespace Sys2Proof.Machine

/-! ## The slot of a word -/

def getPort (p : BitVec 4) : M PortSlot := do return (← get).port (← coreNo) p.toNat
def setPort (p : BitVec 4) (q : PortSlot) : M Unit := do
  let c ← coreNo
  modS (fun s => s.setPort c p.toNat q)

def connKs (n : BitVec 12) : Nat := n.toNat / 16
def connIdx (n : BitVec 12) : Nat := n.toNat % 16

/-- The fire entry of a port slot is freed. -/
def freeFire (c p : Nat) (s : State) : State :=
  s.modCore c (fun v => { v with inbox := v.inbox.filter (fun e => !(e.kind == 2 && e.port.toNat == p)) })

/-- The checks of a new offer (R263, R268, R270): `n` is the parcel length of a put form. -/
def offerChecks (q : PortSlot) (get : Bool) (r : BitVec 6) (n : Nat) : M Unit := do
  if q.offer = .dropped then trap 0x18
  trapUnless (q.bound && q.get == get && q.offer = .none) 0x16
  if q.wide then trapUnless (r.toNat < 16) 0x16
  else trapUnless (n ≤ 8) 0x16

/-- A slot that POLL and RETRACT may name: bound, or still holding what its connector left (R270). -/
def slotKnown (q : PortSlot) : M Unit := trapUnless (q.bound || q.offer != .none) 0x16

/-- The source of a put form on a narrow slot is a register name that can be read (R68, R75). -/
def putSourceOk (q : PortSlot) (r : BitVec 6) : M Unit := illegalUnless (q.wide || srcOk r)

/-- The register that a put form reads (R263). -/
def putSource (q : PortSlot) (r : BitVec 6) : M VReg := do
  if q.wide then readV (r.setWidth 4) else return (← readS r).setWidth 512

/-- The queue item that reading the source has taken. -/
def popped (q : PortSlot) (r : BitVec 6) (v : VReg) : Option Dword :=
  if !q.wide && (r == 60 || r == 62) then some (v.setWidth 64) else none

/-- A slot with the parcel of a put form: the first `n` bytes of its source (R263). -/
def PortSlot.loaded (q : PortSlot) (r : BitVec 6) (n : Nat) (v : VReg) : PortSlot :=
  { q with parcel := (leBytes 64 v.toNat).take n, src := popped q r v }

/-- A queue item that a word took goes back to the head of its queue, the word having no effect (R270). -/
def unpop (c k : Nat) (r : BitVec 6) (v : Dword) (s : State) : State :=
  if r = 60 then s.modCtx c k (fun x => { x with ldq := { pos := 0, id := 0, val := some v } :: x.ldq })
  else
    s.modCore c (fun w =>
      let mine (e : InboxEntry) : Bool := e.kind == 0 && e.gid == w.gid
      { w with inbox :=
          if w.inbox.any mine then replaceFirst mine (fun e => { e with payload := v :: e.payload }) w.inbox
          else { kind := 0, port := 0, gid := w.gid, src := 0, sdie := 0, payload := [v], ctx := 0, id := 0 } :: w.inbox })

/-- Send the slot's offer under the next serial. -/
def sendOffer (c p : Nat) (q : PortSlot) (s : State) : State :=
  let q := { q with serial := q.serial + 1, offer := .pending }
  (s.setPort c p q).send (.offerMsg (connKs q.conn) (connIdx q.conn) q.port.toNat c p q.serial (if q.get then [] else q.parcel))

/-- What a slot keeps once its offer has ended: nothing of the offer. -/
def PortSlot.idle (q : PortSlot) : PortSlot :=
  { q with offer := .none, blk := false, owner := none, token := none, parcel := [], fireIn := false, src := none }

/-! ## PUT and GET (R264) -/

/-- Wait for the firing of the slot's offer, or carry its end out: `done` completes the word of register `r`. -/
def awaitFire (p : BitVec 4) (q : PortSlot) (r : BitVec 6) (done : M Unit) : M Unit := do
  let k ← ctxNo
  let c ← coreNo
  trapUnless (q.owner.isNone || q.owner == some k) 0x16
  match q.offer with
  | .fired => do
    setPort p q.idle
    modS (freeFire c p.toNat)
    done
  | .dropped => do
    let s ← get
    let back (s : State) : State := match q.src with
      | some v => unpop c k r v s
      | none => s
    stop (.trapWith { code := 0x18 } (back (s.setPort c p.toNat { q with blk := false, owner := none, src := none })))
  | _ => do
    let s ← get
    stop (.stallWith (s.setPort c p.toNat { q with owner := some k }))

def execPut (r : BitVec 6) (p : BitVec 4) (ss : BitVec 3) (n : BitVec 6) (s : State) : Host.Outcome State Fault Refusal :=
  run (do
    waitHolds
    slotRoom ss
    let q ← getPort p
    putSourceOk q r
    if q.blk && !q.get then awaitFire p q r retire
    else do
      offerChecks q false r (n.toNat + 1)
      waitAccesses
      let v ← putSource q r
      let s ← get
      let k ← ctxNo
      stop (.stallWith (sendOffer (← coreNo) p.toNat { q.loaded r (n.toNat + 1) v with blk := true, owner := some k, token := none } s))) s

/-- A GET writes the parcel (R263). -/
def giveParcel (q : PortSlot) (r : BitVec 6) : M Unit := do
  if q.wide then writeV (r.setWidth 4) (BitVec.ofNat 512 (leNat q.parcel))
  else writeS r (BitVec.ofNat 64 (leNat (q.parcel.take 8)))
  retire

def execGet (r : BitVec 6) (p : BitVec 4) (ss : BitVec 3) (s : State) : Host.Outcome State Fault Refusal :=
  run (do
    waitHolds
    slotRoom ss
    let q ← getPort p
    if q.wide then trapUnless (r.toNat < 16 || q.offer = .dropped) 0x16 else illegalUnless (dstOk r)
    if q.get && (q.blk || q.offer = .fired || q.offer = .pending) then awaitFire p { q with blk := true } r (giveParcel q r)
    else do
      offerChecks q true r 0
      let s ← get
      let k ← ctxNo
      stop (.stallWith (sendOffer (← coreNo) p.toNat { q with blk := true, owner := some k, token := none } s))) s

/-! ## OFFER, POLL, RETRACT (R265) -/

/-- The completion of an offer's slot; an offer that names none has none. -/
def offerToken (ss : BitVec 3) : M (Option Reply) := do
  if ss = 0 then return none
  else do
    let id ← joinPend ss .token false
    return some ⟨(← coreNo), (← ctxNo), id⟩

def execOfferPut (r : BitVec 6) (p : BitVec 4) (ss : BitVec 3) (n : BitVec 6) (s : State) : Host.Outcome State Fault Refusal :=
  run (do
    waitHolds
    let q ← getPort p
    putSourceOk q r
    offerChecks q false r (n.toNat + 1)
    waitAccesses
    slotRoom ss
    let v ← putSource q r
    let t ← offerToken ss
    let c ← coreNo
    modS (sendOffer c p.toNat { q.loaded r (n.toNat + 1) v with blk := false, owner := none, token := t, src := none })
    retire) s

def execOfferGet (p : BitVec 4) (ss : BitVec 3) (s : State) : Host.Outcome State Fault Refusal :=
  run (do
    waitHolds
    let q ← getPort p
    offerChecks q true 0 0
    let t ← offerToken ss
    let c ← coreNo
    modS (sendOffer c p.toNat { q with blk := false, owner := none, token := t })
    retire) s

/-- The status word of POLL (Table 11-10). -/
def pollWord (q : PortSlot) : Dword :=
  let st := match q.offer with
    | .none => 0
    | .pending | .retracting => 1
    | .fired => 2
    | .dropped => 3
  let len := if q.offer = .fired && q.get then (q.parcel.length - 1) % 64 else 0
  BitVec.ofNat 64 (st + q.serial.toNat * 4 + len * 2 ^ 10)

def execPoll (r : BitVec 6) (p : BitVec 4) (ss : BitVec 3) (s : State) : Host.Outcome State Fault Refusal :=
  run (do
    waitHolds
    slotRoom ss
    let q ← getPort p
    slotKnown q
    let c ← coreNo
    if q.offer = .fired && !q.get && !q.blk then do
      setPort p q.idle
      modS (freeFire c p.toNat)
    finishQuiet r (pollWord q)) s

/-- RETRACT ends with a result: a fired put that no PUT waits for returns to none (R265). -/
def retracted (r : BitVec 6) (p : BitVec 4) (q : PortSlot) (v : Nat) : M Unit := do
  let c ← coreNo
  if v = 1 && q.offer = .fired && !q.get && !q.blk then do
    setPort p { q.idle with ans := none, asker := none }
    modS (freeFire c p.toNat)
  else setPort p { q with ans := none, asker := none }
  finishQuiet r (BitVec.ofNat 64 v)

/-- The context waits inside a retraction, where gang-stop does not halt it (R271, R373). -/
def insideRetract {α : Type} (s : State) : M α :=
  stop (.stallWith (s.modCtx s.cur.core s.cur.ctxNo (fun x => { x with within := true })))

def execRetract (r : BitVec 6) (p : BitVec 4) (ss : BitVec 3) (s : State) : Host.Outcome State Fault Refusal :=
  run (do
    waitHolds
    slotRoom ss
    let q ← getPort p
    let c ← coreNo
    let k ← ctxNo
    let s ← get
    if q.asker = some k then
      match q.ans with
      | some v => retracted r p q v
      | none => insideRetract s
    else if q.asker.isSome then stall
    else do
      slotKnown q
      match q.offer with
      | .none => finishQuiet r 2
      | .fired => retracted r p q 1
      | .dropped => retracted r p q 3
      | .retracting => stall
      | .pending =>
        insideRetract ((s.setPort c p.toNat { q with offer := .retracting, ans := none, asker := some k }).send
          (.retractMessage (connKs q.conn) (connIdx q.conn) q.port.toNat c p.toNat q.serial))) s

/-! ## PBIND (R266) -/

/-- The name under which CONDROP waits: that of no access. -/
def dropName : Nat := 2 ^ 70

/-- The slot that a PBIND leaves, and whether its connector still holds the binding: one that was dropped while BACK was on its way
has cleared it (R268). -/
def boundSlot (s : State) (c p : Nat) (q : PortSlot) (conn : BitVec 12) (port : BitVec 6) (wide get : Bool) : PortSlot :=
  { bound := boundTo (connAt s (connKs conn) (connIdx conn)) port.toNat c p, conn := conn, port := port, get := get, wide := wide
    serial := q.serial }

/-- The item that a waiting PBIND took from a queue goes back, the word having no effect. -/
def giveBack (c k : Nat) (took : BitVec 6 × Dword) (s : State) : State :=
  if took.1 = 60 || took.1 = 62 then unpop c k took.1 took.2 s else s

/-- The fields of a binding word (Table 11-11). -/
def bindConn (w : Dword) : BitVec 12 := BitVec.ofNat 12 (nbits w.toNat 6 12)
def bindPort (w : Dword) : BitVec 6 := BitVec.ofNat 6 w.toNat
def bindUn (w : Dword) : Bool := w.getLsbD 19
def bindWide (w : Dword) : Bool := w.getLsbD 18

/-- PBIND has its answer: BACK binds the slot, after UNBIND of the port it leaves; BREF is the bind-refused trap. -/
def bindAnswer (p : BitVec 4) (q : PortSlot) (v : Nat) : M Unit := do
  let s ← get
  let c ← coreNo
  let k ← ctxNo
  let w := q.took.2
  if bindUn w then do
    setPort p { serial := q.serial }
    retire
  else if v = 6 then stop (.trapWith { code := 0x17 } (giveBack c k q.took (s.setPort c p.toNat { q with ans := none, asker := none })))
  else if v = 10 || v = 11 then stall
  else if (v = 4 || v = 5) && q.bound && !(q.conn == bindConn w && q.port == bindPort w) then
    stop (.stallWith ((s.setPort c p.toNat { q with ans := some (v + 6) }).send
      (.unbindMsg (connKs q.conn) (connIdx q.conn) q.port.toNat c p.toNat)))
  else do
    setPort p (boundSlot s c p.toNat q (bindConn w) (bindPort w) (bindWide w) (v = 5 || v = 13))
    retire

/-- PBIND reads its binding word once and keeps it in the slot until the answer has come. -/
def execPbind (r : BitVec 6) (p : BitVec 4) (ss : BitVec 3) (s : State) : Host.Outcome State Fault Refusal :=
  run (do
    waitHolds
    slotRoom ss
    let q ← getPort p
    let c ← coreNo
    let k ← ctxNo
    if q.asker = some k then
      match q.ans with
      | none => stall
      | some v => bindAnswer p q v
    else do
      let w ← readS r
      let s ← get
      trapUnless (w.toNat / 2 ^ 20 = 0 && (!bindUn w || nbits w.toNat 0 19 = 0)) 0x17
      trapUnless (q.offer = .none || q.offer = .dropped) 0x16
      if q.asker.isSome then stall
      else if bindUn w && !q.bound then retire
      else
        stop (.stallWith ((s.setPort c p.toNat { q with ans := none, asker := some k, took := (r, w) }).send
          (if bindUn w then .unbindMsg (connKs q.conn) (connIdx q.conn) q.port.toNat c p.toNat
           else .bindMsg (connKs (bindConn w)) (connIdx (bindConn w)) (bindPort w).toNat c k p.toNat (bindWide w) (s.core c).gid)))) s

/-! ## CONLOAD, CONDROP, CONSTAT (R267 to R269) -/

def execConload (a : BitVec 4) (ss : BitVec 3) (s : State) : Host.Outcome State Fault Refusal :=
  run (do
    waitHolds
    slotRoom ss
    let va ← readA a
    if va.toNat % 64 ≠ 0 then trapVa 0x03 va
    let d : BitVec 512 := BitVec.ofNat 512 (leNat (← readWord va 64))
    let t ← offerToken ss
    let c ← coreNo
    let k ← ctxNo
    let id ← match t with
      | some t => pure t.id
      | none => freshId
    modS (fun s => s.send (.loadConn (descKey d) (descIndex d) c k id d (BitVec.ofNat 16 (va.toNat / 2 ^ 64)) (s.core c).asid
      (s.core c).gid (!(s.ctx c k).dev)))
    retire) s

/-- The connector that an id names: its Keystone and slot; none when a reserved bit is set. -/
def connOfId (n : Dword) : Option (Nat × Nat) := if n.toNat / 2 ^ 12 ≠ 0 then none else some (n.toNat / 16, n.toNat % 16)

def execCondrop (r : BitVec 6) (ss : BitVec 3) (s : State) : Host.Outcome State Fault Refusal :=
  run (do
    waitHolds
    slotRoom ss
    let s0 ← get
    let n ← readS r
    let x ← getCtx
    match x.wait with
    | some w => if w.val.isSome then retire else stall
    | none =>
      match connOfId n with
      | none => retire
      | some (ks, i) =>
        let q := connAt s0 ks i
        if !q.loaded && !q.ver then retire
        else do
          let c ← coreNo
          let k ← ctxNo
          trapUnless (q.gid == (s0.core c).gid) 0x17
          stop (.stallWith ((s0.modCtx c k (fun x => { x with wait := some ⟨dropName, none⟩ })).send (.dropMsg ks i c k)))) s

/-- The status word of CONSTAT (Table 11-12). -/
def statWord (c : Connector) : Dword :=
  if c.ver then 4
  else if !c.loaded then 0
  else
    let cells := c.fifos.foldl (fun n f => n + f.items.length) 0
    BitVec.ofNat 64 (1 + (if c.failover then 2 else 0) + c.offers.length % 64 * 2 ^ 3 + cells * 2 ^ 9 +
      (c.rules.length - 1) * 2 ^ 15 + c.nports * 2 ^ 24 + c.fires.toNat * 2 ^ 32)

def execConstat (r : BitVec 6) (ss : BitVec 3) (s : State) : Host.Outcome State Fault Refusal :=
  run (do
    waitHolds
    slotRoom ss
    let n ← readS r
    let s ← get
    match connOfId n with
    | none => finishQuiet r 0
    | some (ks, i) => finishQuiet r (statWord (connAt s ks i))) s

/-! ## Messages that reach a core (Table 11-7) -/

/-- Bytes as dwords of an inbox payload. -/
def parcelDwords (l : List Byte) : List Dword :=
  (List.range ((l.length + 7) / 8)).map (fun i => BitVec.ofNat 64 (leNat ((l.drop (8 * i)).take 8)))

/-- FIRE: the slot's offer completes, or does so once a retraction that is under way has its RLATE (R259); the reserved inbox entry
holds the message (R233, R264, R265). The sender fields of its header are not stated (log 29). -/
def fire (c p : Nat) (serial : BitVec 8) (l : List Byte) (s : State) : State :=
  let q := s.port c p
  if q.serial = serial && (q.offer = .pending || q.offer = .retracting) then
    let d := Config.freeDword s.draws
    let e : InboxEntry := { kind := 2, port := BitVec.ofNat 4 p, gid := (s.core c).gid, src := d.setWidth 10,
                            sdie := (d >>> 10).setWidth 2, payload := parcelDwords l, ctx := 0, id := 0 }
    let n : PortSlot := { q with offer := if q.offer = .retracting then .retracting else .fired, fireIn := q.offer == .retracting,
                                 parcel := if q.get then l else q.parcel, token := none }
    let s := (s.drawn.setPort c p n).modCore c (fun v => { v with inbox := v.inbox ++ [e] })
    tokenDone q s
  else s

def execFireMsg (s : State) : Host.Outcome State Fault Refusal :=
  event (fun s => match s.ev with
    | .fireMsg c p serial l => fire c p serial l s
    | _ => s) s

/-- RACK: the offer is retracted. A PUT or GET that waits on it offers again; gang-stop's own retraction leaves the offer to be
sent again on resume (R265, R271). -/
def rackAt (c p : Nat) (serial : BitVec 8) (s : State) : State :=
  let q := s.port c p
  if q.serial = serial && q.offer = .retracting then
    if q.ans = some 9 then s.setPort c p { q with offer := .pending, ans := some 8 }
    else if q.blk then
      sendOffer c p { q with ans := some 0, token := none } (tokenDone q s)
    else tokenDone q (s.setPort c p { q.idle with ans := some 0 })
  else s

def execRack (s : State) : Host.Outcome State Fault Refusal :=
  event (fun s => match s.ev with
    | .rack c p serial => rackAt c p serial s
    | _ => s) s

/-- RLATE: the offer had fired; its FIRE came before and stands. The retraction ends (R259). -/
def execRlate (s : State) : Host.Outcome State Fault Refusal :=
  event (fun s => match s.ev with
    | .rlate c p serial =>
      let q := s.port c p
      if q.serial = serial && q.offer = .retracting then
        s.setPort c p { q with offer := .fired, fireIn := false, ans := if q.ans = some 9 then none else some 1 }
      else s
    | _ => s) s

def execBack (s : State) : Host.Outcome State Fault Refusal :=
  event (fun s => match s.ev with
    | .back c p get =>
      let q := s.port c p
      s.setPort c p { q with ans := some (if q.ans = some 10 then 12 else if q.ans = some 11 then 13 else if get then 5 else 4) }
    | _ => s) s

def execBref (s : State) : Host.Outcome State Fault Refusal :=
  event (fun s => match s.ev with
    | .bref c p => s.setPort c p { s.port c p with ans := some 6 }
    | _ => s) s

def execLack (s : State) : Host.Outcome State Fault Refusal :=
  event (fun s => match s.ev with
    | .lack c k id ok => completePend c k id (if ok then 0 else 4) s
    | _ => s) s

def execDack (s : State) : Host.Outcome State Fault Refusal :=
  event (fun s => match s.ev with
    | .dack c k => s.modCtx c k (fun x => { x with wait := x.wait.map (fun w =>
        if w.id = dropName then { w with val := some 0 } else w) })
    | _ => s) s

/-- FAILOVER: the core sends again every pending offer and retraction of the connector, serials unchanged (R273). -/
def execFailover (s : State) : Host.Outcome State Fault Refusal :=
  event (fun s => match s.ev with
    | .failover c k i =>
      (List.range 16).foldl (fun s p =>
        let q := s.port c p
        if q.bound && connKs q.conn == k && connIdx q.conn == i && (q.offer == .pending || q.offer == .retracting) && q.ans != some 8 then
          let s := if q.fireIn then s else s.send (.offerMsg k i q.port.toNat c p q.serial (if q.get then [] else q.parcel))
          if q.offer == .retracting then s.send (.retractMessage k i q.port.toNat c p q.serial) else s
        else s) s
    | _ => s) s

end Sys2Proof.Machine
end

