-- ==== Sys2Proof/Machine/Contexts.lean ====
section
/-! DEFINITION. Contexts of a core and what passes between the cores of a gang: START, JOIN, END (R342 to R344), state words (R91,
R346), active messages and the inbox (R233 to R236, R347, R348), barriers (R351), retirement (R352, R353). -/

namespace Sys2Proof.Machine

/-! ## New contexts (R90, Table 15-1) -/

/-- Both streams of a context take turns from now on (R18). -/
def ringAdd (c k : Nat) (s : State) : State :=
  if s.ring.any (fun e => e.1 == c && e.2.1 == k) then s else { s with ring := s.ring ++ [(c, k, .acc), (c, k, .exe)] }
def ringDrop (c k : Nat) (s : State) : State := { s with ring := s.ring.filter (fun e => !(e.1 == c && e.2.1 == k)) }

/-- The granules of a new context's area: absent-zero, but granule 22, which holds a0 and zeros (R90); its resume record is zero. -/
def freshArea (c a : Nat) (a0 : VA) (s : State) : State :=
  let s := wakeBank c (areaBank a) s
  let s := (s.store (spPlace c (a * 2048 + 0x580)) 64 a0.toNat).store (spPlace c (a * 2048 + 0x7C0)) 64 0
  s.modCore c (fun v =>
    (List.range 26).foldl (fun v g => v.setGranule a g (if g = 22 then .present true else .absentZero)) v)

/-- Context `k` of core `c` starts in area `a` with a0. -/
def startCtx (c k a : Nat) (a0 : VA) (x : Ctx) (s : State) : State :=
  ringAdd c k ((freshArea c a a0 s).setCtx c k { x with live := true, wp := BitVec.ofNat 64 (a * 2048) })

/-- The operand registers o0 to o3 of a new context. -/
def operandFile (l : List Dword) : Table Dword := (List.range 4).filterMap (fun i => (l[i]?).map (fun v => (i, v)))

/-- A helper begins with the control context's words `x`, the chi and ue given, both streams at `pc`, and o0 to o3. -/
def helperCtx (x : Ctx) (chi : BitVec 16) (ue : Bool) (pc : Dword) (o : List Dword) : Ctx :=
  { acc := { pc := pc }, exe := { pc := pc }, o := operandFile o, tb := x.tb, uh := x.uh, gid := x.gid, rank := x.rank,
    chi := chi, ue := ue }

/-- The lowest usable helper number whose entry is free (R343). -/
def freeHelper (v : Core) : Option Nat := ((List.range v.hlp).map (· + 1)).find? (fun h => !(tget v.ctxs h {}).live)

def execStart (d : BitVec 6) (t : BitVec 20) (s : State) : Host.Outcome State Fault Refusal :=
  run (do
    let s ← get
    let c ← coreNo
    let k ← ctxNo
    let v ← getCore
    illegalUnless (k = 0 && v.hlp ≠ 0)
    waitAccesses
    let pc ← myPc
    match freeHelper v with
    | none => stall
    | some h => do
      let a0 ← readA 0
      let x := s.ctx c 0
      let o := (List.range 4).map (fun i => tget x.o i 0)
      modS (startCtx c h (tget v.areas h 0) a0 (helperCtx x x.chi x.ue (branchTarget pc t) o))
      finishBoth d (BitVec.ofNat 64 h)) s

/-! ## Where contexts and cores end (R344, R352) -/

/-- The cores that run the gang of a core. -/
def mates (s : State) (c : Nat) : List (Nat × Core) := s.cores.filter (fun e => e.2.gid == (s.core c).gid)

/-- What waits for context `k` of core `c` goes, and a helper's permit units go back; those of a control context stay held until the
release of its gang (R340, log 112). -/
def dropHeld (c k : Nat) (s : State) : State :=
  let x := s.ctx c k
  let s := dropPermitReq c (k + 16) (dropPermitReq c k s)
  let s := if k = 0 || x.held = 0 then s else releasePermit c x.held s
  ringDrop c k (s.modCore c (fun v => { v.leaveWaits k with
    slots := v.slots.map (fun e => (e.1, if e.2.asker = some k then { e.2 with asker := none } else e.2)) }))

/-- The oldest active message that waits in a core's inbox is tried again (R348). -/
def kickMessage (c : Nat) (s : State) : State :=
  if (s.core c).inbox.any (fun e => e.kind == 1) then s.send (.activeMessageStart c) else s

/-- A helper ends (R344 step 2). -/
def endHelper (c k : Nat) (exit : Dword) (s : State) : State :=
  let s := dropHeld c k s
  kickMessage c (s.modCore c (fun v => { v with exits := tset v.exits k exit, ctxs := terase v.ctxs k }))

/-- Barrier `n` (1 the gang's, 2 a group's) is complete for a core: every member has arrived or has retired (R351). -/
def barComplete (s : State) (c n : Nat) : Bool :=
  let group (v : Core) : Nat := nbits (tget v.ctxs 0 {}).rank.toNat 20 2
  (mates s c).all (fun e => e.2.retired != .no || (tget e.2.ctxs 0 {}).atBar == n || (n == 2 && group e.2 != group (s.core c)))

/-- Release every member that waits at barrier `n` with a core. -/
def barRelease (c n : Nat) (s : State) : State :=
  let group (v : Core) : Nat := nbits (tget v.ctxs 0 {}).rank.toNat 20 2
  (mates s c).foldl (fun s e =>
    if (tget e.2.ctxs 0 {}).atBar = n && (n = 1 || group e.2 = group (s.core c)) then
      s.modCtx e.1 0 (fun x => { x with atBar := n + 2 })
    else s) s

def barCheck (c : Nat) (s : State) : State :=
  let s := if barComplete s c 1 then barRelease c 1 s else s
  if barComplete s c 2 then barRelease c 2 s else s

/-- A core has declared its gang's node done, or has retired: what it issues from now on does not hold the node, which completes once
every core has come so far (R359). -/
def nodeCheck (c : Nat) (s : State) : State :=
  let s := s.modCore c (fun v => { v with doneMark := some (v.doneMark.getD s.nextId) })
  match gangOn s c with
  | none => s
  | some g =>
    match g.launch.node with
    | none => s
    | some (d, n, i) =>
      if (mates s c).all (fun e => e.2.tnDone || e.2.retired != .no) then
        s.send (.nodeComplete (BitVec.ofNat 2 d) n i)
      else s

/-- The control context of a core ends: the core retires. Stores that have only been sent stay outstanding (R353). -/
def retireCore (c : Nat) (how : Retired) (s : State) : State :=
  let s := dropHeld c 0 s
  let x := s.ctx c 0
  let s := s.setCtx c 0 { ({} : Ctx) with pend := x.pend, held := x.held, wp := x.wp, tb := x.tb, gid := x.gid, rank := x.rank, chi := x.chi }
  let s := nodeCheck c (barCheck c (s.modCore c (fun v => { v with retired := how })))
  if (mates s c).all (fun e => e.2.retired != .no) then s.send (.gangComplete (s.core c).gid) else s

/-- Wait until every live helper of the core has ended. -/
def waitHelpers : M Unit := do
  let v ← getCore
  if v.ctxs.any (fun e => e.1 != 0 && e.2.live) then stall

def execEndc (a : BitVec 6) (s : State) : Host.Outcome State Fault Refusal :=
  run (do
    notInSlot
    let c ← coreNo
    let k ← ctxNo
    if !(← getCtx).pend.isEmpty then stall
    if k = 0 then waitHelpers
    let v ← readS a
    modS (if k = 0 then retireCore c .byEnd else endHelper c k v)) s

def execJoin (d a : BitVec 6) (s : State) : Host.Outcome State Fault Refusal :=
  run (do
    controlOnly
    let n := (← readS a).toNat
    illegalUnless (1 ≤ n && n ≤ 10)
    let v ← getCore
    if (tget v.ctxs n {}).live then stall
    finishBoth d (tget v.exits n 0)) s

/-- A store that RETS need not wait for (R353): sent, and pushing nothing. -/
def sentStore (x : Ctx) (p : Pend) : Bool :=
  (p.kind == .store || (p.kind == .fullEmpty && !x.ldq.any (fun i => i.id == p.id))) && !x.deferred.any (fun h => h.req.id == p.id)

def execRets (m a : BitVec 6) (s : State) : Host.Outcome State Fault Refusal :=
  run (do
    controlOnly
    notInSlot
    let c ← coreNo
    let s ← get
    let x ← getCtx
    if x.pend.any (fun p => !sentStore x p) || (s.core c).ctxs.any (fun e => e.1 != 0 && e.2.live) then
      stop (.stallWith (s.modCtx c 0 (fun x => { x with retiring := true })))
    let rec_ ← readS a
    let mask ← readS m
    modS (retireCore c (.byRets rec_ mask))) s

/-! ## State words (R91, R99, R100, R346) -/

/-- The macro-ops of a context that a word must see the end of (R34). -/
def waitMacroOps : M Unit := do
  let x ← getCtx
  let n ← myPos
  if x.pend.any (fun p => p.pos < n && p.kind == .macroOp) then stall

def execRdsw (d i : BitVec 6) (s : State) : Host.Outcome State Fault Refusal :=
  run (do
    if i = 10 then waitMacroOps
    let x ← getCtx
    let k ← ctxNo
    let pc ← myPc
    match i.toNat with
    | 0 => finishBoth d x.wp
    | 1 | 2 => finishBoth d pc
    | 3 => finishBoth d x.tb
    | 4 => finishBoth d x.uh
    | 5 => finishBoth d (x.st k)
    | 6 => finishBoth d x.ds
    | 7 => finishBoth d x.gid
    | 8 => finishBoth d x.rank
    | 9 => finishBoth d x.sbs
    | 10 => finishBoth d x.fsn
    | 11 => finishBoth d x.msr
    | _ => trap 1) s

/-- The old area becomes a complete register image; the new area's present granules become dirty (R91). -/
def switchArea (c k : Nat) (wp : Dword) (s : State) : State :=
  let a := (s.ctx c k).area
  let s := (List.range 26).foldl (fun s g =>
    match (s.core c).granule a g with
    | .absent => fillGranule c k g s
    | .absentZero =>
      let s := wakeBankFor c k (areaBank a) s
      (s.zero (spPlace c (a * 2048 + g * 64)) 64).modCore c (fun v => v.setGranule a g (.present true))
    | _ => s) s
  let s := s.modCtx c k (fun x => { x with wp := wp })
  let n := (s.ctx c k).area
  s.modCore c (fun v => (List.range 26).foldl (fun v g =>
    match v.granule n g with
    | .present _ => v.setGranule n g (.present true)
    | _ => v) v)

/-- The workspace-guard check of a new `wp`: a bit outside [17:11], or another live context's area (R91). -/
def areaTaken (s : State) (c k : Nat) (wp : Dword) : Bool :=
  decide (wp.toNat % 2048 ≠ 0) || decide (wp.toNat / 2 ^ 18 ≠ 0) ||
    (s.core c).ctxs.any (fun e => e.1 != k && e.2.live && e.2.area == nbits wp.toNat 11 7)

def execWrsw (a i : BitVec 6) (s : State) : Host.Outcome State Fault Refusal :=
  run (do
    waitAll
    let x ← getCtx
    let c ← coreNo
    let k ← ctxNo
    let v ← readS a
    match i.toNat with
    | 0 => do
      trapUnless (!areaTaken (← get) c k v) 0x0A
      modS (switchArea c k v)
      retireBoth
    | 3 => do
      deviceOnly
      illegalUnless (v.toNat % 256 = 0)
      modCtx (fun x => { x with tb := v })
      retireBoth
    | 4 => do
      illegalUnless (v.toNat % 4 = 0)
      modCtx (fun x => { x with uh := v })
      retireBoth
    | 6 => do
      deviceOnly
      modCtx (fun x => { x with ds := v })
      retireBoth
    | 10 => do
      illegalUnless (v.toNat / 2 ^ 7 = 0)
      modCtx (fun x => { x with fsn := v })
      retireBoth
    | 11 => do
      let old := x.msr
      illegalUnless (v.toNat / 2 ^ 20 = 0 && nbits v.toNat 16 1 = nbits old.toNat 16 1 && nbits v.toNat 18 2 = nbits old.toNat 18 2)
      if v.setWidth 16 ≠ x.chi then deviceOnly
      modCtx (fun x => { x with chi := v.setWidth 16, ue := v.getLsbD 17 })
      retireBoth
    | _ => trap 1) s

/-! ## Active messages and mail (R233 to R236, R347, R348) -/

/-- The inbox entry of a message; a mail entry, whose PC is zero, carries the two argument words. -/
def messageEntry (gid : BitVec 32) (src : BitVec 10) (sdie : BitVec 2) (pc a0 a1 : Dword) : InboxEntry :=
  { kind := if pc = 0 then 0 else 1, port := 0, gid := gid, src := src, sdie := sdie,
    payload := if pc = 0 then [a0, a1] else [pc, a0, a1], ctx := 0, id := 0 }

def execAmsg (a : BitVec 6) (s : State) : Host.Outcome State Fault Refusal :=
  run (do
    controlOnly
    let w ← readS a
    let pc ← popSdq
    let a0 ← popSdq
    let a1 ← popSdq
    let c ← coreNo
    let s ← get
    let t := nbits w.toNat 10 2 * 1024 + nbits w.toNat 0 10
    trapUnless (w.toNat / 2 ^ 12 = 0 && (s.core t).gid == (s.core c).gid) 0x05
    illegalUnless (pc.toNat % 4 = 0)
    waitAccesses
    if 16 ≤ inboxShared s t then stall
    modS (fun s => s.send (.inboxArrival t (messageEntry (s.core c).gid (BitVec.ofNat 10 (c % 1024)) (BitVec.ofNat 2 (coreDie c)) pc a0 a1)))
    retireBoth) s

/-- Counts of a core's inbox (R236). -/
def inboxWord (v : Core) : Dword :=
  let count (p : InboxEntry → Bool) : Nat := (v.inbox.filter p).length
  let mail (e : InboxEntry) : Bool := e.kind == 0 && e.gid == v.gid
  let words := match v.inbox.find? mail with
    | some e => e.payload.length
    | none => 0
  BitVec.ofNat 64 (count mail + count (fun e => e.kind == 1) * 2 ^ 6 + count (fun e => e.kind == 3) * 2 ^ 12 +
    count (fun e => e.kind == 2) * 2 ^ 18 + words * 2 ^ 23)

def execInbx (d : BitVec 6) (s : State) : Host.Outcome State Fault Refusal :=
  run (do finishBoth d (inboxWord (← getCore))) s
def execInbxWait (d : BitVec 6) (s : State) : Host.Outcome State Fault Refusal :=
  run (do
    let v ← getCore
    if !v.inbox.any (fun e => e.kind == 0 && e.gid == v.gid) then stall
    finishBoth d (inboxWord v)) s

/-- The stopped gang into whose saved inbox image an entry for core `c` goes: the one that it is addressed to (R237). -/
def savedGang (s : State) (c : Nat) (e : InboxEntry) : Option Gang :=
  s.plinth.gangs.find? (fun g => g.gid == e.gid && g.stopped && (tfind g.savedCores c).isSome)

/-- An inbox entry: header (Table 10-3) and payload, 72 bytes. -/
def inboxBytes (e : InboxEntry) : List Byte :=
  leBytes 8 (e.kind.toNat + e.port.toNat * 2 ^ 3 + e.gid.toNat * 2 ^ 8 + e.src.toNat * 2 ^ 40 + e.sdie.toNat * 2 ^ 50 +
    e.payload.length * 2 ^ 52) ++ dwordBytes 8 (e.payload.map (·.toNat))

/-- The inbox image of save block `b`: 32 entries of 72 bytes (Table 16-3). -/
def inboxImage (b : Nat) (l : List InboxEntry) (s : State) : State :=
  deviceBytes (Config.saveBlock b + 0x1_8000)
    (((l.take 32).map inboxBytes).flatten ++ List.replicate (72 * (32 - l.length)) 0) s

/-- An entry for a stopped gang is appended to its saved inbox image, which holds 32 entries of a core; further ones are held back
(R237). -/
def savedArrival (c : Nat) (e : InboxEntry) (g : Gang) (s : State) : State :=
  let v := tget g.savedCores c {}
  if 32 ≤ v.inbox.length then s.send s.ev
  else
    let v := { v with inbox := v.inbox ++ [e] }
    inboxImage (gangBlock s.plinth g c) v.inbox (modGang g.gid (fun g => { g with savedCores := tset g.savedCores c v }) s)

/-- An entry reaches the inbox of a core. -/
def inboxTakes (c : Nat) (e : InboxEntry) (s : State) : State :=
  if e.kind ≠ 2 && 16 ≤ ((s.core c).inbox.filter (fun e => e.kind != 2)).length then s.send s.ev
  else
    let s := s.modCore c (fun v => { v with inbox := v.inbox ++ [e] })
    if e.kind = 1 then s.send (.activeMessageStart c) else if e.kind = 3 then kickCommand c s else s

/-- INBOX_ARRIVAL: an entry reaches the inbox of its core; one that finds the shared entries full is held back (R234). The check of a
matrix command for a gang that is gone fails (R145); any other entry for it is lost with it. -/
def inboxArrival (c : Nat) (e : InboxEntry) (s : State) : State :=
  if (s.core c).gid = e.gid then inboxTakes c e s
  else
    match savedGang s c e with
    | some g => savedArrival c e g s
    | none => if e.kind = 3 then rejectCommand e s else s

def execInboxArrival (s : State) : Host.Outcome State Fault Refusal :=
  event (fun s => match s.ev with
    | .inboxArrival c e => inboxArrival c e s
    | _ => s) s

/-- a0 of the contexts of a core's running gang at their start: dbase of the record (R293, Table 15-1). -/
def recordBase (r : BitVec 2048) : VA := BitVec.ofNat 80 (recordBits r 0 128 64 + recordBits r 0 192 16 * 2 ^ 64)
def gangBase (s : State) (c : Nat) : VA :=
  match gangOn s c with
  | some g => recordBase g.launch.record
  | none => 0

/-- ACTIVE_MESSAGE_START: the oldest active message of a core starts a helper, when a number is free (R348). A core that has
retired takes none (log 30). -/
def activeMessageStart (c : Nat) (s : State) : State :=
  let v := s.core c
  match v.inbox.find? (fun e => e.kind == 1), freeHelper v with
  | some e, some h =>
    if v.retired != .no || !(s.ctx c 0).live || halting s c then s
    else
      let x := s.ctx c 0
      let s := s.modCore c (fun v => { v with inbox := removeFirst (fun e => e.kind == 1) v.inbox })
      kickMessage c (startCtx c h (tget v.areas h 0) (gangBase s c)
        (helperCtx x x.chi x.ue (nth e.payload 0 0) [nth e.payload 1 0, nth e.payload 2 0]) s)
  | _, _ => s

def execActiveMessageStart (s : State) : Host.Outcome State Fault Refusal :=
  event (fun s => match s.ev with
    | .activeMessageStart c => activeMessageStart c s
    | _ => s) s

/-! ## Barriers (R351) -/

/-- BAR and BAR.GROUP: arrive once earlier accesses are complete, and go on when released. -/
def barWord (n : Nat) : M Unit := do
  controlOnly
  waitAccesses
  let x ← getCtx
  let c ← coreNo
  if x.atBar ≠ n + 2 then
    let s := (← get).modCtx c 0 (fun x => { x with atBar := n })
    if barComplete s c n then set (barRelease c n s) else stop (.stallWith s)
  modCtx (fun x => { x with atBar := 0 })
  retireBoth

def execBar (s : State) : Host.Outcome State Fault Refusal := run (barWord 1) s
def execBarGroup (s : State) : Host.Outcome State Fault Refusal := run (barWord 2) s

/-! ## TNDONE (R359) -/

def execTndone (d : BitVec 6) (s : State) : Host.Outcome State Fault Refusal :=
  run (do
    controlOnly
    waitAccesses
    let c ← coreNo
    let s ← get
    let node := match gangOn s c with
      | some g => g.launch.node.isSome
      | none => false
    if node && !(s.core c).tnDone then do
      modS (fun s => nodeCheck c (s.modCore c (fun v => { v with tnDone := true })))
      finishBoth d 0
    else finishBoth d 1) s

end Sys2Proof.Machine
end

