-- ==== Sys2Proof/Machine/FloatOps.lean ====
section
/-! DEFINITION. Scalar floating-point instructions: major 0x08 (R105, R106, R29 to R31), by exact values rounded once. -/

namespace Sys2Proof.Machine

/-- The float code in the low bits of a register (R105). -/
def floatIn (f : BitVec 4) (x : Dword) : Val := (floatShape f.toNat).decode x.toNat

/-- A value rounded to the format, zero above, with the flags of the operation and of the rounding (R31, R105). -/
def floatOut (f : BitVec 4) (r : Val × Flags) : Dword × Flags :=
  let (c, g) := (floatShape f.toNat).round r.1
  (BitVec.ofNat 64 c, r.2 ||| g)

/-- The two-operand float operations. -/
def float3 (op : Val → Val → Val × Flags) (d a b : BitVec 6) (f : BitVec 4) : M Unit := do
  let x ← readS a
  let y ← readS b
  finishFlags d (floatOut f (op (floatIn f x) (floatIn f y)))

def execFadd (d a b : BitVec 6) (f : BitVec 4) (s : State) : Host.Outcome State Fault Refusal := run (float3 vAdd d a b f) s
def execFsub (d a b : BitVec 6) (f : BitVec 4) (s : State) : Host.Outcome State Fault Refusal :=
  run (float3 (fun x y => vAdd x (vNeg y)) d a b f) s
def execFmul (d a b : BitVec 6) (f : BitVec 4) (s : State) : Host.Outcome State Fault Refusal := run (float3 vMul d a b f) s
/-- FFMA: a × b + the old d, one rounding (R105). -/
def execFfma (d a b : BitVec 6) (f : BitVec 4) (s : State) : Host.Outcome State Fault Refusal :=
  run (do
    let x ← readS a
    let y ← readS b
    let o ← readS d
    finishFlags d (floatOut f (vFma (floatIn f x) (floatIn f y) (floatIn f o)))) s
def execFmin (d a b : BitVec 6) (f : BitVec 4) (s : State) : Host.Outcome State Fault Refusal :=
  run (float3 (fun x y => (vPick false x y, 0)) d a b f) s
def execFmax (d a b : BitVec 6) (f : BitVec 4) (s : State) : Host.Outcome State Fault Refusal :=
  run (float3 (fun x y => (vPick true x y, 0)) d a b f) s

/-- The relation code of FCMP (Table 5-11). -/
def fcmpCode (x y : Val) : Dword :=
  match vCmp x y with
  | some .eq => 1
  | some .lt => 2
  | some .gt => 4
  | none => 8

def execFcmp (d a b : BitVec 6) (f : BitVec 4) (s : State) : Host.Outcome State Fault Refusal :=
  run (alu3 (plain (fun x y => fcmpCode (floatIn f x) (floatIn f y))) d a b) s

/-- The width of a scalar float format, and its sign bit. -/
def floatWidth (f : BitVec 4) : Nat := typeBits f.toNat

def execFabs (d a : BitVec 6) (f : BitVec 4) (s : State) : Host.Outcome State Fault Refusal :=
  run (alu2 (fun x => x &&& lowMask (floatWidth f - 1)) d a) s
def execFneg (d a : BitVec 6) (f : BitVec 4) (s : State) : Host.Outcome State Fault Refusal :=
  run (alu2 (fun x => (x &&& lowMask (floatWidth f)) ^^^ BitVec.ofNat 64 (2 ^ (floatWidth f - 1))) d a) s

/-- FCVT: `s` is the source type, `t` the target, `z` the bit of rounding towards zero and `u` the saturation bit (R106). -/
def execFcvt (d a : BitVec 6) (src : BitVec 4) (z u : BitVec 1) (t : BitVec 4) (s : State) :
    Host.Outcome State Fault Refusal :=
  run (do
    let x ← readS a
    let (c, g) := convert src.toNat t.toNat (z == 1) (u == 1) x.toNat
    finishFlags d (BitVec.ofNat 64 (typeExtend t.toNat c), g)) s

end Sys2Proof.Machine
end

