-- ==== Sys2Proof/Machine/NearMemory.lean ====
section
/-! DEFINITION. The other access-stream words of majors 0x31, 0x34 and 0x35: Ashlar configuration (R302, R303), segment channels
(R334 to R337), signals (R328 to R330), dependency counters (R331, R332), residency handles (R203 to R205, R289). -/

namespace Sys2Proof.Machine

/-! ## The Ashlar unit that an address names (Table 7-3) -/

/-- The unit and offset of a region 0xE address of the gang (R149). -/
def ashlarAt (va : VA) : M (Nat × Nat) := do
  let v := va.toNat
  if vaRegion va ≠ 14 || nbits v 25 51 != 0 then trapVa 0x04 va
  let u := nbits v 23 2 * 128 + nbits v 17 6 * 2 + nbits v 16 1
  return (u, v % 2 ^ 16)

/-- The unit must be held by the gang (R149). -/
def ashlarMine (va : VA) (u : Nat) : M Unit := do
  let s ← get
  if (s.ashlar u).gid ≠ (← getCore).gid then trapVa 0x05 va

/-! ## ASCFG (R303) -/

/-- Blocks of a merge-buffer entry (R313). -/
def entryBlocks (dv : BitVec 3) : Nat := 1 + 9 * ((32 * (dv.toNat + 1) + 63) / 64)

def configWord (u : Ashlar) (busy : Bool) : Dword := BitVec.ofNat 64 (u.mst + u.nseg * 2 ^ 9 + (if busy then 2 ^ 63 else 0))

/-- An operator runs at a unit. -/
def unitBusy (s : State) (u : Nat) : Bool :=
  s.dies.any (fun e => e.2.ops.any (fun j => opUnit s j.core j.card.toNat == u) ||
    e.2.jobs.any (fun j => j.running && cardKind j.card.toNat == 3 && opUnit s j.core j.card.toNat == u))

/-- Whether a change of configuration is refused. -/
def configRefused (u : Ashlar) (mst nseg : Nat) : Bool :=
  u.entries.any (fun e => e.2.alloc && decide (e.1 < mst)) || u.chans.any (fun c => c.2.isOpen && decide (nseg ≤ c.1))

def execAscfg (d : BitVec 6) (a : BitVec 4) (b : BitVec 6) (ss : BitVec 3) (s : State) : Host.Outcome State Fault Refusal :=
  run (do
    waitHolds
    slotRoom ss
    let va ← readA a
    let w := (← readS b).toNat
    let (u, off) ← ashlarAt va
    if off ≠ 0 then trapVa 0x04 va
    ashlarMine va u
    let s ← get
    let x := s.ashlar u
    if unitBusy s u || x.chans.any (fun c => c.2.isOpen && !c.2.pfx) then stall
    let mst := nbits w 0 9
    let nseg := nbits w 9 3
    if w / 2 ^ 12 ≠ 0 || decide (256 < mst) || decide (4 < nseg) || configRefused x mst nseg then finishQuiet d (configWord x true)
    else do
      modS (fun s => s.modAshlar u (fun x => { x with mst := mst, nseg := nseg }))
      finishQuiet d (configWord x false)) s

/-! ## Segment channels (R334 to R337) -/

/-- Close the current segment of a channel: its result at rbase, unless it would fall outside the plain part of the bank (R335,
R336). -/
def chanClose (u ch : Nat) (s : State) : State :=
  let x := s.ashlar u
  let c := tget x.chans ch {}
  let put (c : Chan) (s : State) : State := s.modAshlar u (fun x => { x with chans := tset x.chans ch c })
  if min (x.mst * 256) 65536 ≤ c.rbase then put { c with bad := true } s
  else
    let v : BitVec 32 := match c.sum with
      | some v => v
      | none => if !c.opMax then 0 else if c.kind = 1 then BitVec.ofNat 32 f32NegInf else 0x8000_0000
    put { c with rbase := c.rbase + 4, nclosed := c.nclosed + 1, pfx := true, sum := none }
      (s.store (ashPlace u c.rbase) 4 v.toNat)

/-- A prefix word at a channel. -/
def chanPrefix (u ch : Nat) (w : BitVec 32) (s : State) : State :=
  let c := tget (s.ashlar u).chans ch {}
  let put (c : Chan) (s : State) : State := s.modAshlar u (fun x => { x with chans := tset x.chans ch c })
  if !c.isOpen || c.bad then s
  else if c.cnt ≠ 0 || (nbits w.toNat 24 8 != 1 && nbits w.toNat 24 8 != 2) then put { c with bad := true } s
  else
    let s := put { c with cnt := w.setWidth 24, kind := BitVec.ofNat 8 (nbits w.toNat 24 8), pfx := false, sum := none } s
    if w.setWidth 24 = (0 : BitVec 24) then chanClose u ch s else s

/-- The running value of a segment with one more element (R335). -/
def chanFold (c : Chan) (w : BitVec 32) : BitVec 32 :=
  match c.sum with
  | none => w
  | some v => BitVec.ofNat 32 (
      if c.kind = 1 then (if c.opMax then f32Max v.toNat w.toNat else f32Add v.toNat w.toNat)
      else (if c.opMax then s32Max v.toNat w.toNat else s32Add v.toNat w.toNat))

/-- An element at a channel. -/
def chanElem (u ch : Nat) (w : BitVec 32) (s : State) : State :=
  let c := tget (s.ashlar u).chans ch {}
  let put (c : Chan) (s : State) : State := s.modAshlar u (fun x => { x with chans := tset x.chans ch c })
  if !c.isOpen || c.bad then s
  else if c.pfx then put { c with bad := true } s
  else
    let s := put { c with cnt := c.cnt - 1, sum := some (chanFold c w) } s
    if c.cnt = 1 then chanClose u ch s else s

/-- A two-element word at a channel. -/
def chanPair (u ch : Nat) (w : Dword) (s : State) : State :=
  let c := tget (s.ashlar u).chans ch {}
  if c.isOpen && !c.bad && (c.pfx || c.cnt == 1) then
    s.modAshlar u (fun x => { x with chans := tset x.chans ch { c with bad := true } })
  else chanElem u ch (BitVec.ofNat 32 (w.toNat / 2 ^ 32)) (chanElem u ch (w.setWidth 32) s)

def execSegopen (d : BitVec 6) (a : BitVec 4) (b : BitVec 6) (ss : BitVec 3) (s : State) : Host.Outcome State Fault Refusal :=
  run (do
    waitHolds
    slotRoom ss
    let va ← readA a
    let p := (← readS b).toNat
    let (u, off) ← ashlarAt va
    if off % 4 ≠ 0 then trapVa 0x04 va
    ashlarMine va u
    let s ← get
    let c ← coreNo
    let k ← ctxNo
    let x := s.ashlar u
    if p / 8 ≠ 0 || decide (x.nseg ≤ p % 4) || (tget x.chans (p % 4) {}).isOpen then finishQuiet d 1
    else do
      let n : Chan := { isOpen := true, owner := (c, k), opMax := p / 4 == 1, rbase := off, kind := (tget x.chans (p % 4) {}).kind }
      modS (fun s => s.modAshlar u (fun x => { x with chans := tset x.chans (p % 4) n }))
      finishQuiet d 0) s

/-- The shape of the SEGPUT forms: only the owner may send; a closed channel discards. -/
def segPut (ch : BitVec 2) (a : BitVec 4) (b : BitVec 6) (ss : BitVec 3) (f : Nat → Nat → Dword → State → State) : M Unit := do
  waitHolds
  slotRoom ss
  let va ← readA a
  let w ← readS b
  let (u, _) ← ashlarAt va
  ashlarMine va u
  let s ← get
  let c := tget (s.ashlar u).chans ch.toNat {}
  if c.isOpen && c.owner != ((← coreNo), (← ctxNo)) then trapVa 0x05 va
  modS (f u ch.toNat w)
  retire

def execSegput (ch : BitVec 2) (a : BitVec 4) (b : BitVec 6) (ss : BitVec 3) (s : State) : Host.Outcome State Fault Refusal :=
  run (segPut ch a b ss (fun u n w s => chanElem u n (w.setWidth 32) s)) s
def execSegput2 (ch : BitVec 2) (a : BitVec 4) (b : BitVec 6) (ss : BitVec 3) (s : State) : Host.Outcome State Fault Refusal :=
  run (segPut ch a b ss chanPair) s
def execSegputPfx (ch : BitVec 2) (a : BitVec 4) (b : BitVec 6) (ss : BitVec 3) (s : State) : Host.Outcome State Fault Refusal :=
  run (segPut ch a b ss (fun u n w s => chanPrefix u n (w.setWidth 32) s)) s

def execSegclose (d : BitVec 6) (a : BitVec 4) (ch : BitVec 2) (ss : BitVec 3) (s : State) : Host.Outcome State Fault Refusal :=
  run (do
    waitHolds
    slotRoom ss
    let va ← readA a
    let (u, _) ← ashlarAt va
    ashlarMine va u
    let s ← get
    let c := tget (s.ashlar u).chans ch.toNat {}
    if !c.isOpen then finishQuiet d (BitVec.allOnes 64)
    else do
      if c.owner != ((← coreNo), (← ctxNo)) then trapVa 0x05 va
      let t := s.modAshlar u (fun x => { x with chans := tset x.chans ch.toNat { c with isOpen := false } })
      if c.bad || c.cnt != 0 || !c.pfx then stop (.trapWith { code := 0x1D } t)
      set t
      finishQuiet d (c.nclosed.setWidth 64)) s

def execSegcnt (d : BitVec 6) (a : BitVec 4) (ch : BitVec 2) (ss : BitVec 3) (s : State) : Host.Outcome State Fault Refusal :=
  run (do
    waitHolds
    slotRoom ss
    let va ← readA a
    let (u, _) ← ashlarAt va
    ashlarMine va u
    let c := tget ((← get).ashlar u).chans ch.toNat {}
    finishQuiet d (BitVec.ofNat 64 (c.cnt.toNat + c.kind.toNat * 2 ^ 24 + c.nclosed.toNat * 2 ^ 32 +
      (if c.isOpen then 2 ^ 56 else 0) + (if c.pfx then 2 ^ 57 else 0) + (if c.bad then 2 ^ 58 else 0)))) s

/-! ## Signals (R328 to R330) -/

/-- The address of a signal word (R328). -/
def signalAt (a : BitVec 4) : M VA := do
  let va ← readA a
  if va.toNat % 8 ≠ 0 then trapVa 0x03 va
  if vaRegion va ≠ 13 then trapVa 0x04 va
  return va

def execSigdec (d : BitVec 6) (a : BitVec 4) (b : BitVec 6) (ss : BitVec 3) (s : State) : Host.Outcome State Fault Refusal :=
  run (do
    waitHolds
    waitAccesses
    slotRoom ss
    let va ← signalAt a
    let n := (← readS b).toNat % 2 ^ 56
    let _ ← check va 8 .atomic
    let v ← getCore
    let s ← get
    let (s, old) := decSig v.asid va n 0 s
    set s
    finishQuiet d (BitVec.ofNat 64 old)) s

/-- SIGWAIT: its request waits at the home; the value that ends the wait comes back to the word, which holds its stream. -/
def execSigwait (d : BitVec 6) (a : BitVec 4) (b : BitVec 6) (ss : BitVec 3) (s : State) : Host.Outcome State Fault Refusal :=
  run (do
    waitHolds
    let s0 ← get
    let va ← signalAt a
    let t ← readS b
    let x ← getCtx
    match x.wait with
    | some w =>
      match w.val with
      | some v => finishQuiet d v
      | none => stall
    | none => do
      slotRoom ss
      let at_ ← check va 8 .read
      let n ← myPos
      let id := s0.nextId
      let r := accessRequest s0 va { size := 8, op := .sigwait, y := t } at_ .plain false
      let p : Pend := { id := id, pos := n, ss := ss, kind := .access, hold := true }
      stop (.stallWith (post r false ({ s0 with nextId := id + 1 }.modCtx s0.cur.core s0.cur.ctxNo (fun x =>
        { x with pend := x.pend ++ [p], wait := some { id := id, val := none } }))))) s

/-! ## Dependency counters (R331, R332) -/

/-- The graph and node that a reference names for an issuer of an address space. -/
def nodeOf (s : State) (asid : BitVec 12) (r : Dword) : Option (Nat × Graph × Nat × Node) :=
  let n := r.toNat
  let d := nbits n 44 2
  if n / 2 ^ 46 ≠ 0 then none
  else
    match (s.die d).graphs.find? (fun g => g.num.toNat == nbits n 0 32 && g.asid == asid && !g.retired) with
    | none => none
    | some g => (tfind g.nodes (nbits n 32 12)).map (fun q => (d, g, nbits n 32 12, q))

def modNode (d : Nat) (g : BitVec 32) (n : Nat) (f : Node → Node) (s : State) : State :=
  let put (q : Graph) : Graph := match tfind q.nodes n with
    | some x => { q with nodes := tset q.nodes n (f x) }
    | none => q
  s.modDie d (fun v => { v with graphs := replaceFirst (fun q => q.num == g) put v.graphs })

/-- Set the counter of a node; at zero the node becomes ready (R331). -/
def setCounter (d : Nat) (g : BitVec 32) (n : Nat) (c : BitVec 16) (s : State) : State :=
  if c = 0 then
    ({ modNode d g n (fun q => { q with count := 0, ready := some s.stamp }) s with stamp := s.stamp + 1 }).send
      (.nodeDispatch (BitVec.ofNat 2 d))
  else modNode d g n (fun q => { q with count := c }) s

/-- A node that is ready, dispatched or completed. -/
def Node.past (q : Node) : Bool := q.ready.isSome || q.dispatched || q.done

/-- The count field of an answer: the node's count, or a free value where no node is named (log 27). -/
def countField (q : Option Node) : M Nat := do
  match q with
  | some q => return q.count.toNat
  | none => return (← drawDword).toNat % 2 ^ 16

def execDcinit (d a b : BitVec 6) (ss : BitVec 3) (s : State) : Host.Outcome State Fault Refusal :=
  run (do
    waitHolds
    slotRoom ss
    let r ← readS a
    let v := (← readS b).toNat
    let s ← get
    let q := nodeOf s (← getCore).asid r
    let old ← countField (q.map (fun x => x.2.2.2))
    if 65535 < v then finishQuiet d (BitVec.ofNat 64 (3 * 2 ^ 62 + old))
    else
      match q with
      | none => finishQuiet d (BitVec.ofNat 64 (2 * 2 ^ 62 + old))
      | some (die, g, n, x) =>
        if x.past then finishQuiet d (BitVec.ofNat 64 (2 ^ 62 + old))
        else do
          modS (setCounter die g.num n (BitVec.ofNat 16 v))
          finishQuiet d (BitVec.ofNat 64 old)) s

def execDcdec (d a b : BitVec 6) (ss : BitVec 3) (s : State) : Host.Outcome State Fault Refusal :=
  run (do
    waitHolds
    waitAccesses
    slotRoom ss
    let r ← readS a
    let v := (← readS b).toNat
    let s ← get
    let q := nodeOf s (← getCore).asid r
    let old ← countField (q.map (fun x => x.2.2.2))
    if v = 0 || decide (65535 < v) then finishQuiet d (BitVec.ofNat 64 (3 * 2 ^ 62 + old))
    else
      match q with
      | none => finishQuiet d (BitVec.ofNat 64 (2 * 2 ^ 62 + old))
      | some (die, g, n, x) =>
        if x.count.toNat < v then trap 0x1C
        else do
          modS (setCounter die g.num n (x.count - BitVec.ofNat 16 v))
          finishQuiet d (BitVec.ofNat 64 (x.count.toNat - v))) s

/-! ## Residency handles (R203 to R205) -/

def handleOpen (h : BitVec 256) : Bool := h.getLsbD 0
def handleGid (h : BitVec 256) : Nat := nbits h.toNat 16 32
def handleAsid (h : BitVec 256) : Nat := nbits h.toNat 4 12
def handleBase (h : BitVec 256) : Nat := nbits h.toNat 64 80
def handleLen (h : BitVec 256) : Nat := if nbits h.toNat 144 40 = 0 then 2 ^ 40 else nbits h.toNat 144 40

/-- Change every line of a handle on its die. -/
def modHandleLines (d h : Nat) (f : Line → Line) (s : State) : State :=
  { s with slices := s.slices.map (fun e =>
      if e.1 / 64 = d then (e.1, { e.2 with lines := e.2.lines.map (fun l => if l.handle = some h then f l else l) }) else e) }

def execRhopen (d : BitVec 6) (a : BitVec 4) (b : BitVec 6) (ss : BitVec 3) (s : State) : Host.Outcome State Fault Refusal :=
  run (do
    waitHolds
    slotRoom ss
    let base := (← readA a).toNat
    let w := (← readS b).toNat
    let len := nbits w 0 40
    let size := if len = 0 then 2 ^ 40 else len
    trapUnless (base % 128 = 0 && len % 128 = 0 && w / 2 ^ 43 = 0 && nbits w 40 3 != 0) 0x1B
    let s ← get
    let v ← getCore
    let die := coreDie (← coreNo)
    let hs := (s.die die).handles
    let clash := hs.any (fun e => handleOpen e.2 && handleAsid e.2 == v.asid.toNat &&
      rangesMeet (handleBase e.2) (handleLen e.2) base size)
    match (List.range 64).find? (fun n => !handleOpen (tget hs n 0)) with
    | none => finishQuiet d (BitVec.allOnes 64)
    | some n =>
      if clash then finishQuiet d (BitVec.allOnes 64)
      else do
        let h : BitVec 256 := BitVec.ofNat 256 (1 + nbits w 40 3 * 2 + v.asid.toNat * 2 ^ 4 + v.gid.toNat * 2 ^ 16 + base * 2 ^ 64 +
          len * 2 ^ 144)
        modS (fun s => s.modDie die (fun k => { k with handles := tset k.handles n h }))
        finishQuiet d (BitVec.ofNat 64 n)) s

/-- The open handle of the gang that a register names (R205): die and number. -/
def myHandle (a : BitVec 6) : M (Nat × Nat) := do
  let n := (← readS a).toNat
  let s ← get
  let v ← getCore
  let die := coreDie (← coreNo)
  let h := tget (s.die die).handles n 0
  trapUnless (n < 64 && handleOpen h && handleGid h = v.gid.toNat) 0x1B
  return (die, n)

/-- Set the priority of a handle and of its lines. -/
def execRhpri (a b : BitVec 6) (ss : BitVec 3) (s : State) : Host.Outcome State Fault Refusal :=
  run (do
    waitHolds
    slotRoom ss
    let (die, n) ← myHandle a
    let p ← readS b
    trapUnless (p.toNat % 8 ≠ 0) 0x1B
    modS (setHandlePri die n (p.setWidth 3))
    retire) s

def execRhdemote (a : BitVec 6) (ss : BitVec 3) (s : State) : Host.Outcome State Fault Refusal :=
  run (do
    waitHolds
    slotRoom ss
    let (die, n) ← myHandle a
    modS (setHandlePri die n 0)
    retire) s

/-- Write back and invalidate every unpinned line of a handle on its die. -/
def evictHandle (d h : Nat) (s : State) : State :=
  s.slices.foldl (fun s e =>
    if e.1 / 64 = d then
      e.2.lines.foldl (fun s l => if l.handle = some h && l.pins.isEmpty then evict e.1 l s else s) s
    else s) s

def execRhevict (a : BitVec 6) (ss : BitVec 3) (s : State) : Host.Outcome State Fault Refusal :=
  run (do
    waitHolds
    slotRoom ss
    let (die, n) ← myHandle a
    modS (evictHandle die n)
    retire) s

/-- Close a handle: its lines become unmanaged and it is free. -/
def closeHandle (d h : Nat) (s : State) : State :=
  (modHandleLines d h (fun l => { l with handle := none, pri := 0 }) s).modDie d (fun v => { v with handles := terase v.handles h })

def execRhclose (a : BitVec 6) (ss : BitVec 3) (s : State) : Host.Outcome State Fault Refusal :=
  run (do
    waitHolds
    slotRoom ss
    let (die, n) ← myHandle a
    modS (closeHandle die n)
    retire) s

end Sys2Proof.Machine
end

