-- ==== Sys2Proof/Machine/Pages.lean ====
section
/-! DEFINITION. Attention: subscriptions, page passes and rings, merge-buffer entries (R304 to R322), major 0x33, and the events
PASS_ROUND_START, PAGE_FETCH, PAGE_DELIVERY, PASS_END. -/

namespace Sys2Proof.Machine

/-! ## Merge-buffer entries (R312 to R314) -/

/-- The unit and first block that an entry reference names (R312); none when a bit that must be zero is set. -/
def entryRef (r : Nat) : Option (Nat × Nat) :=
  if r / 2 ^ 25 ≠ 0 || r % 256 != 0 then none
  else some (nbits r 23 2 * 128 + nbits r 17 6 * 2 + nbits r 16 1, nbits r 8 8)

def mergeEntry (s : State) (u b : Nat) : MergeEntry := tget (s.ashlar u).entries b {}
def setEntry (u b : Nat) (e : MergeEntry) (s : State) : State := s.modAshlar u (fun x => { x with entries := tset x.entries b e })

/-- Output dimension of a dv field. -/
def dvOf (f : BitVec 3) : Nat := 32 * (f.toNat + 1)

/-- The reset merge state (Table 13-5). -/
def MergeEntry.fresh (e : MergeEntry) : MergeEntry :=
  { e with nextS := 0, empty := true, acc := ⟨0xFF80_0000, 0, List.replicate (dvOf e.dv) 0⟩, window := [] }

/-- Merge the partials that are due (R314). -/
def MergeEntry.drain (e : MergeEntry) : Nat → MergeEntry
  | 0 => e
  | n + 1 =>
    match tfind e.window (e.nextS % 8) with
    | none => e
    | some p =>
      let acc := if e.empty then p else mergeInto e.acc p
      { e with acc := acc, empty := false, window := terase e.window (e.nextS % 8), nextS := e.nextS + 1 }.drain n

/-- An entry reference in a register, whose bank the gang holds. -/
def myEntry (r : Dword) : M (Nat × Nat × MergeEntry) := do
  match entryRef r.toNat with
  | none => trap 0x1A
  | some (u, b) => do
    let s ← get
    if (s.ashlar u).gid ≠ (← getCore).gid then trap 0x05
    return (u, b, mergeEntry s u b)

/-! ## Records in the own scratchpad (R319, R320) -/

/-- The offset of an address in the executing core's own scratchpad (R148). -/
def ownOffset (c : Nat) (va : VA) : Option Nat :=
  let v := va.toNat
  if vaRegion va ≠ 15 || nbits v 31 45 != 0 then none
  else if nbits v 30 1 = 0 then (if nbits v 18 12 = 0 then some (v % 2 ^ 18) else none)
  else if nbits v 28 2 * 1024 + nbits v 18 10 = c then some (v % 2 ^ 18) else none

/-- The address of a partial or result record. -/
def recordAt (a : BitVec 4) : M VA := do
  let va ← readA a
  if va.toNat % 64 ≠ 0 then trapVa 0x03 va
  if (ownOffset (← coreNo) va).isNone then trap 0x1A
  return va

/-- Whether `n` bytes at an address of the own scratchpad lie wholly in it. -/
def inOwn (c : Nat) (va : VA) (n : Nat) : Bool := (ownOffset c va).any (fun off => decide (off + n ≤ 262144))

/-- Read bytes at the executing word after every earlier access of the context to them (R183, R211). -/
def readSpan (va : VA) (n : Nat) : M (List Byte) := do
  let s ← get
  let c ← coreNo
  let k ← ctxNo
  let lines := (va.toNat + n - 1) / 128 - va.toNat / 128 + 1
  if (List.range lines).any (fun i => lineInFlight s c k (va.toNat / 128 + i)) || spBusy s c k va n then stall
  match readBytesNow s c k va n with
  | .error code => accessFault code va .read
  | .ok (s, l) => do set s; return l

/-- The words of a record's row. -/
def wordsOf (n : Nat) (l : List Byte) : List (BitVec 32) := (List.range n).map (fun i => BitVec.ofNat 32 (leNat ((l.drop (4 * i)).take 4)))

/-- MRGPUT (R319). -/
def execMrgput (a : BitVec 4) (b : BitVec 6) (ss : BitVec 3) (s : State) : Host.Outcome State Fault Refusal :=
  run (do
    waitHolds
    slotRoom ss
    let s0 ← get
    let va ← recordAt a
    let (u, blk, e) ← myEntry (← readS b)
    if !e.alloc then trap 0x1A
    let dv := dvOf e.dv
    if !inOwn s0.cur.core va (0x40 + 4 * dv) then trap 0x1A
    let l ← readSpan va (0x40 + 4 * dv)
    let q := leNat ((l.drop 8).take 2)
    if leNat ((l.drop 0x0A).take 0x36) ≠ 0 then trap 0x1A
    if q < e.nextS || e.n ≤ q || (q < e.nextS + 8 && (tfind e.window (q % 8)).isSome) then trap 0x1A
    if e.nextS + 8 ≤ q then
      let x ← getCtx
      if x.wait.isSome then stall
      else
        stop (.stallWith ((s0.modCtx s0.cur.core s0.cur.ctxNo (fun x => { x with wait := some { id := s0.nextId, val := none } })).modDie
          (coreDie s0.cur.core) (fun d => { d with mrgStall := d.mrgStall + 1 })))
    else do
      let p : Partial := { m := BitVec.ofNat 32 (leNat (l.take 4)), l := BitVec.ofNat 32 (leNat ((l.drop 4).take 4)),
                           o := wordsOf dv (l.drop 0x40) }
      modS (setEntry u blk ({ e with window := tset e.window (q % 8) p }.drain 8))
      retire) s

/-- MRGGET (R320). -/
def execMrgget (d : BitVec 6) (a : BitVec 4) (b : BitVec 6) (ss : BitVec 3) (s : State) : Host.Outcome State Fault Refusal :=
  run (do
    waitHolds
    slotRoom ss
    let va ← recordAt a
    let (u, blk, e) ← myEntry (← readS b)
    if !e.alloc then trap 0x1A
    let c ← coreNo
    if !inOwn c va (0x40 + 4 * dvOf e.dv) then trap 0x1A
    if e.nextS ≠ e.n then stall
    let k ← ctxNo
    let off := (ownOffset c va).getD 0
    let bytes := leBytes 4 e.acc.m.toNat ++ leBytes 4 e.acc.l.toNat ++ leBytes 2 e.n ++ List.replicate 0x36 0 ++
      (e.acc.o.map (fun x => leBytes 4 x.toNat)).flatten
    let s ← get
    match writeBytesNow s c k va bytes with
    | .error code => accessFault code va .write
    | .ok s => do
      set (setEntry u blk e.fresh (feChanged c (setFull c off bytes.length s)))
      finishQuiet d (BitVec.ofNat 64 (e.acc.m.toNat + e.acc.l.toNat * 2 ^ 32))) s

/-- MRGCFG (R321). -/
def execMrgcfg (d : BitVec 6) (a : BitVec 4) (b : BitVec 6) (ss : BitVec 3) (s : State) : Host.Outcome State Fault Refusal :=
  run (do
    waitHolds
    slotRoom ss
    let va ← readA a
    let w := (← readS b).toNat
    illegalUnless (w / 2 ^ 17 = 0 && nbits w 15 2 != 3)
    let (u, off) ← ashlarAt va
    if off % 256 ≠ 0 then trapVa 0x04 va
    ashlarMine va u
    let s ← get
    let blk := off / 256
    let e := mergeEntry s u blk
    match nbits w 15 2 with
    | 0 =>
      let n : MergeEntry := { alloc := true, dv := BitVec.ofNat 3 w, n := nbits w 3 12 + 1 }
      let x := s.ashlar u
      let meets := x.entries.any (fun q => q.2.alloc && rangesMeet q.1 (entryBlocks q.2.dv) blk (entryBlocks n.dv))
      if blk < x.mst || 256 < blk + entryBlocks n.dv || meets then finishQuiet d 1
      else do modS (setEntry u blk n.fresh); finishQuiet d 0
    | 1 => if e.alloc then do modS (setEntry u blk e.fresh); finishQuiet d 0 else finishQuiet d 1
    | _ =>
      if e.alloc && !e.sub then do modS (setEntry u blk { e with alloc := false }); finishQuiet d 0 else finishQuiet d 1) s

/-! ## Subscriptions (R305, R306, R309, R315, R316) -/

def subN (s : BitVec 512) : Nat := nbits s.toNat 80 12 + 1
def subMrg (s : BitVec 512) : Nat := nbits s.toNat 96 25
def subNq (s : BitVec 512) : Nat := nbits s.toNat 121 5 + 1
def subRank (s : BitVec 512) : Nat := nbits s.toNat 128 10
def subRing (s : BitVec 512) : Nat := nbits s.toNat 138 10 * 256
def subSlots (s : BitVec 512) : Nat := nbits s.toNat 148 3 + 1
def subSsz (s : BitVec 512) : Nat := nbits s.toNat 151 9
def subTable (s : BitVec 512) : Nat := nbits s.toNat 0 80

def passPool (p : BitVec 512) : Nat := nbits p.toNat 0 80
def passStride (p : BitVec 512) : Nat := nbits p.toNat 96 32 * 256
def passDv (p : BitVec 512) : BitVec 3 := BitVec.ofNat 3 (nbits p.toNat 132 3)
def passSig (p : BitVec 512) : Nat := nbits p.toNat 192 64
/-- The size of a page image (Table 13-1). -/
def pageSize (p : BitVec 512) : Nat :=
  let dk := 32 * (nbits p.toNat 129 3 + 1)
  let dv := dvOf (passDv p)
  if nbits p.toNat 128 1 = 0 then 64 * (dk + dv) else 33 * (dk + dv)
/-- The slot size that a pass needs, in units of 256 bytes. -/
def slotNeed (p : BitVec 512) : Nat := 1 + (pageSize p + 255) / 256

/-- The core that holds a rank of a gang (R310). -/
def rankCore (s : State) (gid : BitVec 32) (rank : Nat) : Option Nat :=
  match s.plinth.gangs.find? (fun g => g.gid == gid && !g.stopped) with
  | none => none
  | some g => g.cores[rank]?

/-- The first entry of a subscription, and the blocks of its nq entries. -/
def subEntries (s : State) (d : BitVec 512) : Option (Nat × List Nat) :=
  (entryRef (subMrg d)).map (fun x =>
    (x.1, (List.range (subNq d)).map (fun i => x.2 + i * entryBlocks (mergeEntry s x.1 x.2).dv)))

def subDv (s : State) (d : BitVec 512) : BitVec 3 :=
  match subEntries s d with
  | some (u, b :: _) => (mergeEntry s u b).dv
  | _ => 0

/-- The misuse of a PGSUB (R315) that its descriptor and entries show. -/
def subMisuse (s : State) (gid : BitVec 32) (d : BitVec 512) (pages : List Nat) : Bool :=
  match subEntries s d with
  | none => true
  | some (u, bs) =>
    let first := mergeEntry s u (bs.headD 0)
    let size := subSlots d * subSsz d * 256
    pages.any (fun p => 65535 < p) || !decide pages.Nodup || subSsz d < 2 || decide (257 < subSsz d) ||
      bs.any (fun b =>
        let e := mergeEntry s u b
        decide (255 < b) || !e.alloc || e.sub || e.dv != first.dv || e.n != first.n) ||
      first.n != subN d || decide (262144 < subRing d + size) ||
      (match rankCore s gid (subRank d) with
       | none => true
       | some c => touchesLiveArea s c (subRing d) size)

/-- The running pass of a gang on a die. -/
def runningPass (v : Die) (gid : BitVec 32) : Option Pass := v.passes.find? (fun p => p.started && p.gid == gid)

/-- The store or a page's list lacks room (R306). -/
def storeFull (v : Die) (gid : BitVec 32) (pages : List Nat) : Bool :=
  let mine := (v.subs.filter (fun q => q.gid == gid)).map (fun q => q.pages.map (·.toNat)) |>.flatten
  let all := (v.subs.map (fun q => q.pages.length)).foldl (· + ·) 0
  let pairs := (v.subs.map (fun q => q.pages.map (fun p => (q.gid.toNat, p.toNat)))).flatten.eraseDups
  let more := pages.filter (fun p => !pairs.contains (gid.toNat, p))
  decide (512 ≤ v.subs.length) || decide (16384 < all + pages.length) || decide (4096 < pairs.length + more.length) ||
    pages.any (fun p => decide (256 ≤ (mine.filter (· == p)).length))

/-- Mark the entries of a group. -/
def markGroup (d : BitVec 512) (on : Bool) (s : State) : State :=
  match subEntries s d with
  | none => s
  | some (u, bs) => bs.foldl (fun s b => setEntry u b { mergeEntry s u b with sub := on } s) s

def execPgsub (d : BitVec 6) (a : BitVec 4) (ss : BitVec 3) (s : State) : Host.Outcome State Fault Refusal :=
  run (do
    waitHolds
    slotRoom ss
    let va ← readA a
    if va.toNat % 64 ≠ 0 then trapVa 0x03 va
    let desc : BitVec 512 := BitVec.ofNat 512 (leNat (← readWord va 64))
    if nbits desc.toNat 92 4 ≠ 0 || nbits desc.toNat 126 2 != 0 || desc.toNat / 2 ^ 160 != 0 then trap 0x1A
    let tab : VA := BitVec.ofNat 80 (subTable desc)
    if tab.toNat % 4 ≠ 0 then trapVa 0x03 tab
    let l ← readSpan tab (4 * subN desc)
    let pages := (wordsOf (subN desc) l).map (·.toNat)
    let s ← get
    let v ← getCore
    let die := coreDie (← coreNo)
    match entryRef (subMrg desc) with
    | none => trap 0x1A
    | some (u, _) => do
      if (s.ashlar u).gid ≠ v.gid then trap 0x05
      if subMisuse s v.gid desc pages then trap 0x1A
      let k := s.die die
      let run := runningPass k v.gid
      if run.any (fun p => passDv p.desc != subDv s desc || decide (subSsz desc < slotNeed p.desc)) then finishQuiet d 3
      else if storeFull k v.gid pages then finishQuiet d 2
      else do
        let late := run.any (fun p => !p.between && pages.any (fun q =>
          p.begun.contains (BitVec.ofNat 16 q) || !p.pageSet.contains (BitVec.ofNat 16 q)))
        let due := match run with
          | none => 0
          | some p => if late then p.round + 1 else p.round
        let n : Subscription := { desc := desc, gid := v.gid, asid := v.asid, pages := pages.map (BitVec.ofNat 16), due := due, k := 0,
                                  faulted := false }
        modS (fun s => markGroup desc true (s.modDie die (fun k => { k with subs := k.subs ++ [n] })))
        finishQuiet d (if late then 1 else 0)) s

/-- Remove a subscription: its lists, what waits in staging for it, the marks of its entries (R316). -/
def dropSub (d : Nat) (q : Subscription) (s : State) : State :=
  let ref : BitVec 25 := BitVec.ofNat 25 (subMrg q.desc)
  (markGroup q.desc false s).modDie d (fun v => { v with
    subs := v.subs.filter (fun x => !(x.gid == q.gid && subMrg x.desc == subMrg q.desc))
    staging := v.staging.map (fun t => { t with subs := t.subs.filter (· != ref) })
    passes := v.passes.map (fun p => if p.gid = q.gid then
      { p with carried := p.carried.map (fun t => { t with subs := t.subs.filter (· != ref) }) } else p) })

def execPgunsub (d a : BitVec 6) (ss : BitVec 3) (s : State) : Host.Outcome State Fault Refusal :=
  run (do
    waitHolds
    slotRoom ss
    let r ← readS a
    let v ← getCore
    let die := coreDie (← coreNo)
    let s ← get
    match entryRef r.toNat with
    | none => finishQuiet d 1
    | some (u, _) => do
      if (s.ashlar u).gid ≠ v.gid then trap 0x05
      match (s.die die).subs.find? (fun q => q.gid == v.gid && subMrg q.desc == r.toNat) with
      | none => finishQuiet d 1
      | some q => do modS (dropSub die q); finishQuiet d 0) s

/-! ## Passes (R307, R308, R317) -/

/-- A message that goes on the agenda unless it is there. -/
def sendOnce (m : Msg) (s : State) : State := if s.agenda.contains m then s else s.send m

def execPgpass (d : BitVec 6) (a : BitVec 4) (ss : BitVec 3) (s : State) : Host.Outcome State Fault Refusal :=
  run (do
    waitHolds
    slotRoom ss
    let va ← readA a
    if va.toNat % 64 ≠ 0 then trapVa 0x03 va
    let desc : BitVec 512 := BitVec.ofNat 512 (leNat (← readWord va 64))
    let n := desc.toNat
    if nbits n 80 16 ≠ 0 || nbits n 135 57 != 0 || n / 2 ^ 256 != 0 || passPool desc % 256 != 0 ||
        decide (passStride desc < (pageSize desc + 255) / 256 * 256) then trap 0x1A
    let s ← get
    let c ← coreNo
    let k ← ctxNo
    let x ← getCtx
    let v ← getCore
    let die := coreDie c
    let dv := s.die die
    if 4 ≤ dv.passes.length then stall
    if dv.subs.any (fun q => q.gid == v.gid && (subDv s q.desc != passDv desc || decide (subSsz q.desc < slotNeed desc))) then
      finishQuiet d (BitVec.ofNat 64 (2 ^ 62))
    else do
      let id ← joinPend ss .token false
      let p : Pass := { num := dv.passNext, desc := desc, gid := v.gid, asid := v.asid, core := c, ctx := k, id := id, user := !x.dev,
                        started := false, round := 0, todo := [], pageSet := [], begun := [], fetched := [], failed := false,
                        paused := false }
      modS (fun s => sendOnce (.passRoundStart (BitVec.ofNat 2 die))
        (s.modDie die (fun t => { t with passes := t.passes ++ [p], passNext := t.passNext + 1 })))
      finishQuiet d (dv.passNext.setWidth 64)) s

/-- Change the pass that a die runs: the first of its queue. -/
def modPass (d : Nat) (f : Pass → Pass) (s : State) : State :=
  s.modDie d (fun v => { v with passes := (match v.passes with
    | [] => []
    | p :: l => f p :: l) })

/-- The sequence number that a subscription holds for a page. -/
def seqOf (q : Subscription) (p : BitVec 16) : Nat := q.pages.findIdx (· == p)

/-- The due subscriptions of a pass. -/
def dueSubs (v : Die) (p : Pass) : List Subscription := v.subs.filter (fun q => q.gid == p.gid && q.due == p.round && !q.faulted)

/-- Insert a page by its keys: least sequence number, then index (R308). -/
def insertPage (x : Nat × Nat) : List (Nat × Nat) → List (Nat × Nat)
  | [] => [x]
  | y :: l => if x.1 < y.1 ∨ (x.1 = y.1 ∧ x.2 ≤ y.2) then x :: y :: l else y :: insertPage x l

/-- The pages of a round in order. -/
def roundPages (subs : List Subscription) : List (BitVec 16) :=
  let pages := ((subs.map (·.pages)).flatten).eraseDups
  let keyed := pages.foldl (fun l p =>
    let least := (subs.filter (fun q => q.pages.contains p)).foldl (fun m q => min m (seqOf q p)) 4096
    insertPage (least, p.toNat) l) []
  keyed.map (fun x => BitVec.ofNat 16 x.2)

/-- The pages that the running pass carried from another die stand in staging buffers. -/
def bringCarried (d : Nat) (s : State) : State :=
  let carried := (((s.die d).passes.head?).map (·.carried)).getD []
  if carried.isEmpty then s
  else (modPass d (fun p => { p with carried := [] }) s).modDie d (fun v => { v with staging := v.staging ++ carried })

/-- The round of the running pass goes on. -/
def roundGoesOn (d : Nat) (s : State) : State :=
  sendOnce (.pageDelivery (BitVec.ofNat 2 d)) (sendOnce (.pageFetch (BitVec.ofNat 2 d)) (bringCarried d s))

/-- PASS_ROUND_START: the die's pass starts, or its next round, with the set of pages due; a pass within a round goes on (R308). -/
def passRoundStart (d : Nat) (s : State) : State :=
  match (s.die d).passes with
  | [] => s
  | p :: _ =>
    if p.paused then s
    else if p.started && (p.ended || !p.pageSet.isEmpty) then roundGoesOn d s
    else
      let s := if p.started then s else
        s.modDie d (fun v => { v with subs := v.subs.map (fun q => if q.gid = p.gid then { q with due := 0, faulted := false } else q) })
      let s := modPass d (fun p => { p with started := true }) s
      let pages := roundPages (dueSubs (s.die d) p)
      let s := modPass d (fun p => { p with todo := pages, pageSet := pages, begun := [], between := false }) s
      sendOnce (if pages.isEmpty then .passEnd (BitVec.ofNat 2 d) else .pageFetch (BitVec.ofNat 2 d)) s

/-- The next round starts, when a subscription is due in it and no fetch has faulted (R308, R309, R317). -/
def nextRound (d : Nat) (p : Pass) (s : State) : Option State :=
  if !p.ended && (s.die d).subs.any (fun q => q.gid == p.gid && q.due == p.round + 1 && !q.faulted) then
    some (sendOnce (.passRoundStart (BitVec.ofNat 2 d)) (modPass d (fun p => { p with round := p.round + 1, pageSet := [], between := true }) s))
  else none

/-- PAGE_FETCH: the streamer fetches the next page of the round into a free staging buffer; a fault ends the pass there (R308,
R317). -/
def pageFetch (d : Nat) (s : State) : State :=
  let s := bringCarried d s
  let v := s.die d
  match v.passes with
  | [] => s
  | p :: _ =>
    match p.todo with
    | [] => s
    | page :: rest =>
      if p.paused || decide (8 ≤ v.staging.length) then s
      else
        let again := p.fetched.contains page
        let s := modPass d (fun p => { p with todo := rest, begun := p.begun ++ [page],
                                              fetched := if again then p.fetched else p.fetched ++ [page] }) s
        let s := if again then s.modDie d (fun v => { v with pgRefetch := v.pgRefetch + 1 }) else s
        match engReadBytes p.core p.gid p.asid p.user (BitVec.ofNat 80 (passPool p.desc + page.toNat * passStride p.desc))
            (pageSize p.desc) s with
        | .error _ => sendOnce (.pageDelivery (BitVec.ofNat 2 d)) (modPass d (fun p => { p with todo := [], failed := true, ended := true }) s)
        | .ok (s, image) =>
          let subs := ((dueSubs (s.die d) p).filter (fun q => q.pages.contains page)).map (fun q => BitVec.ofNat 25 (subMrg q.desc))
          let t : Staged := { page := page, image := image, subs := subs }
          let s := sendOnce (.pageDelivery (BitVec.ofNat 2 d)) (s.modDie d (fun v => { v with staging := v.staging ++ [t] }))
          if rest.isEmpty then s else sendOnce (.pageFetch (BitVec.ofNat 2 d)) s

/-- The tag of a delivery (Table 13-4). -/
def ringTag (p : Pass) (page : BitVec 16) (seq : Nat) : Nat :=
  page.toNat + seq * 2 ^ 16 + min p.round 15 * 2 ^ 32 + p.num.toNat * 2 ^ 48

/-- Deliver (R310) a page to one subscriber: done, or the slot is not free. -/
def deliverPage (d : Nat) (p : Pass) (page : BitVec 16) (image : List Byte) (ref : BitVec 25) (s : State) : State × Bool :=
  let mine (q : Subscription) : Bool := q.gid == p.gid && subMrg q.desc == ref.toNat
  match (s.die d).subs.find? mine with
  | none => (s, true)
  | some q =>
    if q.faulted then (s, true)
    else
      match rankCore s p.gid (subRank q.desc) with
      | none => (s, false)
      | some c =>
        let slot := subRing q.desc + q.k % subSlots q.desc * (subSsz q.desc * 256)
        let upd (f : Subscription → Subscription) (s : State) : State :=
          s.modDie d (fun v => { v with subs := replaceFirst mine f v.subs })
        if touchesLiveArea s c slot (subSsz q.desc * 256) then
          (modPass d (fun p => { p with failed := true }) (upd (fun q => { q with faulted := true }) s), true)
        else if isFull s c (slot / 16) then (s, false)
        else
          let put (off : Nat) (l : List Byte) (s : State) : State :=
            (chunks (l.length / 64 + 2) off l.length).foldl (fun (r : State × List Byte) ch =>
              (setFull c ch.1 ch.2 (spWrite c ch.1 ch.2 (leNat (r.2.take ch.2)) (wakeBank c (ch.1 / 16384) r.1)), r.2.drop ch.2)) (s, l)
              |>.1
          let s := put (slot + 0x100) image s
          let s := put slot (leBytes 16 (ringTag p page (seqOf q page))) s
          (feChanged c (upd (fun q => { q with k := q.k + 1 }) s), true)

/-- PAGE_DELIVERY: staged pages go to their subscribers' free slots, each subscriber's in order; when a round has delivered every
page the next round starts or the pass ends (R308, R310). A page that waits for a free slot is tried again. -/
def pageDelivery (d : Nat) (s : State) : State :=
  let s := bringCarried d s
  match (s.die d).passes with
  | [] => s
  | p :: _ =>
    if p.paused || !p.started || (p.pageSet.isEmpty && !p.ended) then s
    else
      let step (r : State × List Staged × List (BitVec 25)) (t : Staged) : State × List Staged × List (BitVec 25) :=
        let (s, left, blocked) := r
        let (s, rest, blocked) := t.subs.foldl (fun (r : State × List (BitVec 25) × List (BitVec 25)) ref =>
          let (s, rest, blocked) := r
          if blocked.contains ref then (s, rest ++ [ref], blocked)
          else
            match deliverPage d p t.page t.image ref s with
            | (s, true) => (s, rest, blocked)
            | (s, false) => (s, rest ++ [ref], blocked ++ [ref])) (s, [], blocked)
        (s, if rest.isEmpty then left else left ++ [{ t with subs := rest }], blocked)
      let (s, left, _) := (s.die d).staging.foldl step (s, [], [])
      let s := s.modDie d (fun v => { v with staging := left })
      let p := (s.die d).passes.headD p
      let s := if p.todo.isEmpty then s else sendOnce (.pageFetch (BitVec.ofNat 2 d)) s
      if !left.isEmpty then sendOnce (.pageDelivery (BitVec.ofNat 2 d)) s
      else if !p.todo.isEmpty then s
      else (nextRound d p s).getD (sendOnce (.passEnd (BitVec.ofNat 2 d)) s)

/-- PASS_END: every delivery has been performed; the slot is set and the signal decremented (R308, R317). A subscription that has come
in the meantime has its round first (R309). -/
def passEnd (d : Nat) (s : State) : State :=
  match (s.die d).passes with
  | [] => s
  | p :: l =>
    if !p.started || p.paused || !p.todo.isEmpty || !(s.die d).staging.isEmpty || !p.carried.isEmpty then s
    else (nextRound d p s).getD <|
      let s := s.modDie d (fun v => { v with passes := l })
      let s := decSigOpt p.asid (signalVa (passSig p.desc)) 0 s
      let s := completePend p.core p.ctx p.id (if p.failed then 3 else 0) s
      if l.isEmpty then s else sendOnce (.passRoundStart (BitVec.ofNat 2 d)) s

/-- The passes of a gang leave a die, and the pages that the running one has in staging buffers with it: the next pass may begin. -/
def dropPasses (gid : BitVec 32) (d : Nat) (s : State) : State :=
  match (s.die d).passes with
  | [] => s
  | p :: _ =>
    let l := (s.die d).passes.filter (fun q => q.gid != gid)
    let s := s.modDie d (fun v => { v with passes := l, staging := if p.gid = gid then [] else v.staging })
    if p.gid = gid && !l.isEmpty then sendOnce (.passRoundStart (BitVec.ofNat 2 d)) s else s

/-- The subscriptions and passes of a gang follow it to the die that it goes on on (R306): a pass that runs brings the pages in its
staging buffers along (log 94). -/
def moveStream (gid : BitVec 32) (src dst : Nat) (s : State) : State :=
  if src = dst then s
  else
    let v := s.die src
    let runs := v.passes.head?.any (fun p => p.gid == gid && p.started)
    let bring (p : Pass) : Pass := if runs && v.passes.head? == some p then { p with carried := v.staging } else p
    let subs := v.subs.filter (fun q => q.gid == gid)
    let passes := (v.passes.filter (fun p => p.gid == gid)).map bring
    let s := dropPasses gid src s
    let s := s.modDie src (fun v => { v with subs := v.subs.filter (fun q => q.gid != gid) })
    s.modDie dst (fun v => { v with subs := v.subs ++ subs, passes := v.passes ++ passes })

/-- The streamer of a die has room for what a gang brings from another die (R306, R307). -/
def streamRoom (s : State) (gid : BitVec 32) (src dst : Nat) : Bool :=
  let mine := (s.die src).subs.filter (fun q => q.gid == gid)
  let subs := (s.die dst).subs ++ mine
  let passes := (s.die src).passes.filter (fun p => p.gid == gid)
  src == dst || (mine.isEmpty && passes.isEmpty) ||
    (decide (subs.length ≤ 512) && decide ((subs.map (fun q => q.pages.length)).foldl (· + ·) 0 ≤ 16384) &&
      decide ((subs.map (fun q => q.pages.map (fun p => (q.gid.toNat, p.toNat)))).flatten.eraseDups.length ≤ 4096) &&
      decide (((s.die dst).passes ++ passes).length ≤ 4))

/-! ## PGRECV (R318) -/

/-- The address of a ring slot of the executing core. -/
def slotAt (a : BitVec 4) : M Nat := do
  let va ← readA a
  match ownOffset (← coreNo) va with
  | none => trapVa 0x04 va
  | some off => if off % 256 ≠ 0 then trapVa 0x04 va else return off

/-- PGRECV; a tag that holds an uncorrectable error is a poisoned read (R368). -/
def execPgrecv (d : BitVec 6) (a : BitVec 4) (ss : BitVec 3) (s : State) : Host.Outcome State Fault Refusal :=
  run (do
    waitHolds
    slotRoom ss
    let off ← slotAt a
    let c ← coreNo
    let s ← get
    if !isFull s c (off / 16) then stall
    if s.flawed (spPlace c off) 8 then trapVa 0x1E (← readA a)
    let (s, v) := spRead c off 8 s
    set s
    finishQuiet d (BitVec.ofNat 64 v)) s

/-- The first byte and size of the ring slot that holds an offset of a core (log 28). -/
def ringSlot (s : State) (c off : Nat) : Option (Nat × Nat) :=
  (s.die (coreDie c)).subs.findSome? (fun q =>
    let z := subSsz q.desc * 256
    let base := subRing q.desc
    if q.gid == (s.core c).gid && rankCore s q.gid (subRank q.desc) == some c && decide (base ≤ off) &&
        decide (off < base + subSlots q.desc * z) then some (base + (off - base) / z * z, z) else none)

def execPgrecvFree (a : BitVec 4) (ss : BitVec 3) (s : State) : Host.Outcome State Fault Refusal :=
  run (do
    waitHolds
    waitAccesses
    slotRoom ss
    let off ← slotAt a
    let c ← coreNo
    match ringSlot (← get) c off with
    | none => trap 0x1A
    | some (base, z) => do
      modS (fun s => s.modCore c (fun v => { v with full := v.full.filter (fun g => g < base / 16 || (base + z) / 16 ≤ g) }))
      modS (feChanged c)
      modS (sendOnce (.pageDelivery (BitVec.ofNat 2 (coreDie c))))
      retire) s

/-! ## The events -/

def execPassRoundStart (s : State) : Host.Outcome State Fault Refusal :=
  event (fun s => match s.ev with
    | .passRoundStart d => passRoundStart d.toNat s
    | _ => s) s
def execPageFetch (s : State) : Host.Outcome State Fault Refusal :=
  event (fun s => match s.ev with
    | .pageFetch d => pageFetch d.toNat s
    | _ => s) s
def execPageDelivery (s : State) : Host.Outcome State Fault Refusal :=
  event (fun s => match s.ev with
    | .pageDelivery d => pageDelivery d.toNat s
    | _ => s) s
def execPassEnd (s : State) : Host.Outcome State Fault Refusal :=
  event (fun s => match s.ev with
    | .passEnd d => passEnd d.toNat s
    | _ => s) s

end Sys2Proof.Machine
end

