-- ==== Sys2Proof/Machine/Launch.lean ====
section
/-! DEFINITION. Gangs from launch to release: launch records (R293 to R297), the search for a place (R349, R362), launch (R349,
R350), completion and release (R178, R352), successor kernels (R353 to R356). Stopping and resuming stand in Gangs. -/

namespace Sys2Proof.Machine

/-! ## Launch records (R293 to R296) -/

def recOv (r : BitVec 2048) : Bool := recordBits r 0 2 1 == 1
def recPin (r : BitVec 2048) : Bool := recordBits r 0 3 1 == 1
def recAsh (r : BitVec 2048) : Bool := recordBits r 0 20 1 == 1
def recSig (r : BitVec 2048) : VA := signalVa (recordBits r 0 64 64)
def recChi (r : BitVec 2048) : BitVec 16 := BitVec.ofNat 16 (recordBits r 0 192 16)

/-- Fields of group entry `g` (Table 12-13). -/
def recGroup (r : BitVec 2048) (g lo w : Nat) : Nat := recordBits r (32 + 32 * g) lo w
def recHlp (r : BitVec 2048) (g : Nat) : Nat := recGroup r g 22 4
def recEntry (r : BitVec 2048) (g : Nat) : Dword := BitVec.ofNat 64 (recGroup r g 64 64)
def recCapt (r : BitVec 2048) (g : Nat) : Nat := recGroup r g 128 64

/-- The scratchpad ranges of a record: offset and length (R295). -/
def recRegions (r : BitVec 2048) : List (Nat × Nat) :=
  (List.range (recordBits r 0 16 4)).map (fun i => (recordBits r (160 + 8 * i) 0 18, recordBits r (160 + 8 * i) 18 19))

/-- Area `a` lies wholly outside every range. -/
def areaOutside (r : BitVec 2048) (a : Nat) : Bool := (recRegions r).all (fun q => !rangesMeet q.1 q.2 (2048 * a) 2048)
def areasOutside (r : BitVec 2048) : List Nat := (List.range 128).filter (areaOutside r)

def distinctPairs (p : α → α → Bool) : List α → Bool
  | [] => true
  | a :: l => l.all (fun b => !p a b) && distinctPairs p l

def recRects (r : BitVec 2048) (x y : Nat) : List (Int × Int × Nat × Nat) := (List.range (recGroups r)).map (fun g => groupRect r g x y)

/-- A rectangle lies on the 32 × 32 cores of a die. -/
def onDie (q : Int × Int × Nat × Nat) : Bool :=
  let (l, t, w, h) := q
  decide (0 ≤ l) && decide (l + w ≤ 32) && decide (0 ≤ t) && decide (t + h ≤ 32)

def rectsMeet (a b : Int × Int × Nat × Nat) : Bool :=
  decide (a.1 < b.1 + b.2.2.1) && decide (b.1 < a.1 + a.2.2.1) && decide (a.2.1 < b.2.1 + b.2.2.2) && decide (b.2.1 < a.2.1 + a.2.2.2)

/-- Some origin, or the pinned one, puts every group on the die. -/
def recFits (r : BitVec 2048) : Bool :=
  if recPin r then (recRects r (recordBits r 0 4 5) (recordBits r 0 9 5)).all onDie
  else (List.range 32).any (fun y => (List.range 32).any (fun x => (recRects r x y).all onDie))

def groupOk (r : BitVec 2048) (g : Nat) : Bool :=
  recGroup r g 26 6 == 0 && recGroup r g 48 16 == 0 && recGroup r g 192 64 == 0 && decide (recHlp r g ≤ 10) &&
    recGroup r g 10 6 != 32 && recGroup r g 16 6 != 32 && (g != 0 || recGroup r g 10 12 == 0) &&
    decide (1 + recHlp r g ≤ (areasOutside r).length)

def regionOk (r : BitVec 2048) (i : Nat) : Bool :=
  if recordBits r 0 16 4 ≤ i then recordBits r (160 + 8 * i) 0 64 == 0
  else
    let off := recordBits r (160 + 8 * i) 0 18
    let len := recordBits r (160 + 8 * i) 18 19
    recordBits r (160 + 8 * i) 37 27 == 0 && off % 64 == 0 && len % 64 == 0 && decide (64 ≤ len) && decide (off + len ≤ 262144)

/-- What R296 asks of a record, but for the capability tables. `rets` holds under RETS, where ov may be set. -/
def recordOk (r : BitVec 2048) (rets : Bool) : Bool :=
  recordBits r 0 21 43 == 0 && recordBits r 0 208 48 == 0 && recordBits r 224 0 256 == 0 && decide (recordBits r 0 16 4 ≤ 8) &&
    (rets || !recOv r) &&
    (List.range 4).all (fun g => if g < recGroups r then groupOk r g else recGroup r g 0 256 == 0) &&
    (List.range 8).all (regionOk r) &&
    distinctPairs (fun a b => rangesMeet a.1 a.2 b.1 b.2) (recRegions r) &&
    recFits r && distinctPairs rectsMeet (recRects r 16 16)

/-! ## Places (R349, R362) -/

/-- The cores of a record at an origin, in rank order (R350). -/
def rectCores (d : Nat) (q : Int × Int × Nat × Nat) : List Nat :=
  let (l, t, w, h) := q
  ((List.range h).map (fun j => (List.range w).map (fun i => coreAt d (l.toNat + i) (t.toNat + j)))).flatten
def coresOf (r : BitVec 2048) (d x y : Nat) : List Nat := ((recRects r x y).map (rectCores d)).flatten

/-- The Ashlar units of the tiles that cores lie in. -/
def unitsOf (cores : List Nat) : List Nat := ((cores.map coreTileG).eraseDups.map (fun t => [2 * t, 2 * t + 1])).flatten

def isReserved (s : State) (c : Nat) : Bool := (s.die (coreDie c)).reserved.contains (coreTile c)

/-- The images that are free allow a stopped gang to leave its cores (R375). -/
def mayVacate (s : State) (g : Gang) : Bool := decide (s.plinth.imgUsed.length + g.cores.length ≤ Config.imageCount)

/-- A core is free for a gang `self` (0 for a launch): no other gang runs there or must keep it, and it has not failed. -/
def coreFree (s : State) (self : BitVec 32) (c : Nat) : Bool :=
  let v := s.core c
  v.gid == 0 && !v.failed && !v.fenced &&
    s.plinth.gangs.all (fun g => !(g.stopped && !g.imaged && g.gid != self && g.cores.contains c) || mayVacate s g)

/-- The places of a record in the order of the search: die, y, x. -/
def originsOf (r : BitVec 2048) : List (Nat × Nat × Nat) :=
  if recPin r then [(recordBits r 0 14 2, recordBits r 0 4 5, recordBits r 0 9 5)]
  else ((List.range 4).map (fun d => ((List.range 32).map (fun y => (List.range 32).map (fun x => (d, x, y)))).flatten)).flatten

/-- A place is open when its rectangles lie on the die and on cores that `ok` accepts, and its banks are free. -/
def placeOpen (s : State) (r : BitVec 2048) (self : BitVec 32) (ok : Nat → Bool) (o : Nat × Nat × Nat) : Bool :=
  (recRects r o.2.1 o.2.2).all onDie && (coresOf r o.1 o.2.1 o.2.2).all ok &&
    (!recAsh r || self != 0 || (unitsOf (coresOf r o.1 o.2.1 o.2.2)).all (fun u => (s.ashlar u).gid == 0))

/-- The first place for a record of a class, cores being free as `free` says (R362). -/
def placeFor (s : State) (r : BitVec 2048) (lat : Bool) (self : BitVec 32) (free : Nat → Bool) : Option (Nat × Nat × Nat) :=
  let os := originsOf r
  if recPin r then os.find? (placeOpen s r self free)
  else
    match os.find? (placeOpen s r self (fun c => free c && (isReserved s c == lat))) with
    | some o => some o
    | none => os.find? (placeOpen s r self free)

/-! ## Scratchpad images (R375) -/

def granCode (g : Gran) : Nat :=
  match g with
  | .present d => if d then 4 else 0
  | .absent => 1
  | .absentZero => 2
  | .dead => 3
def granOf (n : Nat) : Gran :=
  match n % 4 with
  | 0 => .present (n / 4 % 2 == 1)
  | 1 => .absent
  | 2 => .absentZero
  | _ => .dead
def powerCode (b : BankPower) : Nat :=
  match b with
  | .on => 0
  | .retention => 1
  | .off => 2
def powerOf (n : Nat) : BankPower := if n = 0 then .on else if n = 1 then .retention else .off

/-- The bytes of a core's image from 0x4_0000 on: full bits, granule map, bank power. -/
def imageTail (v : Core) : List Byte :=
  (List.range 2048).map (fun i => BitVec.ofNat 8 ((List.range 8).foldl (fun a j => if v.full.contains (8 * i + j) then a + 2 ^ j else a) 0)) ++
  (List.range 3328).map (fun i => BitVec.ofNat 8 (granCode (tget v.gran i (.present true)))) ++
  (List.range 16).map (fun b => BitVec.ofNat 8 (powerCode (v.power b)))

def imageAt (n : Nat) : Nat := Config.imageBase + n * 0x4_2000

/-- Write the image of a core into image `n` under key id 0, but for the bytes of banks that are off. -/
def writeImage (c n : Nat) (s : State) : State :=
  let v := s.core c
  let s := (List.range 16).foldl (fun s b =>
    if v.power b = .off then s
    else copyFlaws (spPlace c (b * 16384)) (imageAt n + b * 16384) 16384
      { s with mem := memCopy s.mem (spPlace c (b * 16384)) (imageAt n + b * 16384) 16384
               sectors := deviceSectors s (imageAt n / 32 + b * 512) 512 }) s
  { s with mem := memSetBytes (memZero s.mem (imageAt n + 0x4_0000) 0x2000) (imageAt n + 0x4_0000) (imageTail v)
           sectors := deviceSectors s ((imageAt n + 0x4_0000) / 32) 256 }

/-- Read an image into a core: bytes, full bits, granule map and power states. -/
def loadImage (c n : Nat) (s : State) : State :=
  let m := deviceView s (imageAt n) 0x4_2000
  let at_ (off : Nat) : Nat := (memByte m (imageAt n + 0x4_0000 + off)).toNat
  let cells := (memPart m (imageAt n) 262144).map (fun e => (spPlace c (e.1 - imageAt n), e.2))
  let s := copyFlaws (imageAt n) (spPlace c 0) 262144 { s with mem := memReplace s.mem (spPlace c 0) 262144 cells }
  s.modCore c (fun v => { v with
    full := (List.range 16384).filter (fun g => at_ (g / 8) / 2 ^ (g % 8) % 2 == 1)
    gran := ((List.range 3328).map (fun i => (i, granOf (at_ (2048 + i))))).filter (fun e => e.2 != .present true)
    bank := ((List.range 16).map (fun b => (b, powerOf (at_ (5376 + b))))).filter (fun e => e.2 != .on) })

/-- The lowest image that is not in use. -/
def freeImage (p : Plinth) : Nat := ((List.range Config.imageCount).find? (fun n => (tfind p.imgUsed n).isNone)).getD 0

/-- What a core keeps when a gang leaves it: its caches, its counters and its condition. -/
def Core.left (v : Core) : Core :=
  { l1 := v.l1, cc := v.cc, ic := v.ic, failed := v.failed, fenced := v.fenced, l1Hit := v.l1Hit, l1Miss := v.l1Miss }

/-- Scrub a core (R178). A matrix command that still waits in its inbox is rejected: the gang that it names is gone. -/
def scrubCore (c : Nat) (s : State) : State :=
  let s := ((s.core c).inbox.filter (fun e => e.kind == 3)).foldl (fun s e => rejectCommand e s) s
  let s := { s.zero (spPlace c 0) 262144 with ring := s.ring.filter (fun e => e.1 != c) }
  s.modCore c Core.left

/-- The sectors of save block `new` that hold an error because those of block `old` do in state `base` (log 97). -/
def movePoison (base : State) (old new : Nat) (t : Table Sector) : Table Sector :=
  let first := Config.saveBlock old / 32
  (base.sectors.filter (fun e => e.2.poison && first ≤ e.1 && e.1 < first + 4096)).foldl (fun t e =>
    let n := Config.saveBlock new / 32 + (e.1 - first)
    tset t n { tget t n {} with poison := true }) t

/-- Save block `new` becomes what block `old` is in state `base`. -/
def copyBlock (base : State) (old new : Nat) (s : State) : State :=
  if old = new then s
  else
    let part := (memPart (deviceView base (Config.saveBlock old) 0x2_0000) (Config.saveBlock old) 0x2_0000).map (fun e =>
      (Config.saveBlock new + (e.1 - Config.saveBlock old), e.2))
    { s with mem := memReplace s.mem (Config.saveBlock new) 0x2_0000 part
             sectors := movePoison base old new (deviceSectors s (Config.saveBlock new / 32) 4096) }

/-- A stopped gang leaves its cores: every image is written, the save blocks follow, and the cores are scrubbed for the gang that takes
them (log 32). -/
def vacate (g : Gang) (s : State) : State :=
  let s := (List.range g.cores.length).foldl (fun s i =>
    let c := nth g.cores i 0
    let n := freeImage s.plinth
    let s := copyBlock s c (Config.imageBlock n) (writeImage c n s)
    scrubCore c (s.modPlinth (fun p => { p with imgUsed := tset p.imgUsed n (g.gid, i) }))) s
  modGang g.gid (fun g => { g with imaged := true }) s

/-- Every stopped gang that holds one of some cores leaves them; none while an image is wanting (R375). -/
def vacateAll (self : BitVec 32) (cores : List Nat) (s : State) : Option State :=
  (s.plinth.gangs.filter (fun g => g.stopped && !g.imaged && g.gid != self && g.cores.any cores.contains)).foldl (fun r g =>
    match r with
    | none => none
    | some s => if mayVacate s g then some (vacate g s) else none) (some s)

/-! ## Launch (R349, R350, R297) -/

/-- Cores have become free: placement and the ready pools are tried again, those with graphs of the latency class before bulk gangs
and records (R22, R362). -/
def placeAgain (s : State) : State :=
  let pools (first : Bool) (s : State) : State := (List.range 4).foldl (fun s d =>
    if (s.die d).graphs.isEmpty || (s.die d).graphs.any (·.lat) != first then s else s.send (.nodeDispatch (BitVec.ofNat 2 d))) s
  pools false ((pools true s).send .gangPlacement)

/-- The capability of rank `i` of a gang: its core, the three rights (R297). -/
def capOf (s : State) (gid : BitVec 32) (c : Nat) : Dword :=
  mintCap s (BitVec.ofNat 64 (c % 1024 + coreDie c * 2 ^ 10 + 7 * 2 ^ 12 + gid.toNat * 2 ^ 32))

/-- The number of cores of the groups before group `g`. -/
def groupStart (r : BitVec 2048) (g : Nat) : Nat :=
  (List.range g).foldl (fun n i => n + (recGroup r i 0 5 + 1) * (recGroup r i 5 5 + 1)) 0

/-- The group of a rank (R350). -/
def rankGroup (r : BitVec 2048) (i : Nat) : Nat := ((List.range (recGroups r)).find? (fun g => i < groupStart r (g + 1))).getD 0

/-- Write the capability tables of a record; none when one faults (R296, R297). -/
def writeCaps (r : BitVec 2048) (gid : BitVec 32) (asid : BitVec 12) (cores : List Nat) (s : State) : Option State :=
  (List.range cores.length).foldl (fun o i =>
    match o with
    | none => none
    | some s =>
      let capt := recCapt r (rankGroup r i)
      if capt = 0 then some s
      else
        let c := nth cores i 0
        match engWriteBytes c gid asid true (recChi r ++ BitVec.ofNat 64 (capt + 8 * i)) (leBytes 8 (capOf s gid c).toNat) s with
        | (s, none) => some s
        | (_, some _) => none) (some s)

/-- The lines of text that a launch puts into instruction caches: 32 KiB from an entry point on, as far as the text is mapped
(R349, log 31). -/
def imageLines (asid : BitVec 12) (chi : BitVec 16) (entry : Dword) : Nat → State → State × List CodeLine
  | 0, s => (s, [])
  | n + 1, s =>
    let va : VA := chi ++ entry / 128 * 128
    if 14 ≤ vaRegion va then (s, [])
    else
      match resolveHbm s asid va .fetch true with
      | .ok (.hbm l, s) =>
        let s := settle l s
        let valid := cleanSectors l s
        let (s, d) := locRead l 128 false s
        let (s, rest) := imageLines asid chi (entry / 128 * 128 + 128) n s
        (s, { line := va.toNat / 128, asid := asid, key := l.tag.key, data := BitVec.ofNat 1024 d, valid := valid } :: rest)
      | _ => (s, [])

/-- The `rank` word of rank `i` (Table 5-5). -/
def rankWord (r : BitVec 2048) (i : Nat) : Dword :=
  let g := rankGroup r i
  BitVec.ofNat 64 (i + recGroup r g 0 5 * 2 ^ 10 + recGroup r g 5 5 * 2 ^ 15 + g * 2 ^ 20)

/-- The areas of a core: its control area, then those of its helpers, in order (R295). -/
def areaTable (ctl : Nat) (others : List Nat) (hlp : Nat) : Table Nat :=
  (0, ctl) :: (List.range hlp).map (fun h => (h + 1, nth others h 0))

/-- A control context as it starts (Table 15-1). -/
def controlCtx (entry : Dword) (args : List Dword) (tb gid rank : Dword) (chi : BitVec 16) : Ctx :=
  { acc := { pc := entry / 4 * 4 }, exe := { pc := entry / 4 * 4 }, o := operandFile args, tb := tb, gid := gid, rank := rank, chi := chi }

/-- Rank `i` of a gang begins on its core; invariant lines leave its L1 (R188). -/
def startRank (g : Gang) (lines : List CodeLine) (i : Nat) (s : State) : State :=
  let r := g.launch.record
  let c := nth g.cores i 0
  let free := areasOutside r
  let n := rankGroup r i
  let gidWord : Dword := BitVec.ofNat 64 (g.gid.toNat + g.die * 2 ^ 32)
  let s := s.modCore c (fun v => { v.left with
    l1 := v.l1.filter (!·.inv), cc := [], ic := lines, gid := g.gid, asid := g.launch.asid, hlp := recHlp r n, enrolled := true, l1Hit := 0, l1Miss := 0
    areas := areaTable (free.headD 0) (free.drop 1) (recHlp r n) })
  startCtx c 0 (free.headD 0) (recordBase r)
    (controlCtx (recEntry r n) g.launch.args g.launch.tb gidWord (rankWord r i) (recChi r)) s

/-- The gang counter advances: from 0xFFFF_FFFF to 1, with a new capability key (R349, R287). -/
def nextGid (s : State) : BitVec 32 × State :=
  if s.plinth.gidNext = 0xFFFF_FFFF then (1, { s.modPlinth (fun p => { p with gidNext := 1 }) with capDraw := s.capDraw + 1 })
  else (s.plinth.gidNext + 1, s.modPlinth (fun p => { p with gidNext := p.gidNext + 1 }))

/-- Launch a record at a place. A capability table that faults refuses it: nothing starts, and its signal gets status 3. -/
def launchAt (l : Launch) (d x y : Nat) (s0 : State) : State :=
  let cores := coresOf l.record d x y
  let (gid, s) := nextGid s0
  match writeCaps l.record gid l.asid cores s with
  | none => decSigOpt l.asid (recSig l.record) 3 s0
  | some s =>
    let g : Gang :=
      { gid := gid, launch := l, die := d, x := x, y := y, cores := cores, seqNo := s.plinth.gangSeq, held := [], stopped := false,
        stopping := false, faulted := false, preds := [], next := .unread, waits := false, imaged := false, savedCores := [] }
    let s := s.modPlinth (fun p => { p with gangs := p.gangs ++ [g], gangSeq := p.gangSeq + 1 })
    let s := if recAsh l.record then (unitsOf cores).foldl (fun s u => s.modAshlar u (fun _ => { gid := gid })) s else s
    let (s, lines) := (List.range (recGroups l.record)).foldl (fun (q : State × List (List CodeLine)) n =>
      let (s, ls) := imageLines l.asid (recChi l.record) (recEntry l.record n) 256 q.1
      (s, q.2 ++ [ls])) (s, [])
    let s := (List.range cores.length).foldl (fun s i => startRank g (nth lines (rankGroup l.record i) []) i s) s
    match l.node with
    | none => s
    | some (nd, gn, n) => modNode nd gn n (fun q => { q with ready := none, dispatched := true, gangId := gid }) s

/-- Place a launch now, when a place exists. -/
def tryPlace (l : Launch) (s : State) : Option State :=
  match placeFor s l.record l.lat 0 (coreFree s 0) with
  | none => none
  | some (d, x, y) => (vacateAll 0 (coresOf l.record d x y) s).map (launchAt l d x y)

/-! ## Vacating reserved cores (R362) -/

/-- The running bulk gangs that hold reserved cores, newest first. -/
def borrowers (s : State) : List Gang :=
  (s.plinth.gangs.filter (fun g => !g.stopped && !g.launch.lat && g.cores.any (isReserved s))).reverse

/-- The place of a latency record once some gangs have left their cores, beside the cores that other records take. A pinned record
whose unreserved cores are held stops nothing. -/
def placeWithout (s : State) (r : BitVec 2048) (taken : List Nat) (gone : List Gang) : Option (Nat × Nat × Nat) :=
  placeFor s r true 0 (fun c => !taken.contains c &&
    (coreFree s 0 c || ((isReserved s c || !recPin r) && !(s.core c).failed && gone.any (fun g => g.cores.contains c))))

/-- The gangs to stop for a latency record and the cores that it then has: the newest borrowers, as many as its place takes; a
pinned one stops those at its origin only. None when no place comes about so. -/
def toStop (s : State) (r : BitVec 2048) (taken : List Nat) : Option (List Gang × List Nat) :=
  let all := if recPin r then
      (borrowers s).filter (fun g => (coresOf r (recordBits r 0 14 2) (recordBits r 0 4 5) (recordBits r 0 9 5)).any g.cores.contains)
    else borrowers s
  (List.range (all.length + 1)).findSome? (fun n =>
    (placeWithout s r taken (all.take n)).map (fun o => (all.take n, coresOf r o.1 o.2.1 o.2.2)))

/-- Stop gangs, but for those that are being stopped; they resume on any rectangle (R362). -/
def stopGangs (l : List Gang) (s : State) : State :=
  (l.filter (!·.stopping)).foldl (fun s g => (modGang g.gid (fun g => { g with stopping := true, waits := true }) s).send (.gangStop g.gid)) s

/-- Make room for latency launches that have no place, in their order, each beside the places of those before it (R22). -/
def demand (l : List Launch) (s : State) : State :=
  ((l.filter (·.lat)).foldl (fun (q : State × List Nat) l =>
    match toStop q.1 l.record q.2 with
    | none => q
    | some (gs, cs) => (stopGangs gs q.1, cs ++ q.2)) (s, [])).1

/-! ## Completion and release (R352, R178) -/

/-- An outstanding instruction that writes memory: a store or atomic, a full/empty store, a macro-op, an operator (R333). -/
def Pend.writes (p : Pend) : Bool :=
  p.kind == .store || p.kind == .atomic || (p.kind == .fullEmpty && p.dest == .none) || p.kind == .macroOp || p.kind == .engine

/-- The stores of a gang that are not performed: writes with names below `below` (R333, R352, R353). -/
def storesOut (s : State) (g : Gang) (below : Nat) : Bool :=
  let out (v : Core) : Bool := v.ctxs.any (fun e => e.2.pend.any (fun p => decide (p.id < below) && p.writes))
  g.cores.any (fun c => out (s.core c)) || g.savedCores.any (fun e => out e.2)

/-- A graph whose gang is gone: dispatched nodes run on, the others are discarded (R360). -/
def Graph.orphan (g : Graph) : Graph := { g with retired := true, nodes := g.nodes.filter (fun e => e.2.dispatched && !e.2.done) }

/-- What a gang holds on a die goes back (R352 step 2). -/
def releaseDie (gid : BitVec 32) (d : Nat) (s : State) : State :=
  let v := s.die d
  let s := (v.subs.filter (fun q => q.gid == gid)).foldl (fun s q => dropSub d q s) s
  let s := (v.handles.filter (fun e => handleOpen e.2 && handleGid e.2 == gid.toNat)).foldl (fun s e => closeHandle d e.1 s) s
  (dropPasses gid d s).modDie d (fun v => { v with
    graphs := (v.graphs.map (fun g => if g.gid == gid then g.orphan else g)).filter (fun g => !(g.retired && g.nodes.isEmpty)) })

/-- Drop every connector that a gang loaded (R352 step 1). -/
def releaseConns (gid : BitVec 32) (s : State) : State :=
  s.keystones.foldl (fun s e =>
    e.2.conns.foldl (fun s q => if (q.2.loaded || q.2.ver) && q.2.gid == gid then dropConn e.1 q.1 s else s) s) s

/-- Return every permit unit of a gang (R340). -/
def releaseUnits (g : Gang) (s : State) : State :=
  let n := g.held.foldl (fun a e => a + e.2) 0
  let s := s.modDie g.die (fun d => { d with poolHeld := d.poolHeld - n, permitQ := d.permitQ.filter (fun r => !g.cores.contains r.core) })
  let s := modGang g.gid (fun g => { g with held := [] }) s
  if permitWaits (s.die g.die) then s.send (.permitGrant (BitVec.ofNat 2 g.die)) else s

/-- The scrub of R178: the cores that the gang still has, and its Ashlar banks. -/
def scrubGang (g : Gang) (s : State) : State :=
  let s := if g.imaged then s else g.cores.foldl (fun s c => scrubCore c s) s
  s.ashlars.foldl (fun s e =>
    if e.2.gid = g.gid then (s.zero (ashPlace e.1 0) 65536).modAshlar e.1 (fun _ => {}) else s) s

/-- Release a gang, its completion signal getting a status (R352). -/
def releaseGang (g : Gang) (status : Nat) (s : State) : State :=
  let s := releaseConns g.gid s
  let s := (List.range 4).foldl (fun s d => releaseDie g.gid d s) s
  let s := { s with slices := s.slices.map (fun e => (e.1, { e.2 with lines := e.2.lines.map (fun l =>
    { l with pins := l.pins.filter (· != g.gid) }) })) }
  let s := scrubGang g (releaseUnits g s)
  let s := s.modPlinth (fun p => { p with
    gangs := p.gangs.filter (fun q => q.gid != g.gid)
    imgUsed := p.imgUsed.filter (fun e => e.2.1 != g.gid) })
  placeAgain (decSigOpt g.launch.asid (recSig g.launch.record) status s)

def findGang (s : State) (gid : BitVec 32) : Option Gang := s.plinth.gangs.find? (fun g => g.gid == gid)

/-- Every core of a running gang has retired. -/
def allRetired (s : State) (g : Gang) : Bool := g.cores.all (fun c => (s.core c).retired != .no)

/-- GANG_COMPLETE: every core has retired. Without a successor the gang is released once its stores are performed (R352). -/
def gangComplete (gid : BitVec 32) (s : State) : State :=
  match findGang s gid with
  | none => s
  | some g =>
    if g.stopped || g.stopping || !allRetired s g then s
    else if g.cores.any (fun c => (s.core c).retired != .byEnd) then s.send (.successorStart gid)
    else if storesOut s g s.nextId then s.send s.ev
    else releaseGang g (if g.faulted then 4 else 0) s

def execGangComplete (s : State) : Host.Outcome State Fault Refusal :=
  event (fun s => match s.ev with
    | .gangComplete gid => gangComplete gid s
    | _ => s) s

/-! ## Successors (R353 to R356) -/

/-- The record and mask with which a core retired. -/
def retsOf (v : Core) : Option (Dword × Dword) :=
  match v.retired with
  | .byRets r m => some (r, m)
  | _ => none

/-- Read the successor record at the wD of rank 0 (R354). -/
def readSuccessor (g : Gang) (s : State) : State × Successor :=
  let c := g.cores.headD 0
  match retsOf (s.core c) with
  | none => (s, .unreadable)
  | some (wd, _) =>
    if wd.toNat % 64 ≠ 0 then (s, .unreadable)
    else
      match engReadBytes c g.gid g.launch.asid true ((s.ctx c 0).chi ++ wd) 256 s with
      | .error _ => (s, .unreadable)
      | .ok (s, l) => (s, .record (BitVec.ofNat 2048 (leNat l)))

/-- A pair of accumulators in f64 mode of which a mask keeps exactly one (R354). -/
def splitsPair (v : Core) (mask : Dword) : Bool :=
  [0, 2].any (fun n => accMode v n == 2 && mask.getLsbD (26 + n) != mask.getLsbD (27 + n))

/-- The checks of R354 on the slot and a successor record, but for its capability tables. -/
def successorOk (g : Gang) (r : BitVec 2048) (s : State) : Bool :=
  let old := g.launch.record
  match retsOf (s.core (g.cores.headD 0)) with
  | none => false
  | some (wd, mask) =>
    g.cores.all (fun c => retsOf (s.core c) == some (wd, mask) && !splitsPair (s.core c) mask &&
      areaOutside r (s.ctx c 0).area) &&
    mask.toNat / 2 ^ 32 == 0 && recordOk r true && recGroups r == recGroups old &&
    (List.range (recGroups r)).all (fun n => recGroup r n 0 22 == recGroup old n 0 22 && decide (recHlp r n ≤ recHlp old n)) &&
    (!recPin r || (recordBits r 0 14 2 == g.die && recordBits r 0 4 5 == g.x && recordBits r 0 9 5 == g.y)) &&
    recAsh r == recAsh old

/-- Whether byte `off` of the scratchpad survives the scrub of R356. -/
def keptByte (r : BitVec 2048) (mask : Dword) (area off : Nat) : Bool :=
  off / 2048 == area || (mask.getLsbD 31 && (recRegions r).any (fun q => decide (q.1 ≤ off) && decide (off < q.1 + q.2)))

/-- The scratchpad part of R356: every bank on, and the bytes and bits that are not kept cleared. -/
def scrubScratch (c : Nat) (r : BitVec 2048) (mask : Dword) (area : Nat) (s : State) : State :=
  let s := (List.range 16).foldl (fun s b => wakeBank c b s) s
  let sp := spPlace c 0
  let s := { s with mem := s.mem.filter (fun e => e.1 < sp || sp + 262144 ≤ e.1 || keptByte r mask area (e.1 - sp))
                    flaws := s.flaws.filter (fun u => 16 * u < sp || sp + 262144 ≤ 16 * u || keptByte r mask area (16 * u - sp)) }
  s.modCore c (fun v => { v with full := v.full.filter (fun g => keptByte r mask area (16 * g)) })

/-- The area part of R356: the granules that are not kept become absent-zero, granule 22 with a0. -/
def scrubArea (c a : Nat) (mask : Dword) (a0 : VA) (s : State) : State :=
  let p := spPlace c (a * 2048)
  let s := s.store (p + 0x7C0) 64 0
  let s := if mask.getLsbD 22 then s else s.store (p + 0x580) 64 a0.toNat
  s.modCore c (fun v => (List.range 26).foldl (fun v g =>
    if mask.getLsbD g then v else v.setGranule a g (if g = 22 then .present true else .absentZero)) v)

/-- The matrix part of R356. -/
def scrubMatrix (mask : Dword) (v : Core) : Core :=
  let v := (List.range 4).foldl (fun v n => if mask.getLsbD (26 + n) then v else { zeroAcc n v with mode := terase v.mode n }) v
  if mask.getLsbD 30 then v else { v with active := {}, shadow := {} }

/-- Rank `i` of a successor begins (R355, R356). Stores of the predecessor that are not performed are pending on sb7. -/
def startSuccessor (g : Gang) (r : BitVec 2048) (mask : Dword) (i : Nat) (s : State) : State :=
  let c := nth g.cores i 0
  let x := s.ctx c 0
  let a := x.area
  let n := rankGroup r i
  let y : Ctx := { controlCtx (recEntry r n) g.launch.args x.tb x.gid x.rank (recChi r) with
    live := true, wp := x.wp
    acc := { pc := recEntry r n / 4 * 4, pos := 1 }, exe := { pc := recEntry r n / 4 * 4, pos := 1 }
    held := x.held, pend := x.pend.map (fun p => { p with ss := 7, pos := 0 }) }
  let s := s.setCtx c 0 y
  let s := scrubArea c a mask (recordBase r) (scrubScratch c r mask a s)
  let others := (areasOutside r).filter (· != a)
  ringAdd c 0 (s.modCore c (fun v => { scrubMatrix mask v with
    l1 := v.l1.filter (!·.inv), ic := [], cc := [], retired := .no, exits := [], hlp := recHlp r n, areas := areaTable a others (recHlp r n)
    enrolled := true, follower := false, trail := [] }))

/-- The successor takes the slot (R354, R355). -/
def takeSlot (g : Gang) (r : BitVec 2048) (s : State) : State :=
  let mask := match retsOf (s.core (g.cores.headD 0)) with
    | some (_, m) => m
    | none => 0
  let late := storesOut s g s.nextId
  let sig := recSig g.launch.record
  let s := (List.range g.cores.length).foldl (fun s i => startSuccessor g r mask i s) s
  let s := modGang g.gid (fun g => { g with launch := { g.launch with record := r }, next := .unread
                                            preds := if late then g.preds ++ [(sig.setWidth 64, s.nextId)] else g.preds }) s
  let s := g.cores.foldl (fun s c => kickMessage c s) s
  if late then g.cores.foldl (fun s c => s.send (.successorOverlapStoresDone c)) s else decSigOpt g.launch.asid sig 0 s

/-- The shape fault of R354: the predecessor completes and is released, and the successor's signal gets status 1. -/
def shapeFault (g : Gang) (s : State) : State :=
  if storesOut s g s.nextId then s.send s.ev
  else
    match g.next with
    | .record r => decSigOpt g.launch.asid (recSig r) 1 (releaseGang g 0 s)
    | _ => releaseGang g 1 s

/-- SUCCESSOR_START: every core has retired, one at least by RETS. The record is read once (R293). -/
def successorStart (gid : BitVec 32) (s : State) : State :=
  match findGang s gid with
  | none => s
  | some g =>
    if g.stopped || g.stopping || !allRetired s g then s
    else
      let (s, next) := if g.next = .unread then readSuccessor g s else (s, g.next)
      let s := modGang gid (fun g => { g with next := next }) s
      let g := { g with next := next }
      match next with
      | .record r =>
        if !successorOk g r s then shapeFault g s
        else if !recOv r && storesOut s g s.nextId then s.send s.ev
        else
          match writeCaps r g.gid g.launch.asid g.cores s with
          | none => shapeFault g s
          | some s => takeSlot g r s
      | _ => shapeFault g s

def execSuccessorStart (s : State) : Host.Outcome State Fault Refusal :=
  event (fun s => match s.ev with
    | .successorStart gid => successorStart gid s
    | _ => s) s

/-- SUCCESSOR_OVERLAP_STORES_DONE: a predecessor's stores of a core are performed; with the last of the gang's, the completion signal
of each predecessor that they belong to is decremented (R354). -/
def overlapDone (c : Nat) (s : State) : State :=
  match s.plinth.gangs.find? (fun g => !g.preds.isEmpty && !g.stopped && g.cores.contains c) with
  | none => s
  | some g =>
    let out (p : Dword × Nat) : Bool := storesOut s g p.2
    let t := modGang g.gid (fun g => { g with preds := g.preds.filter out }) s
    let t := (g.preds.filter (fun p => !out p)).foldl (fun t p => decSigOpt g.launch.asid (signalVa p.1.toNat) 0 t) t
    if g.preds.any (fun p => storesOut s { g with cores := [c] } p.2) then t.send t.ev else t

def execSuccessorOverlapStoresDone (s : State) : Host.Outcome State Fault Refusal :=
  event (fun s => match s.ev with
    | .successorOverlapStoresDone c => overlapDone c s
    | _ => s) s

end Sys2Proof.Machine
end

