-- ==== Sys2Proof/Machine/SaveBlock.lean ====
section
/-! DEFINITION. The core save block (Tables 6-3, 16-3, 16-4): what an unload writes (R88, R121, R231, R237), and what a resume reads
back (R89). -/

namespace Sys2Proof.Machine

/-! ## Writing it -/

/-- The matrix part of the resume record of context `k` (Table 6-3). The field of the next step has 3 bits; the model keeps the rest of a
later step (log 40). -/
def matrixRecord (v : Core) (k : Nat) : List Byte :=
  let word (m : MacroOp) : Nat := ((encode m.word).getD 0).toNat
  let q := if v.owner = some k then v.queue else []
  let w (i : Nat) : Nat := match q[i]? with
    | some m => word m
    | none => 0
  match q with
  | [] => leBytes 32 (if v.owner = some k then 2 ^ 38 else 0)
  | m :: rest =>
    let route := match m.reply with
      | some r => r.core % 1024 + coreDie r.core * 2 ^ 10
      | none => 0
    leBytes 8 (word m + m.step % 8 * 2 ^ 32 + 2 ^ 35 + rest.length * 2 ^ 36 + 2 ^ 38 + (if m.reply.isSome then 2 ^ 39 else 0)) ++
      leBytes 8 (w 1 + w 2 * 2 ^ 32) ++ leBytes 8 (w 3) ++ leBytes 8 route

/-- The slot of an MCMD's sender (Table 6-3). -/
def replySlot (s : State) (r : Reply) : Nat :=
  match (s.ctx r.core r.ctx).pend.find? (fun p => p.id == r.id) with
  | some p => p.ss.toNat
  | none => 0

/-- The state area of context `k` of core `c` as an unload writes it (Table 5-1). -/
def stateArea (c k : Nat) (s : State) : List Byte :=
  let x := s.ctx c k
  let p := spPlace c (x.area * 2048)
  let words := [x.wp, x.acc.savePc, x.exe.savePc, x.tb, x.uh, x.st k, x.ds, x.gid, x.rank, x.sbs, x.fsn, x.msr]
  let mx := matrixRecord (s.core c) k
  let slot := match (s.core c).queue with
    | m :: _ => if (s.core c).owner = some k then (m.reply.map (replySlot s)).getD 0 else 0
    | [] => 0
  memBytes s.mem (p + 0x680) 128 ++ dwordBytes 8 ((List.range 7).map (fun i => (tget x.o i 0).toNat)) ++
    dwordBytes 4 [x.y0.toNat, x.y1.toNat, x.y2.toNat, x.y3.toNat] ++ dwordBytes 12 (words.map (·.toNat)) ++
    (mx.take 24 ++ leBytes 8 (leNat (mx.drop 24) + slot * 2 ^ 12)) ++ memBytes s.mem (p + 0x7E0) 32

/-- The context record of a context (Table 16-4). -/
def contextRecord (x : Ctx) : List Byte :=
  let entry (r : Replay) : List Byte :=
    leBytes 8 r.va.toNat ++ leBytes 8 (r.va.toNat / 2 ^ 64 + (x.ldq.findIdx? (·.id == r.id)).getD r.ldq * 2 ^ 16 + r.kind.toNat * 2 ^ 20 + r.sz.toNat * 2 ^ 22) ++
      leBytes 8 r.data.toNat
  let l := queueBytes x ++ leBytes 8 x.sbs.toNat ++ leBytes 8 x.slotCounts ++ ((x.replay.take 16).map entry).flatten
  l ++ List.replicate (0x2E0 - l.length) 0 ++ leBytes 288 x.replay.length

/-- The tag of a plane: 34 bytes (Table 6-2). -/
def planeTag (p : Plane) : List Byte :=
  leBytes 34 (p.tid.toNat + p.fmt.toNat * 2 ^ 6 + (if p.sc then 2 ^ 10 else 0) + (if p.ld then 2 ^ 11 else 0) + p.scale.toNat * 2 ^ 16)

/-- The matrix save area (R121). -/
def matrixArea (v : Core) : List Byte :=
  let plane (p : Plane) : List Byte := ((List.range 1024).map (fun i => leBytes 4 (tget p.el i 0).toNat)).flatten
  ((List.range 4096).map (fun i => leBytes 4 (tget v.cacc i 0).toNat)).flatten ++ plane v.active ++ plane v.shadow ++
    planeTag v.active ++ planeTag v.shadow ++
    leBytes 4 (accMode v 0 + accMode v 1 * 4 + accMode v 2 * 16 + accMode v 3 * 64)

def offerCode (o : OfferState) : Nat :=
  match o with
  | .none => 0
  | .pending => 1
  | .fired => 2
  | .retracting => 3
  | .dropped => 4

/-- A port slot of the save block: the fields of Table 11-1 in its order, then the parcel (the packing is log 29). -/
def slotBytes (q : PortSlot) : List Byte :=
  leBytes 16 ((if q.bound then 1 else 0) + q.conn.toNat * 2 + q.port.toNat * 2 ^ 13 + (if q.get then 2 ^ 19 else 0) +
    (if q.wide then 2 ^ 20 else 0) + offerCode q.offer * 2 ^ 21 + (if q.blk then 2 ^ 24 else 0) + q.serial.toNat * 2 ^ 25) ++
    (q.parcel ++ List.replicate (64 - q.parcel.length) 0)

/-- Unload context `k`: its dirty granules and state area to the save area, its record to the save block (R88, R373), under key id 0. No
table shows where absent-zero and dead granules are recorded: the granule map, which the scratchpad's image carries, keeps them
(log 91). -/
def unload (c k : Nat) (s : State) : State :=
  let x := s.ctx c k
  let s := (List.range 26).foldl (fun s g =>
    match (s.core c).granule x.area g with
    | .present true =>
      let p := spPlace c (x.area * 2048 + 64 * g)
      poisonFrom p (saveArea c k + 64 * g) 64 (deviceBytes (saveArea c k + 64 * g) (memBytes s.mem p 64) s)
    | _ => s) s
  deviceBytes (contextRecordAt c k) (contextRecord x) (deviceBytes (saveArea c k + 0x680) (stateArea c k s) s)

/-- What a core writes into its save block beside its contexts (Table 16-3). -/
def saveCore (c : Nat) (s : State) : State :=
  let v := s.core c
  let b := Config.saveBlock c
  let s := deviceBytes (b + 0x1_0000) (matrixArea v ++ List.replicate 24 0) s
  let s := deviceBytes (b + 0x1_8900) ((List.range 16).map (fun p => slotBytes (tget v.slots p {}))).flatten (inboxImage c v.inbox s)
  deviceBytes (b + 0x1_8E00) (leBytes 8 v.o7.toNat ++ leBytes 24 (if v.o7full then 1 else 0)) s

/-! ## Reading it back (R89, R96, R121, R231, R237, R326, R374)

The save block gives the state; what the model keeps beside it, the names and text positions of what is outstanding, comes from what
the stopped gang keeps (log 40). -/

/-- The 32-bit words of a range of a memory that are not zero, by index. -/
def wordsAt (m : List Host.Cell) (p n : Nat) : Table (BitVec 32) :=
  (memPart m p n).foldr (fun e t =>
    let o := e.1 - p
    tset t (o / 4) (tget t (o / 4) 0 ||| BitVec.ofNat 32 (e.2.toNat * 2 ^ (8 * (o % 4))))) []

/-- A context from its state area at 0x680 (Table 5-1): the operand and last-result files and the state words. -/
def Ctx.ofStateArea (x : Ctx) (l : List Byte) : Ctx :=
  let q (off : Nat) : Dword := BitVec.ofNat 64 (dwordAt l off)
  let w (i : Nat) : Dword := q (0xE0 + 8 * i)
  { x with
    o := (List.range 7).map (fun i => (i, q (0x80 + 8 * i)))
    y0 := q 0xC0, y1 := q 0xC8, y2 := q 0xD0, y3 := q 0xD8
    wp := w 0, acc := { x.acc with pc := w 1 / 4 * 4 }, exe := { x.exe with pc := w 2 / 4 * 4 }, tb := w 3, uh := w 4
    tc := BitVec.ofNat 8 (nbits (w 5).toNat 8 8), ds := w 6, gid := w 7, rank := w 8, fsn := w 10
    chi := (w 11).setWidth 16, dev := (w 11).getLsbD 16, ue := (w 11).getLsbD 17 }

/-- The replay entry `i` of a context record; its name is that of the request that was withdrawn. -/
def replayAt (x : Ctx) (l : List Byte) (i : Nat) : Replay :=
  let p := 0x160 + 24 * i
  let n := dwordAt l (p + 8)
  { va := BitVec.ofNat 80 (dwordAt l p + n % 2 ^ 16 * 2 ^ 64), ldq := nbits n 16 4, kind := BitVec.ofNat 2 (nbits n 20 2)
    sz := BitVec.ofNat 2 (nbits n 22 2), data := BitVec.ofNat 64 (dwordAt l (p + 16)), id := ((x.replay[i]?).map (·.id)).getD 0 }

/-- A context from its context record (Table 16-4): the queues, the errors of its slots, and its replay entries, which name the
positions that stay reserved (R374). -/
def Ctx.ofRecord (x : Ctx) (l : List Byte) : Ctx :=
  let replay := (List.range (nbits (dwordAt l 0x2E0) 0 5)).map (replayAt x l)
  let y := x.loadQueues l
  let item (i : Nat) (d : LdqItem) : LdqItem :=
    let was := x.ldq.getD i d
    match replay.find? (fun r => r.kind != 2 && r.ldq == i) with
    | some r => { pos := was.pos, id := r.id, val := none }
    | none => { pos := was.pos, id := was.id, val := d.val }
  { y with
    ldq := (List.range y.ldq.length).map (fun i => item i (y.ldq.getD i ⟨0, 0, none⟩))
    sdq := (List.range y.sdq.length).map (fun i =>
      let d := y.sdq.getD i ⟨0, 0⟩
      { d with pos := (x.sdq.getD i d).pos })
    replay := replay
    err := BitVec.ofNat 7 (nbits (dwordAt l 0x150) 8 7), cause := BitVec.ofNat 28 (nbits (dwordAt l 0x150) 16 28) }

/-- A live context as its core's save block gives it. -/
def restoreCtx (m : List Host.Cell) (c k : Nat) (x : Ctx) : Ctx :=
  if x.live then (x.ofStateArea (memBytes m (saveArea c k + 0x680) 384)).ofRecord (memBytes m (contextRecordAt c k) 0x300) else x

/-- The macro-ops of a core, their words and the running one's next step from the matrix part of the owner's resume record. -/
def restoreQueue (m : List Host.Cell) (c : Nat) (v : Core) : List MacroOp :=
  match v.owner with
  | none => v.queue
  | some k =>
    let l := memBytes m (saveArea c k + 0x7C0) 32
    let word (i : Nat) : Nat := match i with
      | 0 => dwordAt l 0 % 2 ^ 32
      | 1 => dwordAt l 8 % 2 ^ 32
      | 2 => dwordAt l 8 / 2 ^ 32
      | _ => dwordAt l 16 % 2 ^ 32
    (List.range v.queue.length).filterMap (fun i => (v.queue[i]?).map (fun q =>
      { q with word := (decodeWord (BitVec.ofNat 32 (word i))).getD q.word
               step := if i = 0 then q.step / 8 * 8 + nbits (dwordAt l 0) 32 3 else q.step }))

/-- A plane of the matrix save area at `p`, its tag at `t`; an f64 plane has no f32 image and keeps its own elements (log 40). -/
def planeAt (m : List Host.Cell) (p t : Nat) (q : Plane) : Plane :=
  let n := leNat (memBytes m t 34)
  let fmt : BitVec 4 := BitVec.ofNat 4 (nbits n 6 4)
  { tid := BitVec.ofNat 6 n, fmt := fmt, sc := n.testBit 10, ld := n.testBit 11, scale := BitVec.ofNat 256 (nbits n 16 256)
    el := if fmt = 14 then q.el else (wordsAt m p 4096).map (fun e => (e.1, e.2.setWidth 64)) }

/-- An inbox entry of the image; the reply route of a matrix command is the model's. -/
def inboxEntryOf (m : List Host.Cell) (p : Nat) (e : InboxEntry) : InboxEntry :=
  let l := memBytes m p 72
  let h := dwordAt l 0
  { e with kind := BitVec.ofNat 3 h, port := BitVec.ofNat 4 (nbits h 3 4), gid := BitVec.ofNat 32 (nbits h 8 32)
           src := BitVec.ofNat 10 (nbits h 40 10), sdie := BitVec.ofNat 2 (nbits h 50 2)
           payload := (List.range (nbits h 52 4)).map (fun i => BitVec.ofNat 64 (dwordAt l (8 + 8 * i))) }

def offerOf (n : Nat) : OfferState :=
  match n with
  | 0 => .none
  | 1 => .pending
  | 2 => .fired
  | 3 => .retracting
  | _ => .dropped

/-- A port slot of the save block (Table 11-1). -/
def portSlotOf (m : List Host.Cell) (p : Nat) (q : PortSlot) : PortSlot :=
  let l := memBytes m p 80
  let n := dwordAt l 0
  { q with bound := n.testBit 0, conn := BitVec.ofNat 12 (nbits n 1 12), port := BitVec.ofNat 6 (nbits n 13 6), get := n.testBit 19
           wide := n.testBit 20, offer := offerOf (nbits n 21 3), blk := n.testBit 24, serial := BitVec.ofNat 8 (nbits n 25 8)
           parcel := (l.drop 16).take q.parcel.length }

/-- A core as its save block gives it, from what a stopped gang keeps of it. -/
def restoreCore (m : List Host.Cell) (c : Nat) (v : Core) : Core :=
  let b := Config.saveBlock c
  let modes := (memByte m (b + 0x1_6044)).toNat
  { v with
    ctxs := v.ctxs.map (fun e => (e.1, restoreCtx m c e.1 e.2))
    queue := restoreQueue m c v
    cacc := wordsAt m (b + 0x1_0000) 0x4000
    active := planeAt m (b + 0x1_4000) (b + 0x1_6000) v.active
    shadow := planeAt m (b + 0x1_5000) (b + 0x1_6022) v.shadow
    mode := ((List.range 4).map (fun n => (n, BitVec.ofNat 2 (nbits modes (2 * n) 2)))).filter (fun e => e.2 != 0)
    inbox := (List.range v.inbox.length).filterMap (fun i => (v.inbox[i]?).map (inboxEntryOf m (b + 0x1_8000 + 72 * i)))
    slots := v.slots.map (fun e => (e.1, portSlotOf m (b + 0x1_8900 + 80 * e.1) e.2))
    o7 := BitVec.ofNat 64 (leNat (memBytes m (b + 0x1_8E00) 8)), o7full := (memByte m (b + 0x1_8E08)).getLsbD 0 }

end Sys2Proof.Machine
end

