-- ==== Sys2Proof/Machine/Traps.lean ====
section
/-! DEFINITION. Trap instructions and returns (R380 to R383), asynchronous reports (R367), withdrawal of waiting instructions (R374)
and fibres (R378). TakeTrap itself and where a context goes on stand in Ops. -/

namespace Sys2Proof.Machine

/-! ## TRAP and SVC (R380) -/

/-- TRAP and SVC complete, then trap: each stream's saved PC is where it goes on. -/
def trapWord (code : Nat) (num : BitVec 8) : M Unit := do
  let s ← get
  let c ← coreNo
  let k ← ctxNo
  match (afterSlot c k .acc (s.modCtx c k (fun x => x.retireBoth))).bind (afterSlot c k .exe) with
  | none => stall
  | some s => stop (.trapWith { code := code, num := num, both := true } s)

def execTrap (k : BitVec 8) (s : State) : Host.Outcome State Fault Refusal := run (trapWord 0x20 k) s
def execSvc (k : BitVec 8) (s : State) : Host.Outcome State Fault Refusal := run (trapWord 0x21 k) s

/-! ## Withdrawal and replay (R374) -/

def sizeLog (n : Nat) : BitVec 2 := if n = 1 then 0 else if n = 2 then 1 else if n = 4 then 2 else 3

/-- The replay entry of a withdrawn request. -/
def replayOf (x : Ctx) (r : Req) : Replay :=
  { va := r.va
    ldq := (x.ldq.findIdx? (fun i => i.id == r.id)).getD 0
    kind := match r.op with
      | .readWhenFull false => 0
      | .readWhenFull true => 1
      | _ => 2
    sz := sizeLog r.size
    data := r.x.setWidth 64
    id := r.id }

/-- Insert by name: the recorded order is the order of issue. -/
def insertReplay (r : Replay) : List Replay → List Replay
  | [] => [r]
  | q :: l => if r.id ≤ q.id then r :: q :: l else q :: insertReplay r l

/-- The waiting requests of context `k` of core `c` that become replay entries. -/
def waitingRequests (c k : Nat) (s : State) : List Req :=
  let fe (r : Req) : Bool := r.core == c && r.ctx == k && mayWait r
  (s.cores.map (fun e => e.2.feWait.filter fe)).flatten ++
    s.agenda.filterMap (fun m => match m with
      | .homeRequest r => if fe r then some r else none
      | _ => none)

/-- The other requests of context `k` of core `c` that wait at a scratchpad, behind one that is withdrawn. -/
def behindWithdrawn (c k : Nat) (s : State) : List Req :=
  (s.cores.map (fun e => e.2.feWait.filter (fun r => r.core == c && r.ctx == k && !mayWait r))).flatten

/-- A context as withdrawal leaves it: `l` are its withdrawn requests, `after` those that are sent again behind them. -/
def Ctx.withdraw (x : Ctx) (l after : List Req) : Ctx :=
  let pend : List Pend := match x.wait with
    | some w => x.pend.filter (fun p => p.id != w.id || p.kind != .access)
    | none => x.pend
  { x with replay := l.foldl (fun q r => insertReplay (replayOf x r) q) x.replay
           deferred := after.map (fun r => { req := r, release := false }) ++ x.deferred, pend := pend, wait := none, atFollow := none }

/-- A port slot that no word of context `k` waits on any more. -/
def PortSlot.left (q : PortSlot) (k : Nat) : PortSlot := if q.owner = some k then { q with owner := none } else q

/-- Withdraw what context `k` of core `c` waits for: its LDFE and STFE.CLEAR requests become replay entries, a parked SIGWAIT is
removed (R330), and a word that was waiting for an answer executes again. -/
def withdraw (c k : Nat) (s : State) : State :=
  let l := waitingRequests c k s
  let after := behindWithdrawn c k s
  let s := takeRequests (fun r => r.core == c && r.ctx == k && (mayWait r || r.op == .sigwait || after.any (·.id == r.id))) s
  (s.modCtx c k (fun x => x.withdraw l after)).modCore c (fun v => { v with slots := v.slots.map (fun e => (e.1, e.2.left k)) })

/-- Send the replay entries again, in their recorded order, and then what waits behind them. -/
def sendReplays (c k : Nat) (s : State) : State :=
  let x := s.ctx c k
  let v := s.core c
  let req (r : Replay) : Req :=
    { core := c, ctx := k, id := r.id, asid := v.asid, gid := v.gid, va := r.va, size := 2 ^ r.sz.toNat
      op := if r.kind = 2 then .writeWhenEmpty else .readWhenFull (r.kind == 1)
      x := r.data.setWidth 512, y := 0, sx := false, dest := if r.kind = 2 then .none else .ldq, path := .plain, nt := false }
  kickDeferred c k ((x.replay.foldl (fun s r => s.send (.homeRequest (req r))) s).modCtx c k (fun x => { x with replay := [] }))

/-! ## RFT, WRPRIV, HALTX (R381 to R383) -/

/-- The trap record of a context, as a number of 32 bytes (Table 16-1). -/
def readRecord (c k : Nat) (s : State) : State × Nat :=
  let a := (s.ctx c k).area
  let s := wakeBankFor c k (areaBank a) s
  (s, s.load (spPlace c (a * 2048 + 0x7E0)) 32)

/-- The stream that evaluates the branch before a delay slot at `pc`, where one does. -/
def slotBranchBy (s : State) (c k : Nat) (pc : Dword) : Option Stream :=
  match fetchFor s c k (pc / 4 * 4 - 4) with
  | .ok (w, _) => (decodeWord w).bind evaluator
  | .error _ => none

/-- The words of straight text between two program counters that the stream ahead has passed and the other has still to execute, by
their distance: at most 256 are read. -/
def wordsBetween (s : State) (c k : Nat) (pca pce : Dword) : List (Nat × Instr) :=
  let lo := min pca.toNat pce.toNat / 4
  let lags (w : Word) (i : Instr) : Bool :=
    match wordOwner w with
    | .exe => decide (pce < pca)
    | .acc => decide (pca < pce)
    | .both => evaluator i == some (if pce < pca then .exe else .acc)
  (List.range (min 256 (max pca.toNat pce.toNat / 4 - lo))).filterMap (fun n =>
    match fetchFor s c k (BitVec.ofNat 64 (4 * (lo + n))) with
    | .ok (w, _) => (decodeWord w).bind (fun i => if lags w i then some (n, i) else none)
    | .error _ => none)

/-- RFT: privilege, replays, both streams at the saved PCs, the delay-slot record honoured and cleared. -/
def returnFromTrap (c k : Nat) (s : State) : State :=
  let (s, r) := readRecord c k s
  let s := sendReplays c k (s.modCtx c k (fun x => { (x.issued .acc).issued .exe with dev := nbits r 138 1 == 1, wait := none }))
  let pca : Dword := BitVec.ofNat 64 r
  let pce : Dword := BitVec.ofNat 64 (r / 2 ^ 64)
  let es := nbits r 136 1 == 1
  let by_ := slotBranchBy s c k (if es then pce else pca)
  let between := wordsBetween s c k pca pce
  s.modCtx c k (fun x => { x.resume pca pce es (x.ds.getLsbD 0) (x.ds / 4 * 4) by_ between with ds := 0 })

def execRft (s : State) : Host.Outcome State Fault Refusal :=
  run (do
    deviceOnly
    notInSlot
    waitAll
    modS (returnFromTrap (← coreNo) (← ctxNo))) s

def execWrpriv (a : BitVec 6) (s : State) : Host.Outcome State Fault Refusal :=
  run (do
    deviceOnly
    waitAll
    let v ← readS a
    illegalUnless (v.toNat / 2 = 0)
    modCtx (fun x => { x with dev := v.getLsbD 0 })
    retireBoth) s

def execHaltx (s : State) : Host.Outcome State Fault Refusal :=
  run (do
    deviceOnly
    waitAll
    retireBoth
    let c ← coreNo
    modS (fun s => (s.modCore c (fun v => { v with failed := true })).send (.coreFailure c false))) s

/-! ## Asynchronous reports (R367) -/

/-- An instruction of a context waits: a stream at its word, an access that has been sent to wait at its place, or a parked one (R195,
R198, R330). -/
def waitsNow (c k : Nat) (s : State) : Bool :=
  let x := s.ctx c k
  x.acc.blk || x.exe.blk || x.wait.isSome || !(waitingRequests c k s).isEmpty ||
    s.slices.any (fun e => e.2.waiters.any (fun w => w.req.core == c && w.req.ctx == k))

/-- STALL_TIMEOUT: an instruction of a context has waited for the watchdog period. A second report of a kind that is pending is
counted in the fault log only. -/
def stallTimeout (c k : Nat) (s : State) : State :=
  let x := s.ctx c k
  let d := coreDie c
  if !x.live || !waitsNow c k s then s
  else
    let s := s.modDie d (fun v => { v with wdReport := v.wdReport + 1 })
    if x.stallReport then logFault d (faultEntry 0x30 d) s
    else (s.modCtx c k (fun x => { x with stallReport := true })).send (.asyncReport c k)

def execStallTimeout (s : State) : Host.Outcome State Fault Refusal :=
  event (fun s => match s.ev with
    | .stallTimeout c k => stallTimeout c k s
    | _ => s) s

/-- No stream stands between a branch and its delay slot, nor between a HINT and its word (R367, log 48). -/
def Ctx.atBoundary (x : Ctx) : Bool :=
  (x.slotOf .acc).isNone && (x.slotOf .exe).isNone && x.acc.hint == .none && x.exe.hint == .none

/-- ASYNC_REPORT: a pending report is taken at a boundary, at user privilege; it is held till then. -/
def asyncReport (c k : Nat) (s : State) : State :=
  let x := s.ctx c k
  if !x.live || !(x.stallReport || x.poisonReport.isSome) then s
  else if x.dev || x.emulating || !x.atBoundary then s.send s.ev
  else
    let s := detachForTrap c k s
    let s :=
      if x.stallReport then
        takeTrap c k { code := 0x30, asy := true } false none ((withdraw c k s).modCtx c k (fun x => { x with stallReport := false }))
      else
        takeTrap c k { code := 0x31, asy := true, va := (x.poisonReport.getD 0).setWidth 80 } false none
          (s.modCtx c k (fun x => { x with poisonReport := none }))
    if x.stallReport && x.poisonReport.isSome then s.send (.asyncReport c k) else s

def execAsyncReport (s : State) : Host.Outcome State Fault Refusal :=
  event (fun s => match s.ev with
    | .asyncReport c k => asyncReport c k s
    | _ => s) s

/-! ## Fibres (R378) -/

def frameFlt (f : List Byte) : Bool := nbits (dwordAt f 0x18) 0 1 == 1

/-- The operand file and last-result file of a context in the state area of its area (Table 5-1). -/
def writeFiles (c k : Nat) (s : State) : State :=
  let x := s.ctx c k
  let p := spPlace c (x.area * 2048)
  let s := wakeBankFor c k (areaBank x.area) s
  let o := ((List.range 7).map (fun i => leBytes 8 (tget x.o i 0).toNat)).flatten
  let y := leBytes 8 x.y0.toNat ++ leBytes 8 x.y1.toNat ++ leBytes 8 x.y2.toNat ++ leBytes 8 x.y3.toNat
  (s.store (p + 0x700) 56 (leNat o)).store (p + 0x740) 32 (leNat y)

/-- They follow the area (R378). -/
def readFiles (c k : Nat) (s : State) : State :=
  let s := wakeBankFor c k (areaBank (s.ctx c k).area) s
  let at_ (off : Nat) : Dword := BitVec.ofNat 64 (s.load (spPlace c ((s.ctx c k).area * 2048 + off)) 8)
  s.modCtx c k (fun x => { x with o := (List.range 7).map (fun i => (i, at_ (0x700 + 8 * i))), y0 := at_ 0x740, y1 := at_ 0x748,
                                  y2 := at_ 0x750, y3 := at_ 0x758 })

/-- The context takes the area, files and return stack of another fibre (R378, R91). -/
def switchFibre (c k : Nat) (wp : Dword) (s : State) : State :=
  let x := s.ctx c k
  let s := switchArea c k wp (writeFiles c k s)
  let s := readFiles c k s
  s.modCtx c k (fun y =>
    let st := tset x.areaStacks x.area (x.rsA, x.rsE)
    let r := tget st y.area ([], [])
    { y with areaStacks := st, rsA := r.1, rsE := r.2 })

/-- Switch(F): the current fibre into Frame(a14), then the fibre of frame `fva`. `ret` holds for UPRET, which honours the
delay-slot record and clears flt. The workspace-guard fault stands behind the frame's write, as in the text of Switch (log 39). -/
def switchTo (fva : VA) (ret : Bool) : M Unit := do
  let a14 ← readA 14
  let c ← coreNo
  let k ← ctxNo
  let pc ← myPc
  let s ← get
  match writeFrame s c k a14 (frameHead (pc + 4) (pc + 4) (s.ctx c k).wp 0 0 0) with
  | .error code => accessFault code a14 .write true
  | .ok s1 => set s1
  let f ← readWord fva 512 true
  let wp : Dword := BitVec.ofNat 64 (dwordAt f 0x10)
  let s ← get
  if areaTaken s c k wp then stop (.trapWith { code := 0x0A, both := true } s)
  modS (switchFibre c k wp)
  let flags := dwordAt f 0x18
  if ret then
    let s ← get
    match writeBytesNow s c k (fva + 0x18) (leBytes 8 (flags / 2 * 2)) with
    | .error code => accessFault code fva .write true
    | .ok s1 => set s1
  let pca : Dword := BitVec.ofNat 64 (dwordAt f 0)
  let pce : Dword := BitVec.ofNat 64 (dwordAt f 8)
  let es := nbits flags 16 1 == 1
  let by_ := slotBranchBy (← get) c k (if es then pce else pca)
  let between := wordsBetween (← get) c k pca pce
  modCtx (fun x =>
    let x := ((x.issued .acc).issued .exe).loadQueues (f.drop 0x40)
    { x.resume pca pce es (ret && nbits flags 1 1 == 1) (BitVec.ofNat 64 (dwordAt f 0x20) / 4 * 4) by_ between with wait := none })

/-- FIBSW and UPRET wait until every earlier instruction has completed and no slot is pending. -/
def waitQuiet : M Unit := do if !(← getCtx).pend.isEmpty then stall

def execFibsw (a : BitVec 4) (s : State) : Host.Outcome State Fault Refusal :=
  run (do
    notInSlot
    let fva ← readA a
    let f ← readWord fva 0x38 true
    illegalUnless (!frameFlt f)
    waitQuiet
    switchTo fva false) s

/-- The notice dword of a frame, in region 0xD (Table 16-5); a notice field of 0 names none (R275). -/
def noticeVa (f : List Byte) : VA := BitVec.ofNat 80 (0xD000 * 2 ^ 64 + dwordAt f 0x38)

/-- UPRET: once the notice says so, both streams go on as the frame has it (R378). A frame that names no notice waits (log 113). -/
def execUpret (a : BitVec 4) (s : State) : Host.Outcome State Fault Refusal :=
  run (do
    notInSlot
    let fva ← readA a
    let f ← readWord fva 0x40 true
    illegalUnless (frameFlt f)
    waitQuiet
    if dwordAt f 0x38 = 0 then stall
    let nva := noticeVa f
    let v := leNat (← readWord nva 8 true)
    if v = 0 then stall
    let c ← coreNo
    let k ← ctxNo
    let s ← get
    match writeBytesNow s c k nva (leBytes 8 0) with
    | .error code => accessFault code nva .write true
    | .ok s1 => set s1
    if v = 1 then switchTo fva true
    else do
      let flags := dwordAt f 0x18
      let va : VA := BitVec.ofNat 80 (dwordAt f 0x28 + dwordAt f 0x30 % 2 ^ 16 * 2 ^ 64)
      let t : TrapInfo := { code := 0x06, va := va, pcs := some (BitVec.ofNat 64 (dwordAt f 0), BitVec.ofNat 64 (dwordAt f 8)) }
      let slot := if nbits flags 1 1 = 1 then some (nbits flags 2 1 == 1, (BitVec.ofNat 64 (dwordAt f 0x20) : Dword)) else none
      let s ← get
      stop (.instead (takeTrap c k t (nbits flags 16 1 == 1) slot (detachForTrap c k s)))) s

end Sys2Proof.Machine
end

