-- ==== Sys2Proof/Machine/Gangs.lean ====
section
/-! DEFINITION. Gang-stop and resume (R373 to R375, R88, R89, R121, R125, R271, R272, R340), placement (R362), failures and spares
(R369 to R372), migration by the balancer (R361). -/

namespace Sys2Proof.Machine

/-! ## Gang-stop (R373) -/

/-- A follow group halts at a common boundary: none of its control contexts before all may (R117). -/
def groupMayHalt (s : State) (c : Nat) : Bool :=
  let l := leaderIn s c
  !inGroup s c || (l :: followersOf s l).all (fun m => mayHalt (s.core m) (s.ctx m 0))

/-- Halt every context of a gang that may be halted now. -/
def haltContexts (g : Gang) (s : State) : State :=
  { s with ring := s.ring.filter (fun e =>
      !(g.cores.contains e.1 && mayHalt (s.core e.1) (s.ctx e.1 e.2.1) && (e.2.1 != 0 || groupMayHalt s e.1))) }

def allHalted (g : Gang) (s : State) : Bool := !s.ring.any (fun e => g.cores.contains e.1)

/-- Each core retracts its pending offers (R271). -/
def retractOffers (c : Nat) (s : State) : State :=
  (List.range 16).foldl (fun s p =>
    let q := s.port c p
    if q.offer = .pending && q.ans != some 8 then
      (s.setPort c p { q with offer := .retracting, ans := some 9 }).send
        (.retractMessage (connKs q.conn) (connIdx q.conn) q.port.toNat c p q.serial)
    else s) s

/-- WAITA waiters of a gang are woken (R199). -/
def wakeWaiters (g : Gang) (s : State) : State :=
  s.slices.foldl (fun s e =>
    e.2.waiters.foldl (fun s w => if w.req.op == .waita && g.cores.contains w.req.core then s.send (.waitaTimeout e.1 w.req.id) else s) s) s

def eachCtx (s : State) (g : Gang) (f : Nat → Nat → State → State) : State :=
  g.cores.foldl (fun s c => (s.core c).ctxs.foldl (fun s e => f c e.1 s) s) s

/-- Step 3 of R373 for a gang whose contexts have halted: retractions, wakes, withdrawals. -/
def quiesce (g : Gang) (s : State) : State :=
  let s := g.cores.foldl (fun s c => retractOffers c s) s
  eachCtx (wakeWaiters g s) g withdraw

/-- A message in flight that an inbox of a gang has room for: it drains into the inbox (R237). -/
def drains (g : Gang) (s : State) (m : Msg) : Bool :=
  match m with
  | .inboxArrival c e => g.cores.contains c && e.gid == g.gid &&
      (e.kind == 2 || decide (((s.core c).inbox.filter (fun e => e.kind != 2)).length < 16))
  | _ => false

/-- Everything that steps 3 and 4 wait for is over: accesses, retractions, messages in flight, operators and running jobs. -/
def isQuiet (g : Gang) (s : State) : Bool :=
  let open_ (x : Ctx) : Bool := x.pend.any (fun p => p.kind.isAccess && !x.withdrawn p.id)
  !g.cores.any (fun c => (s.core c).ctxs.any (fun e => open_ e.2) || (s.core c).slots.any (fun e => e.2.offer == .retracting)) &&
    !s.agenda.any (drains g s) &&
    !s.dies.any (fun e => e.2.ops.any (fun j => j.gid == g.gid) || e.2.jobs.any (fun j => j.gid == g.gid && j.running))

/-- A context as gang-stop leaves it: detached from its follow group, owed the units that it held (R117, R340). -/
def Ctx.stopped (x : Ctx) : Ctx := { x with fol := false, ldr := false, atFollow := none, owed := x.owed + x.held, held := 0 }

/-- A port slot as gang-stop saves it: a PBIND that waited for its answer executes again. -/
def PortSlot.stopped (q : PortSlot) : PortSlot :=
  { q with owner := none, asker := none, ans := if q.ans = some 8 then q.ans else none }

/-- The messages of a PBIND that has been halted. -/
def bindTraffic (cores : List Nat) (m : Msg) : Bool :=
  match m with
  | .bindMsg _ _ _ c _ _ _ _ => cores.contains c
  | .unbindMsg _ _ _ c _ => cores.contains c
  | .back c _ _ => cores.contains c
  | .bref c _ => cores.contains c
  | _ => false

/-- What the PBINDs of a core that gang-stop halts have taken goes back: they execute again. -/
def returnTaken (c : Nat) (s : State) : State :=
  (s.core c).slots.foldl (fun s e => match e.2.asker with
    | some k => giveBack c k e.2.took s
    | none => s) s

/-- A core as gang-stop saves it. -/
def Core.stopped (v : Core) : Core :=
  { v with ctxs := v.ctxs.map (fun e => (e.1, e.2.stopped)), queue := v.queue.map (fun m => { m with owed := true })
           slots := v.slots.map (fun e => (e.1, e.2.stopped))
           follower := false, trail := [], l1 := [], cc := [], ic := [], gran := [], bank := [], full := [], l1Hit := 0, l1Miss := 0
           failed := false, fenced := false }

/-- Steps 4 and 5 of R373: permits back, each stream at its next word, contexts unloaded, cores saved; the scratchpads stay in place (R375). -/
def finishStop (g : Gang) (s : State) : State :=
  let s := eachCtx (releaseUnits g s) g goOn
  let s := g.cores.foldl (fun s c => returnTaken c s) s
  let s := eachCtx { s with agenda := s.agenda.filter (fun m => !bindTraffic g.cores m) } g unload
  let s := g.cores.foldl (fun s c => saveCore c s) s
  let saved := g.cores.foldl (fun t c => tset t c (s.core c).stopped) []
  let s := g.cores.foldl (fun s c => s.modCore c (fun v => { v.left with gran := v.gran, bank := v.bank, full := v.full })) s
  let s := { s with dies := s.dies.map (fun e => (e.1, { e.2 with passes := e.2.passes.map (fun p =>
    if p.gid = g.gid then { p with paused := true } else p) })) }
  placeAgain (modGang g.gid (fun g => { g with stopped := true, stopping := false, savedCores := saved }) s)

/-- GANG_STOP: the stop goes on until the gang is stopped. -/
def gangStop (gid : BitVec 32) (s : State) : State :=
  match findGang s gid with
  | none => s
  | some g =>
    if g.stopped then s
    else
      let s := haltContexts g (modGang gid (fun g => { g with stopping := true }) s)
      if !allHalted g s then s.send s.ev
      else
        let s := quiesce g s
        if isQuiet g s then finishStop g s else s.send s.ev

def execGangStop (s : State) : Host.Outcome State Fault Refusal :=
  event (fun s => match s.ev with
    | .gangStop gid => gangStop gid s
    | _ => s) s

/-! ## Resume (R89, R271, R272, R375) -/

/-- The granules of the live contexts' areas after a restore: absent, but those recorded absent-zero or dead (R89, log 34). -/
def restoreGranules (v : Core) : Core :=
  v.ctxs.foldl (fun v e =>
    if e.2.live then
      (List.range 26).foldl (fun v g =>
        match v.granule e.2.area g with
        | .present _ => v.setGranule e.2.area g .absent
        | _ => v) v
    else v) v

/-- The state areas of the live contexts come from their save areas (R89). `m` is the save block as the device reads it. -/
def restoreAreas (m : List Host.Cell) (c : Nat) (s : State) : State :=
  (s.core c).ctxs.foldl (fun s e =>
    if e.2.live then
      let p := spPlace c (e.2.area * 2048 + 0x680)
      { s with mem := memSetBytes s.mem p (memBytes m (saveArea c e.1 + 0x680) 384), flaws := healed s.flaws p 384 }
    else s) s

/-- What a halted PBIND of a gang left at Keystones for slot `p` of core `old` is cleared, but for the slot's own binding. -/
def clearBindings (gid : BitVec 32) (old p : Nat) (q : PortSlot) (s : State) : State :=
  s.keystones.foldl (fun s e =>
    e.2.conns.foldl (fun s f =>
      f.2.binds.foldl (fun s b =>
        let own := q.bound && 16 * e.1 + f.1 == q.conn.toNat && b.1 == q.port.toNat
        if f.1 < 16 && b.2.gid == gid && b.2.core == old && b.2.slot == p && !own then setBinding e.1 f.1 b.1 none s else s) s) s) s

/-- A saved slot on the core that now holds the rank: bound again, its parked offer sent afresh; a connector that has gone in
the meantime is dropped (R268, R271, R272). -/
def rebind (old c p : Nat) (s : State) : State :=
  let q := s.port c p
  let gid := (s.core c).gid
  let s := clearBindings gid old p q s
  if !q.bound then s
  else
    let k := connKs q.conn
    let i := connIdx q.conn
    let conn := connAt s k i
    if !conn.loaded || !(tfind conn.binds q.port.toNat).any (fun b => b.core == old && b.slot == p && b.gid == gid) then
      (if q.offer = .pending then dropOffer c p s else s.setPort c p { q with bound := false })
    else
      let s := setBinding k i q.port.toNat (some ⟨c, p, q.wide, gid⟩) s
      if q.offer = .pending && q.ans = some 8 then sendOffer c p { q with ans := none } s else s

/-- The save blocks of a gang's cores follow their ranks: each is read before any is written. -/
def moveBlocks (g : Gang) (cores : List Nat) (base s : State) : State :=
  (List.range cores.length).foldl (fun s i => copyBlock base (gangBlock base.plinth g (nth g.cores i 0)) (nth cores i 0) s) s

/-- The address of a scratchpad that a request names follows the rank that it belongs to (log 40). -/
def moveVa (f : Nat → Nat) (va : VA) : VA :=
  if vaRegion va = 15 && va.getLsbD 30 then
    va.extractLsb' 30 50 ++ BitVec.ofNat 12 (f (nbits va.toNat 18 12)) ++ va.extractLsb' 0 18
  else va

/-- The requests that a context sends again or has still to send, its gang having moved. -/
def Ctx.moveRequests (f : Nat → Nat) (x : Ctx) : Ctx :=
  { x with replay := x.replay.map (fun r => { r with va := moveVa f r.va })
           deferred := x.deferred.map (fun h => { h with req := { h.req with va := moveVa f h.req.va } }) }

/-- Rank `i` of a gang on its core: from the core's save block, and what the gang keeps of it under core `old`. A scratchpad that
comes from an image has the areas of its contexts restored; one that stayed in place is as it was (R89, R375). `f` gives the core on
which each rank's core goes on. -/
def resumeRank (g : Gang) (f : Nat → Nat) (i old c : Nat) (s : State) : State :=
  let m := memPart (deviceView s (Config.saveBlock c) 0x2_0000) (Config.saveBlock c) 0x2_0000
  let saved := restoreCore m c (tget g.savedCores old {})
  let image := s.plinth.imgUsed.find? (fun e => e.2 == (g.gid, i))
  let s := match image with
    | some e => (loadImage c e.1 s).modPlinth (fun p => { p with imgUsed := terase p.imgUsed e.1 })
    | none => s
  let live := s.core c
  let v : Core := { saved with
    ctxs := saved.ctxs.map (fun e => (e.1, e.2.moveRequests f)), l1 := live.l1, cc := live.cc, ic := live.ic, l1Hit := live.l1Hit
    l1Miss := live.l1Miss, gran := live.gran, bank := live.bank, full := live.full, gid := g.gid, asid := g.launch.asid }
  let s := if image.isSome then restoreAreas m c (s.setCore c (restoreGranules v)) else s.setCore c v
  let s := (List.range 16).foldl (fun s p => rebind old c p s) s
  (s.core c).ctxs.foldl (fun s e =>
    let s := sendReplays c e.1 s
    let s := if e.2.stallReport || e.2.poisonReport.isSome then s.send (.asyncReport c e.1) else s
    if e.2.live then ringAdd c e.1 s else s) s

/-- What the device holds under a core's name follows the rank: arrivals, jobs, passes, and the owners of segment channels. -/
def retarget (gid : BitVec 32) (f : Nat → Nat) (s : State) : State :=
  let msg (m : Msg) : Msg := match m with
    | .inboxArrival c e => if e.gid = gid then .inboxArrival (f c) e else m
    | m => m
  let job (j : Job) : Job := if j.gid = gid then { j with core := f j.core } else j
  let chan (q : Chan) : Chan := if q.isOpen then { q with owner := (f q.owner.1, q.owner.2) } else q
  { s with agenda := s.agenda.map msg
           ashlars := s.ashlars.map (fun e => (e.1, if e.2.gid = gid then { e.2 with chans := e.2.chans.map (fun q => (q.1, chan q.2)) } else e.2))
           dies := s.dies.map (fun e => (e.1, { e.2 with
      jobs := e.2.jobs.map job
      passes := e.2.passes.map (fun p => if p.gid = gid then { p with core := f p.core, paused := false } else p) })) }

/-- The cores of a stopped gang are set going. -/
def kickGang (g : Gang) (cores : List Nat) (s : State) : State :=
  let s := cores.foldl (fun s c => kickCommand c (kickMessage c (kickMatrix c s))) s
  let s := (List.range 4).foldl (fun s d =>
    let b := BitVec.ofNat 2 d
    let s := if (s.die d).passes.any (fun p => p.gid == g.gid) then sendOnce (.passRoundStart b) s else s
    if (s.die d).jobs.any (fun j => j.gid == g.gid) then s.send (.jobDispatch b) else s) s
  let s := if g.preds.isEmpty then s else cores.foldl (fun s c => s.send (.successorOverlapStoresDone c)) s
  if allRetired s { g with cores := cores } then s.send (.gangComplete g.gid) else s

/-- The `gid` word names the die that the gang runs on (Table 5-5). -/
def setDieField (d c : Nat) (s : State) : State :=
  s.modCore c (fun v => { v with ctxs := v.ctxs.map (fun e => (e.1, { e.2 with gid := BitVec.ofNat 64 (e.2.gid.toNat % 2 ^ 32 + d * 2 ^ 32) })) })

/-- A stopped gang goes on at a place that is open. -/
def resumeAt (g : Gang) (d x y : Nat) (s : State) : State :=
  let cores := coresOf g.launch.record d x y
  let f (c : Nat) : Nat := match g.cores.findIdx? (· == c) with
    | some i => nth cores i c
    | none => c
  let s := moveBlocks g cores s s
  let s := (List.range cores.length).foldl (fun s i => resumeRank g f i (nth g.cores i 0) (nth cores i 0) s) s
  let s := cores.foldl (fun s c => setDieField d c s) (moveStream g.gid g.die d (retarget g.gid f s))
  let s := modGang g.gid (fun g => { g with die := d, x := x, y := y, cores := cores, stopped := false, waits := false, imaged := false,
                                            savedCores := [] }) s
  kickGang g cores s

/-- GANG_RESUME: a stopped gang resumes at a place, whose cores other stopped gangs leave first. It waits for another place
where that one is not open, or its images cannot be written (R375). -/
def gangResume (gid : BitVec 32) (d x y : Nat) (s : State) : State :=
  match findGang s gid with
  | none => s
  | some g =>
    if g.stopping then s.send s.ev
    else if !g.stopped then s
    else
      let cores := coresOf g.launch.record d x y
      let wait (s : State) : State := modGang gid (fun g => { g with waits := true }) s
      if !placeOpen s g.launch.record gid (coreFree s gid) (d, x, y) || !streamRoom s gid g.die d then wait s
      else if cores != g.cores && !g.imaged && !mayVacate s g then wait s
      else
        let s := if cores != g.cores && !g.imaged then vacate g s else s
        match vacateAll gid cores s with
        | none => wait s
        | some s => resumeAt ((findGang s gid).getD g) d x y s

def execGangResume (s : State) : Host.Outcome State Fault Refusal :=
  event (fun s => match s.ev with
    | .gangResume gid d x y => gangResume gid d x y s
    | _ => s) s

/-! ## Placement (R20, R349, R362) -/

/-- The place of a stopped gang that waits: where it stopped, when that is still open, or the first place of its class. -/
def resumePlace (s : State) (g : Gang) : Option (Nat × Nat × Nat) :=
  if !g.imaged && placeOpen s g.launch.record g.gid (coreFree s g.gid) (g.die, g.x, g.y) then some (g.die, g.x, g.y)
  else if !g.imaged && !mayVacate s g then none
  else placeFor s g.launch.record g.launch.lat g.gid (fun c => coreFree s g.gid c && streamRoom s g.gid g.die (coreDie c))

/-- Serve one class: a stopped gang that waits, then the waiting records in their order. None when nothing can be placed. -/
def placeClass (lat : Bool) (s : State) : Option State :=
  match (s.plinth.gangs.filter (fun g => g.stopped && g.waits && g.launch.lat == lat)).findSome? (fun g =>
      (resumePlace s g).map (fun o => (g, o))) with
  | some (g, d, x, y) => some ((modGang g.gid (fun g => { g with waits := false }) s).send (.gangResume g.gid d x y))
  | none =>
    (s.plinth.waiting.filter (fun l => l.lat == lat)).findSome? (fun l =>
      (tryPlace l s).map (fun s => s.modPlinth (fun p => { p with waiting := removeFirst (· == l) p.waiting })))

/-- GANG_PLACEMENT: one gang is placed, the latency class first; for latency records without a place bulk gangs are stopped. -/
def gangPlacement (s : State) : State :=
  match placeClass true s with
  | some s => placeAgain s
  | none =>
    let s := demand s.plinth.waiting s
    match placeClass false s with
    | some s => placeAgain s
    | none => s

def execGangPlacement (s : State) : Host.Outcome State Fault Refusal := event gangPlacement s

/-! ## Failures and spares (R369 to R372) -/

/-- The lowest spare of a die that is neither mapped nor failed (R14: 32 spares). -/
def freeSpare (v : Die) : Option Nat := (List.range 32).find? (fun n => (tfind v.spares n).isNone && !v.badSpares.contains n)

/-- A spare takes the coordinate of a failed core: empty caches, a zeroed scratchpad (R371). -/
def mapSpare (c n : Nat) (s : State) : State :=
  let s := (scrubCore c s).setCore c {}
  s.modDie (coreDie c) (fun v => { v with
    badSpares := v.badSpares ++ (v.spares.filter (fun e => e.2 == c % 1024)).map (·.1)
    spares := tset (v.spares.filter (fun e => e.2 != c % 1024)) n (c % 1024) })

/-- The gang that a core holds, running or stopped in place. -/
def gangAt (s : State) (c : Nat) : Option Gang := s.plinth.gangs.find? (fun g => !g.imaged && g.cores.contains c)

/-- The gang of a failed core has stopped: it ends with a gang fault, or resumes with a spare, or on any rectangle (R369). -/
def afterFailure (g : Gang) (c : Nat) (lost : Bool) (s : State) : State :=
  if lost then (releaseGang g 4 s).modCore c (fun v => { v with fenced := true })
  else if !mayVacate s g then s.send s.ev
  else
    let s := vacate g s
    match freeSpare (s.die (coreDie c)) with
    | some n => (mapSpare c n s).send (.gangResume g.gid g.die g.x g.y)
    | none => placeAgain (modGang g.gid (fun g => { g with waits := true }) (s.modCore c (fun v => { v with fenced := true })))

/-- A present granule of a live context of a core meets an uncorrectable error when it is read (R369, R375). -/
def stateFlawed (s : State) (c : Nat) : Bool :=
  let kept : List (Nat × Ctx) := match gangAt s c with
    | some g => (tget g.savedCores c {}).ctxs
    | none => []
  ((s.core c).ctxs ++ kept).any (fun e => e.2.live && (List.range 26).any (fun g =>
    match (s.core c).granule e.2.area g with
    | .present _ => s.flawed (spPlace c (e.2.area * 2048 + 64 * g)) 64
    | _ => false))

/-- CORE_FAILURE: a core has failed; `lost` says that its state could not be read (R368, R369). -/
def coreFailure (c : Nat) (lost : Bool) (s : State) : State :=
  let lost := lost || (!s.flaws.isEmpty && stateFlawed s c)
  let s := s.modCore c (fun v => { v with failed := true })
  match gangAt s c with
  | none => s.modCore c (fun v => { v with fenced := true })
  | some g =>
    if g.stopped then afterFailure g c lost s
    else
      let s := if g.stopping then s
        else (modGang g.gid (fun g => { g with stopping := true, faulted := lost }) s).send (.gangStop g.gid)
      s.send s.ev

def execCoreFailure (s : State) : Host.Outcome State Fault Refusal :=
  event (fun s => match s.ev with
    | .coreFailure c lost => if c < 4096 then coreFailure c lost s else s
    | _ => s) s

def execSparemap (d a : BitVec 6) (s : State) : Host.Outcome State Fault Refusal :=
  run (do
    deviceOnly
    let n := (← readS a).toNat
    illegalUnless (n / 2 ^ 15 = 0)
    let s ← get
    let die := coreDie (← coreNo)
    let c := 1024 * die + nbits n 0 10
    let k := nbits n 10 5
    if (tfind (s.die die).spares k).isSome || (s.die die).badSpares.contains k then finishBoth d 1
    else if !(s.core c).failed then finishBoth d 2
    else if (gangAt s c).isSome then stall
    else do
      modS (fun s => placeAgain (mapSpare c k s))
      finishBoth d 0) s

def execControlCoreFailover (s : State) : Host.Outcome State Fault Refusal :=
  event (fun s => match s.ev with
    | .controlCoreFailover d =>
      let s := s.modDie d.toNat (fun v => { v with standby := !v.standby })
      (s.die d.toNat).emuRecords.foldl (fun s r => s.send (.emulationComplete r.core)) s
    | _ => s) s

def execHbmRowRemap (s : State) : Host.Outcome State Fault Refusal :=
  event (fun s => match s.ev with
    | .hbmRowRemap stack row spare => s.modPlinth (fun p => { p with rowMaps := p.rowMaps ++ [(stack.toNat, row, spare)] })
    | _ => s) s

def execBexuzLaneFailure (s : State) : Host.Outcome State Fault Refusal :=
  event (fun s => match s.ev with
    | .bexuzLaneFailure port => s.modPlinth (fun p => { p with lanes := insertNat port p.lanes })
    | _ => s) s

/-! ## The balancer (R361) -/

def runQueue (s : State) (c : Nat) : List (Nat × BitVec 32 × Nat) := tget (s.die (coreDie c)).runQ c []
def setRunQueue (c : Nat) (l : List (Nat × BitVec 32 × Nat)) (s : State) : State :=
  s.modDie (coreDie c) (fun v => { v with runQ := if l.isEmpty then terase v.runQ c else tset v.runQ c l })

/-- A node of a graph admitted under a latency work queue. -/
def nodeLatency (s : State) (n : Nat × BitVec 32 × Nat) : Bool := (s.die n.1).graphs.any (fun g => g.num == n.2.1 && g.lat)

/-- Move up to `n` not-yet-started nodes, newest first; the number moved counts. -/
def moveNodes (src dst : Nat) : Nat → State → State × Nat
  | 0, s => (s, 0)
  | n + 1, s =>
    let from_ := runQueue s src
    let there := runQueue s dst
    match from_.getLast? with
    | none => (s, 0)
    | some q =>
      if 4 ≤ there.length || (nodeLatency s q && !isReserved s dst) then (s, 0)
      else
        let r := moveNodes src dst n (setRunQueue dst (there ++ [q]) (setRunQueue src from_.dropLast s))
        (r.1, r.2 + 1)

/-- BALANCER_TICK: one migration command (R361); a pinned gang stays (log 35). -/
def balancerTick (src dst n : Nat) (s : State) : State :=
  if src = dst || 4096 ≤ src || 4096 ≤ dst then s
  else
    let (s, moved) := moveNodes src dst n s
    let s := if moved = 0 then s else s.send (.nodeDispatch (BitVec.ofNat 2 (coreDie src)))
    if n ≤ moved || !coreFree s 0 dst then s
    else
      match gangOn s src with
      | none => s
      | some g =>
        if g.cores.length = 1 && !g.launch.lat && g.launch.node.isSome && !g.stopping && !recPin g.launch.record then
          ((modGang g.gid (fun g => { g with stopping := true }) s).send (.gangStop g.gid)).send
            (.gangResume g.gid (coreDie dst) (coreX dst) (coreY dst))
        else s

def execBalancerTick (s : State) : Host.Outcome State Fault Refusal :=
  event (fun s => match s.ev with
    | .balancerTick src dst n => balancerTick src dst n s
    | _ => s) s

end Sys2Proof.Machine
end

