-- ==== Sys2Proof/Machine/Perf.lean ====
section
/-! DEFINITION. The cycle count and the performance counters: major 0x09 (R341, Table 14-9). -/

namespace Sys2Proof.Machine

/-- RDCYC: the die's cycle count. The manual does not fix how many cycles pass: the count grows by a free number at each reading
(Config.elapsed; log 5). -/
def execRdcyc (d : BitVec 6) (s : State) : Host.Outcome State Fault Refusal :=
  run (do
    let s ← get
    let t := s.clock + Config.elapsed s.draws
    set { s.drawn with clock := t }
    finish d (BitVec.ofNat 64 t)) s

/-- The counter that a selector names for context `k` of core `c` (Table 14-9); an unassigned selector reads 0. -/
def perfCounter (s : State) (c k : Nat) (n : Dword) : Dword :=
  let x := s.ctx c k
  let d := s.die (coreDie c)
  match n.toNat with
  | 0 => x.accIssue | 1 => x.exeIssue | 2 => x.granFill | 3 => x.bankWake | 4 => x.permitWait | 5 => x.queueStall
  | 6 => (s.core c).l1Hit | 7 => (s.core c).l1Miss
  | 16 => d.pinBypass | 17 => d.rampFill | 18 => d.mrgStall | 19 => d.pgRefetch | 20 => d.llcMiss | 21 => d.ingressWait
  | 22 => d.pageMode | 23 => d.wdReport
  | _ => 0

def execRdperf (d a : BitVec 6) (s : State) : Host.Outcome State Fault Refusal :=
  run (do
    let n ← readS a
    let s ← get
    finish d (perfCounter s s.cur.core s.cur.ctxNo n)) s

end Sys2Proof.Machine
end

