-- ==== Sys2Proof/Machine/Tasks.lean ====
section
/-! DEFINITION. Task graphs (R298, R299, R408): TNSUB, the ready pool and its dispatch (R358, R361), completion of nodes (R333,
R359, R360). -/

namespace Sys2Proof.Machine

/-! ## Graphs in memory (Tables 12-14, 12-15) -/

def nodePrio (r : BitVec 512) : Nat := nbits r.toNat 0 3
def nodeEx (r : BitVec 512) : Bool := r.getLsbD 3
def nodeDeps (r : BitVec 512) : Nat := nbits r.toNat 16 16
def nodeNs (r : BitVec 512) : Nat := nbits r.toNat 32 16
def nodeWork (r : BitVec 512) : Nat := nbits r.toNat 64 64
def nodeSig (r : BitVec 512) : VA := signalVa (nbits r.toNat 128 64)
def nodeSucc (r : BitVec 512) : Nat := nbits r.toNat 192 64
def nodeArgs (r : BitVec 512) : List Dword := (List.range 4).map (fun i => BitVec.ofNat 64 (nbits r.toNat (256 + 64 * i) 64))

/-- A header without the faults of R299. -/
def graphHeaderOk (h : Nat) : Bool :=
  decide (1 ≤ nbits h 0 13) && decide (nbits h 0 13 ≤ 4096) && nbits h 13 3 == 0 && nbits h 32 32 == 0 && h / 2 ^ 128 == 0

/-- What a reader of graph records gives: bytes at an address, aligned as the last argument says. -/
abbrev Reader (ε : Type) := Nat → Nat → Nat → StateT State (Except ε) (List Byte)

/-- The work of a node as it is read at admission: a launch record or a job card, when it passes its checks (R293, R290). -/
def readWork {ε : Type} (rd : Reader ε) (hi : Nat) (r : BitVec 512) : StateT State (Except ε) (Option (List Byte)) := do
  let va := hi + nodeWork r
  if va % 64 ≠ 0 then return none
  if nodeEx r then
    let l ← rd va 64 64
    return if cardOk (leNat l) && !(cardFootprint (leNat l)).isEmpty then some l else none
  else
    let l ← rd va 256 64
    return if recordOk (BitVec.ofNat 2048 (leNat l)) false then some l else none

/-- Node `i` of a graph of `nn` nodes at its record; none for a bad graph. A misaligned record or successor list is a fault of the
load that reads it (R299). -/
def readNode {ε : Type} (rd : Reader ε) (hi nodes nn i : Nat) : StateT State (Except ε) (Option Node) := do
  let r : BitVec 512 := BitVec.ofNat 512 (leNat (← rd (hi + (nodes + 64 * i) % 2 ^ 64) 64 64))
  let l ← if nodeNs r = 0 then pure [] else rd (hi + nodeSucc r) (4 * min 4095 (nodeNs r)) 4
  let words := (List.range (min 4095 (nodeNs r))).map (fun j => leNat ((l.drop (4 * j)).take 4))
  match ← readWork rd hi r with
  | none => return none
  | some w =>
    if nbits r.toNat 4 12 ≠ 0 || nbits r.toNat 48 16 != 0 || 4095 < nodeNs r || words.any (fun x => decide (nn ≤ x % 2 ^ 16) || x / 2 ^ 16 != 0) then return none
    else
      return some { record := r, succs := words.map (· % 2 ^ 16), work := w, count := BitVec.ofNat 16 (nodeDeps r), ready := none,
                    dispatched := false, done := false, gangId := 0 }

/-- The nodes of a graph from node `i` on, `n` of them. -/
def readNodes {ε : Type} (rd : Reader ε) (hi nodes nn : Nat) : Nat → Nat → StateT State (Except ε) (Option (Table Node))
  | 0, _ => return some []
  | n + 1, i => do
    match ← readNode rd hi nodes nn i with
    | none => return none
    | some q =>
      match ← readNodes rd hi nodes nn n (i + 1) with
      | none => return none
      | some t => return some ((i, q) :: t)

/-- Read a whole graph: its chi and its nodes; none for a bad graph (R299). -/
def readGraph {ε : Type} (rd : Reader ε) (va : Nat) : StateT State (Except ε) (Option (BitVec 16 × Table Node)) := do
  let h := leNat (← rd va 64 64)
  if !graphHeaderOk h then return none
  else
    let chi := nbits h 16 16
    match ← readNodes rd (chi * 2 ^ 64) (nbits h 64 64) (nbits h 0 13) (nbits h 0 13) 0 with
    | none => return none
    | some t => return some (BitVec.ofNat 16 chi, t)

/-- The nodes that a die's pool holds, those reserved by staged graphs counted on the Plinth's die (R299, R386). -/
def poolNodes (s : State) (d : Nat) : Nat :=
  let held := ((s.die d).graphs.map (fun g => g.nodes.length)).foldl (· + ·) 0
  if d = 0 then
    s.plinth.interps.foldl (fun n e => e.2.staged.foldl (fun n f => match f with
      | .graph g => n + g.nodes.length
      | _ => n) n) held
  else held

/-- Admit a graph: every node without dependencies is ready at once. -/
def enterPool (d : Nat) (g : Graph) (s : State) : State :=
  let ready (q : Node) : Node := if q.count = 0 then { q with ready := some s.stamp } else q
  let g := { g with nodes := g.nodes.map (fun e => (e.1, ready e.2)) }
  ({ s.modDie d (fun v => { v with graphs := v.graphs ++ [g] }) with stamp := s.stamp + 1 }).send (.nodeDispatch (BitVec.ofNat 2 d))

/-- The status word of an admission. -/
def admitWord (num : BitVec 32) (d status : Nat) : Dword :=
  BitVec.ofNat 64 ((if status = 0 then num.toNat else 0) + d * 2 ^ 32 + status * 2 ^ 62)

/-- Reads with the alignment, translation and faults of loads. -/
def loadReader : Reader Stop := fun va n al => do
  if va % al ≠ 0 then trapVa 0x03 (BitVec.ofNat 80 va)
  readWord (BitVec.ofNat 80 va) n true

def execTnsub (d : BitVec 6) (a : BitVec 4) (s : State) : Host.Outcome State Fault Refusal :=
  run (do
    let va ← readA a
    let c ← coreNo
    let die := coreDie c
    match ← readGraph loadReader va.toNat with
    | none => finishBoth d (admitWord 0 die 2)
    | some (chi, t) => do
      let s ← get
      if 8192 < poolNodes s die + t.length then finishBoth d (admitWord 0 die 1)
      else do
        let v ← getCore
        let num := (s.die die).graphNext
        let l := (gangOn s c).map (·.launch)
        let g : Graph := { num := num, asid := v.asid, gid := v.gid, chi := chi, lat := (l.map (·.lat)).getD false,
                           queue := (l.map (·.queue)).getD 0, nodes := t, retired := false }
        modS (fun s => enterPool die g (s.modDie die (fun k => { k with graphNext := k.graphNext + 1 })))
        finishBoth d (admitWord num die 0)) s

/-! ## Dispatch (R358, R361) -/

/-- Whether ready node `a` goes before ready node `b`: priority, readiness, graph number, index. -/
def nodeBefore (a b : BitVec 32 × Nat × Node) : Bool :=
  let key (q : BitVec 32 × Nat × Node) : List Nat := [7 - nodePrio q.2.2.record, q.2.2.ready.getD 0, q.1.toNat, q.2.1]
  decide (key a < key b)

def firstNode (l : List (BitVec 32 × Nat × Node)) : Option (BitVec 32 × Nat × Node) :=
  l.foldl (fun o q => match o with
    | none => some q
    | some b => if nodeBefore q b then some q else some b) none

/-- The ready nodes of a die that are not dispatched. -/
def readyNodes (s : State) (d : Nat) : List (BitVec 32 × Nat × Node) :=
  ((s.die d).graphs.map (fun g => (g.nodes.filter (fun e => e.2.ready.isSome && !e.2.dispatched)).map (fun e => (g.num, e.1, e.2)))).flatten

def findGraph (s : State) (d : Nat) (num : BitVec 32) : Option Graph := (s.die d).graphs.find? (fun g => g.num == num)

/-- The launch of a gang node. -/
def nodeLaunch (s : State) (d : Nat) (g : Graph) (n : Nat) (q : Node) : Launch :=
  let tb := match findGang s g.gid with
    | some k => k.launch.tb
    | none => BitVec.ofNat 64 (nbits (tget s.plinth.queues g.queue {}).cfg.toNat 128 64)
  let key := match findGang s g.gid with
    | some k => k.launch.key
    | none => BitVec.ofNat 12 (nbits (tget s.plinth.queues g.queue {}).cfg.toNat 14 12)
  { record := BitVec.ofNat 2048 (leNat q.work), asid := g.asid, key := key, tb := tb, lat := g.lat, queue := g.queue,
    node := some (d, g.num, n), args := nodeArgs q.record }

/-- A record of one 1 × 1 group that is not pinned goes through a run queue (R361). -/
def runsQueued (r : BitVec 2048) : Bool := recGroups r == 1 && recGroup r 0 0 10 == 0 && !recPin r

/-- A reserved core that a bulk gang borrows and no node waits for: that of the newest such gang (R362). -/
def borrowedCore (s : State) : Option Nat :=
  (borrowers s).findSome? (fun g => g.cores.find? (fun c => isReserved s c && !(s.core c).failed && (runQueue s c).isEmpty))

/-- The core whose run queue takes a node, in the order of the search of R349 over the dies: a free one with an empty queue, of the
class first; for a latency node one that a bulk gang borrows; else the first with room, likewise (R361, log 36). -/
def runCore (s : State) (lat : Bool) : Option Nat :=
  let cores := List.range 4096
  let open_ (c : Nat) : Bool := coreFree s 0 c && (runQueue s c).isEmpty
  let room (c : Nat) : Bool := !(s.core c).failed && decide ((runQueue s c).length < 4)
  let mine (c : Nat) : Bool := isReserved s c == lat
  (cores.find? (fun c => mine c && open_ c)).orElse (fun _ =>
    (cores.find? open_).orElse (fun _ => (if lat then borrowedCore s else none).orElse (fun _ =>
      (cores.find? (fun c => mine c && room c)).orElse (fun _ => cores.find? room))))

/-- A latency node waits for a core that a bulk gang borrows: the gang is stopped (R362). -/
def reclaim (lat : Bool) (c : Nat) (s : State) : State :=
  if lat then stopGangs ((borrowers s).filter (fun g => g.cores.contains c)) s else s

/-- Mark a node as dispatched. -/
def markDispatched (d : Nat) (g : BitVec 32) (n : Nat) (keep : Bool) (s : State) : State :=
  modNode d g n (fun q => { q with dispatched := true, ready := if keep then q.ready else none }) s

/-- The node of a run queue that comes first, with the die of its graph; of two that R358 does not tell apart, that of the lower die. -/
def firstQueued (s : State) (c : Nat) : Option (Nat × BitVec 32 × Nat × Node) :=
  ((runQueue s c).filterMap (fun q => (findGraph s q.1 q.2.1).bind (fun g => (tfind g.nodes q.2.2).map (fun n => (q.1, q.2.1, q.2.2, n))))).foldl
    (fun o q => match o with
      | none => some q
      | some b => if nodeBefore q.2 b.2 || (!nodeBefore b.2 q.2 && q.1 < b.1) then some q else some b) none

/-- Start the node that comes first in a core's run queue, when the core is free. -/
def startQueued (c : Nat) (s : State) : State :=
  match firstQueued s c with
  | none => s
  | some (d, num, n, q) =>
    match findGraph s d num with
    | none => s
    | some g =>
      let lc := nodeLaunch s d g n q
      if !placeOpen s lc.record 0 (coreFree s 0) (coreDie c, coreX c, coreY c) then s
      else
        match vacateAll 0 [c] s with
        | none => s
        | some s =>
          let s := setRunQueue c (removeFirst (fun e => e == (d, num, n)) (runQueue s c)) s
          launchAt lc (coreDie c) (coreX c) (coreY c) (markDispatched d num n false s)

/-- Start what can start from the run queues. -/
def startQueues (s : State) : State :=
  (List.range 4).foldl (fun s d => (s.die d).runQ.foldl (fun s e => startQueued e.1 s) s) s

/-- Dispatch one node; none when it cannot be dispatched yet, and so holds every node after it. -/
def dispatchNode (d : Nat) (num : BitVec 32) (n : Nat) (q : Node) (s : State) : Option State :=
  match findGraph s d num with
  | none => none
  | some g =>
    if nodeEx q.record then
      if 512 ≤ jobsQueued (s.die d) then none
      else
        let core := match findGang s g.gid with
          | some k => k.cores.headD (1024 * d)
          | none => 1024 * d
        let j : Job := { num := 0, card := BitVec.ofNat 512 (leNat q.work), asid := g.asid, gid := g.gid, core := core, ctx := 0,
                         id := s.nextId, user := true, node := some (num, n), running := false, permit := false }
        some (enqueueJob d j { markDispatched d num n false s with nextId := s.nextId + 1 })
    else
      let l := nodeLaunch s d g n q
      if runsQueued l.record then
        (runCore s g.lat).map (fun c =>
          setRunQueue c (runQueue s c ++ [(d, num, n)]) (markDispatched d num n true (reclaim g.lat c s)))
      else tryPlace l (markDispatched d num n false s)

/-- The launch of the first ready node of a die, a gang node that cannot be dispatched. -/
def heldLaunch (s : State) (d : Nat) : Option Launch :=
  (firstNode (readyNodes s d)).bind (fun (num, n, q) =>
    if nodeEx q.record then none else (findGraph s d num).map (fun g => nodeLaunch s d g n q))

/-- NODE_DISPATCH: the first ready node of a die is dispatched, and the run queues go on. For a latency node that has no place, bulk
gangs are stopped beside those for the waiting records (R22, R362). -/
def nodeDispatch (d : Nat) (s : State) : State :=
  let s := startQueues s
  match firstNode (readyNodes s d) with
  | none => s
  | some (num, n, q) =>
    match dispatchNode d num n q s with
    | some s => s.send (.nodeDispatch (BitVec.ofNat 2 d))
    | none => if (heldLaunch s d).any (·.lat) then demand (s.plinth.waiting ++ (List.range 4).filterMap (heldLaunch s)) s else s

def execNodeDispatch (s : State) : Host.Outcome State Fault Refusal :=
  event (fun s => match s.ev with
    | .nodeDispatch d => nodeDispatch d.toNat s
    | _ => s) s

/-! ## Completion (R333, R360) -/

/-- The fault-log entry of a discarded decrement (Table 21-2). -/
def discardEntry (d : Nat) (g : BitVec 32) (node pred : Nat) : BitVec 128 :=
  BitVec.ofNat 128 (g.toNat + node * 2 ^ 32 + d * 2 ^ 44 + pred * 2 ^ 64 + 0x1C * 2 ^ 80)

/-- One edge of a completing node: the successor's counter goes down by 1; at zero already, the decrement is discarded and
reported twice over. -/
def decEdge (d : Nat) (g : Graph) (pred : Nat) (s : State) (n : Nat) : State :=
  match (findGraph s d g.num).bind (fun g => tfind g.nodes n) with
  | none => s
  | some q =>
    if q.count = 0 then
      let sig := nodeSig q.record
      logFault d (discardEntry d g.num n pred) (if sig = 0 then s else (decSig g.asid sig 0 2 s).1)
    else modNode d g.num n (fun q => { q with count := q.count - 1, ready := if q.count = 1 then some s.stamp else q.ready }) s

/-- A graph retires once every node has completed; what is left of a retired one goes with its last node. -/
def graphEnds (g : Graph) : Bool := g.nodes.all (fun e => e.2.done)

/-- Stores of a node's gang that are not performed: on each core those before its TNDONE or retirement (R359). -/
def nodeStoresOut (s : State) (g : Gang) : Bool :=
  let out (v : Core) : Bool := v.ctxs.any (fun e => e.2.pend.any (fun p => decide (p.id < v.doneMark.getD s.nextId) && p.writes))
  g.cores.any (fun c => out (s.core c)) || g.savedCores.any (fun e => out e.2)

/-- NODE_COMPLETE: once the stores that the node made are performed, its signal and then its successors' counters go down. -/
def nodeComplete (d : Nat) (num : BitVec 32) (n : Nat) (s : State) : State :=
  match findGraph s d num with
  | none => s
  | some g =>
    match tfind g.nodes n with
    | none => s
    | some q =>
      if q.done || !q.dispatched then s
      else if s.plinth.gangs.any (fun k => k.launch.node == some (d, num, n) && nodeStoresOut s k) then s.send s.ev
      else
        let s := decSigOpt g.asid (nodeSig q.record) 0 (modNode d num n (fun q => { q with done := true, ready := none }) s)
        let s := if g.retired then s else { q.succs.foldl (decEdge d g n) s with stamp := s.stamp + 1 }
        (s.modDie d (fun v => { v with graphs := v.graphs.filter (fun g => !graphEnds g) })).send (.nodeDispatch (BitVec.ofNat 2 d))

def execNodeComplete (s : State) : Host.Outcome State Fault Refusal :=
  event (fun s => match s.ev with
    | .nodeComplete d g n => nodeComplete d.toNat g n s
    | _ => s) s

end Sys2Proof.Machine
end

