-- ==== Sys2Proof/Machine/System.lean ====
section
/-! DEFINITION. Bank power (R93 to R95), translation removal (R284, R285), key slots (R176, R300, R301), attestation (R396, R397),
the device register window (R279, R280, R338, R396, R409), power, temperature and reset (R25, R399, R400). -/

namespace Sys2Proof.Machine

/-! ## PWRB (R94) -/

/-- A request that the bank has accepted and still holds: a full/empty access that waits there. While the gang is being stopped,
such requests are about to be withdrawn (R374) and hold nothing (log 61). -/
def bankBusy (s : State) (c b : Nat) : Bool := !halting s c && (s.core c).feWait.any (fun r => r.va.toNat % 2 ^ 18 / 16384 == b)

/-- Write the dirty granules of the live areas of a bank to their save areas; the present ones become absent (R94). -/
def saveBank (c b : Nat) (s : State) : State :=
  (s.core c).ctxs.foldl (fun s e =>
    let a := e.2.area
    if e.2.live && areaBank a == b then
      (List.range 26).foldl (fun s g =>
        match (s.core c).granule a g with
        | .present d =>
          let p := spPlace c (a * 2048 + 64 * g)
          let s := if d then poisonFrom p (saveArea c e.1 + 64 * g) 64 (deviceBytes (saveArea c e.1 + 64 * g) (memBytes s.mem p 64) s) else s
          s.modCore c (fun v => v.setGranule a g .absent)
        | _ => s) s
    else s) s

def setPower (c b : Nat) (p : BankPower) (s : State) : State := s.modCore c (fun v => { v with bank := tset v.bank b p })

/-- A bank loses its power: its full/empty bits are lost with its bytes (R156). -/
def powerDown (c b : Nat) (s : State) : State :=
  (setPower c b .off { s with flaws := healed s.flaws (spPlace c (b * 16384)) 16384 }).modCore c (fun v => { v with full := v.full.filter (fun g => g / 1024 != b) })

/-- An action that leaves a bank in its state (Table 5-4); OFF makes granules dead even in a bank that is off. -/
def powerIdle (action : Nat) (p : BankPower) : Bool :=
  match action, p with
  | 0, .on | 1, .retention | 1, .off | 2, .off => true
  | _, _ => false

/-- The transitions of Table 5-4: action 0 ON, 1 RTN, 2 SAVE, 3 OFF. -/
def powerBank (action c b : Nat) (s : State) : State :=
  match action, (s.core c).power b with
  | 0, _ => wakeBank c b s
  | 1, .on => setPower c b .retention s
  | 2, .off => s
  | 2, _ => powerDown c b (saveBank c b s)
  | 3, _ =>
    let areas := (List.range 8).map (8 * b + ·)
    powerDown c b (s.modCore c (fun v =>
      areas.foldl (fun v a => (List.range 26).foldl (fun v g => v.setGranule a g .dead) v) v))
  | _, _ => s

/-- PWRB waits for what its bank has accepted; gang-stop does not halt the context meanwhile (R94, R95). -/
def pwrb (action : Nat) (b : BitVec 4) : M Unit := do
  let c ← coreNo
  let s ← get
  if !powerIdle action ((s.core c).power b.toNat) && bankBusy s c b.toNat then
    stop (.stallWith (s.modCtx c s.cur.ctxNo (fun x => { x with within := true })))
  modS (powerBank action c b.toNat)
  retireBoth

def execPwrbOn (b : BitVec 4) (s : State) : Host.Outcome State Fault Refusal := run (pwrb 0 b) s
def execPwrbRtn (b : BitVec 4) (s : State) : Host.Outcome State Fault Refusal := run (pwrb 1 b) s
def execPwrbSave (b : BitVec 4) (s : State) : Host.Outcome State Fault Refusal := run (pwrb 2 b) s
def execPwrbOff (b : BitVec 4) (s : State) : Host.Outcome State Fault Refusal := run (pwrb 3 b) s

/-! ## XINV (R284, R285) -/

/-- The virtual page of a translation holds a virtual line. -/
def transCovers (s : State) (t : Trans) (line : Nat) : Bool :=
  let P := attP (attOf s t.region.toNat)
  line * 128 / 2 ^ 76 == t.region.toNat && line * 128 / 2 ^ P == t.vpn

/-- A physical line lies in the page of a translation. -/
def transMaps (s : State) (t : Trans) (line : Nat) : Bool :=
  let P := attP (attOf s t.region.toNat)
  line * 128 / 2 ^ P == leafFrame t.leaf.toNat / 2 ^ P

/-- Take out every translation that `gone` picks and every line that `lost` picks: dirty sectors written back, copies dropped. -/
def removePages (gone : Trans → Bool) (lost : LineTag → Bool) (cached : BitVec 12 → Nat → Bool) (s : State) : State :=
  let s := s.slices.foldl (fun s e => e.2.lines.foldl (fun s l => if lost l.tag then evict e.1 l s else s) s) s
  { s with
    slices := s.slices.map (fun e => (e.1, { e.2 with stc := e.2.stc.filter (fun t => !gone t) }))
    cores := s.cores.map (fun e => (e.1, { e.2 with
      l1 := e.2.l1.filter (fun l => !cached l.asid l.line), cc := e.2.cc.filter (fun l => !cached l.asid l.line) })) }

/-- Every slice translation of the module. -/
def allTrans (s : State) : List Trans := (s.slices.map (fun e => e.2.stc)).flatten

/-- Remove the pages that a test of address space and virtual line picks; the physical lines of a domain-shared page go by the
translations still held. -/
def removeVirtual (page : BitVec 12 → Nat → Bool) (s : State) : State :=
  let gone (t : Trans) : Bool := page t.asid (t.vpn * 2 ^ (attP (attOf s t.region.toNat)) / 128)
  let shared := (allTrans s).filter (fun t => gone t && attDom (attOf s t.region.toNat))
  removePages gone (fun g => if g.phys then shared.any (fun t => transMaps s t g.line) else page g.asid g.line) page s

/-- Some macro-op of an address space that `asids` picks is queued or runs: it may have probed any page of it (R124). The pages of a
report that ATTEST asked for stay likewise (R397). -/
def probedBy (s : State) (asids : BitVec 12 → Bool) : Bool :=
  s.cores.any (fun e => e.2.queue.any (fun m => asids m.asid)) || s.dies.any (fun e => e.2.attests.any (fun r => asids r.asid))

/-- XINV waits for fills and requests in flight and for macro-ops that may have probed a removed page (R285). -/
def waitProbes (page : BitVec 12 → Nat → Bool) (asids : BitVec 12 → Bool) : M Unit := do
  let s ← get
  stallUnless (!probedBy s asids)
  stallUnless (!s.slices.any (fun e => e.2.mshrs.any (fun m => m.tag.phys || page m.tag.asid m.tag.line)))
  stallUnless (!sentAny s (fun r => page r.asid (r.va.toNat / 128)))

def xinvVirtual (page : BitVec 12 → Nat → Bool) (asids : BitVec 12 → Bool) : M Unit := do
  waitProbes page asids
  modS (removeVirtual page)
  retireBoth

def execXinvPage (d : BitVec 4) (a : BitVec 6) (s : State) : Host.Outcome State Fault Refusal :=
  run (do
    deviceOnly
    let va ← readA d
    let n := (← readS a).toNat
    illegalUnless (n / 2 ^ 12 = 0)
    let P := attP (attOf (← get) (vaRegion va))
    let asid : BitVec 12 := BitVec.ofNat 12 n
    xinvVirtual (fun q line => q == asid && line * 128 / 2 ^ P == va.toNat / 2 ^ P) (· == asid)) s

def execXinvAsid (a : BitVec 6) (s : State) : Host.Outcome State Fault Refusal :=
  run (do
    deviceOnly
    let n := (← readS a).toNat
    illegalUnless (n / 2 ^ 12 = 0)
    xinvVirtual (fun q _ => q == BitVec.ofNat 12 n) (· == BitVec.ofNat 12 n)) s

def execXinvAll (s : State) : Host.Outcome State Fault Refusal :=
  run (do
    deviceOnly
    let all (_ : BitVec 12) (_ : Nat) : Bool := true
    waitProbes all (fun _ => true)
    modS (removePages (fun _ => true) (fun _ => true) all)
    retireBoth) s

/-- The frame kind clears metadata records and the translations that map the frames; it touches no cache line. -/
def clearFrames (first n : Nat) (s : State) : State :=
  let maps (t : Trans) : Bool :=
    let P := attP (attOf s t.region.toNat)
    rangesMeet (leafFrame t.leaf.toNat / 4096) (2 ^ (P - 12)) first n
  { s with
    frames := s.frames.filter (fun e => e.1 < first || first + n ≤ e.1)
    slices := s.slices.map (fun e => (e.1, { e.2 with stc := e.2.stc.filter (fun t => !maps t) })) }

def execXinvFrame (a n : BitVec 6) (s : State) : Host.Outcome State Fault Refusal :=
  run (do
    deviceOnly
    let v := (← readS a).toNat
    illegalUnless (v % 2 ^ 12 = 0 && v / 2 ^ 58 = 0)
    waitProbes (fun _ _ => true) (fun _ => true)
    modS (clearFrames (v / 4096) (n.toNat + 1))
    retireBoth) s

/-! ## KEYSET (R176, R300, R301) -/

/-- The key id of a KEYSET. -/
def keyId (a : BitVec 6) : M Nat := do
  let n := (← readS a).toNat
  illegalUnless (n / 2 ^ 12 = 0 && n ≠ 0)
  return n

def installKey (k : Nat) (m : BitVec 512) (s : State) : State := { s with keys := tset s.keys k { installed := true, material := m } }

def execKeysetRand (d a : BitVec 6) (s : State) : Host.Outcome State Fault Refusal :=
  run (do
    deviceOnly
    let k ← keyId a
    let s ← get
    if keyInstalled s k then finishBoth d 1
    else do
      set (installKey k (Config.randomKey s.draws) s.drawn)
      finishBoth d 0) s

/-- The 64-byte block of a load, read with key id 0. -/
def readKeyBlock (va : VA) : M Nat := do
  if va.toNat % 64 ≠ 0 then trapVa 0x03 va
  let l ← readWord va 64 true
  let s ← get
  match checkAccess s (← coreNo) (← ctxNo) va 64 .read with
  | .ok (.hbm q, _) => return if q.tag.key = 0 then leNat l else hbmRead s q.pa 64 0
  | _ => return leNat l

def execKeysetLoad (d a : BitVec 6) (m : BitVec 4) (s : State) : Host.Outcome State Fault Refusal :=
  run (do
    deviceOnly
    let k ← keyId a
    let n ← readKeyBlock (← readA m)
    let s ← get
    if keyInstalled s k then finishBoth d 1
    else if n % 2 ^ 256 = n / 2 ^ 256 then finishBoth d 3
    else do
      modS (installKey k (BitVec.ofNat 512 n))
      finishBoth d 0) s

/-- Wake every waiter that is parked on a line of a key (R199). -/
def wakeKey (k : Nat) (s : State) : State :=
  s.slices.foldl (fun s e =>
    ((e.2.waiters.filter (fun w => w.line.key.toNat == k)).map (fun w => w.req)).foldl (fun s r =>
      match reqHome s r .read with
      | .ok (.hbm l, s) => wakeLine l s
      | _ => s) s) s

/-- A key id is in use: a fill or a request under it is in flight, or a macro-op may have probed a page of it (R124, R176). -/
def keyInUse (s : State) (k : Nat) : Bool :=
  s.slices.any (fun e => e.2.mshrs.any (fun m => m.tag.key.toNat == k)) || sentAny s (fun r => leafKey r.leaf.toNat == k) ||
    s.cores.any (fun e => e.2.ctxs.any (fun f => f.2.deferred.any (fun h => leafKey h.req.leaf.toNat == k))) ||
    probedBy s (fun _ => true)

/-- The retirement of a key id: cached copies discarded, translations removed, the key destroyed (R176). The metadata records of
frames stay as they are (log 104). -/
def retireKey (k : Nat) (s : State) : State :=
  let s := wakeKey k s
  { s with
    cores := s.cores.map (fun e => (e.1, { e.2 with
      l1 := e.2.l1.filter (fun l => l.key.toNat != k), cc := e.2.cc.filter (fun l => l.key.toNat != k) }))
    slices := s.slices.map (fun e => (e.1, { e.2 with
      lines := e.2.lines.filter (fun l => l.tag.key.toNat != k), stc := e.2.stc.filter (fun t => leafKey t.leaf.toNat != k) }))
    keys := terase s.keys k }

def execKeysetRetire (d a : BitVec 6) (s : State) : Host.Outcome State Fault Refusal :=
  run (do
    deviceOnly
    let k ← keyId a
    let s ← get
    if !keyInstalled s k then finishBoth d 2
    else if keyInUse s k then stall
    else do
      modS (retireKey k)
      finishBoth d 0) s

/-! ## Measurements and attestation (R396, R397) -/

def bytes64 (m : BitVec 512) : List Byte := leBytes 64 m.toNat

/-- A measurement register that holds `m`, extended by an item (R396). -/
def extended (m : BitVec 512) (item : List Byte) : BitVec 512 :=
  BitVec.ofNat 512 (leNat (shake256 (bytes64 m ++ shake256 item 64) 64))

/-- Extend measurement register `i` by an item. -/
def extendMeasure (i : Nat) (item : List Byte) (s : State) : State :=
  s.modPlinth (fun p => { p with measures := tset p.measures i (extended (tget p.measures i 0) item) })

/-- The pages of the 32 KiB buffer are probed for writing, lowest first; they stay mapped until the report is written. -/
def probeBuffer (va : VA) : Nat → M (List Trans)
  | 0 => return []
  | n + 1 => do
    let l ← probeBuffer va n
    let at_ := va + BitVec.ofNat 80 (4096 * n)
    match checkAccess (← get) (← coreNo) (← ctxNo) at_ 64 .write with
    | .error code => accessFault code at_ .write true
    | .ok (t, s) => do set s; return addPages l (pageOf s t)

def execAttest (d : BitVec 6) (a : BitVec 4) (ss : BitVec 3) (s : State) : Host.Outcome State Fault Refusal :=
  run (do
    let c ← coreNo
    let k ← ctxNo
    let die := coreDie c
    if 4 ≤ ((← get).die die).attests.length then finishBoth d 1
    else do
      slotRoom ss
      let va ← readA a
      if va.toNat % 4096 ≠ 0 then trapVa 0x03 va
      if 13 ≤ vaRegion va then trapVa 0x04 va
      let pages ← probeBuffer va 8
      let nonce := leNat (← readWord va 64 true)
      let s ← get
      let id ← if ss = 0 then freshId else joinPend ss .token false
      let v ← getCore
      let key := ((gangOn s c).map (fun g => g.launch.key)).getD 0
      let r : AttestReq := { core := c, ctx := k, id := id, va := va, asid := v.asid, nonce := BitVec.ofNat 512 nonce, gid := v.gid, key := key,
                             pages := pages }
      modS (fun s => (s.modDie die (fun q => { q with attests := q.attests ++ [r] })).send (.attestReportDone (BitVec.ofNat 2 die)))
      finishBoth d 0) s

/-- The signed part of a report (Table 17-7). -/
def reportBody (r : AttestReq) (p : Plinth) : List Byte :=
  bytes64 r.nonce ++ leBytes 8 (Config.moduleId + p.fseq.toNat * 2 ^ 32) ++
    leBytes 8 (r.gid.toNat + r.asid.toNat * 2 ^ 32 + r.key.toNat * 2 ^ 44) ++
    (List.range 48).map Config.identityKeyHash ++ ((List.range 8).map (fun i => bytes64 (tget p.measures i 0))).flatten ++
    List.replicate 128 0

/-- ATTEST_REPORT_DONE: the control core has signed the die's oldest report and writes it. -/
def attestReportDone (d : Nat) (s : State) : State :=
  match (s.die d).attests with
  | [] => s
  | r :: l =>
    let body := reportBody r s.plinth
    let report := body ++ (List.range sigLen).map (Config.identitySignature body)
    let s := (engWriteBytes r.core r.gid r.asid false r.va report s).1
    completePend r.core r.ctx r.id 0 (s.modDie d (fun v => { v with attests := l }))

def execAttestReportDone (s : State) : Host.Outcome State Fault Refusal :=
  event (fun s => match s.ev with
    | .attestReportDone d => attestReportDone d.toNat s
    | _ => s) s

/-! ## The device register window -/

/-- An attribute entry that the device takes (R279). -/
def entryOk (e : Nat) : Bool :=
  let lv := attLevels e
  decide (1 ≤ lv) && decide (lv ≤ 5) && (List.range 5).all (fun l => if l < lv then decide (1 ≤ attBits e l) && decide (attBits e l ≤ 13) else attBits e l == 0) &&
    attCache e != 3 && decide (attHd e ≤ 4) && (!attDom e || attHd e == 4) && nbits e 34 30 == 0 && nbits e 64 12 == 0 &&
    nbits e 122 6 == 0 && decide (attP e + attW e ≤ 76)

/-- REGION_ENTRY_WRITE: entries 0x0 to 0xC; one step at every slice, after the fills, requests and probed macro-ops in flight (R280).
What R160 and R188 keep, constant lines and invariant lines, stays. -/
def regionEntryWrite (r : Nat) (e : BitVec 128) (s : State) : State :=
  if 13 ≤ r then s
  else if !entryOk e.toNat then s.modPlinth (fun p => { p with winErr := true })
  else if s.slices.any (fun q => q.2.mshrs.any (fun m => m.tag.phys || m.tag.line * 128 / 2 ^ 76 == r)) ||
      sentAny s (fun q => vaRegion q.va == r) || probedBy s (fun _ => true) then s.send s.ev
  else
    let shared := attDom (attOf s r)
    let s := removePages (fun t => t.region.toNat == r) (fun g => if g.phys then shared else g.line * 128 / 2 ^ 76 == r)
      (fun _ _ => false) s
    extendMeasure 3 (leBytes 16 e.toNat) { s with regions := tset s.regions r e }

def execRegionEntryWrite (s : State) : Host.Outcome State Fault Refusal :=
  event (fun s => match s.ev with
    | .regionEntryWrite r e => regionEntryWrite r.toNat e s
    | _ => s) s

/-- CONNECTOR_KEY_INSTALL: a slot is never overwritten without first being cleared, by a key of zeros (R396). -/
def execConnectorKeyInstall (s : State) : Host.Outcome State Fault Refusal :=
  event (fun s => match s.ev with
    | .connectorKeyInstall slot key =>
      if key = 0 then s.modPlinth (fun p => { p with connKeys := terase p.connKeys slot.toNat })
      else if (tfind s.plinth.connKeys slot.toNat).isSome then s
      else extendMeasure 2 (bytes64 key) (s.modPlinth (fun p => { p with connKeys := tset p.connKeys slot.toNat key }))
    | _ => s) s

/-- Set the size of a die's pool; a waiting acquisition is tried again. -/
def setPool (d n : Nat) (s : State) : State :=
  let s := s.modDie d (fun v => { v with poolSize := n })
  if permitWaits (s.die d) then s.send (.permitGrant (BitVec.ofNat 2 d)) else s

/-- POOL_SIZE_WRITE: between gangs (R338). -/
def execPoolSizeWrite (s : State) : Host.Outcome State Fault Refusal :=
  event (fun s => match s.ev with
    | .poolSizeWrite d n => if s.plinth.gangs.any (fun g => g.die == d.toNat && !g.stopped) then s else setPool d.toNat n.toNat s
    | _ => s) s

/-- FAULT_LOG_READ: the oldest entry is read and freed (R409). -/
def execFaultLogRead (s : State) : Host.Outcome State Fault Refusal :=
  event (fun s => match s.ev with
    | .faultLogRead d =>
      match (s.die d.toNat).faultLog with
      | [] => s
      | e :: l => (s.modDie d.toNat (fun v => { v with faultLog := l })).modPlinth (fun p => { p with fwRead := e })
    | _ => s) s

/-! ## Power, temperature and reset (R25, R399, R400) -/

def lowerPool (d : Nat) (s : State) : State :=
  let n := (s.die d).poolSize
  if n ≤ 1152 then s else setPool d (max 1152 (n - 288)) s
def raisePool (d : Nat) (s : State) : State :=
  let n := (s.die d).poolSize
  if 2304 ≤ n || (s.die d).hot then s else setPool d (min 2304 (n + 288)) s

/-- POWER_SAMPLE: one sample every 10 µs; the mean of a millisecond lowers the pools, a millisecond below 3,000 W raises them. -/
def powerSample (mw : Nat) (s : State) : State :=
  let l := mw :: s.plinth.samples
  if l.length < 100 then s.modPlinth (fun p => { p with samples := l })
  else
    let s := s.modPlinth (fun p => { p with samples := [] })
    if 3_300_000 * 100 < l.foldl (· + ·) 0 then (List.range 4).foldl (fun s d => lowerPool d s) s
    else if l.all (fun w => decide (w < 3_000_000)) then (List.range 4).foldl (fun s d => raisePool d s) s
    else s

def execPowerSample (s : State) : Host.Outcome State Fault Refusal :=
  event (fun s => match s.ev with
    | .powerSample mw => powerSample mw s
    | _ => s) s

/-- THERMAL_STOP: the module stops; HBM contents are lost (log 38). Of what is on its way, a module reset and the host's reads of
registers stay. -/
def thermalStop (s : State) : State :=
  { s with stopped := true, agenda := s.agenda.filter mayCome, ring := [], sectors := [], mem := s.mem.filter (fun c => 2 ^ 58 ≤ c.1)
           plinth := { s.plinth with interps := [], held := [] } }

/-- THERMAL_EVENT: a die at 95 °C or above has its pool lowered, step by step, until it falls below 90 °C. -/
def thermalEvent (d deg : Nat) (s : State) : State :=
  if 110 ≤ deg then thermalStop s
  else if 95 ≤ deg || ((s.die d).hot && 90 ≤ deg) then lowerPool d (s.modDie d (fun v => { v with hot := true }))
  else if deg < 90 then s.modDie d (fun v => { v with hot := false })
  else s

def execThermalEvent (s : State) : Host.Outcome State Fault Refusal :=
  event (fun s => match s.ev with
    | .thermalEvent d deg => thermalEvent d.toNat deg s
    | _ => s) s
def execThermalStop (s : State) : Host.Outcome State Fault Refusal := event thermalStop s

/-- MODULE_RESET: every reset value, and bring-up with the image of slot A; what stands in HBM stays there (log 38), as do the firmware
slots and the fused minimum (R395). The capability key is drawn anew. -/
def moduleReset (s : State) : State :=
  let p := s.plinth
  { State.reset with draws := s.draws, nextId := s.nextId, capDraw := s.capDraw + 1, sectors := s.sectors
                     mem := s.mem.filter (fun c => c.1 < 2 ^ 58)
                     plinth := { measures := [(0, p.measureA)], fseq := p.slotA, slotA := p.slotA, slotB := p.slotB, fmin := p.fmin
                                 measureA := p.measureA, measureB := p.measureB } }

def execModuleReset (s : State) : Host.Outcome State Fault Refusal := event moduleReset s

/-- RAMP_LIMITER_FILL: dummy macro-ops, which change nothing but the count (R25). -/
def execRampLimiterFill (s : State) : Host.Outcome State Fault Refusal :=
  event (fun s => match s.ev with
    | .rampLimiterFill d n => s.modDie d.toNat (fun v => { v with rampFill := v.rampFill + BitVec.ofNat 64 n })
    | _ => s) s

end Sys2Proof.Machine
end

