-- ==== Sys2Proof/Machine/Queues.lean ====
section
/-! DEFINITION. The Plinth's work queues: submission, journal and commit (R241 to R244), queue programs and their bytecode (R385 to
R390), arbitration (R363), the host's apertures and registers (R391 to R393), firmware trials (R395). -/

namespace Sys2Proof.Machine

/-! ## Queues (Table 17-1) -/

def State.queue (s : State) (q : Nat) : WorkQueue := tget s.plinth.queues q {}
def State.modQueue (s : State) (q : Nat) (f : WorkQueue → WorkQueue) : State :=
  s.modPlinth (fun p => { p with queues := tset p.queues q (f (tget p.queues q {})) })
def State.interp (s : State) (n : Nat) : Interp := tget s.plinth.interps n {}
def State.setInterp (s : State) (n : Nat) (i : Interp) : State := s.modPlinth (fun p => { p with interps := tset p.interps n i })

def WorkQueue.field (w : WorkQueue) (lo n : Nat) : Nat := nbits w.cfg.toNat lo n
def WorkQueue.lat (w : WorkQueue) : Bool := w.field 1 1 == 1
def WorkQueue.asid (w : WorkQueue) : BitVec 12 := BitVec.ofNat 12 (w.field 2 12)
def WorkQueue.key (w : WorkQueue) : BitVec 12 := BitVec.ofNat 12 (w.field 14 12)
def WorkQueue.stride (w : WorkQueue) : Nat := 1048576 / (w.field 26 10 + 1)
def WorkQueue.chi (w : WorkQueue) : BitVec 16 := BitVec.ofNat 16 (w.field 48 16)
/-- The vector base that control contexts get; the low bits that the register does not have are dropped (Table 5-5, log 70). -/
def WorkQueue.tb (w : WorkQueue) : Dword := BitVec.ofNat 64 (w.field 128 64 / 256 * 256)

/-- Base and length in bytes of window `n` for a packet. -/
def WorkQueue.window (w : WorkQueue) (pkt : Dword) (n : Nat) : Nat × Nat :=
  if n = 0 then (pkt.toNat, (w.field 36 6 + 1) * 64) else (w.field (128 + 64 * n) 64, 64 * w.field (364 + 20 * n) 20)

/-! ## The Plinth's accesses: at user privilege, in an address space (R388, R391) -/

/-- Read `n` bytes (1, 2, 4, 8 or a record), aligned to `al`. -/
def plinthRead (asid : BitVec 12) (va : VA) (n al : Nat) (s : State) : Except Nat (State × List Byte) :=
  if va.toNat % al ≠ 0 then .error 0x03
  else if 14 ≤ vaRegion va then .error 0x04
  else engReadBytes 0 0 asid true va n s

/-- Write bytes, aligned to their number. -/
def plinthWrite (asid : BitVec 12) (va : VA) (l : List Byte) (s : State) : Except Nat State :=
  if va.toNat % l.length ≠ 0 then .error 0x03
  else if 14 ≤ vaRegion va then .error 0x04
  else if attGuard (attOf s (vaRegion va)) then .error 0x09
  else
    match engWriteBytes 0 0 asid true va l s with
    | (s, none) => .ok s
    | (_, some e) => .error e

/-! ## Submission (R241 to R243) -/

/-- The journal is full: next − (commit + 1) = 4,096. -/
def journalFull (p : Plinth) : Bool := p.nextSeq - (p.commit + 1) == 4096

/-- A queue has entries that no interpreter has taken. -/
def hasWork (p : Plinth) (q : Nat) : Bool := p.journal.any (fun e => e.queue == q && !e.taken)

/-- The least pass among the queues with work (R363). -/
def leastPass (p : Plinth) : Option Nat :=
  p.queues.foldl (fun o e => if hasWork p e.1 then
      (match o with
       | none => some e.2.pass
       | some n => some (min n e.2.pass)) else o) none

/-- An idle interpreter is told that there may be work. -/
def wakeInterp (s : State) : State :=
  match (List.range 8).find? (fun n => !(s.interp n).busy) with
  | some n => s.send (.packetStart n)
  | none => s

/-! ## The order of the host's requests (R392) -/

/-- The register, or the block of registers, that a request of the host is for: requests to one are performed in the order sent. The
bits that +0 of an active-message block reads are those of the moment. -/
def hostAddress (m : Msg) : Option Nat :=
  let block (off : Nat) : Nat :=
    if 0x10000 ≤ off then off / 64 * 64 else if 0x2000 ≤ off && off < 0x4000 then off / 32 * 32 else off
  match m with
  | .submission q _ => some (16 * q)
  | .queueProgramLoad q _ | .queueDisable q _ => some (0x10000 + 64 * q)
  | .activeMessageBlockTarget q _ => some (0x2000 + 32 * q)
  | .registerWrite off _ => some (block off.toNat)
  | .registerRead off => if 0x2000 ≤ off.toNat && off.toNat < 0x4000 && off.toNat % 32 = 0 then none else some (block off.toNat)
  | _ => none

def isHostRead (m : Msg) : Bool :=
  match m with
  | .registerRead _ => true
  | _ => false

/-- A write to a submission register or to the target of an active-message block comes behind every earlier write (R392). -/
def afterAll (m : Msg) : Bool :=
  match m with
  | .submission _ _ => true
  | .activeMessageBlockTarget _ _ => true
  | _ => false

/-- A request of the host waits behind those that were sent before it and are held (log 114): all of them are, while it is not held
itself. -/
def mustWait (held : List Msg) (m : Msg) : Bool :=
  (held.takeWhile (· != m)).any (fun e =>
    (afterAll m && !isHostRead e) || (hostAddress m).isSome && hostAddress e == hostAddress m)

/-- Perform the current request of the host, or hold it: in its turn, and once `busy` does not hold. -/
def inTurn (busy : State → Bool) (act : State → State) (s : State) : State :=
  if mustWait s.plinth.held s.ev || busy s then
    (s.modPlinth (fun p => { p with held := if p.held.contains s.ev then p.held else p.held ++ [s.ev] })).send s.ev
  else act (s.modPlinth (fun p => { p with held := p.held.erase s.ev }))

def never (_ : State) : Bool := false

/-- SUBMISSION: a write to a queue's submission register becomes a journal entry or is refused. The causes of a refusal are tested in the
order dis, bad, retry, and only the first shows (log 109). -/
def submission (q : Nat) (pkt : Dword) (s : State) : State :=
  let w := s.queue q
  let refused (f : WorkQueue → WorkQueue) : State := s.modQueue q (fun w => f { w with acc := false, retry := false, bad := false })
  if w.dis then refused id
  else if pkt.toNat % 64 ≠ 0 then refused (fun w => { w with bad := true })
  else if journalFull s.plinth then refused (fun w => { w with retry := true })
  else
    let pass := if hasWork s.plinth q then w.pass else max w.pass ((leastPass s.plinth).getD 0)
    let seq := s.plinth.nextSeq
    let s := s.modQueue q (fun w => { w with acc := true, retry := false, bad := false, seq := seq, pass := pass })
    wakeInterp (s.modPlinth (fun p => { p with nextSeq := seq + 1, journal := p.journal ++ [{ pkt := pkt, seq := seq, queue := q, taken := false }] }))

def execSubmission (s : State) : Host.Outcome State Fault Refusal :=
  event (fun s => match s.ev with
    | .submission q pkt => inTurn never (submission q pkt) s
    | _ => s) s

/-! ## Packets (R388 to R390, R363) -/

/-- A packet has ended: firmware commits it when it is the next in sequence (R390, log 15). -/
def packetEnded (n : Nat) (s : State) : State :=
  if (s.interp n).seq = s.plinth.commit + 1 then s.send (.commitWrite (s.interp n).seq) else s

/-- A write to the configuration block of queue `q` is held. -/
def blockHeld (p : Plinth) (q : Nat) : Bool := p.held.any (fun m => !isHostRead m && hostAddress m == some (0x10000 + 64 * q))

/-- A queue whose next packet may start: it has work, none of its packets is in an interpreter that still runs it, and no write to its
configuration block waits (R385, R390). -/
def eligible (s : State) (q : Nat) : Bool :=
  hasWork s.plinth q && !blockHeld s.plinth q && !s.plinth.interps.any (fun e => e.2.busy && e.2.queue == q && e.2.ended.isNone)

/-- The next of some queues after queue `last`, in turn. -/
def roundRobin (l : List Nat) (last : Nat) : Option Nat := (l.find? (fun q => decide (last < q))).orElse (fun _ => l.head?)

/-- The queue to serve: that of the next entry to be replayed, in sequence order (R244); else under stride scheduling the chosen one,
and otherwise latency queues before bulk queues, each class in turn. -/
def serveNext (s : State) : Option Nat :=
  let l := (s.plinth.queues.map (·.1)).filter (eligible s)
  match s.plinth.journal.find? (fun e => e.again && !e.taken) with
  | some e => if eligible s e.queue then some e.queue else none
  | none =>
  if s.plinth.stride then s.plinth.chosen.filter (eligible s)
  else (roundRobin (l.filter (fun q => (s.queue q).lat)) s.plinth.lastLat).orElse (fun _ => roundRobin l s.plinth.lastBulk)

/-- Interpreter `n` takes the next packet of a queue. A packet of a disabled queue, and one that stood in the journal when its queue was
disabled, ends at once, with status 0x106. -/
def takePacket (n q : Nat) (s : State) : State :=
  match s.plinth.journal.find? (fun e => e.queue == q && !e.taken) with
  | none => s
  | some e =>
    let w := s.queue q
    let i : Interp := { busy := true, queue := q, seq := e.seq, pkt := e.pkt
                        q := [(0, e.pkt), (1, e.seq.setWidth 64), (2, BitVec.ofNat 64 q)]
                        ended := if w.dis || e.dead then some 0x106 else none }
    let take := replaceFirst (fun (e : JEntry) => e.queue == q && !e.taken) (fun e => { e with taken := true })
    let s := s.modPlinth (fun p => { p with
      journal := take p.journal
      lastLat := if w.lat then q else p.lastLat
      lastBulk := if w.lat then p.lastBulk else q })
    let s := s.setInterp n i
    if i.ended.isSome then packetEnded n s else s

/-- PACKET_START: an idle interpreter takes the next packet; another idle one is told of what is left. -/
def packetStart (n : Nat) (s : State) : State :=
  if (s.interp n).busy then s
  else
    match serveNext s with
    | none => s
    | some q => let s := takePacket n q s; if (serveNext s).isSome then wakeInterp s else s

def execPacketStart (s : State) : Host.Outcome State Fault Refusal :=
  event (fun s => match s.ev with
    | .packetStart n => if n < 8 then packetStart n s else s
    | _ => s) s

/-- A quantum ends: the queue that it served has its stride added to its pass (R363). -/
def endQuantum (s : State) : State :=
  let s := match s.plinth.chosen with
    | some q => s.modQueue q (fun w => { w with pass := w.pass + w.stride })
    | none => s
  s.modPlinth (fun p => { p with chosen := none })

/-- STRIDE_QUANTUM: under stride scheduling the queue with work and the least pass is served for a quantum, ties to the lowest number. -/
def strideQuantum (s : State) : State :=
  if !s.plinth.stride then s
  else
    let s := endQuantum s
    match s.plinth.queues.find? (fun e => hasWork s.plinth e.1 && some e.2.pass == leastPass s.plinth) with
    | none => s
    | some e => wakeInterp (s.modPlinth (fun p => { p with chosen := some e.1 }))

/-- Firmware selects stride scheduling, or normal service again. -/
def strideSelect (on : Bool) (s : State) : State := wakeInterp ((endQuantum s).modPlinth (fun p => { p with stride := on }))

def execStrideQuantum (s : State) : Host.Outcome State Fault Refusal := event strideQuantum s

/-! ## Commit (R243, R244, R389) -/

/-- The target word of QAMSG and of an active-message block names a core of a running gang launched from the queue (R386, R393). -/
def messageOk (s : State) (q : Nat) (target pc : Dword) : Bool :=
  let t := target.toNat
  pc.toNat % 4 == 0 && t / 2 ^ 44 == 0 && s.plinth.gangs.any (fun g => !g.stopped && g.gid.toNat == nbits t 12 32 &&
    g.launch.queue == q && g.cores.contains (nbits t 10 2 * 1024 + nbits t 0 10))

/-- Send a message of the Plinth: src is 0x3FF. -/
def plinthMessage (target pc a0 a1 : Dword) (s : State) : State :=
  let t := target.toNat
  let e := messageEntry (BitVec.ofNat 32 (nbits t 12 32)) 0x3FF 0 pc a0 a1
  s.send (.inboxArrival (nbits t 10 2 * 1024 + nbits t 0 10) e)

/-- Release one staged effect of a packet of queue `q`. -/
def releaseEffect (q : Nat) (s : State) (e : Effect) : State :=
  let w := s.queue q
  match e with
  | .launch r =>
    let l : Launch := { record := r, asid := w.asid, key := w.key, tb := w.tb, lat := w.lat, queue := q, node := none, args := [] }
    (s.modPlinth (fun p => { p with waiting := p.waiting ++ [l] })).send .gangPlacement
  | .refusedLaunch sig => decSigOpt w.asid (signalVa sig.toNat) 3 s
  | .graph g => enterPool 0 g s
  | .amsg t pc a0 a1 => plinthMessage t pc a0 a1 s
  | .sigdec va n => if va.toNat % 8 ≠ 0 then s else (decSig w.asid (BitVec.ofNat 80 (0xD000 * 2 ^ 64 + va.toNat)) n.toNat 0 s).1

/-- Commit one packet: its status dword is written, its effects released in order, its interpreter idle. -/
def commitPacket (n : Nat) (s : State) : State :=
  let i := s.interp n
  let w := s.queue i.queue
  let word := leBytes 8 ((i.ended.getD 0).toNat + i.steps * 2 ^ 16 + i.seq.toNat * 2 ^ 32)
  let s := match plinthWrite w.asid (w.chi ++ i.pkt) word s with
    | .ok t => if i.ended.isSome then t else s
    | .error _ => s
  (i.staged.foldl (releaseEffect i.queue) (s.setInterp n {})).send (.packetStart n)

/-- Free one entry of the journal. -/
def commitOne (seq : BitVec 32) (s : State) : State :=
  let s := match s.plinth.interps.find? (fun e => e.2.busy && e.2.seq == seq) with
    | some e => commitPacket e.1 s
    | none => s
  s.modPlinth (fun p => { p with commit := seq, journal := p.journal.filter (fun e => e.seq != seq) })

def commitUpTo : Nat → State → State
  | 0, s => s
  | n + 1, s => commitUpTo n (commitOne (s.plinth.commit + 1) s)

/-- COMMIT: a write of c is accepted when (c − commit) ≤ (next − 1 − commit). An accepted write on trial makes slot B slot A. -/
def commitWrite (c : BitVec 32) (s : State) : State :=
  let p := s.plinth
  if (p.nextSeq - 1 - p.commit).toNat < (c - p.commit).toNat then s.modPlinth (fun p => { p with cerr := true })
  else
    let s := commitUpTo (c - p.commit).toNat s
    let s := if s.plinth.trial then
        s.modPlinth (fun p => { p with trial := false, slotA := p.slotB, fmin := p.slotB, fseq := p.slotB, measureA := p.measureB })
      else s
    match s.plinth.interps.find? (fun e => e.2.busy && e.2.ended.isSome && e.2.seq == s.plinth.commit + 1) with
    | some e => packetEnded e.1 s
    | none => s

def execCommitWrite (s : State) : Host.Outcome State Fault Refusal :=
  event (fun s => match s.ev with
    | .commitWrite c => commitWrite c s
    | _ => s) s

/-- The commit write that firmware is about to make for a packet that has ended. -/
def commitDue (s : State) (m : Msg) : Bool :=
  s.plinth.interps.any (fun e => e.2.busy && e.2.ended.isSome && m == .commitWrite e.2.seq)

/-- A firmware restart discards every unreleased effect, and the commit that firmware had not written; the journal is replayed from
commit + 1 in sequence order (R244). -/
def firmwareRestart (s : State) : State :=
  let s := { s with agenda := s.agenda.filter (fun m => !commitDue s m) }
  let s := s.modPlinth (fun p => { p with interps := [], journal := p.journal.map (fun e => { e with taken := false, again := true }) })
  (List.range 8).foldl (fun s n => s.send (.packetStart n)) s

def execFirmwareRestart (s : State) : Host.Outcome State Fault Refusal := event firmwareRestart s

/-- START_TRIAL: slot B is loaded on trial, unless its signature fails or its number is below the fused minimum (R395). -/
def startTrial (seq : BitVec 32) (image : List Byte) (sigOk : Bool) (s : State) : State :=
  if !sigOk || decide (seq.toNat < s.plinth.fmin.toNat) || s.plinth.trial then s
  else extendMeasure 0 image ((firmwareRestart s).modPlinth (fun p => { p with
    trial := true, slotA := p.fseq, slotB := seq, fseq := seq, measureB := extended 0 image }))

def execStartTrial (s : State) : Host.Outcome State Fault Refusal :=
  event (fun s => match s.ev with
    | .startTrial seq image ok => startTrial seq image ok s
    | _ => s) s

/-- TRIAL_TIMEOUT: without an accepted commit the control cores revert to slot A (R395). -/
def trialTimeout (s : State) : State :=
  if s.plinth.trial then (firmwareRestart s).modPlinth (fun p => { p with trial := false, rev := true, fseq := p.slotA }) else s

def execTrialTimeout (s : State) : Host.Outcome State Fault Refusal := event trialTimeout s

/-! ## Loading a program (R385 to R387) -/

/-- The displacement and bound of a branch word. -/
def branchOf (i : Instr) : Option (Int × Nat) :=
  match i with
  | .qbeq _ _ d b | .qbne _ _ d b | .qbltn _ _ d b | .qjmp d b => some (d.toInt, b.toNat)
  | _ => none

/-- The window that a word names. -/
def windowOf (i : Instr) : Option Nat :=
  match i with
  | .qld _ _ w _ | .qst _ _ w _ => some w.toNat
  | _ => none

def endsProgram (i : Instr) : Bool :=
  match i with
  | .qend _ | .qjmp _ _ => true
  | _ => false

/-- Word `n` of a program passes the checks of R387. -/
def programWordOk (w : WorkQueue) (len n : Nat) (x : Dword) : Bool :=
  match decodeQueueWord x with
  | none => false
  | some i =>
    (match branchOf i with
     | some (d, _) => decide (0 ≤ (n : Int) + d) && decide ((n : Int) + d < len)
     | none => true) &&
    (match windowOf i with
     | some k => (w.window 0 k).2 != 0
     | none => true) &&
    (n + 1 != len || endsProgram i)

/-- The header of a program image. -/
def headerWords (h : Nat) : Nat := nbits h 32 9 + 1
def programHeaderOk (h : Nat) : Bool := nbits h 0 32 == 0x51504731 && h / 2 ^ 52 == 0 && decide (1 ≤ nbits h 41 11) && decide (nbits h 41 11 ≤ 1024)

/-- The bits of a configuration block that are not reserved. -/
def configBits : BitVec 512 := BitVec.ofNat 512 (2 ^ 444 - 1 - (2 ^ 48 - 2 ^ 42))

/-- A configuration block whose reserved bits are zero and whose addresses are aligned (Table 17-1). -/
def configOk (cfg : BitVec 512) : Bool :=
  nbits cfg.toNat 42 6 == 0 && nbits cfg.toNat 444 68 == 0 && [64, 192, 256, 320].all (fun o => nbits cfg.toNat o 6 == 0)

/-- Read and check a program: its words, budget and image. -/
def readProgram (w : WorkQueue) (s : State) : Option (State × List Dword × Nat × List Byte) :=
  let va : VA := w.chi ++ (w.cfg >>> 64).setWidth 64
  match plinthRead w.asid va 64 64 s with
  | .error _ => none
  | .ok (s, h) =>
    let n := leNat h
    if !configOk w.cfg || !programHeaderOk n then none
    else
      match plinthRead w.asid (va + 64) (8 * headerWords n) 8 s with
      | .error _ => none
      | .ok (s, l) =>
        let prog : List Dword := (List.range (headerWords n)).map (fun i => BitVec.ofNat 64 (leNat ((l.drop (8 * i)).take 8)))
        if (List.range prog.length).all (fun i => programWordOk w prog.length i (nth prog i 0)) then some (s, prog, nbits n 41 11, h ++ l)
        else none

/-- A packet of a queue runs. -/
def queueRuns (s : State) (q : Nat) : Bool := s.plinth.interps.any (fun e => e.2.busy && e.2.queue == q && e.2.ended.isNone)

/-- QUEUE_PROGRAM_LOAD: a configuration block written with en = 1. It waits for the queue's running packet. Reserved fields of a block
that is not loaded read zero (R6). -/
def queueProgramLoad (q : Nat) (cfg : BitVec 512) (s : State) : State :=
  let w := { s.queue q with cfg := cfg }
  match readProgram w s with
  | some (s, prog, budget, image) =>
    extendMeasure 1 image (s.modQueue q (fun w => { w with cfg := cfg, prog := prog, budget := budget, dis := false }))
  | none =>
    (s.modQueue q (fun w => { w with cfg := cfg &&& configBits &&& ~~~ 1, prog := [], dis := true })).modPlinth (fun p =>
      { p with lref := true, lq := BitVec.ofNat 8 q })

def execQueueProgramLoad (s : State) : Host.Outcome State Fault Refusal :=
  event (fun s => match s.ev with
    | .queueProgramLoad q cfg => if cfg.getLsbD 0 then inTurn (queueRuns · q) (queueProgramLoad q cfg) s else s
    | _ => s) s

/-- QUEUE_DISABLE: a block written with en = 0; once the running packet has ended, the queue is disabled, and with it the entries that
stand in the journal (R385). -/
def queueDisable (q : Nat) (cfg : BitVec 512) (s : State) : State :=
  let s := s.modPlinth (fun p => { p with journal := p.journal.map (fun e => if e.queue = q && !e.taken then { e with dead := true } else e) })
  wakeInterp (s.modQueue q (fun w => { w with cfg := cfg &&& configBits, prog := [], dis := true }))

def execQueueDisable (s : State) : Host.Outcome State Fault Refusal :=
  event (fun s => match s.ev with
    | .queueDisable q cfg => if cfg.getLsbD 0 then s else inTurn (queueRuns · q) (queueDisable q cfg) s
    | _ => s) s

/-! ## The bytecode (Table 17-2, R388) -/

/-- The register of an interpreter. -/
def Interp.get (i : Interp) (r : BitVec 4) : Dword := tget i.q r.toNat 0
def Interp.set (i : Interp) (r : BitVec 4) (v : Dword) : Interp := { i with q := tset i.q r.toNat v }
def Interp.nextWord (i : Interp) : Interp := { i with pc := i.pc + 1 }

/-- Abort the packet of an interpreter: its staged effects are discarded. -/
def abortPacket (n : Nat) (status : BitVec 16) (i : Interp) (s : State) : State :=
  packetEnded n (s.setInterp n { i with staged := [], ended := some status })

/-- One word of a queue program: it counts one step; past the budget the packet is aborted. `f` carries the word out, or gives the
status of an abort. -/
def queueWord (f : Interp → State → Except (BitVec 16) (Interp × State)) (s : State) : Host.Outcome State Fault Refusal :=
  match s.cur with
  | .interp n =>
    let i := s.interp n
    if (s.queue i.queue).budget ≤ i.steps then .next (abortPacket n 0x101 i s)
    else
      let i := { i with steps := i.steps + 1 }
      match f i s with
      | .error e => .next (abortPacket n e i s)
      | .ok (i, s) =>
        let s := s.setInterp n i
        .next (if i.ended.isSome then packetEnded n s else s)
  | _ => .next s

/-- A word that only computes. -/
def queueOp (f : Interp → Interp) (s : State) : Host.Outcome State Fault Refusal := queueWord (fun i s => .ok ((f i).nextWord, s)) s

def execQmovi (d : BitVec 4) (imm : BitVec 48) (s : State) : Host.Outcome State Fault Refusal :=
  queueOp (fun i => i.set d (imm.signExtend 64)) s
def execQmov (d r : BitVec 4) (s : State) : Host.Outcome State Fault Refusal := queueOp (fun i => i.set d (i.get r)) s
def execQadd (d r : BitVec 4) (s : State) : Host.Outcome State Fault Refusal := queueOp (fun i => i.set d (i.get d + i.get r)) s
def execQaddi (d : BitVec 4) (imm : BitVec 48) (s : State) : Host.Outcome State Fault Refusal :=
  queueOp (fun i => i.set d (i.get d + imm.signExtend 64)) s
def execQand (d r : BitVec 4) (s : State) : Host.Outcome State Fault Refusal := queueOp (fun i => i.set d (i.get d &&& i.get r)) s
def execQshl (d : BitVec 4) (n : BitVec 6) (s : State) : Host.Outcome State Fault Refusal :=
  queueOp (fun i => i.set d (i.get d <<< n.toNat)) s
def execQshr (d : BitVec 4) (n : BitVec 6) (s : State) : Host.Outcome State Fault Refusal :=
  queueOp (fun i => i.set d (i.get d >>> n.toNat)) s

/-- The address of QLD and QST, within its window; else status 0x103. -/
def queueAddr (i : Interp) (s : State) (r : BitVec 4) (w : BitVec 2) (off : BitVec 16) : Except (BitVec 16) VA :=
  let q := s.queue i.queue
  let (base, len) := q.window i.pkt w.toNat
  let at_ := base + off.toNat + (if r = 0 then 0 else (i.get r).toNat)
  if base + len < at_ + 8 then .error 0x103 else .ok (q.chi ++ BitVec.ofNat 64 at_)

def execQld (d r : BitVec 4) (w : BitVec 2) (off : BitVec 16) (s : State) : Host.Outcome State Fault Refusal :=
  queueWord (fun i s =>
    match queueAddr i s r w off with
    | .error e => .error e
    | .ok va =>
      match plinthRead (s.queue i.queue).asid va 8 8 s with
      | .error _ => .error 0x102
      | .ok (s, l) => .ok ((i.set d (BitVec.ofNat 64 (leNat l))).nextWord, s)) s

def execQst (d r : BitVec 4) (w : BitVec 2) (off : BitVec 16) (s : State) : Host.Outcome State Fault Refusal :=
  queueWord (fun i s =>
    match queueAddr i s r w off with
    | .error e => .error e
    | .ok va =>
      match plinthWrite (s.queue i.queue).asid va (leBytes 8 (i.get d).toNat) s with
      | .error _ => .error 0x102
      | .ok s => .ok (i.nextWord, s)) s

/-- A branch: forward when its condition holds; backward while its count is below its bound, each taking counted (R388). -/
def queueBranch (holds : Interp → Bool) (disp bound : BitVec 16) (s : State) : Host.Outcome State Fault Refusal :=
  queueWord (fun i s =>
    let target := ((i.pc : Int) + disp.toInt).toNat
    let count := tget i.counts i.pc 0
    if !holds i then .ok (i.nextWord, s)
    else if 0 < disp.toInt then .ok ({ i with pc := target }, s)
    else if count < bound.toNat then .ok ({ i with pc := target, counts := tset i.counts i.pc (count + 1) }, s)
    else .ok (i.nextWord, s)) s

def execQbeq (d r : BitVec 4) (disp bound : BitVec 16) (s : State) : Host.Outcome State Fault Refusal :=
  queueBranch (fun i => i.get d == i.get r) disp bound s
def execQbne (d r : BitVec 4) (disp bound : BitVec 16) (s : State) : Host.Outcome State Fault Refusal :=
  queueBranch (fun i => i.get d != i.get r) disp bound s
def execQbltn (d r : BitVec 4) (disp bound : BitVec 16) (s : State) : Host.Outcome State Fault Refusal :=
  queueBranch (fun i => decide ((i.get d).toNat < (i.get r).toNat)) disp bound s
def execQjmp (disp bound : BitVec 16) (s : State) : Host.Outcome State Fault Refusal := queueBranch (fun _ => true) disp bound s

def Interp.stage (i : Interp) (e : Effect) : Interp := { i with staged := i.staged ++ [e] }

/-- QLAUNCH: the record at q[d] is read and checked under R296; a refused one stages a decrement of its signal with status 3. -/
def execQlaunch (d : BitVec 4) (s : State) : Host.Outcome State Fault Refusal :=
  queueWord (fun i s =>
    let w := s.queue i.queue
    match plinthRead w.asid (w.chi ++ i.get d) 256 64 s with
    | .error _ => .error 0x102
    | .ok (s, l) =>
      let r : BitVec 2048 := BitVec.ofNat 2048 (leNat l)
      if recordOk r false then .ok (((i.stage (.launch r)).set d 0).nextWord, s)
      else .ok (((i.stage (.refusedLaunch ((recSig r).setWidth 64))).set d 1).nextWord, s)) s

/-- QGRAPH: the graph at q[d] is read and checked as TNSUB does, on die 0; its number and its room are taken now. -/
def execQgraph (d : BitVec 4) (s : State) : Host.Outcome State Fault Refusal :=
  queueWord (fun i s =>
    let w := s.queue i.queue
    let rd : Reader Nat := fun va n al s => (plinthRead w.asid (BitVec.ofNat 80 va) n al s).map (fun r => (r.2, r.1))
    match readGraph rd (w.chi ++ i.get d : VA).toNat s with
    | .error _ => .error 0x102
    | .ok (none, s) => .ok ((i.set d (admitWord 0 0 2)).nextWord, s)
    | .ok (some (chi, t), s) =>
      if 8192 < poolNodes s 0 + t.length then
        .ok ((i.set d (admitWord 0 0 1)).nextWord, s)
      else
        let num := (s.die 0).graphNext
        let g : Graph := { num := num, asid := w.asid, gid := 0, chi := chi, lat := w.lat, queue := i.queue, nodes := t, retired := false }
        .ok (((i.stage (.graph g)).set d (admitWord num 0 0)).nextWord, s.modDie 0 (fun v => { v with graphNext := v.graphNext + 1 }))) s

def execQamsg (d r : BitVec 4) (s : State) : Host.Outcome State Fault Refusal :=
  queueWord (fun i s =>
    if messageOk s i.queue (i.get d) (i.get r) then
      .ok (((i.stage (.amsg (i.get d) (i.get r) (i.get 14) (i.get 15))).set d 0).nextWord, s)
    else .ok ((i.set d 1).nextWord, s)) s

def execQsigdec (d r : BitVec 4) (s : State) : Host.Outcome State Fault Refusal :=
  queueOp (fun i => (i.stage (.sigdec (i.get d) (i.get r))).set d 0) s

def execQsigrd (d r : BitVec 4) (s : State) : Host.Outcome State Fault Refusal :=
  queueWord (fun i s =>
    match plinthRead (s.queue i.queue).asid (BitVec.ofNat 80 (0xD000 * 2 ^ 64 + (i.get r).toNat)) 8 8 s with
    | .error _ => .error 0x102
    | .ok (s, l) => .ok ((i.set d (BitVec.ofNat 64 (leNat l % 2 ^ 56))).nextWord, s)) s

/-- QCYC: the cycle count of die 0, as RDCYC reads it (R341). -/
def execQcyc (d : BitVec 4) (s : State) : Host.Outcome State Fault Refusal :=
  queueWord (fun i s =>
    let t := s.clock + Config.elapsed s.draws
    .ok ((i.set d (BitVec.ofNat 64 t)).nextWord, { s.drawn with clock := t })) s

def execQend (d : BitVec 4) (s : State) : Host.Outcome State Fault Refusal :=
  queueWord (fun i s => .ok ({ i.nextWord with ended := some (((i.get d).setWidth 8).setWidth 16) }, s)) s

/-! ## The host (R391 to R393) -/

/-- An aperture access: a faulting read returns all ones, a faulting write is dropped, and both set host-fault. -/
def hostAccess (toSignals write : Bool) (off : BitVec 40) (size : Nat) (data : Dword) (s : State) : State :=
  let ctl := if toSignals then s.plinth.sigCtl else s.plinth.memCtl
  let asid : BitVec 12 := ctl.setWidth 12
  let va : VA := if toSignals then BitVec.ofNat 80 (0xD000 * 2 ^ 64 + nbits ctl.toNat 12 32 * 2 ^ 32 + off.toNat % 2 ^ 32)
    else BitVec.ofNat 80 (nbits ctl.toNat 12 40 * 2 ^ 40 + off.toNat)
  let sized := size == 1 || size == 2 || size == 4 || size == 8
  let bad (s : State) : State := s.modPlinth (fun p => { p with hflt := true })
  if write then
    match plinthWrite asid va (leBytes size data.toNat) s with
    | .ok t => if sized then t else bad s
    | .error _ => bad s
  else
    match plinthRead asid va size size s with
    | .ok (t, l) => if sized then t.modPlinth (fun p => { p with hostRead := BitVec.ofNat 64 (leNat l) })
      else (bad s).modPlinth (fun p => { p with hostRead := BitVec.allOnes 64 })
    | .error _ => (bad s).modPlinth (fun p => { p with hostRead := BitVec.allOnes 64 })

/-- The status register of a queue (Table 10-5). -/
def WorkQueue.status (w : WorkQueue) : Dword :=
  BitVec.ofNat 64 ((if w.acc then 1 else 0) + (if w.retry then 2 else 0) + (if w.dis then 4 else 0) + (if w.bad then 8 else 0) +
    w.seq.toNat * 2 ^ 32)

/-- The Plinth status (Table 17-5). -/
def Plinth.status (p : Plinth) : Dword :=
  BitVec.ofNat 64 ((if p.cerr then 1 else 0) + (if p.trial then 2 else 0) + (if p.rev then 4 else 0) + (if p.hflt then 8 else 0) +
    (if p.lref then 16 else 0) + p.lq.toNat * 2 ^ 8 + p.fseq.toNat * 2 ^ 32)

/-- A message of queue `q` waits in the Plinth: it is neither sent nor refused yet (R393). -/
def targetHeld (p : Plinth) (q : Nat) : Bool := p.held.any (fun m => afterAll m && hostAddress m == some (0x2000 + 32 * q))

/-- What the host reads at an offset of the register window (Table 17-4): the submission registers, what only firmware reads and what
the table does not name read 0. The status of a module that has stopped is all ones (R399). -/
def hostRegister (s : State) (off : Nat) : Dword :=
  if off < 0x1000 then (if off % 16 = 8 then (s.queue (off / 16)).status else 0)
  else if off = 0x1000 then s.plinth.commit.setWidth 64
  else if off = 0x1008 then (if s.stopped then BitVec.allOnes 64 else s.plinth.status)
  else if off = 0x1018 then s.plinth.sigCtl
  else if off = 0x1020 then s.plinth.memCtl
  else if 0x2000 ≤ off && off < 0x4000 then
    let w := s.queue ((off - 0x2000) / 32)
    match off % 32 with
    | 0 => if targetHeld s.plinth ((off - 0x2000) / 32) then 0 else BitVec.ofNat 64 ((if w.amSent then 1 else 0) + (if w.amRefused then 2 else 0))
    | 8 => w.am0
    | 16 => w.am1
    | 24 => w.amPc
    | _ => 0
  else if 0x10000 ≤ off && off < 0x14000 then
    BitVec.ofNat 64 (nbits (s.queue ((off - 0x10000) / 64)).cfg.toNat (8 * (off % 64)) 64)
  else 0

/-- HOST_APERTURE_ACCESS: through the signal or the memory aperture, or a read of the register window (R391). -/
def execHostApertureAccess (s : State) : Host.Outcome State Fault Refusal :=
  event (fun s => match s.ev with
    | .hostApertureAccess toSignals write off size data => hostAccess toSignals write off size data s
    | .registerRead off => inTurn never (fun s => s.modPlinth (fun p => { p with hostRead := hostRegister s off.toNat })) s
    | _ => s) s

/-- REGISTER_WRITE: a register of Table 17-4 that only holds what is written; the host reaches nothing of the device window. -/
def registerWrite (off : Nat) (v : Dword) (s : State) : State :=
  if off = 0x1018 then s.modPlinth (fun p => { p with sigCtl := v.setWidth 44 |>.setWidth 64 })
  else if off = 0x1020 then s.modPlinth (fun p => { p with memCtl := v.setWidth 52 |>.setWidth 64 })
  else if 0x2000 ≤ off && off < 0x4000 then
    let q := (off - 0x2000) / 32
    match (off - 0x2000) % 32 with
    | 8 => s.modQueue q (fun w => { w with am0 := v })
    | 16 => s.modQueue q (fun w => { w with am1 := v })
    | 24 => s.modQueue q (fun w => { w with amPc := v })
    | _ => s
  else s

/-- Four tiles of a die are reserved for the latency class; a write of another number of tiles is none (R362). -/
def reservedWrite (d : Nat) (tiles : BitVec 64) (s : State) : State :=
  let l := (List.range 64).filter (fun i => tiles.getLsbD i)
  if l.length = 4 then placeAgain (s.modDie d (fun v => { v with reserved := l })) else s

/-- REGISTER_WRITE: a register that the host writes in its turn, or one that firmware writes: a die's watchdog period, from 2^20 to 2^30
(R367), its reserved tiles, the service of the queues (log 115). -/
def execRegisterWrite (s : State) : Host.Outcome State Fault Refusal :=
  event (fun s => match s.ev with
    | .registerWrite off v => inTurn never (registerWrite off.toNat v) s
    | .watchdogWrite d n => if 20 ≤ n.toNat && n.toNat ≤ 30 then s.modDie d.toNat (fun v => { v with watchdog := n.toNat }) else s
    | .reservedWrite d tiles => reservedWrite d.toNat tiles s
    | .strideSelect on => strideSelect on s
    | _ => s) s

/-- CLEAR_STATUS: bits 0, 2, 3 and 4 and lq of the Plinth status (R391). -/
def execClearStatus (s : State) : Host.Outcome State Fault Refusal :=
  event (fun s => s.modPlinth (fun p => { p with cerr := false, rev := false, hflt := false, lref := false, lq := 0 })) s

/-- A message may be sent and finds the shared entries of its target's inbox full. -/
def messageWaits (q : Nat) (target : Dword) (s : State) : Bool :=
  messageOk s q target (s.queue q).amPc && decide (16 ≤ inboxShared s (nbits target.toNat 10 2 * 1024 + nbits target.toNat 0 10))

/-- ACTIVE_MESSAGE_BLOCK_TARGET: the write of a block's target sends the message or refuses it (R393). -/
def blockTarget (q : Nat) (target : Dword) (s : State) : State :=
  let w := s.queue q
  if !messageOk s q target w.amPc then s.modQueue q (fun w => { w with amSent := false, amRefused := true })
  else plinthMessage target w.amPc w.am0 w.am1 (s.modQueue q (fun w => { w with amSent := true, amRefused := false }))

/-- A message that finds its target's shared entries full waits in the Plinth, and the host's next writes to the block behind it. -/
def execActiveMessageBlockTarget (s : State) : Host.Outcome State Fault Refusal :=
  event (fun s => match s.ev with
    | .activeMessageBlockTarget q t => inTurn (messageWaits q t) (blockTarget q t) s
    | _ => s) s

end Sys2Proof.Machine
end

