-- ==== Sys2Proof/Machine/Vector.lean ====
section
/-! DEFINITION. Vector arithmetic of the execute stream: major 0x10 but for its loads and stores (R108 to R110, R32). -/

namespace Sys2Proof.Machine

/-- The type code of a lane type (Table 4-13). -/
def laneType (l : BitVec 3) : Nat :=
  match l.toNat with
  | 0 => 0 | 1 => 7 | 2 => 11 | 3 => 1 | 4 => 2 | 5 => 6 | _ => 5

/-- The number of lanes. -/
def laneCount (l : BitVec 3) : Nat := 512 / laneWidth l

/-- The lanes of a vector, lane 0 first, each of `w` bits (R85). -/
def lanesOf (w n : Nat) (v : VReg) : List Nat := (List.range n).map (fun i => nbits v.toNat (w * i) w)

/-- The vector whose lanes these are. -/
def ofLanes (w : Nat) (l : List Nat) : VReg :=
  BitVec.ofNat 512 (l.foldr (fun x acc => acc * 2 ^ w + x % 2 ^ w) 0)

/-- The flags of all lanes (R108). -/
def laneFlags (l : List (Nat × Flags)) : Flags := l.foldl (fun f r => f ||| r.2) 0

/-- Write a vector result with its flags and move on. -/
def finishV (d : BitVec 4) (w : Nat) (l : List (Nat × Flags)) : M Unit := do
  setFlags (laneFlags l)
  writeV d (ofLanes w (l.map (·.1)))
  retire

/-- A lane operation: exact values for floating lanes, integers for integer lanes, clamped when `sat` (R108). -/
def laneOp (l : BitVec 3) (sat : Bool) (fop : Val → Val → Val → Val × Flags) (iop : Int → Int → Int → Int) (x y z : Nat) :
    Nat × Flags :=
  let t := laneType l
  if t ≤ 2 then
    let r := fop (typeDecode t x) (typeDecode t y) (typeDecode t z)
    let (c, g) := (floatShape t).round r.1
    (c, r.2 ||| g)
  else
    let (w, sg) := intType t
    let i := iop (intDecode w sg x) (intDecode w sg y) (intDecode w sg z)
    if sat then (let (j, g) := intClamp w sg i; (intWrap w j, g)) else (intWrap w i, 0)

/-- The shape of a lane-by-lane operation of two sources and, where `useOld`, the old destination. -/
def vector3 (f : Nat → Nat → Nat → Nat × Flags) (useOld : Bool) (d a b : BitVec 4) (l : BitVec 3) : M Unit := do
  let w := laneWidth l
  let n := laneCount l
  let x := lanesOf w n (← readV a)
  let y := lanesOf w n (← readV b)
  let z ← if useOld then (do return lanesOf w n (← readV d)) else pure (List.replicate n 0)
  finishV d w ((List.range n).map (fun i => f (nth x i 0) (nth y i 0) (nth z i 0)))

/-- The shape of a lane-by-lane operation of one source. -/
def vector2 (f : Nat → Nat × Flags) (d a : BitVec 4) (l : BitVec 3) : M Unit := do
  let w := laneWidth l
  let x := lanesOf w (laneCount l) (← readV a)
  finishV d w (x.map f)

def execVadd (d a b : BitVec 4) (sat : BitVec 1) (l : BitVec 3) (s : State) : Host.Outcome State Fault Refusal :=
  run (vector3 (laneOp l (sat == 1) (fun x y _ => vAdd x y) (fun x y _ => x + y)) false d a b l) s
def execVsub (d a b : BitVec 4) (sat : BitVec 1) (l : BitVec 3) (s : State) : Host.Outcome State Fault Refusal :=
  run (vector3 (laneOp l (sat == 1) (fun x y _ => vAdd x (vNeg y)) (fun x y _ => x - y)) false d a b l) s
def execVmul (d a b : BitVec 4) (sat : BitVec 1) (l : BitVec 3) (s : State) : Host.Outcome State Fault Refusal :=
  run (vector3 (laneOp l (sat == 1) (fun x y _ => vMul x y) (fun x y _ => x * y)) false d a b l) s
def execVfma (d a b : BitVec 4) (l : BitVec 3) (s : State) : Host.Outcome State Fault Refusal :=
  run (vector3 (laneOp l false vFma (fun x y z => x * y + z)) true d a b l) s
def execVmax (d a b : BitVec 4) (l : BitVec 3) (s : State) : Host.Outcome State Fault Refusal :=
  run (vector3 (laneOp l false (fun x y _ => (vPick true x y, 0)) (fun x y _ => max x y)) false d a b l) s
def execVmin (d a b : BitVec 4) (l : BitVec 3) (s : State) : Host.Outcome State Fault Refusal :=
  run (vector3 (laneOp l false (fun x y _ => (vPick false x y, 0)) (fun x y _ => min x y)) false d a b l) s

/-- The correctly rounded function of a floating lane (R32). -/
def laneFn (l : BitVec 3) (f : Val → Val × Flags) (x : Nat) : Nat × Flags :=
  let r := f (typeDecode (laneType l) x)
  let (c, g) := (floatShape (laneType l)).round r.1
  (c, r.2 ||| g)

def execVexp2 (d a : BitVec 4) (l : BitVec 3) (s : State) : Host.Outcome State Fault Refusal :=
  run (vector2 (laneFn l vExp2) d a l) s
def execVrcp (d a : BitVec 4) (l : BitVec 3) (s : State) : Host.Outcome State Fault Refusal :=
  run (vector2 (laneFn l vRcp) d a l) s
def execVrsq (d a : BitVec 4) (l : BitVec 3) (s : State) : Host.Outcome State Fault Refusal :=
  run (vector2 (laneFn l vRsq) d a l) s

/-! ## Reductions (R109) -/

/-- The exact sum of floating lanes, rounded once; the 64-bit sum of integer lanes. -/
def redAdd (l : BitVec 3) (x : List Nat) : Dword × Flags :=
  let t := laneType l
  if t ≤ 2 then
    let v := x.map (typeDecode t)
    let r := if v.any (· == .nan) then (.nan, 0) else
      v.tail.foldl (fun (acc : Val × Flags) y => let p := vAdd acc.1 y; (p.1, acc.2 ||| p.2)) (v.headD (.fin false 0 0), 0)
    let (c, g) := (floatShape t).round r.1
    (BitVec.ofNat 64 c, r.2 ||| g)
  else
    let (w, sg) := intType t
    (BitVec.ofInt 64 (x.foldl (fun acc y => acc + intDecode w sg y) 0), 0)

/-- The maximum or minimum of all lanes in the order of VMAX and VMIN. -/
def redPick (greatest : Bool) (l : BitVec 3) (x : List Nat) : Dword × Flags :=
  let t := laneType l
  if t ≤ 2 then
    let v := x.map (typeDecode t)
    (BitVec.ofNat 64 ((floatShape t).round (v.tail.foldl (vPick greatest) (v.headD .nan))).1, 0)
  else
    let (w, sg) := intType t
    let v := x.map (intDecode w sg)
    (BitVec.ofInt 64 (v.tail.foldl (fun a b => if greatest then max a b else min a b) (v.headD 0)), 0)

def vred (f : BitVec 3 → List Nat → Dword × Flags) (a : BitVec 4) (x : BitVec 6) (l : BitVec 3) : M Unit := do
  let v ← readV a
  finishFlags x (f l (lanesOf (laneWidth l) (laneCount l) v))

def execVredAdd (a : BitVec 4) (x : BitVec 6) (l : BitVec 3) (s : State) : Host.Outcome State Fault Refusal :=
  run (vred redAdd a x l) s
def execVredMax (a : BitVec 4) (x : BitVec 6) (l : BitVec 3) (s : State) : Host.Outcome State Fault Refusal :=
  run (vred (redPick true) a x l) s
def execVredMin (a : BitVec 4) (x : BitVec 6) (l : BitVec 3) (s : State) : Host.Outcome State Fault Refusal :=
  run (vred (redPick false) a x l) s

/-! ## Conversions (R110) -/

def laneConvert (l : BitVec 3) (u z : BitVec 1) (t : BitVec 4) (x : Nat) : Nat × Flags :=
  convert (laneType l) t.toNat (z == 1) (u == 1) x

def execVcvt (d a : BitVec 4) (u z : BitVec 1) (t : BitVec 4) (l : BitVec 3) (s : State) : Host.Outcome State Fault Refusal :=
  run (vector2 (laneConvert l u z t) d a l) s

/-- VPACK: the lanes of va, then of vb, converted to half the width. -/
def execVpack (d a b : BitVec 4) (u z : BitVec 1) (t : BitVec 4) (l : BitVec 3) (s : State) :
    Host.Outcome State Fault Refusal :=
  run (do
    let w := laneWidth l
    let n := laneCount l
    let x := lanesOf w n (← readV a)
    let y := lanesOf w n (← readV b)
    finishV d (w / 2) ((x ++ y).map (laneConvert l u z t))) s

/-- VUNPK: the low half of va's lanes to vd and the high half to vd + 1, converted to twice the width. -/
def execVunpk (d a : BitVec 4) (u z : BitVec 1) (t : BitVec 4) (l : BitVec 3) (s : State) : Host.Outcome State Fault Refusal :=
  run (do
    let w := laneWidth l
    let n := laneCount l
    let x := (lanesOf w n (← readV a)).map (laneConvert l u z t)
    setFlags (laneFlags x)
    writeV d (ofLanes (2 * w) ((x.take (n / 2)).map (·.1)))
    writeV (d + 1) (ofLanes (2 * w) ((x.drop (n / 2)).map (·.1)))
    retire) s

/-! ## Selection, permutation, comparison -/

/-- VSEL: the va lane where bit 0 of the mask lane is 1, else the vb lane. -/
def execVsel (d a b m : BitVec 4) (l : BitVec 3) (s : State) : Host.Outcome State Fault Refusal :=
  run (do
    let w := laneWidth l
    let n := laneCount l
    let x := lanesOf w n (← readV a)
    let y := lanesOf w n (← readV b)
    let k := lanesOf w n (← readV m)
    finishV d w ((List.range n).map (fun i => (if nth k i 0 % 2 = 1 then nth x i 0 else nth y i 0, 0)))) s

/-- VSHF: lane i takes the va lane whose number is the vb lane i modulo the number of lanes. -/
def execVshf (d a b : BitVec 4) (l : BitVec 3) (s : State) : Host.Outcome State Fault Refusal :=
  run (do
    let w := laneWidth l
    let n := laneCount l
    let x := lanesOf w n (← readV a)
    let y := lanesOf w n (← readV b)
    finishV d w (y.map (fun i => (nth x (i % n) 0, 0)))) s

def execVbcast (d : BitVec 4) (x : BitVec 6) (l : BitVec 3) (s : State) : Host.Outcome State Fault Refusal :=
  run (do
    let v ← readS x
    finishV d (laneWidth l) (List.replicate (laneCount l) (v.toNat % 2 ^ laneWidth l, 0))) s

/-- A condition of VCMP (Table 4-14): 0 eq, 1 lt, 2 le, 3 ne; an unordered compare is false but for ne. -/
def laneTest (c : BitVec 2) (o : Option Ordering) : Bool :=
  match c.toNat, o with
  | 0, o => o == some .eq
  | 1, o => o == some .lt
  | 2, o => o == some .lt || o == some .eq
  | _, o => o != some .eq

/-- The order of two lanes of a lane type. -/
def laneOrder (l : BitVec 3) (x y : Nat) : Option Ordering :=
  let t := laneType l
  if t ≤ 2 then vCmp (typeDecode t x) (typeDecode t y)
  else
    let (w, sg) := intType t
    some (compare (intDecode w sg x) (intDecode w sg y))

def execVcmp (d a b : BitVec 4) (c : BitVec 2) (l : BitVec 3) (s : State) : Host.Outcome State Fault Refusal :=
  run (vector3 (fun x y _ => (if laneTest c (laneOrder l x y) then 2 ^ laneWidth l - 1 else 0, 0)) false d a b l) s

end Sys2Proof.Machine
end

