-- ==== Sys2Proof/Machine/Dispatch.lean ====
section
/-! DEFINITION. One arm per instruction: each calls the meaning of its instruction. -/

namespace Sys2Proof.Machine

def exec (i : Instr) (s : State) : Host.Outcome State Fault Refusal :=
  match i with
  | .add d a b => Sys2Proof.Machine.execAdd d a b s
  | .sub d a b => Sys2Proof.Machine.execSub d a b s
  | .mul d a b => Sys2Proof.Machine.execMul d a b s
  | .mulh d a b => Sys2Proof.Machine.execMulh d a b s
  | .mulhn d a b => Sys2Proof.Machine.execMulhn d a b s
  | .divs d a b => Sys2Proof.Machine.execDivs d a b s
  | .divn d a b => Sys2Proof.Machine.execDivn d a b s
  | .rems d a b => Sys2Proof.Machine.execRems d a b s
  | .remn d a b => Sys2Proof.Machine.execRemn d a b s
  | .andd d a b => Sys2Proof.Machine.execAndd d a b s
  | .orr d a b => Sys2Proof.Machine.execOrr d a b s
  | .xorr d a b => Sys2Proof.Machine.execXorr d a b s
  | .andn d a b => Sys2Proof.Machine.execAndn d a b s
  | .shl d a b => Sys2Proof.Machine.execShl d a b s
  | .shr d a b => Sys2Proof.Machine.execShr d a b s
  | .sha d a b => Sys2Proof.Machine.execSha d a b s
  | .rot d a b => Sys2Proof.Machine.execRot d a b s
  | .clz d a => Sys2Proof.Machine.execClz d a s
  | .popc d a => Sys2Proof.Machine.execPopc d a s
  | .mins d a b => Sys2Proof.Machine.execMins d a b s
  | .maxs d a b => Sys2Proof.Machine.execMaxs d a b s
  | .minn d a b => Sys2Proof.Machine.execMinn d a b s
  | .maxn d a b => Sys2Proof.Machine.execMaxn d a b s
  | .cmpeq d a b => Sys2Proof.Machine.execCmpeq d a b s
  | .cmplt d a b => Sys2Proof.Machine.execCmplt d a b s
  | .cmpltn d a b => Sys2Proof.Machine.execCmpltn d a b s
  | .cmple d a b => Sys2Proof.Machine.execCmple d a b s
  | .sel d a b => Sys2Proof.Machine.execSel d a b s
  | .addSats d a b => Sys2Proof.Machine.execAddSats d a b s
  | .addSatn d a b => Sys2Proof.Machine.execAddSatn d a b s
  | .subSats d a b => Sys2Proof.Machine.execSubSats d a b s
  | .subSatn d a b => Sys2Proof.Machine.execSubSatn d a b s
  | .mulSats d a b => Sys2Proof.Machine.execMulSats d a b s
  | .mulSatn d a b => Sys2Proof.Machine.execMulSatn d a b s
  | .addi d a imm => Sys2Proof.Machine.execAddi d a imm s
  | .andi d a imm => Sys2Proof.Machine.execAndi d a imm s
  | .ori d a imm => Sys2Proof.Machine.execOri d a imm s
  | .xori d a imm => Sys2Proof.Machine.execXori d a imm s
  | .shli d a n => Sys2Proof.Machine.execShli d a n s
  | .shri d a n => Sys2Proof.Machine.execShri d a n s
  | .shai d a n => Sys2Proof.Machine.execShai d a n s
  | .movi d imm => Sys2Proof.Machine.execMovi d imm s
  | .ext d a l p => Sys2Proof.Machine.execExt d a l p s
  | .extS d a l p => Sys2Proof.Machine.execExtS d a l p s
  | .ins d a l p => Sys2Proof.Machine.execIns d a l p s
  | .fadd d a b f => Sys2Proof.Machine.execFadd d a b f s
  | .fsub d a b f => Sys2Proof.Machine.execFsub d a b f s
  | .fmul d a b f => Sys2Proof.Machine.execFmul d a b f s
  | .ffma d a b f => Sys2Proof.Machine.execFfma d a b f s
  | .fmin d a b f => Sys2Proof.Machine.execFmin d a b f s
  | .fmax d a b f => Sys2Proof.Machine.execFmax d a b f s
  | .fcmp d a b f => Sys2Proof.Machine.execFcmp d a b f s
  | .fcvt d a ss z u t => Sys2Proof.Machine.execFcvt d a ss z u t s
  | .fabs d a f => Sys2Proof.Machine.execFabs d a f s
  | .fneg d a f => Sys2Proof.Machine.execFneg d a f s
  | .rdcyc d => Sys2Proof.Machine.execRdcyc d s
  | .rdperf d a => Sys2Proof.Machine.execRdperf d a s
  | .vadd d a b ss l => Sys2Proof.Machine.execVadd d a b ss l s
  | .vsub d a b ss l => Sys2Proof.Machine.execVsub d a b ss l s
  | .vmul d a b ss l => Sys2Proof.Machine.execVmul d a b ss l s
  | .vfma d a b l => Sys2Proof.Machine.execVfma d a b l s
  | .vmax d a b l => Sys2Proof.Machine.execVmax d a b l s
  | .vmin d a b l => Sys2Proof.Machine.execVmin d a b l s
  | .vexp2 d a l => Sys2Proof.Machine.execVexp2 d a l s
  | .vrcp d a l => Sys2Proof.Machine.execVrcp d a l s
  | .vrsq d a l => Sys2Proof.Machine.execVrsq d a l s
  | .vredAdd a x l => Sys2Proof.Machine.execVredAdd a x l s
  | .vredMax a x l => Sys2Proof.Machine.execVredMax a x l s
  | .vredMin a x l => Sys2Proof.Machine.execVredMin a x l s
  | .vcvt d a u z t l => Sys2Proof.Machine.execVcvt d a u z t l s
  | .vpack d a b u z t l => Sys2Proof.Machine.execVpack d a b u z t l s
  | .vunpk d a u z t l => Sys2Proof.Machine.execVunpk d a u z t l s
  | .vsel d a b m l => Sys2Proof.Machine.execVsel d a b m l s
  | .vshf d a b l => Sys2Proof.Machine.execVshf d a b l s
  | .vbcast d x l => Sys2Proof.Machine.execVbcast d x l s
  | .vcmp d a b c l => Sys2Proof.Machine.execVcmp d a b c l s
  | .mms c a b t m ss => Sys2Proof.Machine.execMms c a b t m ss s
  | .mmss c a b t m ss => Sys2Proof.Machine.execMmss c a b t m ss s
  | .ldstat b t => Sys2Proof.Machine.execLdstat b t s
  | .tidset t => Sys2Proof.Machine.execTidset t s
  | .tidget d t n => Sys2Proof.Machine.execTidget d t n s
  | .swapstat ss => Sys2Proof.Machine.execSwapstat ss s
  | .accz c m ss => Sys2Proof.Machine.execAccz c m ss s
  | .acczMark ss => Sys2Proof.Machine.execAcczMark ss s
  | .accld c t ss => Sys2Proof.Machine.execAccld c t ss s
  | .accst t c ss => Sys2Proof.Machine.execAccst t c ss s
  | .accadd d e ss => Sys2Proof.Machine.execAccadd d e ss s
  | .scalek d a b => Sys2Proof.Machine.execScalek d a b s
  | .scalew d => Sys2Proof.Machine.execScalew d s
  | .mcmd ss a b => Sys2Proof.Machine.execMcmd ss a b s
  | .mcap d a => Sys2Proof.Machine.execMcap d a s
  | .tcvt d a z r ss => Sys2Proof.Machine.execTcvt d a z r ss s
  | .tcopy d a r ss => Sys2Proof.Machine.execTcopy d a r ss s
  | .permit d a => Sys2Proof.Machine.execPermit d a s
  | .permrel d a => Sys2Proof.Machine.execPermrel d a s
  | .aadd d a b => Sys2Proof.Machine.execAadd d a b s
  | .asub d a b => Sys2Proof.Machine.execAsub d a b s
  | .amov d a => Sys2Proof.Machine.execAmov d a s
  | .acmpEq d a b => Sys2Proof.Machine.execAcmpEq d a b s
  | .acmpNe d a b => Sys2Proof.Machine.execAcmpNe d a b s
  | .acmpLt d a b => Sys2Proof.Machine.execAcmpLt d a b s
  | .acmpLe d a b => Sys2Proof.Machine.execAcmpLe d a b s
  | .amask d a b => Sys2Proof.Machine.execAmask d a b s
  | .aidx d a b n => Sys2Proof.Machine.execAidx d a b n s
  | .aaddi d a imm => Sys2Proof.Machine.execAaddi d a imm s
  | .ld a ss w z q o => Sys2Proof.Machine.execLd a ss w z q o s
  | .st a ss w z o => Sys2Proof.Machine.execSt a ss w z o s
  | .ldacq a ss w z q o => Sys2Proof.Machine.execLdacq a ss w z q o s
  | .strel a ss w z q o => Sys2Proof.Machine.execStrel a ss w z q o s
  | .ldc a ss w z q o => Sys2Proof.Machine.execLdc a ss w z q o s
  | .ldi a ss w z q o => Sys2Proof.Machine.execLdi a ss w z q o s
  | .ldfe a ss w z q o => Sys2Proof.Machine.execLdfe a ss w z q o s
  | .stfe a ss w z q o => Sys2Proof.Machine.execStfe a ss w z q o s
  | .la a ss w t o => Sys2Proof.Machine.execLa a ss w t o s
  | .atadd a ss w z o => Sys2Proof.Machine.execAtadd a ss w z o s
  | .atmin a ss w z o => Sys2Proof.Machine.execAtmin a ss w z o s
  | .atmax a ss w z o => Sys2Proof.Machine.execAtmax a ss w z o s
  | .atand a ss w z o => Sys2Proof.Machine.execAtand a ss w z o s
  | .ator a ss w z o => Sys2Proof.Machine.execAtor a ss w z o s
  | .atxor a ss w z o => Sys2Proof.Machine.execAtxor a ss w z o s
  | .atswp a ss w z o => Sys2Proof.Machine.execAtswp a ss w z o s
  | .atcas a ss w z o => Sys2Proof.Machine.execAtcas a ss w z o s
  | .waita a ss w z o => Sys2Proof.Machine.execWaita a ss w z o s
  | .pref a ss w o => Sys2Proof.Machine.execPref a ss w o s
  | .cflush a ss w o => Sys2Proof.Machine.execCflush a ss w o s
  | .cinv a ss w o => Sys2Proof.Machine.execCinv a ss w o s
  | .cpin a ss w o => Sys2Proof.Machine.execCpin a ss w o s
  | .cunpin a ss w o => Sys2Proof.Machine.execCunpin a ss w o s
  | .fenceCore ss => Sys2Proof.Machine.execFenceCore ss s
  | .fenceTile ss => Sys2Proof.Machine.execFenceTile ss s
  | .fenceDie ss => Sys2Proof.Machine.execFenceDie ss s
  | .fenceModule ss => Sys2Proof.Machine.execFenceModule ss s
  | .fenceDomain ss => Sys2Proof.Machine.execFenceDomain ss s
  | .vld a ss w t o => Sys2Proof.Machine.execVld a ss w t o s
  | .vst a ss w t o => Sys2Proof.Machine.execVst a ss w t o s
  | .vstfe a ss w t o => Sys2Proof.Machine.execVstfe a ss w t o s
  | .asopReduceAdd a ss w o => Sys2Proof.Machine.execAsopReduceAdd a ss w o s
  | .asopReduceMax a ss w o => Sys2Proof.Machine.execAsopReduceMax a ss w o s
  | .asopAxpy a ss w o => Sys2Proof.Machine.execAsopAxpy a ss w o s
  | .asopConvert a ss w o => Sys2Proof.Machine.execAsopConvert a ss w o s
  | .asopScale a ss w o => Sys2Proof.Machine.execAsopScale a ss w o s
  | .asopGather a ss w o => Sys2Proof.Machine.execAsopGather a ss w o s
  | .asopScatterAdd a ss w o => Sys2Proof.Machine.execAsopScatterAdd a ss w o s
  | .asopSmerge a ss w o => Sys2Proof.Machine.execAsopSmerge a ss w o s
  | .jcsub d a ss => Sys2Proof.Machine.execJcsub d a ss s
  | .jcwait d a ss => Sys2Proof.Machine.execJcwait d a ss s
  | .segopen d a b ss => Sys2Proof.Machine.execSegopen d a b ss s
  | .segput c a b ss => Sys2Proof.Machine.execSegput c a b ss s
  | .segput2 c a b ss => Sys2Proof.Machine.execSegput2 c a b ss s
  | .segputPfx c a b ss => Sys2Proof.Machine.execSegputPfx c a b ss s
  | .segclose d a c ss => Sys2Proof.Machine.execSegclose d a c ss s
  | .segcnt d a c ss => Sys2Proof.Machine.execSegcnt d a c ss s
  | .ascfg d a b ss => Sys2Proof.Machine.execAscfg d a b ss s
  | .put r p ss n => Sys2Proof.Machine.execPut r p ss n s
  | .get r p ss => Sys2Proof.Machine.execGet r p ss s
  | .offerPut r p ss n => Sys2Proof.Machine.execOfferPut r p ss n s
  | .offerGet p ss => Sys2Proof.Machine.execOfferGet p ss s
  | .poll r p ss => Sys2Proof.Machine.execPoll r p ss s
  | .retract r p ss => Sys2Proof.Machine.execRetract r p ss s
  | .conload r ss => Sys2Proof.Machine.execConload r ss s
  | .condrop r ss => Sys2Proof.Machine.execCondrop r ss s
  | .constat r ss => Sys2Proof.Machine.execConstat r ss s
  | .pbind r p ss => Sys2Proof.Machine.execPbind r p ss s
  | .pgsub d a ss => Sys2Proof.Machine.execPgsub d a ss s
  | .pgunsub d a ss => Sys2Proof.Machine.execPgunsub d a ss s
  | .pgpass d a ss => Sys2Proof.Machine.execPgpass d a ss s
  | .pgrecv d a ss => Sys2Proof.Machine.execPgrecv d a ss s
  | .pgrecvFree a ss => Sys2Proof.Machine.execPgrecvFree a ss s
  | .mrgput a b ss => Sys2Proof.Machine.execMrgput a b ss s
  | .mrgget d a b ss => Sys2Proof.Machine.execMrgget d a b ss s
  | .mrgcfg d a b ss => Sys2Proof.Machine.execMrgcfg d a b ss s
  | .sigdec d a b ss => Sys2Proof.Machine.execSigdec d a b ss s
  | .sigwait d a b ss => Sys2Proof.Machine.execSigwait d a b ss s
  | .dcinit d a b ss => Sys2Proof.Machine.execDcinit d a b ss s
  | .dcdec d a b ss => Sys2Proof.Machine.execDcdec d a b ss s
  | .rhopen d a b ss => Sys2Proof.Machine.execRhopen d a b ss s
  | .rhpri a b ss => Sys2Proof.Machine.execRhpri a b ss s
  | .rhdemote a ss => Sys2Proof.Machine.execRhdemote a ss s
  | .rhevict a ss => Sys2Proof.Machine.execRhevict a ss s
  | .rhclose a ss => Sys2Proof.Machine.execRhclose a ss s
  | .bre c d => Sys2Proof.Machine.execBre c d s
  | .beqz c d => Sys2Proof.Machine.execBeqz c d s
  | .bnez c d => Sys2Proof.Machine.execBnez c d s
  | .bra a d => Sys2Proof.Machine.execBra a d s
  | .jmp d => Sys2Proof.Machine.execJmp d s
  | .call d => Sys2Proof.Machine.execCall d s
  | .loop a d => Sys2Proof.Machine.execLoop a d s
  | .jmpi a => Sys2Proof.Machine.execJmpi a s
  | .follow k => Sys2Proof.Machine.execFollow k s
  | .join d a => Sys2Proof.Machine.execJoin d a s
  | .endc a => Sys2Proof.Machine.execEndc a s
  | .rets m d => Sys2Proof.Machine.execRets m d s
  | .rdsw d imm => Sys2Proof.Machine.execRdsw d imm s
  | .wrsw a imm => Sys2Proof.Machine.execWrsw a imm s
  | .tnsub d a => Sys2Proof.Machine.execTnsub d a s
  | .tndone d => Sys2Proof.Machine.execTndone d s
  | .amsg a => Sys2Proof.Machine.execAmsg a s
  | .inbx d => Sys2Proof.Machine.execInbx d s
  | .inbxWait d => Sys2Proof.Machine.execInbxWait d s
  | .fibsw a => Sys2Proof.Machine.execFibsw a s
  | .upret a => Sys2Proof.Machine.execUpret a s
  | .sbwait m => Sys2Proof.Machine.execSbwait m s
  | .trap k => Sys2Proof.Machine.execTrap k s
  | .svc k => Sys2Proof.Machine.execSvc k s
  | .wrpriv a => Sys2Proof.Machine.execWrpriv a s
  | .xinvPage d a => Sys2Proof.Machine.execXinvPage d a s
  | .xinvAsid a => Sys2Proof.Machine.execXinvAsid a s
  | .xinvFrame a n => Sys2Proof.Machine.execXinvFrame a n s
  | .keysetRand d a => Sys2Proof.Machine.execKeysetRand d a s
  | .keysetLoad d a m => Sys2Proof.Machine.execKeysetLoad d a m s
  | .keysetRetire d a => Sys2Proof.Machine.execKeysetRetire d a s
  | .pwrbOn b => Sys2Proof.Machine.execPwrbOn b s
  | .pwrbRtn b => Sys2Proof.Machine.execPwrbRtn b s
  | .pwrbSave b => Sys2Proof.Machine.execPwrbSave b s
  | .pwrbOff b => Sys2Proof.Machine.execPwrbOff b s
  | .attest d a ss => Sys2Proof.Machine.execAttest d a ss s
  | .sparemap d a => Sys2Proof.Machine.execSparemap d a s
  | .start c d => Sys2Proof.Machine.execStart c d s
  | .hintPfx p => Sys2Proof.Machine.execHintPfx p s
  | .hintSched n => Sys2Proof.Machine.execHintSched n s
  | .hintMod t n => Sys2Proof.Machine.execHintMod t n s
  | .hintPrio l => Sys2Proof.Machine.execHintPrio l s
  | .qmovi d imm => Sys2Proof.Machine.execQmovi d imm s
  | .qmov d ss => Sys2Proof.Machine.execQmov d ss s
  | .qadd d ss => Sys2Proof.Machine.execQadd d ss s
  | .qaddi d imm => Sys2Proof.Machine.execQaddi d imm s
  | .qand d ss => Sys2Proof.Machine.execQand d ss s
  | .qshl d n => Sys2Proof.Machine.execQshl d n s
  | .qshr d n => Sys2Proof.Machine.execQshr d n s
  | .qld d ss w off => Sys2Proof.Machine.execQld d ss w off s
  | .qst d ss w off => Sys2Proof.Machine.execQst d ss w off s
  | .qbeq d ss disp bound => Sys2Proof.Machine.execQbeq d ss disp bound s
  | .qbne d ss disp bound => Sys2Proof.Machine.execQbne d ss disp bound s
  | .qbltn d ss disp bound => Sys2Proof.Machine.execQbltn d ss disp bound s
  | .qjmp disp bound => Sys2Proof.Machine.execQjmp disp bound s
  | .qlaunch d => Sys2Proof.Machine.execQlaunch d s
  | .qgraph d => Sys2Proof.Machine.execQgraph d s
  | .qamsg d ss => Sys2Proof.Machine.execQamsg d ss s
  | .qsigdec d ss => Sys2Proof.Machine.execQsigdec d ss s
  | .qsigrd d ss => Sys2Proof.Machine.execQsigrd d ss s
  | .qcyc d => Sys2Proof.Machine.execQcyc d s
  | .qend d => Sys2Proof.Machine.execQend d s
  | .nop => Sys2Proof.Machine.execNop s
  | .ret => Sys2Proof.Machine.execRet s
  | .leave => Sys2Proof.Machine.execLeave s
  | .bar => Sys2Proof.Machine.execBar s
  | .barGroup => Sys2Proof.Machine.execBarGroup s
  | .yield => Sys2Proof.Machine.execYield s
  | .rft => Sys2Proof.Machine.execRft s
  | .xinvAll => Sys2Proof.Machine.execXinvAll s
  | .haltx => Sys2Proof.Machine.execHaltx s
  | .packetStart => Sys2Proof.Machine.execPacketStart s
  | .submission => Sys2Proof.Machine.execSubmission s
  | .commitWrite => Sys2Proof.Machine.execCommitWrite s
  | .firmwareRestart => Sys2Proof.Machine.execFirmwareRestart s
  | .queueProgramLoad => Sys2Proof.Machine.execQueueProgramLoad s
  | .queueDisable => Sys2Proof.Machine.execQueueDisable s
  | .startTrial => Sys2Proof.Machine.execStartTrial s
  | .trialTimeout => Sys2Proof.Machine.execTrialTimeout s
  | .clearStatus => Sys2Proof.Machine.execClearStatus s
  | .activeMessageBlockTarget => Sys2Proof.Machine.execActiveMessageBlockTarget s
  | .hostApertureAccess => Sys2Proof.Machine.execHostApertureAccess s
  | .registerWrite => Sys2Proof.Machine.execRegisterWrite s
  | .regionEntryWrite => Sys2Proof.Machine.execRegionEntryWrite s
  | .connectorKeyInstall => Sys2Proof.Machine.execConnectorKeyInstall s
  | .poolSizeWrite => Sys2Proof.Machine.execPoolSizeWrite s
  | .faultLogRead => Sys2Proof.Machine.execFaultLogRead s
  | .moduleReset => Sys2Proof.Machine.execModuleReset s
  | .powerSample => Sys2Proof.Machine.execPowerSample s
  | .thermalEvent => Sys2Proof.Machine.execThermalEvent s
  | .thermalStop => Sys2Proof.Machine.execThermalStop s
  | .gangPlacement => Sys2Proof.Machine.execGangPlacement s
  | .strideQuantum => Sys2Proof.Machine.execStrideQuantum s
  | .balancerTick => Sys2Proof.Machine.execBalancerTick s
  | .gangStop => Sys2Proof.Machine.execGangStop s
  | .gangResume => Sys2Proof.Machine.execGangResume s
  | .gangComplete => Sys2Proof.Machine.execGangComplete s
  | .successorStart => Sys2Proof.Machine.execSuccessorStart s
  | .successorOverlapStoresDone => Sys2Proof.Machine.execSuccessorOverlapStoresDone s
  | .coreFailure => Sys2Proof.Machine.execCoreFailure s
  | .controlCoreFailover => Sys2Proof.Machine.execControlCoreFailover s
  | .hbmRowRemap => Sys2Proof.Machine.execHbmRowRemap s
  | .bexuzLaneFailure => Sys2Proof.Machine.execBexuzLaneFailure s
  | .keystoneFailure => Sys2Proof.Machine.execKeystoneFailure s
  | .decision => Sys2Proof.Machine.execDecision s
  | .offerMsg => Sys2Proof.Machine.execOfferMsg s
  | .retractMessage => Sys2Proof.Machine.execRetractMessage s
  | .bindMsg => Sys2Proof.Machine.execBindMsg s
  | .unbindMsg => Sys2Proof.Machine.execUnbindMsg s
  | .loadConn => Sys2Proof.Machine.execLoadConn s
  | .connectorVerified => Sys2Proof.Machine.execConnectorVerified s
  | .dropMsg => Sys2Proof.Machine.execDropMsg s
  | .fireMsg => Sys2Proof.Machine.execFireMsg s
  | .rack => Sys2Proof.Machine.execRack s
  | .rlate => Sys2Proof.Machine.execRlate s
  | .back => Sys2Proof.Machine.execBack s
  | .bref => Sys2Proof.Machine.execBref s
  | .lack => Sys2Proof.Machine.execLack s
  | .dack => Sys2Proof.Machine.execDack s
  | .failover => Sys2Proof.Machine.execFailover s
  | .inboxArrival => Sys2Proof.Machine.execInboxArrival s
  | .activeMessageStart => Sys2Proof.Machine.execActiveMessageStart s
  | .mcmdArrival => Sys2Proof.Machine.execMcmdArrival s
  | .homeRequest => Sys2Proof.Machine.execHomeRequest s
  | .llcFill => Sys2Proof.Machine.execLlcFill s
  | .waitaTimeout => Sys2Proof.Machine.execWaitaTimeout s
  | .sigwaitRepoll => Sys2Proof.Machine.execSigwaitRepoll s
  | .pageWalk => Sys2Proof.Machine.execPageWalk s
  | .monitorWindow => Sys2Proof.Machine.execMonitorWindow s
  | .loadReturn => Sys2Proof.Machine.execLoadReturn s
  | .storeAck => Sys2Proof.Machine.execStoreAck s
  | .granuleFill => Sys2Proof.Machine.execGranuleFill s
  | .bankWake => Sys2Proof.Machine.execBankWake s
  | .macroOpStep => Sys2Proof.Machine.execMacroOpStep s
  | .permitGrant => Sys2Proof.Machine.execPermitGrant s
  | .emulationComplete => Sys2Proof.Machine.execEmulationComplete s
  | .stallTimeout => Sys2Proof.Machine.execStallTimeout s
  | .asyncReport => Sys2Proof.Machine.execAsyncReport s
  | .jobDispatch => Sys2Proof.Machine.execJobDispatch s
  | .jobComplete => Sys2Proof.Machine.execJobComplete s
  | .operatorComplete => Sys2Proof.Machine.execOperatorComplete s
  | .nodeDispatch => Sys2Proof.Machine.execNodeDispatch s
  | .nodeComplete => Sys2Proof.Machine.execNodeComplete s
  | .passRoundStart => Sys2Proof.Machine.execPassRoundStart s
  | .pageFetch => Sys2Proof.Machine.execPageFetch s
  | .pageDelivery => Sys2Proof.Machine.execPageDelivery s
  | .passEnd => Sys2Proof.Machine.execPassEnd s
  | .attestReportDone => Sys2Proof.Machine.execAttestReportDone s
  | .illegalInstructionWord => Sys2Proof.Machine.execIllegalInstructionWord s
  | .rampLimiterFill => Sys2Proof.Machine.execRampLimiterFill s

end Sys2Proof.Machine
end

