-- ==== Sys2Proof/Machine/Group.lean ====
section
/-! DEFINITION. Follow groups as one statically scheduled unit (R19, R117): the leader and its followers execute a word of a stream in
one step, and none of them while one must wait (log 49). -/

namespace Sys2Proof.Machine

/-- The state that an instruction leads to; its own state where it stops. -/
def nextOf (o : Host.Outcome State Fault Refusal) (s : State) : State :=
  match o with
  | .next t => t
  | _ => s

/-- A member of a group takes a turn of stream `t` by itself. -/
def memberTurn (t : Stream) (s : State) (m : Nat) : State :=
  match turnCtx m 0 t { s with cur := .ctx m 0 t } with
  | .exec i u => nextOf (exec i u) s
  | .done u => u
  | .group _ _ u => u

/-- A member went on in a turn: it passed its word, trapped at it, left its group or retired. -/
def wentOn (t : Stream) (s v : State) (m : Nat) : Bool :=
  ((s.ctx m 0).stream t).pos != ((v.ctx m 0).stream t).pos || (s.core m).follower != (v.core m).follower || (v.core m).retired != .no

/-- The members of a leader's group, the leader first. -/
def members (s : State) (c : Nat) : List Nat := c :: followersOf s c

/-- A member that stands past a delay slot. -/
def atRedirect (t : Stream) (s : State) (m : Nat) : Bool := !((s.ctx m 0).stream t).arrived

/-- The members that stand past a delay slot go on once each of them has its outcome; one whose transfer differs from the leader's
detaches (R115). -/
def redirectGroup (c : Nat) (t : Stream) (s : State) : State :=
  let v := (members s c).foldl (fun s m => (afterSlot m 0 t s).getD s) s
  if (members s c).any (atRedirect t v) then (members s c).foldl (fun s m => block m 0 t s) s else v

/-- The members that have not gone on since `s` take their turns; one may wait for what a later one does. -/
def groupRounds (l : List Nat) (t : Stream) (s : State) : Nat → State → State
  | 0, v => v
  | n + 1, v => groupRounds l t s n (l.foldl (fun v m => if wentOn t s v m then v else memberTurn t v m) v)

/-- The members execute their word where every one of them goes on; else those that must wait begin to wait, and the others stay at
the word. -/
def groupWord (c : Nat) (t : Stream) (s : State) : State :=
  let v := groupRounds (members s c) t s (members s c).length s
  if (members s c).all (wentOn t s v) then v
  else (members s c).foldl (fun s m => let v := memberTurn t s m; if wentOn t s v m then block m 0 t s else v) s

/-- A turn of stream `t` of the group of leader `c`: none once the whole group may be halted by gang-stop. -/
def groupTurn (c : Nat) (t : Stream) (s : State) : State :=
  if halting s c && groupMayHalt s c then s
  else
    let s := redirectGroup c t s
    if (members s c).any (atRedirect t s) then s else groupWord c t s

end Sys2Proof.Machine
end

