-- ==== Sys2Proof/Machine/Step.lean ====
section
/-! DEFINITION. One step of the machine. -/

namespace Sys2Proof.Machine

/-- One step: the event of the message that is due, or one word of a context, of a follow group or of an interpreter (log 4). A module stopped at
110 °C does nothing but a module reset (R399). -/
def step (s : State) : Host.Outcome State Fault Refusal :=
  if !mayMove s then .fault .moduleStopped
  else
    match dueMessage s with
    | some (i, t) => exec i t
    | none =>
      match nextAction s with
      | .done t => .next t
      | .exec i t => exec i t
      | .group c t u => .next (groupTurn c t u)

/-- `s` with an instruction where the next step fetches: an instruction word before the control context of core 0, or (above 32
bits) a queue-program word before interpreter 0 (log 17). -/
def State.withFetchWord (s : State) (nbits w : Nat) : State :=
  if nbits ≤ 32 then placeWord s (BitVec.ofNat 32 w) else placeQueueWord s (BitVec.ofNat 64 w)

end Sys2Proof.Machine
end

