-- ==== Sys2Proof/Safety.lean ====
section
/-! DEFINITION. What counts as a safe run, and the words that the claims are written in: what a word that completes leaves, the
shapes in which families of words complete, and the frames of the operand forms. -/

namespace Sys2Proof

/-- The invariant of every run: the stores are in canonical form (log 1). -/
def Safety.wf (s : Machine.State) : Bool := Machine.memWf s.mem

/-- A step that goes on. -/
abbrev Safety.goesOn (s : Machine.State) : Prop := ∃ t, Machine.step s = .next t

namespace Machine

/-! ## The word that moves -/

/-- The context that moves. -/
def State.me (s : State) : Ctx := s.ctx s.cur.core s.cur.ctxNo

/-- The core that moves. -/
def State.mine (s : State) : Core := s.core s.cur.core

/-- An update of the context that moves. -/
def State.onMe (s : State) (f : Ctx → Ctx) : State := s.modCtx s.cur.core s.cur.ctxNo f

/-- The text position of the word that moves, its address, and the hint that applies to it. -/
def State.position (s : State) : Nat := (s.me.stream s.cur.stream).pos
def State.address (s : State) : Dword := (s.me.stream s.cur.stream).pc
def State.hinted (s : State) : Hint := (s.me.stream s.cur.stream).hint

/-- The place of a byte of the workspace area of the context that moves (R84). -/
def State.areaPlace (s : State) (off : Nat) : Nat := spPlace s.cur.core (s.me.area * 2048 + off)

/-- A granule of that area can be used as it stands: it is present, its bank is on, and none of its bytes holds an uncorrectable error
(R86, R93, R368). -/
def State.inPlace (s : State) (g : Nat) : Prop :=
  (∃ d, s.mine.granule s.me.area g = .present d) ∧ s.mine.power (areaBank s.me.area) = .on ∧
    s.flawed (s.areaPlace (64 * g)) 64 = false

/-- A value enters the last-result file (R98). -/
def State.entered (s : State) (v : Dword) : State := s.onMe (fun x => { x with y0 := v, y1 := x.y0, y2 := x.y1, y3 := x.y2 })

/-- Sticky flags are set (R33). -/
def State.flagged (s : State) (f : Flags) : State :=
  if f = 0 then s else s.onMe (fun x => { x with fsn := x.fsn ||| f.setWidth 64 })

/-- The stream that moves passes the word; the other stream no longer waits for it (R67, R78, R83). -/
def State.passed (s : State) : State := s.onMe (fun x => x.moved s.cur.stream)

/-- An inbox entry is mail for the running gang of the core (R235). -/
abbrev State.isMail (s : State) (e : InboxEntry) : Prop := e.kind = 0 ∧ e.gid = s.mine.gid

/-- Both streams pass the word. -/
def State.passedBoth (s : State) : State := s.onMe Ctx.movedBoth

/-- The stream that moves passes a branch and stands at its delay slot (R78). -/
def State.intoSlot (s : State) (b : Branch) : State :=
  s.onMe (fun x =>
    let y := x.moved s.cur.stream
    y.setStream s.cur.stream { y.stream s.cur.stream with ctl := .slot b })

/-- The stream that moves passes its copy of a branch `i` that the other stream evaluates: it stands at the delay slot, and what the
other stream has still to read there stays in order (R83, R112). -/
def State.pastCopy (s : State) (i : Instr) (b : Branch) : State := (s.intoSlot b).onMe (fun x => x.awaiting s.cur.stream s.position i)

/-- The word that moves stands in a delay slot. -/
abbrev State.standsInSlot (s : State) : Prop := (s.me.slotOf s.cur.stream).isSome = true

/-! ## Shapes of the execute stream (R103 to R106)

Each says: where the sources can be read and the destination written, the word answers the state in which the destination holds
the result, the flags are set, the last-result file has it, and the stream has passed the word. -/

/-- d, a, b: a result of two sources, with its flags. -/
def Gives3 (i : BitVec 6 → BitVec 6 → BitVec 6 → Instr) (f : Dword → Dword → Dword × Flags) : Prop :=
  ∀ (d a b : BitVec 6) (x y : Dword) (s s₁ s₂ s₃ : State),
    readS a s = .ok (x, s₁) → readS b s₁ = .ok (y, s₂) → writeS d (f x y).1 (s₂.flagged (f x y).2) = .ok ((), s₃) →
    exec (i d a b) s = .next (s₃.entered (f x y).1).passed

/-- d, a: a result of one source, without flags. -/
def Gives2 (i : BitVec 6 → BitVec 6 → Instr) (f : Dword → Dword) : Prop :=
  ∀ (d a : BitVec 6) (x : Dword) (s s₁ s₂ : State),
    readS a s = .ok (x, s₁) → writeS d (f x) s₁ = .ok ((), s₂) → exec (i d a) s = .next (s₂.entered (f x)).passed

/-- d, a, b and the old d as a third source. -/
def GivesOld (i : BitVec 6 → BitVec 6 → BitVec 6 → Instr) (f : Dword → Dword → Dword → Dword × Flags) : Prop :=
  ∀ (d a b : BitVec 6) (x y o : Dword) (s s₁ s₂ s₃ s₄ : State),
    readS a s = .ok (x, s₁) → readS b s₁ = .ok (y, s₂) → readS d s₂ = .ok (o, s₃) →
    writeS d (f x y o).1 (s₃.flagged (f x y o).2) = .ok ((), s₄) →
    exec (i d a b) s = .next (s₄.entered (f x y o).1).passed

/-- An exact integer clamped to a range, with sat when it lay outside (R27). -/
def clampedTo (lo hi i : Int) : Dword × Flags :=
  if i < lo then (BitVec.ofInt 64 lo, fSat) else if hi < i then (BitVec.ofInt 64 hi, fSat) else (BitVec.ofInt 64 i, 0)

/-- The immediate of a word: 36 joined bits, sign-extended, under HINT.PFX; else 14 bits, signed or natural (R81, R104). -/
def State.immediateOf (s : State) (signed : Bool) (i : BitVec 14) : Dword :=
  match s.hinted with
  | .pfx p => (p ++ i : BitVec 36).signExtend 64
  | _ => if signed then i.signExtend 64 else i.setWidth 64

/-- d, a, immediate. -/
def GivesImm (i : BitVec 6 → BitVec 6 → BitVec 14 → Instr) (signed : Bool) (f : Dword → Dword → Dword) : Prop :=
  ∀ (d a : BitVec 6) (n : BitVec 14) (x : Dword) (s s₁ s₂ : State),
    readS a s = .ok (x, s₁) → writeS d (f x (s.immediateOf signed n)) s₁ = .ok ((), s₂) →
    exec (i d a n) s = .next (s₂.entered (f x (s.immediateOf signed n))).passed

/-! ## Exact values (R29 to R37) -/

/-- A power of two. -/
def twoTo (e : Int) : Rat := if 0 ≤ e then ((2 ^ e.toNat : Nat) : Rat) else 1 / ((2 ^ (-e).toNat : Nat) : Rat)

/-- The number that a finite value stands for. -/
def Val.number : Val → Rat
  | .fin neg m e => (if neg then -(m : Rat) else m) * twoTo e
  | _ => 0

/-- The code of +Inf of a binary format (R30). -/
def FloatShape.infinity (f : FloatShape) : Nat := (2 ^ f.eb - 1) * 2 ^ f.fb

/-- What a code stands for by its layout, without its sign (Table 2-2). That of Inf stands for the power of two past the greatest
finite value, as the rounding takes it. -/
def FloatShape.size (f : FloatShape) (c : Nat) : Rat :=
  let ex := c / 2 ^ f.fb
  let fr := c % 2 ^ f.fb
  if ex = 0 then (fr : Rat) * twoTo (1 - f.bias - f.fb) else ((2 ^ f.fb + fr : Nat) : Rat) * twoTo (ex - f.bias - f.fb)

/-- Code `c` is the nearest to `x`, and the even one of two equally near (R31). -/
def FloatShape.nearest (f : FloatShape) (x : Rat) (c : Nat) : Prop :=
  c ≤ f.infinity ∧ (0 < c → f.size (c - 1) + f.size c ≤ 2 * x) ∧ (c < f.infinity → 2 * x ≤ f.size c + f.size (c + 1)) ∧
  ((0 < c ∧ f.size (c - 1) + f.size c = 2 * x) ∨ (c < f.infinity ∧ 2 * x = f.size c + f.size (c + 1)) → c % 2 = 0)

/-! ## Shapes of vectors and addresses (R107 to R110) -/

/-- vd, va, vb: lanes of one width from the lanes of two sources, with their flags. -/
def GivesV3 (i : BitVec 4 → BitVec 4 → BitVec 4 → Instr) (l : BitVec 3) (f : Nat → Nat → Nat × Flags) : Prop :=
  ∀ (d a b : BitVec 4) (x y : VReg) (s s₁ s₂ s₃ : State),
    readV a s = .ok (x, s₁) → readV b s₁ = .ok (y, s₂) →
    writeV d (ofLanes (laneWidth l) ((List.range (laneCount l)).map (fun n =>
      (f (nbits x.toNat (laneWidth l * n) (laneWidth l)) (nbits y.toNat (laneWidth l * n) (laneWidth l))).1)))
      (s₂.flagged (laneFlags ((List.range (laneCount l)).map (fun n =>
        f (nbits x.toNat (laneWidth l * n) (laneWidth l)) (nbits y.toNat (laneWidth l * n) (laneWidth l)))))) = .ok ((), s₃) →
    exec (i d a b) s = .next s₃.passed

/-- vd, va: lanes of width `w` from the lanes of one source. -/
def GivesV2 (i : BitVec 4 → BitVec 4 → Instr) (l : BitVec 3) (f : Nat → Nat × Flags) : Prop :=
  ∀ (d a : BitVec 4) (x : VReg) (s s₁ s₂ : State),
    readV a s = .ok (x, s₁) →
    writeV d (ofLanes (laneWidth l) ((lanesOf (laneWidth l) (laneCount l) x).map (fun e => (f e).1)))
      (s₁.flagged (laneFlags ((lanesOf (laneWidth l) (laneCount l) x).map f))) = .ok ((), s₂) →
    exec (i d a) s = .next s₂.passed

/-- x, va: a scalar of the lanes of one source. -/
def GivesRed (i : BitVec 4 → BitVec 6 → Instr) (l : BitVec 3) (f : List Nat → Dword × Flags) : Prop :=
  ∀ (a : BitVec 4) (d : BitVec 6) (x : VReg) (s s₁ s₂ : State),
    readV a s = .ok (x, s₁) →
    writeS d (f (lanesOf (laneWidth l) (laneCount l) x)).1 (s₁.flagged (f (lanesOf (laneWidth l) (laneCount l) x)).2) = .ok ((), s₂) →
    exec (i a d) s = .next (s₂.entered (f (lanesOf (laneWidth l) (laneCount l) x)).1).passed

/-- d, a, b of address registers. -/
def GivesA (i : BitVec 4 → BitVec 4 → BitVec 4 → Instr) (f : VA → VA → VA) : Prop :=
  ∀ (d a b : BitVec 4) (x y : VA) (s s₁ s₂ s₃ : State),
    readA a s = .ok (x, s₁) → readA b s₁ = .ok (y, s₂) → writeA d (f x y) s₂ = .ok ((), s₃) →
    exec (i d a b) s = .next s₃.passed

/-! ## Accesses (R179 to R184) -/

/-- A word waits for no slot and for no acquire or fence (R181, R190, R200). -/
abbrev State.unheld (s : State) (ws : BitVec 3) : Prop :=
  (ws = 0 ∨ (s.me.slotWaits instrSetter ws s.position = false ∧ s.me.slotErr ws.toNat = false)) ∧
  s.me.pend.any (fun p => p.hold && p.pos < s.position) = false

/-- The base register can be read, and the effective address is base + offset × unit (R179). -/
def State.addresses (s : State) (a : BitVec 4) (off : BitVec n) (unit : Nat) (va : VA) (t : State) : Prop :=
  ∃ base, readA a s = .ok (base, t) ∧ va = base + off.signExtend 80 * BitVec.ofNat 80 unit

/-- A slot can take one more setter, and (for a full/empty access) the context one more full/empty access (R323, R195). -/
abbrev State.slotRoom (s : State) (ss : BitVec 3) : Prop := ss = 0 ∨ (s.me.pend.filter (fun p => p.ss == ss)).length < 16
abbrev State.feRoom (s : State) : Prop := (s.me.pend.filter (fun p => p.kind == .fullEmpty)).length < 16

/-- The word joins the outstanding instructions, and the set of its slot (R323). -/
def State.joined (s : State) (ss : BitVec 3) (kind : PendKind) (hold : Bool) (dest : ReqDest) : State :=
  ({ s with nextId := s.nextId + 1 } : State).onMe (fun x => { x with
    pend := x.pend ++ [{ id := s.nextId, pos := s.position, ss := ss, kind := kind, hold := hold, dest := dest }] })

/-- The granule of the register that an access writes is not dead (Table 5-2). -/
abbrev State.destUsable (s : State) (d : ReqDest) : Prop :=
  (∀ n, d = .addr n → s.mine.granule s.me.area ((0x580 + 16 * n.toNat) / 64) ≠ .dead) ∧
  (∀ n, d = .vec n → s.mine.granule s.me.area ((0x180 + 64 * n.toNat) / 64) ≠ .dead)

/-- A load-data queue position is reserved for access `id` (R228). -/
def State.reserved (s : State) (id : Nat) : State :=
  s.onMe (fun x => { x with ldq := x.ldq ++ [{ pos := s.position, id := id, val := none }] })

/-- The word carries the nt hint (R184). -/
def State.hintedNt (s : State) : Bool :=
  match s.hinted with
  | .mod nt _ => nt
  | _ => false

/-- The request of an access of the context that moves, with the translation that the access found (0 in a scratchpad or bank). -/
def State.request (s : State) (op : ReqOp) (va : VA) (size : Nat) (x : VReg) (y : Dword) (sx : Bool) (dest : ReqDest)
    (path : ReqPath) (leaf : Dword) : Req :=
  { core := s.cur.core, ctx := s.cur.ctxNo, id := s.nextId, op := op, asid := s.mine.asid, gid := s.mine.gid, va := va, size := size,
    x := x, y := y, sx := sx, dest := dest, path := path, nt := s.hintedNt, leaf := leaf }

/-- The count of an L1 hit or miss, where the region admits the L1 (Table 14-9). -/
def State.countedL1 (s : State) (counts hit : Bool) : State := if counts then countL1 s.cur.core hit s else s

/-! ## Matrix words, permits and units (R123, R137, R149, R338) -/

/-- The slot that a matrix word sets; 0 for those that name none. Other words are no matrix words. -/
def matrixSlot : Instr → Option (BitVec 3)
  | .mms _ _ _ _ _ _ | .mmss _ _ _ _ _ _ | .ldstat _ _ => some 0
  | .swapstat ss | .acczMark ss | .accz _ _ ss | .accld _ _ ss | .accst _ _ ss | .accadd _ _ ss | .tcvt _ _ _ _ ss | .tcopy _ _ _ ss =>
    some ss
  | _ => none

/-- The context may put a macro-op into its core's sequencer queue, which has a free position (R123). -/
abbrev State.ownsSequencer (s : State) : Prop :=
  (s.mine.owner = some s.cur.ctxNo ∨ (s.mine.owner = none ∧ s.mine.ownWait.headD s.cur.ctxNo = s.cur.ctxNo)) ∧ s.mine.queue.length < 4

/-- The word takes `n` permit units: none, or those that the queue of its die gives it (R338). -/
abbrev State.permits (s : State) (n : Nat) (t : State) : Prop :=
  (n = 0 ∧ t = s) ∨ (n ≠ 0 ∧ (queuedPermit s.cur.core (permitKey s.cur) n s).1 = some t)

/-- An address names offset `off` of Ashlar unit `u`, whose bank the gang holds (R149, Table 7-3). -/
abbrev State.namesUnit (s : State) (va : VA) (u off : Nat) : Prop :=
  vaRegion va = 14 ∧ nbits va.toNat 25 51 = 0 ∧ u = nbits va.toNat 23 2 * 128 + nbits va.toNat 17 6 * 2 + nbits va.toNat 16 1 ∧
  off = va.toNat % 2 ^ 16 ∧ (s.ashlar u).gid = s.mine.gid

/-- A channel of a unit. -/
def State.chan (s : State) (u ch : Nat) : Chan := tget (s.ashlar u).chans ch {}
def State.setChan (s : State) (u ch : Nat) (c : Chan) : State := s.modAshlar u (fun x => { x with chans := tset x.chans ch c })

/-- A slot `q` with the parcel of a put form is `l`: the first bytes of a scalar register, or of a vector register where the slot is
wide (R263). -/
def State.givesParcel (s : State) (q : PortSlot) (r n : BitVec 6) (l : PortSlot) (t : State) : Prop :=
  (q.wide = false ∧ n.toNat < 8 ∧ srcOk r = true ∧ ∃ x, readS r s = .ok (x, t) ∧ l = q.loaded r (n.toNat + 1) (x.setWidth 512)) ∨
  (q.wide = true ∧ r.toNat < 16 ∧ ∃ x, readV (r.setWidth 4) s = .ok (x, t) ∧ l = q.loaded r (n.toNat + 1) x)

/-- The register of a get form is one that its slot's parcels go to (R263). -/
abbrev PortSlot.takesParcel (q : PortSlot) (r : BitVec 6) : Prop := (q.wide = true → r.toNat < 16) ∧ (q.wide = false → dstOk r = true)

/-- A word of the access stream that answers a status or value: the destination takes it and the stream passes the word. -/
def AnswersIn (i : Instr) (d : BitVec 6) (v : Dword) (s u : State) : Prop :=
  ∀ t, writeS d v u = .ok ((), t) → exec i s = .next t.passed

/-- The turn of the host's request `s.ev` has come: none that was sent before it and is held stands in its way (R392). `u` is the state
in which it is not held any more. -/
abbrev State.hasTurn (s u : State) : Prop :=
  mustWait s.plinth.held s.ev = false ∧ u = s.modPlinth (fun p => { p with held := p.held.erase s.ev })

/-- The host's request `s.ev` is held, and comes again. -/
abbrev State.holdsRequest (s : State) : State :=
  (s.modPlinth (fun p => { p with held := if p.held.contains s.ev then p.held else p.held ++ [s.ev] })).send s.ev

/-! ## Frames -/

/-- The granules that scalar register names lie in. -/
def scalarGranules (l : List (BitVec 6)) : List Nat := l.filterMap (fun r => if r.toNat < 48 then some (r.toNat / 8) else none)

/-- The bytes of the workspace area (offset, length) that scalar register names take. -/
def scalarBytes (l : List (BitVec 6)) : List (Nat × Nat) := l.filterMap (fun r => if r.toNat < 48 then some (8 * r.toNat, 8) else none)

/-- The frame of a word that completes: `src` and `dst` are the scalar names it reads and writes, `gs` the granules of the registers
it names, `wr` the bytes of the area that it writes. Beside those, using a register may fill its granule (R87) and may power its
bank up (R95), both of which are counted (Table 14-9); the word counts as issued, and the streams move on. -/
structure Frame (src dst : List (BitVec 6)) (gs : List Nat) (wr : List (Nat × Nat)) (s t : State) : Prop where
  rest : t = { s with mem := t.mem, flaws := t.flaws, cores := t.cores }
  otherCores : ∀ c, c ≠ s.cur.core → t.core c = s.core c
  core : t.mine = { s.mine with ctxs := t.mine.ctxs, gran := t.mine.gran, bank := t.mine.bank, full := t.mine.full,
                                o7 := t.mine.o7, o7full := t.mine.o7full, inbox := t.mine.inbox }
  otherContexts : ∀ k, k ≠ s.cur.ctxNo → t.ctx s.cur.core k = s.ctx s.cur.core k
  context : t.me = { s.me with acc := t.me.acc, exe := t.me.exe, ahead := t.me.ahead, wait := t.me.wait, within := t.me.within,
                               retiring := t.me.retiring, ldq := t.me.ldq, sdq := t.me.sdq, o := t.me.o, y0 := t.me.y0,
                               y1 := t.me.y1, y2 := t.me.y2, y3 := t.me.y3, fsn := t.me.fsn, accIssue := t.me.accIssue, exeIssue := t.me.exeIssue,
                               granFill := t.me.granFill, bankWake := t.me.bankWake }
  ldq : 60 ∉ src → t.me.ldq = s.me.ldq
  inbox : 62 ∉ src → t.mine.inbox = s.mine.inbox
  sdq : 61 ∉ dst → t.me.sdq = s.me.sdq
  operands : ∀ n, (∀ r ∈ dst, r.toNat ≠ 48 + n) → n < 7 → tget t.me.o n 0 = tget s.me.o n 0
  o7 : 55 ∉ dst → t.mine.o7 = s.mine.o7 ∧ t.mine.o7full = s.mine.o7full
  granules : s.mine.power (areaBank s.me.area) ≠ .off → ∀ a g, a ≠ s.me.area ∨ g ∉ gs → g < 26 →
    t.mine.granule a g = s.mine.granule a g
  memory : ∀ p, (s.mine.power (areaBank s.me.area) = .off →
      p < spPlace s.cur.core (areaBank s.me.area * 16384) ∨ spPlace s.cur.core (areaBank s.me.area * 16384) + 16384 ≤ p) →
    (∀ g ∈ gs, p < s.areaPlace (64 * g) ∨ s.areaPlace (64 * g) + 64 ≤ p) → memByte t.mem p = memByte s.mem p
  flaws : ∀ u, (s.mine.power (areaBank s.me.area) = .off →
      16 * u < spPlace s.cur.core (areaBank s.me.area * 16384) ∨ spPlace s.cur.core (areaBank s.me.area * 16384) + 16384 ≤ 16 * u) →
    (∀ g ∈ gs, 16 * u < s.areaPlace (64 * g) ∨ s.areaPlace (64 * g) + 64 ≤ 16 * u) → (u ∈ t.flaws ↔ u ∈ s.flaws)
  written : (∀ g ∈ gs, s.inPlace g) → ∀ p, (∀ w ∈ wr, p < s.areaPlace w.1 ∨ s.areaPlace w.1 + w.2 ≤ p) →
    memByte t.mem p = memByte s.mem p

/-- The sources of a word can be read in order, and its destination can take any value. -/
def usable (src : List (BitVec 6)) (d : BitVec 6) (s : State) : Prop :=
  match src with
  | [] => ∀ v, ∃ t, writeS d v s = .ok ((), t)
  | a :: l => ∃ x t, readS a s = .ok (x, t) ∧ usable l d t

/-- The vector sources of a word can be read in order, and its destination can take any value. -/
def usableV (src : List (BitVec 4)) (d : BitVec 4) (s : State) : Prop :=
  match src with
  | [] => ∀ v, ∃ t, writeV d v s = .ok ((), t)
  | a :: l => ∃ x t, readV a s = .ok (x, t) ∧ usableV l d t

/-- The address sources of a word can be read in order, and its destination can take any value. -/
def usableA (src : List (BitVec 4)) (d : BitVec 4) (s : State) : Prop :=
  match src with
  | [] => ∀ v, ∃ t, writeA d v s = .ok ((), t)
  | a :: l => ∃ x t, readA a s = .ok (x, t) ∧ usableA l d t

/-- The granules of address registers. -/
def addrGranules (l : List (BitVec 4)) : List Nat := l.map (fun r => 22 + r.toNat / 4)

/-- The granules of vector registers. -/
def vecGranules (l : List (BitVec 4)) : List Nat := l.map (fun r => 6 + r.toNat)

end Machine

end Sys2Proof
end

