-- ==== Sys2Proof/Certificates/Slice0/Obligations.lean ====
section
/-! DEFINITION. The statements for the provers, family by family. Every statement about a word says, for each state in which its
operands can be used, the state that it answers. -/

section
open Sys2Proof Sys2Proof.Machine


/-! ## The operand forms (R84 to R87, R96 to R98, R227 to R230) -/

/-- R68, R85, R96, R97, R98, R230, R235: what each register name reads as, where its register can be read. A w register is eight bytes of
the workspace area; ldq gives and frees the oldest item that precedes the word; ib gives the next payload dword of the oldest mail entry
of the core's running gang, frees the entry with its last dword, and waits where there is none; a read of o7 takes nothing; z (and 61,
which no source holds) reads zero. -/
def Sys2Proof.Claims.ScalarRegistersAsSources : Prop :=
  ∀ (s : State) (r : BitVec 6),
    (r.toNat < 48 → s.inPlace (r.toNat / 8) →
      readS r s = .ok (BitVec.ofNat 64 (s.load (s.areaPlace (8 * r.toNat)) 8), s)) ∧
    (48 ≤ r.toNat → r.toNat < 55 → readS r s = .ok (tget s.me.o (r.toNat - 48) 0, s)) ∧
    (r = 55 → readS r s = .ok (s.mine.o7, s)) ∧
    (r = 56 → readS r s = .ok (s.me.y0, s)) ∧
    (r = 57 → readS r s = .ok (s.me.y1, s)) ∧
    (r = 58 → readS r s = .ok (s.me.y2, s)) ∧
    (r = 59 → readS r s = .ok (s.me.y3, s)) ∧
    (∀ i l v, r = 60 → s.me.ldq = i :: l → i.pos < s.position → i.val = some v →
      readS r s = .ok (v, s.onMe (fun x => { x with ldq := l }))) ∧
    (∀ before e after w l, r = 62 → s.mine.inbox = before ++ e :: after → (∀ m ∈ before, ¬ s.isMail m) → s.isMail e → e.payload = w :: l →
      readS r s = .ok (w, s.modCore s.cur.core (fun k => { k with
        inbox := before ++ (if l = [] then after else { e with payload := l } :: after) }))) ∧
    (r = 62 → (∀ m ∈ s.mine.inbox, ¬ s.isMail m) → readS r s = .error (.stall .event)) ∧
    (r = 61 ∨ r = 63 → readS r s = .ok (0, s))

/-- R85, R96, R97, R229: what a write of each register name does, where its register can be written. z and the names that no
destination holds take nothing. -/
def Sys2Proof.Claims.ScalarRegistersAsDestinations : Prop :=
  ∀ (s : State) (r : BitVec 6) (v : Dword),
    (r.toNat < 48 → s.inPlace (r.toNat / 8) →
      ∃ t, writeS r v s = .ok ((), t) ∧
        t = (s.modCore s.cur.core (fun k => k.setGranule s.me.area (r.toNat / 8) (.present true))).store
              (s.areaPlace (8 * r.toNat)) 8 v.toNat) ∧
    (48 ≤ r.toNat → r.toNat < 55 → writeS r v s = .ok ((), s.onMe (fun x => { x with o := tset x.o (r.toNat - 48) v }))) ∧
    (r = 55 → writeS r v s = .ok ((), s.modCore s.cur.core (fun k => { k with o7 := v, o7full := true }))) ∧
    (r = 61 → s.me.sdq.length < 16 →
      writeS r v s = .ok ((), s.onMe (fun x => { x with sdq := x.sdq ++ [{ pos := s.position, val := v }] }))) ∧
    (r = 61 → 16 ≤ s.me.sdq.length → writeS r v s = .error (.stall .queue)) ∧
    ((56 ≤ r.toNat ∧ r.toNat ≤ 60) ∨ r = 62 ∨ r = 63 → writeS r v s = .ok ((), s))

/-- Table 5-2, R87, R95, R368: how a w register reads and is written in each state of its granule: absent fills first, absent-zero
reads zero and a write zeroes the rest, dead traps with code 0x0B. A read of bytes with an uncorrectable error is a poisoned read (code
0x1E, the model's reading of R368: log 97). -/
def Sys2Proof.Claims.GranuleStatesOfScalars : Prop :=
  ∀ (s : State) (r : BitVec 6) (v : Dword), r.toNat < 48 → s.mine.power (areaBank s.me.area) = .on →
    (s.mine.granule s.me.area (r.toNat / 8) = .dead →
      readS r s = .error (.trap { code := 0x0B }) ∧ writeS r v s = .error (.trap { code := 0x0B })) ∧
    (s.mine.granule s.me.area (r.toNat / 8) = .absentZero →
      readS r s = .ok (0, s) ∧
      writeS r v s = .ok ((),
        ((s.zero (s.areaPlace (r.toNat / 8 * 64)) 64).modCore s.cur.core
          (fun k => k.setGranule s.me.area (r.toNat / 8) (.present true))).store (s.areaPlace (8 * r.toNat)) 8 v.toNat)) ∧
    (∀ d, s.mine.granule s.me.area (r.toNat / 8) = .present d → s.flawed (s.areaPlace (8 * r.toNat)) 8 = true →
      readS r s = .error (.trap { code := 0x1E, va := ownVa (s.me.area * 2048 + 8 * r.toNat) })) ∧
    (s.mine.granule s.me.area (r.toNat / 8) = .absent →
      let u := fillGranule s.cur.core s.cur.ctxNo (r.toNat / 8) s
      (u.flawed (s.areaPlace (8 * r.toNat)) 8 = false → readS r s = .ok (BitVec.ofNat 64 (u.load (s.areaPlace (8 * r.toNat)) 8), u)) ∧
      (u.flawed (s.areaPlace (8 * r.toNat)) 8 = true →
        readS r s = .error (.trap { code := 0x1E, va := ownVa (s.me.area * 2048 + 8 * r.toNat) })) ∧
      writeS r v s = .ok ((),
        (u.modCore s.cur.core
          (fun k => k.setGranule s.me.area (r.toNat / 8) (.present true))).store (s.areaPlace (8 * r.toNat)) 8 v.toNat))

/-- R87, R175: a fill brings the granule's 64 bytes from the save area, read with key id 0, makes it present and clean, and changes no
other byte, granule or register; the context counts it (Table 14-9). Where the device has written those sectors, the bytes are those that
stand there. -/
def Sys2Proof.Claims.FillBringsTheGranule : Prop :=
  ∀ (s : State) (c k g : Nat), g < 26 → (s.ctx c k).area < 128 → (s.core c).power (areaBank (s.ctx c k).area) = .on →
    let t := fillGranule c k g s
    let p := spPlace c ((s.ctx c k).area * 2048 + g * 64)
    t.load p 64 = hbmRead s (saveArea c k + g * 64) 64 0 ∧
    ((∀ i x, i < 2 → tfind s.sectors ((saveArea c k + g * 64) / 32 + i) = some x → x.material = keyMaterial s 0) →
      ∀ i, i < 64 → memByte t.mem (p + i) = memByte s.mem (saveArea c k + g * 64 + i)) ∧
    (∀ q, q < p ∨ p + 64 ≤ q → memByte t.mem q = memByte s.mem q) ∧
    (t.core c).granule (s.ctx c k).area g = .present false ∧
    (∀ a' g', 26 * a' + g' ≠ 26 * (s.ctx c k).area + g → (t.core c).granule a' g' = (s.core c).granule a' g') ∧
    t.ctx c k = { s.ctx c k with granFill := (s.ctx c k).granFill + 1 }

/-- How a w register reads and is written in each granule state, and what a fill brings. -/
def Obligations.GranuleStates : Prop :=
  Sys2Proof.Claims.GranuleStatesOfScalars ∧ Sys2Proof.Claims.FillBringsTheGranule

/-- R85, Table 5-2: a value written to a w register reads back, and no other w register of the area changes, in place. -/
def Sys2Proof.Claims.ScalarWriteThenRead : Prop :=
  ∀ (s t : State) (r q : BitVec 6) (v : Dword), r.toNat < 48 → q.toNat < 48 → s.inPlace (r.toNat / 8) → s.inPlace (q.toNat / 8) →
    writeS r v s = .ok ((), t) →
    (∃ u, readS r t = .ok (v, u)) ∧
    (q ≠ r → ∃ x u u', readS q s = .ok (x, u) ∧ readS q t = .ok (x, u'))

/-- What each scalar register name reads and takes. -/
def Obligations.ScalarRegisterNames : Prop :=
  Sys2Proof.Claims.ScalarRegistersAsSources ∧ Sys2Proof.Claims.ScalarRegistersAsDestinations ∧ Sys2Proof.Claims.ScalarWriteThenRead

/-- R85: address and vector registers, in place: ten bytes of a slot of sixteen whose upper six a write clears, and 64 bytes. -/
def Sys2Proof.Claims.WideRegisters : Prop :=
  ∀ (s : State) (r : BitVec 4) (a : VA) (v : VReg),
    (s.inPlace (22 + r.toNat / 4) →
      readA r s = .ok (BitVec.ofNat 80 (s.load (s.areaPlace (0x580 + 16 * r.toNat)) 10), s) ∧
      writeA r a s = .ok ((), (s.modCore s.cur.core (fun k => k.setGranule s.me.area (22 + r.toNat / 4) (.present true))).store
        (s.areaPlace (0x580 + 16 * r.toNat)) 16 a.toNat)) ∧
    (s.inPlace (6 + r.toNat) →
      readV r s = .ok (BitVec.ofNat 512 (s.load (s.areaPlace (0x180 + 64 * r.toNat)) 64), s) ∧
      writeV r v s = .ok ((), (s.modCore s.cur.core (fun k => k.setGranule s.me.area (6 + r.toNat) (.present true))).store
        (s.areaPlace (0x180 + 64 * r.toNat)) 64 v.toNat))

/-- R230: a pop of ldq waits while no value can come to it, and traps with queue-underflow (code 0x0E) when the access stream has
passed the word without supplying one; a pop of sdq likewise with the execute stream. -/
def Sys2Proof.Claims.QueueUnderflow : Prop :=
  ∀ s : State,
    (s.me.ldq = [] → s.position ≤ s.me.acc.pos → popLdq s = .error (.trap { code := 0x0E })) ∧
    (s.me.ldq = [] → s.me.acc.pos < s.position → popLdq s = .error (.stall .queue)) ∧
    (∀ i l, s.me.ldq = i :: l → i.pos < s.position → i.val = none → popLdq s = .error (.stall .queue)) ∧
    (∀ i l, s.me.ldq = i :: l → s.position ≤ i.pos → s.position ≤ s.me.acc.pos → popLdq s = .error (.trap { code := 0x0E })) ∧
    (s.me.sdq = [] → s.position ≤ s.me.exe.pos → popSdq s = .error (.trap { code := 0x0E })) ∧
    (s.me.sdq = [] → s.me.exe.pos < s.position → popSdq s = .error (.stall .event)) ∧
    (∀ i l, s.me.sdq = i :: l → i.pos < s.position → popSdq s = .ok (i.val, s.onMe (fun x => { x with sdq := l }))) ∧
    (∀ i l, s.me.sdq = i :: l → s.position ≤ i.pos → s.position ≤ s.me.exe.pos → popSdq s = .error (.trap { code := 0x0E }))

/-- Address and vector registers in place, and pops of an empty queue. -/
def Obligations.WideRegistersAndEmptyQueues : Prop :=
  Sys2Proof.Claims.WideRegisters ∧ Sys2Proof.Claims.QueueUnderflow

/-! ## Integer, logic and floating-point words (R103 to R106) -/

/-- R103, Table 5-8: the results of the three-register integer and logic words that set no flag. -/
def Sys2Proof.Claims.IntegerResults : Prop :=
  Gives3 .add (fun x y => (x + y, 0)) ∧ Gives3 .sub (fun x y => (x - y, 0)) ∧ Gives3 .mul (fun x y => (x * y, 0)) ∧
  Gives3 .mulh (fun x y => (BitVec.ofInt 64 (x.toInt * y.toInt / 2 ^ 64), 0)) ∧
  Gives3 .mulhn (fun x y => (BitVec.ofNat 64 (x.toNat * y.toNat / 2 ^ 64), 0)) ∧
  Gives3 .andd (fun x y => (x &&& y, 0)) ∧ Gives3 .orr (fun x y => (x ||| y, 0)) ∧ Gives3 .xorr (fun x y => (x ^^^ y, 0)) ∧
  Gives3 .andn (fun x y => (x &&& ~~~y, 0)) ∧
  Gives3 .shl (fun x y => (x <<< (y.toNat % 64), 0)) ∧ Gives3 .shr (fun x y => (x >>> (y.toNat % 64), 0)) ∧
  Gives3 .sha (fun x y => (x.sshiftRight (y.toNat % 64), 0)) ∧ Gives3 .rot (fun x y => (x.rotateLeft (y.toNat % 64), 0)) ∧
  Gives3 .mins (fun x y => (if x.toInt ≤ y.toInt then x else y, 0)) ∧
  Gives3 .maxs (fun x y => (if x.toInt ≤ y.toInt then y else x, 0)) ∧
  Gives3 .minn (fun x y => (if x.toNat ≤ y.toNat then x else y, 0)) ∧
  Gives3 .maxn (fun x y => (if x.toNat ≤ y.toNat then y else x, 0)) ∧
  Gives3 .cmpeq (fun x y => (if x = y then 1 else 0, 0)) ∧
  Gives3 .cmplt (fun x y => (if x.toInt < y.toInt then 1 else 0, 0)) ∧
  Gives3 .cmpltn (fun x y => (if x.toNat < y.toNat then 1 else 0, 0)) ∧
  Gives3 .cmple (fun x y => (if x.toInt ≤ y.toInt then 1 else 0, 0)) ∧
  GivesOld .sel (fun x y o => (if o.getLsbD 0 then x else y, 0))

/-- R103, Table 5-8: CLZ counts the leading zeros (64 of zero), POPC the one bits. -/
def Sys2Proof.Claims.BitCounts : Prop :=
  Gives2 .clz opClz ∧ Gives2 .popc opPopc ∧
  opClz 0 = 64 ∧
  (∀ x : Dword, x ≠ 0 → ∃ n, n < 64 ∧ opClz x = BitVec.ofNat 64 (63 - n) ∧ x.getLsbD n = true ∧
    ∀ m, n < m → x.getLsbD m = false) ∧
  (∀ x : Dword, opPopc x = BitVec.ofNat 64 ((List.range 64).countP (fun i => x.getLsbD i)))

/-- R28, R103: division truncates towards zero, a remainder has the sign of the dividend, the quotient of the most negative number
by -1 wraps; a zero divisor gives all ones (or the dividend) and sets dz. -/
def Obligations.DivisionResults : Prop :=
  Gives3 .divs (fun x y => if y = 0 then (BitVec.allOnes 64, fDz) else (BitVec.ofInt 64 (x.toInt.tdiv y.toInt), 0)) ∧
  Gives3 .divn (fun x y => if y = 0 then (BitVec.allOnes 64, fDz) else (BitVec.ofNat 64 (x.toNat / y.toNat), 0)) ∧
  Gives3 .rems (fun x y => if y = 0 then (x, fDz) else (BitVec.ofInt 64 (x.toInt.tmod y.toInt), 0)) ∧
  Gives3 .remn (fun x y => if y = 0 then (x, fDz) else (BitVec.ofNat 64 (x.toNat % y.toNat), 0))

/-- R27, R103: the saturating words clamp the exact result and set sat when they clamp. -/
def Sys2Proof.Claims.SaturatingResults : Prop :=
  Gives3 .addSats (fun x y => clampedTo (-2 ^ 63) (2 ^ 63 - 1) (x.toInt + y.toInt)) ∧
  Gives3 .subSats (fun x y => clampedTo (-2 ^ 63) (2 ^ 63 - 1) (x.toInt - y.toInt)) ∧
  Gives3 .mulSats (fun x y => clampedTo (-2 ^ 63) (2 ^ 63 - 1) (x.toInt * y.toInt)) ∧
  Gives3 .addSatn (fun x y => clampedTo 0 (2 ^ 64 - 1) ((x.toNat : Int) + y.toNat)) ∧
  Gives3 .subSatn (fun x y => clampedTo 0 (2 ^ 64 - 1) ((x.toNat : Int) - y.toNat)) ∧
  Gives3 .mulSatn (fun x y => clampedTo 0 (2 ^ 64 - 1) ((x.toNat : Int) * y.toNat))

/-- R104, Table 5-9: the results of the immediate forms; a logical immediate of 14 bits is natural, a joined one signed. -/
def Sys2Proof.Claims.ImmediateResults : Prop :=
  GivesImm .addi true (fun x v => x + v) ∧ GivesImm .andi false (fun x v => x &&& v) ∧ GivesImm .ori false (fun x v => x ||| v) ∧
  GivesImm .xori false (fun x v => x ^^^ v) ∧
  (∀ n : BitVec 6, Gives2 (fun d a => .shli d a n) (fun x => x <<< n.toNat) ∧ Gives2 (fun d a => .shri d a n) (fun x => x >>> n.toNat) ∧
    Gives2 (fun d a => .shai d a n) (fun x => x.sshiftRight n.toNat)) ∧
  (∀ (d : BitVec 6) (n : BitVec 14) (s t : State), writeS d (s.immediateOf true n) s = .ok ((), t) →
    exec (.movi d n) s = .next (t.entered (s.immediateOf true n)).passed)

/-- R104, Table 5-9: EXT, EXT.S and INS, bit by bit: a field of `l` + 1 bits from bit `p`. -/
def Sys2Proof.Claims.FieldResults : Prop :=
  ∀ l p : BitVec 6, l.toNat + p.toNat < 64 →
    Gives2 (fun d a => .ext d a l p) (opExt l p) ∧ Gives2 (fun d a => .extS d a l p) (opExtS l p) ∧
    (∀ (d a : BitVec 6) (x o : Dword) (s s₁ s₂ s₃ : State), readS a s = .ok (x, s₁) → readS d s₁ = .ok (o, s₂) →
      writeS d (opIns l p x o) s₂ = .ok ((), s₃) → exec (.ins d a l p) s = .next (s₃.entered (opIns l p x o)).passed) ∧
    (∀ (x o : Dword) (i : Nat), i < 64 →
      (opExt l p x).getLsbD i = (decide (i ≤ l.toNat) && x.getLsbD (p.toNat + i)) ∧
      (opExtS l p x).getLsbD i = x.getLsbD (p.toNat + min i l.toNat) ∧
      (opIns l p x o).getLsbD i = (if p.toNat ≤ i ∧ i ≤ p.toNat + l.toNat then x.getLsbD (i - p.toNat) else o.getLsbD i))

/-- Results of the integer, logic, shift, compare, bit-count, saturating, immediate and field words. -/
def Obligations.IntegerWords : Prop :=
  Sys2Proof.Claims.IntegerResults ∧ Sys2Proof.Claims.BitCounts ∧ Sys2Proof.Claims.SaturatingResults ∧ Sys2Proof.Claims.ImmediateResults ∧
  Sys2Proof.Claims.FieldResults

/-- R105, R106, Table 5-11: the scalar float words compute on the exact values of the low bits of their sources and round once. -/
def Sys2Proof.Claims.FloatResults : Prop :=
  ∀ f : BitVec 4, f.toNat ≤ 2 →
    Gives3 (fun d a b => .fadd d a b f) (fun x y => floatOut f (vAdd (floatIn f x) (floatIn f y))) ∧
    Gives3 (fun d a b => .fsub d a b f) (fun x y => floatOut f (vAdd (floatIn f x) (vNeg (floatIn f y)))) ∧
    Gives3 (fun d a b => .fmul d a b f) (fun x y => floatOut f (vMul (floatIn f x) (floatIn f y))) ∧
    GivesOld (fun d a b => .ffma d a b f) (fun x y o => floatOut f (vFma (floatIn f x) (floatIn f y) (floatIn f o))) ∧
    Gives3 (fun d a b => .fmin d a b f) (fun x y => floatOut f (vPick false (floatIn f x) (floatIn f y), 0)) ∧
    Gives3 (fun d a b => .fmax d a b f) (fun x y => floatOut f (vPick true (floatIn f x) (floatIn f y), 0)) ∧
    Gives3 (fun d a b => .fcmp d a b f) (fun x y =>
      (match vCmp (floatIn f x) (floatIn f y) with
       | some .eq => 1
       | some .lt => 2
       | some .gt => 4
       | none => 8, 0)) ∧
    Gives2 (fun d a => .fabs d a f) (fun x => x &&& BitVec.ofNat 64 (2 ^ (typeBits f.toNat - 1) - 1)) ∧
    Gives2 (fun d a => .fneg d a f)
      (fun x => (x &&& BitVec.ofNat 64 (2 ^ typeBits f.toNat - 1)) ^^^ BitVec.ofNat 64 (2 ^ (typeBits f.toNat - 1)))

/-- R106, Table 2-6: FCVT converts between type codes and extends the result to 64 bits by its type. -/
def Sys2Proof.Claims.ConversionResults : Prop :=
  ∀ (src t : BitVec 4) (z u : BitVec 1) (d a : BitVec 6) (x : Dword) (s s₁ s₂ : State),
    let r := convert src.toNat t.toNat (z == 1) (u == 1) x.toNat
    readS a s = .ok (x, s₁) → writeS d (BitVec.ofNat 64 (typeExtend t.toNat r.1)) (s₁.flagged r.2) = .ok ((), s₂) →
    exec (.fcvt d a src z u t) s = .next (s₂.entered (BitVec.ofNat 64 (typeExtend t.toNat r.1))).passed

/-- R29, R30, R31, Table 2-3: what the codes of f32, f16 and bf16 stand for, and what any exact value rounds to: the nearest code, of two
equally near ones the even one, with Inf for what lies beyond the greatest; of and nx where the result is Inf, nx where it differs
from the value, and uf besides where the value is tiny after rounding. The sign of the value is the sign of the code. -/
def Sys2Proof.Claims.BinaryRounding : Prop :=
  ∀ f ∈ [shapeF32, shapeF16, shapeBf16],
    let sign (neg : Bool) := if neg then 2 ^ (f.eb + f.fb) else 0
    (∀ (neg : Bool) (c : Nat), c < 2 ^ (f.eb + f.fb) →
      (c < f.infinity → ∃ m e, f.decode (sign neg + c) = .fin neg m e ∧ (m : Rat) * twoTo e = f.size c) ∧
      (c = f.infinity → f.decode (sign neg + c) = .inf neg) ∧ (f.infinity < c → f.decode (sign neg + c) = .nan)) ∧
    f.round .nan = (f.infinity + 2 ^ (f.fb - 1), 0) ∧ (∀ neg, f.round (.inf neg) = (sign neg + f.infinity, 0)) ∧
    (∀ neg e, f.round (.fin neg 0 e) = (sign neg, 0)) ∧
    (∀ (neg : Bool) (m : Nat) (e : Int), m ≠ 0 →
      let x := (m : Rat) * twoTo e
      ∃ c, f.nearest x c ∧ f.round (.fin neg m e) = (sign neg + c,
        if c = f.infinity then fOf ||| fNx
        else if x = f.size c then 0
        else if x < twoTo (1 - f.bias) - twoTo (-1 - f.bias - f.fb) then fNx ||| fUf
        else fNx))

/-- R31, R105, Table 2-3: the exact sum and product of finite values, the sign of a zero result, and the results of NaN and Inf; the
comparison of values and the choice of FMIN and FMAX. -/
def Sys2Proof.Claims.ExactArithmetic : Prop :=
  (∀ a b m n e g, ∃ c k h, vAdd (.fin a m e) (.fin b n g) = (.fin c k h, 0) ∧
    Val.number (.fin c k h) = Val.number (.fin a m e) + Val.number (.fin b n g) ∧ (k = 0 → c = (a && b && m == 0 && n == 0))) ∧
  (∀ a b m n e g, ∃ k h, vMul (.fin a m e) (.fin b n g) = (.fin (a != b) k h, 0) ∧
    Val.number (.fin (a != b) k h) = Val.number (.fin a m e) * Val.number (.fin b n g)) ∧
  (∀ v, vAdd .nan v = (.nan, 0) ∧ vAdd v .nan = (.nan, 0) ∧ vMul .nan v = (.nan, 0) ∧ vMul v .nan = (.nan, 0)) ∧
  (∀ a b m e, vAdd (.inf a) (.inf b) = (if a = b then (.inf a, 0) else (.nan, fNv)) ∧
    vAdd (.inf a) (.fin b m e) = (.inf a, 0) ∧ vAdd (.fin b m e) (.inf a) = (.inf a, 0) ∧ vMul (.inf a) (.inf b) = (.inf (a != b), 0) ∧
    vMul (.inf a) (.fin b m e) = (if m = 0 then (.nan, fNv) else (.inf (a != b), 0)) ∧
    vMul (.fin b m e) (.inf a) = (if m = 0 then (.nan, fNv) else (.inf (b != a), 0))) ∧
  (∀ a b c, vFma a b c = ((vAdd (vMul a b).1 c).1, (vMul a b).2 ||| (vAdd (vMul a b).1 c).2)) ∧
  (∀ a b m n e g, let x := Val.number (.fin a m e); let y := Val.number (.fin b n g)
    vCmp (.fin a m e) (.fin b n g) = some (if x < y then .lt else if x = y then .eq else .gt) ∧
    (x < y → vPick false (.fin a m e) (.fin b n g) = .fin a m e ∧ vPick true (.fin a m e) (.fin b n g) = .fin b n g)) ∧
  (∀ m n e g, vCmp (.inf true) (.fin m n e) = some .lt ∧ vCmp (.fin m n e) (.inf false) = some .lt ∧
    vPick false (.fin true 0 e) (.fin false 0 g) = .fin true 0 e ∧ vPick false (.fin false 0 e) (.fin true 0 g) = .fin true 0 g ∧
    vPick true (.fin true 0 e) (.fin false 0 g) = .fin false 0 g ∧ vPick true (.fin false 0 e) (.fin true 0 g) = .fin false 0 e) ∧
  (∀ v, vCmp .nan v = none ∧ vCmp v .nan = none ∧ vPick false .nan v = v ∧ vPick true .nan v = v ∧
    vPick false v .nan = v ∧ vPick true v .nan = v)

/-- R35, R37: Round.T for T8 (eight bits, one exponent bit) and T6 (six bits, none). Between minpos and maxpos the rounding point of two
neighbouring codes is the value of the code one bit longer that lies between them, and a value there goes to the even code; beyond
maxpos it saturates with of and nx, below minpos it is raised with uf and nx; zero gives code 0, NaN and Inf give NaR with nv. -/
def Sys2Proof.Claims.TaperedRounding : Prop :=
  ∀ p ∈ [((8 : Nat), (1 : Nat)), (6, 0)],
    let n := p.1
    let es := p.2
    let value (w c : Nat) : Rat := (taperDecode w es c).number
    let maxpos := twoTo ((n - 2) * 2 ^ es)
    let minpos := twoTo (-((n - 2) * 2 ^ es))
    (∀ v, v = .nan ∨ v = .inf true ∨ v = .inf false → taperRound n es v = (2 ^ (n - 1), fNv)) ∧
    (∀ neg e, taperRound n es (.fin neg 0 e) = (0, 0)) ∧
    value n (2 ^ (n - 1) - 1) = maxpos ∧ value n 1 = minpos ∧
    (∀ (neg : Bool) (m : Nat) (e : Int), m ≠ 0 →
      let x := (m : Rat) * twoTo e
      let signed (c : Nat) : Nat := if neg then 2 ^ n - c else c
      (maxpos < x → taperRound n es (.fin neg m e) = (signed (2 ^ (n - 1) - 1), fOf ||| fNx)) ∧
      (x < minpos → taperRound n es (.fin neg m e) = (signed 1, fUf ||| fNx)) ∧
      (minpos ≤ x → x ≤ maxpos → ∃ c, 0 < c ∧ c < 2 ^ (n - 1) ∧
        taperRound n es (.fin neg m e) = (signed c, if x = value n c then 0 else fNx) ∧
        value (n + 1) (2 * c - 1) ≤ x ∧ x ≤ value (n + 1) (2 * c + 1) ∧
        (x = value (n + 1) (2 * c - 1) ∨ x = value (n + 1) (2 * c + 1) → c % 2 = 0)))

/-- R36, Tables 2-4 and 2-5: what some tapered codes stand for. -/
def Sys2Proof.Claims.TaperedCodes : Prop :=
  (∀ e ∈ [((0x01 : Nat), (1 : Nat), (4096 : Nat)), (0x2C, 7, 16), (0x40, 1, 1), (0x5B, 27, 8), (0x73, 28, 1), (0x7E, 1024, 1), (0x7F, 4096, 1)],
    (taperDecode 8 1 e.1).number = (e.2.1 : Rat) / e.2.2 ∧ (taperDecode 8 1 (0x100 - e.1)).number = -((e.2.1 : Rat) / e.2.2)) ∧
  (∀ e ∈ [((0x05 : Nat), (5 : Nat), (16 : Nat)), (0x0F, 15, 16), (0x10, 1, 1), (0x17, 15, 8), (0x1B, 7, 2), (0x1C, 4, 1), (0x1D, 6, 1),
      (0x1E, 8, 1), (0x1F, 16, 1)],
    (taperDecode 6 0 e.1).number = (e.2.1 : Rat) / e.2.2 ∧ (taperDecode 6 0 (0x40 - e.1)).number = -((e.2.1 : Rat) / e.2.2)) ∧
  taperDecode 8 1 0x80 = .nan ∧ taperDecode 6 0 0x20 = .nan

/-- R27, R40, Table 2-6: conversions to an integer type take the integer nearest to the exact value (of two, the even one) or the one
next to it towards zero; a NaN gives 0, a value out of range the least or greatest of the type, each with nv and no other flag (that a
.sat conversion of a float sets no sat is log 105); between integer types the value wraps, or is clamped with sat. Conversions to the
other types round the exact value once. -/
def Sys2Proof.Claims.ConversionRules : Prop :=
  ∀ (src dst : Nat) (tz sat : Bool) (x : Nat), src ≤ 12 → dst ≤ 12 →
    (5 ≤ dst →
      let w := typeBits dst
      let lo : Int := if dst ≤ 8 then -2 ^ (w - 1) else 0
      let hi : Int := if dst ≤ 8 then 2 ^ (w - 1) - 1 else 2 ^ w - 1
      let code (i : Int) : Nat := (BitVec.ofInt w i).toNat
      (5 ≤ src →
        let i : Int := if src ≤ 8 then (BitVec.ofNat (typeBits src) x).toInt else (BitVec.ofNat (typeBits src) x).toNat
        convert src dst tz sat x = (if sat = true ∧ i < lo then (code lo, fSat) else if sat = true ∧ hi < i then (code hi, fSat)
          else (code i, 0))) ∧
      (src ≤ 4 → typeDecode src x = .nan → convert src dst tz sat x = (0, fNv)) ∧
      (∀ neg, src ≤ 4 → typeDecode src x = .inf neg → convert src dst tz sat x = (code (if neg then lo else hi), fNv)) ∧
      (∀ neg m e, src ≤ 4 → typeDecode src x = .fin neg m e → ∃ i : Int,
        let v := Val.number (.fin neg m e)
        (tz = true → if 0 ≤ v then (i : Rat) ≤ v ∧ v < i + 1 else v ≤ i ∧ (i : Rat) < v + 1) ∧
        (tz = false → 2 * v ≤ 2 * i + 1 ∧ 2 * (i : Rat) ≤ 2 * v + 1 ∧ (2 * v = 2 * i + 1 ∨ 2 * (i : Rat) = 2 * v + 1 → i % 2 = 0)) ∧
        convert src dst tz sat x = (if i < lo then (code lo, fNv) else if hi < i then (code hi, fNv)
          else (code i, if (i : Rat) = v then 0 else fNx)))) ∧
    (5 ≤ src → (typeDecode src x).number =
      if src ≤ 8 then ((BitVec.ofNat (typeBits src) x).toInt : Rat) else ((BitVec.ofNat (typeBits src) x).toNat : Rat)) ∧
    (dst ≤ 2 → src ≠ dst → convert src dst tz sat x = (floatShape dst).round (typeDecode src x)) ∧
    (dst = 3 → src ≠ 3 → convert src dst tz sat x = if src = 4 ∧ typeDecode src x = .nan then (0x80, 0) else taperRound 8 1 (typeDecode src x)) ∧
    (dst = 4 → src ≠ 4 → convert src dst tz sat x = if src = 3 ∧ typeDecode src x = .nan then (0x20, 0) else taperRound 6 0 (typeDecode src x))

/-! ## Vector and address words (R107 to R110) -/

/-- R108: the lane-by-lane words of one width: lane n of the result from lane n of the sources. -/
def Sys2Proof.Claims.VectorLaneResults : Prop :=
  ∀ l : BitVec 3, l ≠ 7 →
    (∀ sat : BitVec 1,
      GivesV3 (fun d a b => .vadd d a b sat l) l (fun x y => laneOp l (sat == 1) (fun x y _ => vAdd x y) (fun x y _ => x + y) x y 0) ∧
      GivesV3 (fun d a b => .vsub d a b sat l) l
        (fun x y => laneOp l (sat == 1) (fun x y _ => vAdd x (vNeg y)) (fun x y _ => x - y) x y 0) ∧
      GivesV3 (fun d a b => .vmul d a b sat l) l (fun x y => laneOp l (sat == 1) (fun x y _ => vMul x y) (fun x y _ => x * y) x y 0)) ∧
    GivesV3 (fun d a b => .vmax d a b l) l
      (fun x y => laneOp l false (fun x y _ => (vPick true x y, 0)) (fun x y _ => max x y) x y 0) ∧
    GivesV3 (fun d a b => .vmin d a b l) l
      (fun x y => laneOp l false (fun x y _ => (vPick false x y, 0)) (fun x y _ => min x y) x y 0) ∧
    GivesV2 (fun d a => .vexp2 d a l) l (laneFn l vExp2) ∧
    GivesV2 (fun d a => .vrcp d a l) l (laneFn l vRcp) ∧ GivesV2 (fun d a => .vrsq d a l) l (laneFn l vRsq) ∧
    (∀ c : BitVec 2, GivesV3 (fun d a b => .vcmp d a b c l) l
      (fun x y => (if laneTest c (laneOrder l x y) then 2 ^ laneWidth l - 1 else 0, 0))) ∧
    (∀ (d a b : BitVec 4) (x y z : VReg) (s s₁ s₂ s₃ s₄ : State),
      readV a s = .ok (x, s₁) → readV b s₁ = .ok (y, s₂) → readV d s₂ = .ok (z, s₃) →
      let r := (List.range (laneCount l)).map (fun n => laneOp l false vFma (fun x y z => x * y + z)
        (nbits x.toNat (laneWidth l * n) (laneWidth l)) (nbits y.toNat (laneWidth l * n) (laneWidth l))
        (nbits z.toNat (laneWidth l * n) (laneWidth l)))
      writeV d (ofLanes (laneWidth l) (r.map (·.1))) (s₃.flagged (laneFlags r)) = .ok ((), s₄) →
      exec (.vfma d a b l) s = .next s₄.passed)

/-- R27, R108: an integer lane wraps to the lane's width, and under .sat clamps to the lane's range with sat. -/
def Sys2Proof.Claims.IntegerLanesWrapOrClamp : Prop :=
  ∀ (l : BitVec 3) (op : Int → Int → Int → Int) (fop : Val → Val → Val → Val × Flags) (x y z : Nat),
    l = 1 ∨ l = 2 ∨ l = 5 ∨ l = 6 →
    let w := laneWidth l
    let lo : Int := if l = 2 then 0 else -2 ^ (w - 1)
    let hi : Int := if l = 2 then 2 ^ w - 1 else 2 ^ (w - 1) - 1
    let v (a : Nat) : Int := if l = 2 then (BitVec.ofNat w a).toNat else (BitVec.ofNat w a).toInt
    let e := op (v x) (v y) (v z)
    laneOp l false fop op x y z = ((BitVec.ofInt w e).toNat, 0) ∧
    laneOp l true fop op x y z =
      (if e < lo then ((BitVec.ofInt w lo).toNat, fSat) else if hi < e then ((BitVec.ofInt w hi).toNat, fSat)
       else ((BitVec.ofInt w e).toNat, 0))

/-- R109, R110: reductions write a scalar and enter it in the last-result file; conversions keep, halve or double the width. -/
def Sys2Proof.Claims.VectorReductionsAndConversions : Prop :=
  ∀ l : BitVec 3, l ≠ 7 →
    GivesRed (fun a d => .vredAdd a d l) l (redAdd l) ∧ GivesRed (fun a d => .vredMax a d l) l (redPick true l) ∧
    GivesRed (fun a d => .vredMin a d l) l (redPick false l) ∧
    ∀ (u z : BitVec 1) (t : BitVec 4),
      GivesV2 (fun d a => .vcvt d a u z t l) l (convert (laneType l) t.toNat (z == 1) (u == 1)) ∧
      (∀ (d a b : BitVec 4) (x y : VReg) (s s₁ s₂ s₃ : State),
        readV a s = .ok (x, s₁) → readV b s₁ = .ok (y, s₂) →
        let r := (lanesOf (laneWidth l) (laneCount l) x ++ lanesOf (laneWidth l) (laneCount l) y).map
          (convert (laneType l) t.toNat (z == 1) (u == 1))
        writeV d (ofLanes (laneWidth l / 2) (r.map (·.1))) (s₂.flagged (laneFlags r)) = .ok ((), s₃) →
        exec (.vpack d a b u z t l) s = .next s₃.passed) ∧
      (∀ (d a : BitVec 4) (x : VReg) (s s₁ s₂ s₃ : State),
        readV a s = .ok (x, s₁) →
        let r := (lanesOf (laneWidth l) (laneCount l) x).map (convert (laneType l) t.toNat (z == 1) (u == 1))
        writeV d (ofLanes (2 * laneWidth l) ((r.take (laneCount l / 2)).map (·.1))) (s₁.flagged (laneFlags r)) = .ok ((), s₂) →
        writeV (d + 1) (ofLanes (2 * laneWidth l) ((r.drop (laneCount l / 2)).map (·.1))) s₂ = .ok ((), s₃) →
        exec (.vunpk d a u z t l) s = .next s₃.passed)

/-- Table 5-13: VSEL, VSHF and VBCAST move lanes and set no flag. -/
def Sys2Proof.Claims.VectorMoves : Prop :=
  ∀ l : BitVec 3, l ≠ 7 →
    let w := laneWidth l
    let n := laneCount l
    (∀ (d a b m : BitVec 4) (x y k : VReg) (s s₁ s₂ s₃ s₄ : State),
      readV a s = .ok (x, s₁) → readV b s₁ = .ok (y, s₂) → readV m s₂ = .ok (k, s₃) →
      writeV d (ofLanes w ((List.range n).map (fun i =>
        if k.getLsbD (w * i) then nbits x.toNat (w * i) w else nbits y.toNat (w * i) w))) s₃ = .ok ((), s₄) →
      exec (.vsel d a b m l) s = .next s₄.passed) ∧
    (∀ (d a b : BitVec 4) (x y : VReg) (s s₁ s₂ s₃ : State),
      readV a s = .ok (x, s₁) → readV b s₁ = .ok (y, s₂) →
      writeV d (ofLanes w ((List.range n).map (fun i => nbits x.toNat (w * (nbits y.toNat (w * i) w % n)) w))) s₂ = .ok ((), s₃) →
      exec (.vshf d a b l) s = .next s₃.passed) ∧
    (∀ (d : BitVec 4) (r : BitVec 6) (x : Dword) (s s₁ s₂ : State),
      readS r s = .ok (x, s₁) → writeV d (ofLanes w (List.replicate n (x.toNat % 2 ^ w))) s₁ = .ok ((), s₂) →
      exec (.vbcast d r l) s = .next s₂.passed)

/-- Results of the vector words: lanes, reductions, conversions and moves. That a clamped float sets nv alone is the model's (log 105). -/
def Obligations.VectorWords : Prop :=
  Sys2Proof.Claims.VectorLaneResults ∧ Sys2Proof.Claims.IntegerLanesWrapOrClamp ∧ Sys2Proof.Claims.VectorReductionsAndConversions ∧
  Sys2Proof.Claims.VectorMoves ∧ Sys2Proof.Claims.TaperedRounding ∧ Sys2Proof.Claims.TaperedCodes ∧ Sys2Proof.Claims.ConversionRules

/-- R107, Table 5-12: the address words compute modulo 2^80, set no flag and enter nothing in the last-result file. -/
def Obligations.AddressResults : Prop :=
  GivesA .aadd (fun x y => x + y) ∧ GivesA .asub (fun x y => x - y) ∧
  GivesA .acmpEq (fun x y => if x = y then 1 else 0) ∧ GivesA .acmpNe (fun x y => if x = y then 0 else 1) ∧
  GivesA .acmpLt (fun x y => if x.toNat < y.toNat then 1 else 0) ∧ GivesA .acmpLe (fun x y => if x.toNat ≤ y.toNat then 1 else 0) ∧
  GivesA .amask (fun x y => x &&& y) ∧
  (∀ (d a : BitVec 4) (x : VA) (v : Dword) (s s₁ s₂ s₃ : State),
    readA a s = .ok (x, s₁) → popLdq s₁ = .ok (v, s₂) → writeA d (x.extractLsb' 64 16 ++ v) s₂ = .ok ((), s₃) →
    exec (.amov d a) s = .next s₃.passed) ∧
  (∀ (d a : BitVec 4) (b : BitVec 6) (n : BitVec 3) (x : VA) (y : Dword) (s s₁ s₂ s₃ : State),
    readA a s = .ok (x, s₁) → readS b s₁ = .ok (y, s₂) →
    writeA d (x + BitVec.ofInt 80 (y.toInt * 2 ^ n.toNat)) s₂ = .ok ((), s₃) → exec (.aidx d a b n) s = .next s₃.passed) ∧
  (∀ (d a : BitVec 4) (n : BitVec 14) (x : VA) (s s₁ s₂ : State),
    readA a s = .ok (x, s₁) → writeA d (x + (s.immediateOf true n).signExtend 80) s₁ = .ok ((), s₂) →
    exec (.aaddi d a n) s = .next s₂.passed)

/-- R341, Table 14-9: RDCYC gives a count of cycles that no later reading is below (how far it has moved on is free, log 5) and
RDPERF the counter that its selector names; a selector without a counter reads zero. -/
def Sys2Proof.Claims.CountersAreRead : Prop :=
  (∀ (s t : State) (d : BitVec 6),
    let now := s.clock + Config.elapsed s.draws
    writeS d (BitVec.ofNat 64 now) ({ s.drawn with clock := now } : State) = .ok ((), t) →
    exec (.rdcyc d) s = .next (t.entered (BitVec.ofNat 64 now)).passed ∧ s.clock ≤ t.clock) ∧
  (∀ (s s₁ t : State) (d a : BitVec 6) (n v : Dword), readS a s = .ok (n, s₁) → writeS d v s₁ = .ok ((), t) →
    let done := exec (.rdperf d a) s = .next (t.entered v).passed
    let x := s₁.me
    let c := s₁.mine
    let die := s₁.die (coreDie s₁.cur.core)
    (n = 0 → v = x.accIssue → done) ∧ (n = 1 → v = x.exeIssue → done) ∧ (n = 2 → v = x.granFill → done) ∧
    (n = 3 → v = x.bankWake → done) ∧ (n = 4 → v = x.permitWait → done) ∧ (n = 5 → v = x.queueStall → done) ∧
    (n = 6 → v = c.l1Hit → done) ∧ (n = 7 → v = c.l1Miss → done) ∧ (n = 16 → v = die.pinBypass → done) ∧
    (n = 17 → v = die.rampFill → done) ∧ (n = 18 → v = die.mrgStall → done) ∧ (n = 19 → v = die.pgRefetch → done) ∧
    (n = 20 → v = die.llcMiss → done) ∧ (n = 21 → v = die.ingressWait → done) ∧ (n = 22 → v = die.pageMode → done) ∧
    (n = 23 → v = die.wdReport → done) ∧
    (8 ≤ n.toNat → n.toNat < 16 ∨ 23 < n.toNat → v = 0 → done))

/-- Results of the scalar float words, conversions, RDCYC and RDPERF. -/
def Obligations.FloatWords : Prop :=
  Sys2Proof.Claims.FloatResults ∧ Sys2Proof.Claims.ConversionResults ∧ Sys2Proof.Claims.BinaryRounding ∧
  Sys2Proof.Claims.ExactArithmetic ∧ Sys2Proof.Claims.CountersAreRead

/-! ## What the words of the execute stream leave alone -/

/-- The frame of the scalar words (R85, R96 to R98, R103 to R106): beside d, the last-result file, the flags that the rules name and the
queues that the operands pop or push, nothing changes but what using a register brings with it. -/
def Obligations.ScalarWordsChangeOnlyTheirDestination : Prop :=
  (∀ i ∈ [Instr.add, .sub, .mul, .mulh, .mulhn, .andd, .orr, .xorr, .andn, .shl, .shr, .sha, .rot, .mins, .maxs, .minn, .maxn,
      .cmpeq, .cmplt, .cmpltn, .cmple], ∀ (d a b : BitVec 6) (s t : State), usable [a, b] d s → exec (i d a b) s = .next t →
      Frame [a, b] [d] (scalarGranules [a, b, d]) (scalarBytes [d]) s t ∧ t.me.fsn = s.me.fsn) ∧
  (∀ i ∈ [Instr.divs, .divn, .rems, .remn], ∀ (d a b : BitVec 6) (s t : State), usable [a, b] d s → exec (i d a b) s = .next t →
      Frame [a, b] [d] (scalarGranules [a, b, d]) (scalarBytes [d]) s t ∧ (t.me.fsn = s.me.fsn ∨ t.me.fsn = s.me.fsn ||| 2)) ∧
  (∀ i ∈ [Instr.addSats, .addSatn, .subSats, .subSatn, .mulSats, .mulSatn], ∀ (d a b : BitVec 6) (s t : State),
      usable [a, b] d s → exec (i d a b) s = .next t →
      Frame [a, b] [d] (scalarGranules [a, b, d]) (scalarBytes [d]) s t ∧ (t.me.fsn = s.me.fsn ∨ t.me.fsn = s.me.fsn ||| 64)) ∧
  (∀ (d a b : BitVec 6) (s t : State), usable [a, b, d] d s → exec (.sel d a b) s = .next t →
      Frame [a, b, d] [d] (scalarGranules [a, b, d]) (scalarBytes [d]) s t ∧ t.me.fsn = s.me.fsn) ∧
  (∀ i ∈ [Instr.clz, .popc], ∀ (d a : BitVec 6) (s t : State), usable [a] d s → exec (i d a) s = .next t →
      Frame [a] [d] (scalarGranules [a, d]) (scalarBytes [d]) s t ∧ t.me.fsn = s.me.fsn) ∧
  (∀ i ∈ [Instr.addi, .andi, .ori, .xori], ∀ (d a : BitVec 6) (n : BitVec 14) (s t : State), usable [a] d s →
      exec (i d a n) s = .next t → Frame [a] [d] (scalarGranules [a, d]) (scalarBytes [d]) s t ∧ t.me.fsn = s.me.fsn) ∧
  (∀ i ∈ [Instr.shli, .shri, .shai], ∀ (d a n : BitVec 6) (s t : State), usable [a] d s → exec (i d a n) s = .next t →
      Frame [a] [d] (scalarGranules [a, d]) (scalarBytes [d]) s t ∧ t.me.fsn = s.me.fsn) ∧
  (∀ i ∈ [Instr.ext, .extS], ∀ (d a l p : BitVec 6) (s t : State), usable [a] d s → exec (i d a l p) s = .next t →
      Frame [a] [d] (scalarGranules [a, d]) (scalarBytes [d]) s t ∧ t.me.fsn = s.me.fsn) ∧
  (∀ (d a l p : BitVec 6) (s t : State), usable [a, d] d s → exec (.ins d a l p) s = .next t →
      Frame [a, d] [d] (scalarGranules [a, d]) (scalarBytes [d]) s t ∧ t.me.fsn = s.me.fsn) ∧
  (∀ (d : BitVec 6) (n : BitVec 14) (s t : State), usable [] d s → exec (.movi d n) s = .next t →
      Frame [] [d] (scalarGranules [d]) (scalarBytes [d]) s t ∧ t.me.fsn = s.me.fsn) ∧
  (∀ i ∈ [Instr.fadd, .fsub, .fmul, .fmin, .fmax, .fcmp], ∀ (d a b : BitVec 6) (f : BitVec 4) (s t : State), usable [a, b] d s →
      exec (i d a b f) s = .next t → Frame [a, b] [d] (scalarGranules [a, b, d]) (scalarBytes [d]) s t ∧
        t.me.fsn &&& ~~~(0x7F : Dword) = s.me.fsn &&& ~~~(0x7F : Dword) ∧ t.me.fsn &&& s.me.fsn = s.me.fsn) ∧
  (∀ (d a b : BitVec 6) (f : BitVec 4) (s t : State), usable [a, b, d] d s →
      exec (.ffma d a b f) s = .next t → Frame [a, b, d] [d] (scalarGranules [a, b, d]) (scalarBytes [d]) s t ∧
        t.me.fsn &&& ~~~(0x7F : Dword) = s.me.fsn &&& ~~~(0x7F : Dword) ∧ t.me.fsn &&& s.me.fsn = s.me.fsn) ∧
  (∀ i ∈ [Instr.fabs, .fneg], ∀ (d a : BitVec 6) (f : BitVec 4) (s t : State), usable [a] d s → exec (i d a f) s = .next t →
      Frame [a] [d] (scalarGranules [a, d]) (scalarBytes [d]) s t ∧ t.me.fsn = s.me.fsn) ∧
  (∀ (d a : BitVec 6) (src : BitVec 4) (z u : BitVec 1) (ty : BitVec 4) (s t : State), usable [a] d s →
      exec (.fcvt d a src z u ty) s = .next t → Frame [a] [d] (scalarGranules [a, d]) (scalarBytes [d]) s t ∧
        t.me.fsn &&& ~~~(0x7F : Dword) = s.me.fsn &&& ~~~(0x7F : Dword) ∧ t.me.fsn &&& s.me.fsn = s.me.fsn)

/-- The frame of the address words (R107): beside address register d (and ldq for AMOV), no register, flag or byte changes; nothing
enters the last-result file. -/
def Sys2Proof.Claims.AddressWordsChangeOnlyTheirDestination : Prop :=
  (∀ i ∈ [Instr.aadd, .asub, .acmpEq, .acmpNe, .acmpLt, .acmpLe, .amask], ∀ (d a b : BitVec 4) (s t : State),
      usableA [a, b] d s → exec (i d a b) s = .next t →
      Frame [] [] (addrGranules [a, b, d]) [(0x580 + 16 * d.toNat, 16)] s t ∧ t.me.fsn = s.me.fsn ∧
        (t.me.y0, t.me.y1, t.me.y2, t.me.y3) = (s.me.y0, s.me.y1, s.me.y2, s.me.y3)) ∧
  (∀ (d a : BitVec 4) (s s₁ s₂ t : State) (x : VA) (v : Dword), readA a s = .ok (x, s₁) → popLdq s₁ = .ok (v, s₂) →
      (∀ w, ∃ u, writeA d w s₂ = .ok ((), u)) → exec (.amov d a) s = .next t →
      Frame [60] [] (addrGranules [a, d]) [(0x580 + 16 * d.toNat, 16)] s t ∧ t.me.fsn = s.me.fsn ∧
        (t.me.y0, t.me.y1, t.me.y2, t.me.y3) = (s.me.y0, s.me.y1, s.me.y2, s.me.y3)) ∧
  (∀ (d a : BitVec 4) (b : BitVec 6) (n : BitVec 3) (s s₁ s₂ t : State) (x : VA) (v : Dword), readA a s = .ok (x, s₁) →
      readS b s₁ = .ok (v, s₂) → (∀ w, ∃ u, writeA d w s₂ = .ok ((), u)) → exec (.aidx d a b n) s = .next t →
      Frame [b] [] (addrGranules [a, d] ++ scalarGranules [b]) [(0x580 + 16 * d.toNat, 16)] s t ∧ t.me.fsn = s.me.fsn ∧
        (t.me.y0, t.me.y1, t.me.y2, t.me.y3) = (s.me.y0, s.me.y1, s.me.y2, s.me.y3)) ∧
  (∀ (d a : BitVec 4) (n : BitVec 14) (s t : State), usableA [a] d s → exec (.aaddi d a n) s = .next t →
      Frame [] [] (addrGranules [a, d]) [(0x580 + 16 * d.toNat, 16)] s t ∧ t.me.fsn = s.me.fsn ∧
        (t.me.y0, t.me.y1, t.me.y2, t.me.y3) = (s.me.y0, s.me.y1, s.me.y2, s.me.y3))

/-- The frame of the lane-by-lane vector words (R108): beside vector register d and the flags of the lanes, no register or byte
changes; nothing enters the last-result file. -/
def Sys2Proof.Claims.VectorWordsChangeOnlyTheirDestination : Prop :=
  ∀ l : BitVec 3, l ≠ 7 → ∀ (d a b : BitVec 4) (s t : State),
    (∀ i ∈ [Instr.vmax d a b l, .vmin d a b l, .vshf d a b l, .vadd d a b 0 l, .vadd d a b 1 l, .vsub d a b 0 l, .vsub d a b 1 l,
        .vmul d a b 0 l, .vmul d a b 1 l, .vcmp d a b 0 l, .vcmp d a b 1 l, .vcmp d a b 2 l, .vcmp d a b 3 l],
      usableV [a, b] d s → exec i s = .next t →
      Frame [] [] (vecGranules [a, b, d]) [(0x180 + 64 * d.toNat, 64)] s t ∧
        t.me.fsn &&& ~~~(0x7F : Dword) = s.me.fsn &&& ~~~(0x7F : Dword) ∧ t.me.fsn &&& s.me.fsn = s.me.fsn ∧
        (t.me.y0, t.me.y1, t.me.y2, t.me.y3) = (s.me.y0, s.me.y1, s.me.y2, s.me.y3)) ∧
    (∀ i ∈ [Instr.vexp2 d a l, .vrcp d a l, .vrsq d a l], usableV [a] d s → exec i s = .next t →
      Frame [] [] (vecGranules [a, d]) [(0x180 + 64 * d.toNat, 64)] s t ∧
        t.me.fsn &&& ~~~(0x7F : Dword) = s.me.fsn &&& ~~~(0x7F : Dword) ∧ t.me.fsn &&& s.me.fsn = s.me.fsn ∧
        (t.me.y0, t.me.y1, t.me.y2, t.me.y3) = (s.me.y0, s.me.y1, s.me.y2, s.me.y3)) ∧
    (usableV [a, b, d] d s → exec (.vfma d a b l) s = .next t →
      Frame [] [] (vecGranules [a, b, d]) [(0x180 + 64 * d.toNat, 64)] s t ∧
        t.me.fsn &&& ~~~(0x7F : Dword) = s.me.fsn &&& ~~~(0x7F : Dword) ∧ t.me.fsn &&& s.me.fsn = s.me.fsn ∧
        (t.me.y0, t.me.y1, t.me.y2, t.me.y3) = (s.me.y0, s.me.y1, s.me.y2, s.me.y3))

/-- The frame of the vector words that select, broadcast, convert, pack, unpack and reduce (R109, R110, Table 5-13): beside the vector
registers they write and the flags of a conversion, no register or byte changes and nothing enters the last-result file; a reduction
changes its scalar, the last-result file and the flags. -/
def Sys2Proof.Claims.VectorMovesChangeOnlyTheirDestination : Prop :=
  ∀ l : BitVec 3, l ≠ 7 → ∀ (d a b : BitVec 4) (s t : State),
    (∀ m : BitVec 4, usableV [a, b, m] d s → exec (.vsel d a b m l) s = .next t →
      Frame [] [] (vecGranules [a, b, m, d]) [(0x180 + 64 * d.toNat, 64)] s t ∧ t.me.fsn = s.me.fsn ∧
        (t.me.y0, t.me.y1, t.me.y2, t.me.y3) = (s.me.y0, s.me.y1, s.me.y2, s.me.y3)) ∧
    (∀ (r : BitVec 6) (x : Dword) (s₁ : State), readS r s = .ok (x, s₁) → (∀ v, ∃ u, writeV d v s₁ = .ok ((), u)) →
      exec (.vbcast d r l) s = .next t →
      Frame [r] [] (vecGranules [d] ++ scalarGranules [r]) [(0x180 + 64 * d.toNat, 64)] s t ∧ t.me.fsn = s.me.fsn ∧
        (t.me.y0, t.me.y1, t.me.y2, t.me.y3) = (s.me.y0, s.me.y1, s.me.y2, s.me.y3)) ∧
    (∀ (u z : BitVec 1) (ty : BitVec 4),
      (usableV [a] d s → exec (.vcvt d a u z ty l) s = .next t →
        Frame [] [] (vecGranules [a, d]) [(0x180 + 64 * d.toNat, 64)] s t ∧
          t.me.fsn &&& ~~~(0x7F : Dword) = s.me.fsn &&& ~~~(0x7F : Dword) ∧ t.me.fsn &&& s.me.fsn = s.me.fsn ∧
          (t.me.y0, t.me.y1, t.me.y2, t.me.y3) = (s.me.y0, s.me.y1, s.me.y2, s.me.y3)) ∧
      (usableV [a, b] d s → exec (.vpack d a b u z ty l) s = .next t →
        Frame [] [] (vecGranules [a, b, d]) [(0x180 + 64 * d.toNat, 64)] s t ∧
          t.me.fsn &&& ~~~(0x7F : Dword) = s.me.fsn &&& ~~~(0x7F : Dword) ∧ t.me.fsn &&& s.me.fsn = s.me.fsn ∧
          (t.me.y0, t.me.y1, t.me.y2, t.me.y3) = (s.me.y0, s.me.y1, s.me.y2, s.me.y3)) ∧
      (∀ (x : VReg) (s₁ : State), readV a s = .ok (x, s₁) →
        (∀ v, ∃ s₂, writeV d v s₁ = .ok ((), s₂) ∧ ∀ w, ∃ s₃, writeV (d + 1) w s₂ = .ok ((), s₃)) →
        exec (.vunpk d a u z ty l) s = .next t →
        Frame [] [] (vecGranules [a, d, d + 1]) [(0x180 + 64 * d.toNat, 64), (0x180 + 64 * (d + 1).toNat, 64)] s t ∧
          t.me.fsn &&& ~~~(0x7F : Dword) = s.me.fsn &&& ~~~(0x7F : Dword) ∧ t.me.fsn &&& s.me.fsn = s.me.fsn ∧
          (t.me.y0, t.me.y1, t.me.y2, t.me.y3) = (s.me.y0, s.me.y1, s.me.y2, s.me.y3))) ∧
    (∀ (x : VReg) (r : BitVec 6) (s₁ : State), readV a s = .ok (x, s₁) → (∀ v, ∃ u, writeS r v s₁ = .ok ((), u)) →
      ∀ i ∈ [Instr.vredAdd a r l, .vredMax a r l, .vredMin a r l], exec i s = .next t →
      Frame [] [r] (vecGranules [a] ++ scalarGranules [r]) (scalarBytes [r]) s t ∧
        t.me.fsn &&& ~~~(0x7F : Dword) = s.me.fsn &&& ~~~(0x7F : Dword) ∧ t.me.fsn &&& s.me.fsn = s.me.fsn)

/-- Frame of the address and of the vector words. -/
def Obligations.WideWordsChangeOnlyTheirDestination : Prop :=
  Sys2Proof.Claims.AddressWordsChangeOnlyTheirDestination ∧ Sys2Proof.Claims.VectorWordsChangeOnlyTheirDestination ∧
  Sys2Proof.Claims.VectorMovesChangeOnlyTheirDestination

/-! ## Control words (R75 to R81, R101, R102, R111 to R118, R327) -/

/-- R76 to R78, R111, R112: a conditional branch at the stream that evaluates it: the outcome is pushed, and the stream stands at the
delay slot with target address + 4 × disp20; LOOP writes the decremented register whichever way it goes. -/
def Sys2Proof.Claims.ConditionalBranchesEvaluate : Prop :=
  ∀ (d : BitVec 20) (s s₁ : State), ¬ s.standsInSlot →
    let dest (taken : Bool) : Branch := { addr := s.address, target := s.address + BitVec.ofInt 64 (4 * d.toInt), outcome := some taken }
    (∀ (r : BitVec 6) (x : Dword), s.cur.stream = .exe → readS r s = .ok (x, s₁) → s₁.me.oqE.length < 8 →
      let push (taken : Bool) : State := s₁.onMe (fun x => { x with oqE := x.oqE ++ [{ taken := taken, target := 0 }] })
      exec (.bre r d) s = .next ((push (x.getLsbD 0)).intoSlot (dest (x.getLsbD 0))) ∧
      exec (.beqz r d) s = .next ((push (x == 0)).intoSlot (dest (x == 0))) ∧
      exec (.bnez r d) s = .next ((push (x != 0)).intoSlot (dest (x != 0)))) ∧
    (∀ (a : BitVec 4) (x : VA), s.cur.stream = .acc → readA a s = .ok (x, s₁) →
      let push (u : State) (taken : Bool) : State := u.onMe (fun x => { x with oqA := x.oqA ++ [taken] })
      (s₁.me.oqA.length < 8 → exec (.bra a d) s = .next ((push s₁ (x.getLsbD 0)).intoSlot (dest (x.getLsbD 0)))) ∧
      (∀ s₂, writeA a (x - 1) s₁ = .ok ((), s₂) → s₂.me.oqA.length < 8 →
        exec (.loop a d) s = .next ((push s₂ (x - 1 != 0)).intoSlot (dest (x - 1 != 0)))))

/-- R77, R112: the other stream's copy of a conditional branch waits for nothing: it stands at the delay slot without the outcome. What the
evaluating stream has still to read there stays in order before later words (R83). -/
def Sys2Proof.Claims.OtherCopyOfABranchDoesNotWait : Prop :=
  ∀ (d : BitVec 20) (s : State), ¬ s.standsInSlot →
    let b : Branch := { addr := s.address, target := s.address + BitVec.ofInt 64 (4 * d.toInt), outcome := none }
    (s.cur.stream = .acc → ∀ r : BitVec 6, exec (.bre r d) s = .next (s.pastCopy (.bre r d) b) ∧
      exec (.beqz r d) s = .next (s.pastCopy (.beqz r d) b) ∧ exec (.bnez r d) s = .next (s.pastCopy (.bnez r d) b) ∧
      exec (.jmpi r) s = .next (s.pastCopy (.jmpi r) { addr := s.address, target := 0, outcome := none, indirect := true })) ∧
    (s.cur.stream = .exe → ∀ a : BitVec 4, exec (.bra a d) s = .next (s.pastCopy (.bra a d) b) ∧
      exec (.loop a d) s = .next (s.pastCopy (.loop a d) b))

/-- BRE, BEQZ, BNEZ, BRA and LOOP at the evaluating stream and at the other stream. -/
def Obligations.ConditionalBranches : Prop :=
  Sys2Proof.Claims.ConditionalBranchesEvaluate ∧ Sys2Proof.Claims.OtherCopyOfABranchDoesNotWait

/-- R76, R101, R102, R111, R345: the transfers that are always taken, and NOP and YIELD. A CALL pushes the address after its delay
slot on its stream's return stack, a RET takes it; the entries older than the sixteen youngest lie in the state area of the context: the
stream that comes to a CALL first spills the entry that leaves the core, and a RET takes one back. (A CALL that spills waits until the
other stream has come to it: the model's choice, log 12.) -/
def Sys2Proof.Claims.TransfersAndNop : Prop :=
  (∀ s : State, exec .nop s = .next s.passed ∧ exec .yield s = .next s.passed) ∧
  ∀ (s : State), ¬ s.standsInSlot →
    (∀ d : BitVec 20, exec (.jmp d) s = .next (s.intoSlot
      { addr := s.address, target := s.address + BitVec.ofInt 64 (4 * d.toInt), outcome := some true })) ∧
    (∀ d : BitVec 20, (s.me.returnStack s.cur.stream).length < 32 →
      let l := (s.address + 8) :: s.me.returnStack s.cur.stream
      let u := s.onMe (fun x => x.setReturnStack s.cur.stream l)
      let other := (s.me.stream s.cur.stream.other).pos
      ((s.me.returnStack s.cur.stream).length < 16 ∨ s.position ≤ other →
        exec (.call d) s = .next ((if other ≤ s.position then spillReturn s.cur.core s.cur.ctxNo l u else u).intoSlot
          { addr := s.address, target := s.address + BitVec.ofInt 64 (4 * d.toInt), outcome := some true })) ∧
      (16 ≤ (s.me.returnStack s.cur.stream).length → other < s.position → exec (.call d) s = .next (stalled .event s))) ∧
    (∀ r l, s.me.returnStack s.cur.stream = r :: l →
      let u := refillReturn s.cur.core s.cur.ctxNo l s
      exec .ret s = .next ((u.1.onMe (fun x => x.setReturnStack s.cur.stream u.2)).intoSlot
        { addr := s.address, target := r, outcome := some true }) ∧
      (l.length ≤ 15 → u = (s, l))) ∧
    (∀ (a : BitVec 6) (v : Dword) (s₁ : State), s.cur.stream = .exe → readS a s = .ok (v, s₁) → v.toNat % 4 = 0 →
      s₁.me.oqE.length < 8 →
      exec (.jmpi a) s = .next ((s₁.onMe (fun x => { x with oqE := x.oqE ++ [{ taken := true, target := v }] })).intoSlot
        { addr := s.address, target := v, outcome := some true }))

/-- R102: the ends of the return stack: a CALL at depth 32 raises the precise trap 0x0C, a RET at depth 0 trap 0x0D, in both streams'
name and with both of them at the word: the stream that comes first waits there. The trap is taken on the state before the word, its
delay slot is not executed and no entry is written. -/
def Obligations.ReturnStackEnds : Prop :=
  ∀ s : State, ¬ s.standsInSlot →
    (∀ d : BitVec 20, 32 ≤ (s.me.returnStack s.cur.stream).length →
      exec (.call d) s = .next (if s.me.together then precise { code := 0x0C, both := true } s else stalled .event s)) ∧
    (s.me.returnStack s.cur.stream = [] →
      exec .ret s = .next (if s.me.together then precise { code := 0x0D, both := true } s else stalled .event s)) ∧
    ∀ n, n = 0x0C ∨ n = 0x0D →
      let t := precise { code := n, both := true } s
      (∀ st, t.me.returnStack st = s.me.returnStack st) ∧ t.me.tc = BitVec.ofNat 8 n ∧
      (∀ st, (t.me.stream st).pc = s.me.tb + BitVec.ofNat 64 (16 * n) ∧ (t.me.stream st).ctl = .seq)

/-- R79: no branch, no HINT and none of FOLLOW, LEAVE, END, RETS, RFT, FIBSW and UPRET may stand in a delay slot: the word raises the
illegal-instruction trap (code 1), once, with both streams at it (R75): of a word of which each stream executes its own copy, the stream
that comes first waits there. (RFT at user privilege raises the trap of R75 instead.) -/
def Sys2Proof.Claims.NoBranchInADelaySlot : Prop :=
  ∀ s : State, s.standsInSlot →
    let illegal : Host.Outcome State Fault Refusal :=
      .next (if s.me.together then precise { code := 1, both := true } s else stalled .event s)
    (∀ (r : BitVec 6) (d : BitVec 20), exec (.bre r d) s = illegal ∧ exec (.beqz r d) s = illegal ∧ exec (.bnez r d) s = illegal) ∧
    (∀ (a : BitVec 4) (d : BitVec 20), exec (.bra a d) s = illegal ∧ exec (.loop a d) s = illegal ∧ exec (.jmp d) s = illegal ∧
      exec (.call d) s = illegal) ∧
    exec .ret s = illegal ∧ (∀ a : BitVec 6, exec (.jmpi a) s = illegal) ∧
    (∀ (p : BitVec 22) (n : BitVec 8) (t : BitVec 5) (b : BitVec 1) (l : BitVec 3), exec (.hintPfx p) s = illegal ∧
      exec (.hintSched n) s = illegal ∧ exec (.hintMod t b) s = illegal ∧ exec (.hintPrio l) s = illegal) ∧
    let trapped : Host.Outcome State Fault Refusal := .next (precise { code := 1 } s)
    (∀ r : BitVec 8, exec (.follow r) s = trapped) ∧ exec .leave s = trapped ∧
    (∀ a m : BitVec 6, exec (.endc a) s = trapped ∧ exec (.rets m a) s = trapped) ∧
    (s.me.dev = true → exec .rft s = trapped) ∧ (∀ a : BitVec 4, exec (.fibsw a) s = trapped ∧ exec (.upret a) s = trapped)

/-- R75, R111: a JMPI to a target that is no multiple of 4 raises the illegal-instruction trap in both streams' name, before its slot, on
the state before the word: an access stream that stands in the slot, which it has not begun, goes back to the JMPI; one that has not come
to the JMPI is waited for. -/
def Sys2Proof.Claims.MisalignedJmpiTraps : Prop :=
  ∀ (s s₁ : State) (a : BitVec 6) (v : Dword), ¬ s.standsInSlot → s.cur.stream = .exe → readS a s = .ok (v, s₁) → v.toNat % 4 ≠ 0 →
    (s.me.slotAhead = true → exec (.jmpi a) s = .next (precise { code := 1, both := true }
      (s.onMe (fun x => { x with acc := { x.acc with pc := x.acc.pc - 4, pos := x.exe.pos, ctl := .seq } })))) ∧
    (s.me.slotAhead = false → s.me.together = true → exec (.jmpi a) s = .next (precise { code := 1, both := true } s)) ∧
    (s.me.slotAhead = false → s.me.together = false → exec (.jmpi a) s = .next (stalled .event s))

/-- Transfers, NOP and YIELD complete; what R79 forbids in a delay slot traps, and so does a misaligned JMPI. -/
def Obligations.TransfersAndSlots : Prop :=
  Sys2Proof.Claims.TransfersAndNop ∧ Sys2Proof.Claims.NoBranchInADelaySlot ∧ Sys2Proof.Claims.MisalignedJmpiTraps

/-- R78, R112: past the delay slot a stream goes on at the target, or at the branch's address + 8, as its own outcome says, or else the
oldest outcome that waits for it, which it pops; without an outcome it waits. (Outside a follow group, R115.) -/
def Sys2Proof.Claims.StreamsRedirectAlike : Prop :=
  ∀ (s : State) (c k : Nat) (st : Stream) (b : Branch), (s.core c).follower = false → (s.ctx c k).ldr = false →
    let go (pop : Ctx → Ctx) (pc : Dword) : State := s.modCtx c k (fun x =>
      (pop x).setStream st { (pop x).stream st with pc := pc, ctl := .seq })
    (∀ taken, b.outcome = some taken →
      redirect c k st b s = some (go id (if taken then b.target else b.addr + 8))) ∧
    (b.outcome = none → st = .acc → ∀ o l, (s.ctx c k).oqE = o :: l →
      redirect c k st b s = some (go (fun x => { x with oqE := x.oqE.drop 1 })
        (if o.taken then (if b.indirect then o.target else b.target) else b.addr + 8))) ∧
    (b.outcome = none → st = .exe → ∀ o l, (s.ctx c k).oqA = o :: l →
      redirect c k st b s = some (go (fun x => { x with oqA := x.oqA.drop 1 }) (if o then b.target else b.addr + 8))) ∧
    (b.outcome = none → st = .acc → (s.ctx c k).oqE = [] → redirect c k st b s = none) ∧
    (b.outcome = none → st = .exe → (s.ctx c k).oqA = [] → redirect c k st b s = none)

/-- R80, R81, R118: a HINT whose next word accepts it is passed and applies to that next word; one that the next word does not accept
raises the illegal-instruction trap, once, with both streams at it. -/
def Sys2Proof.Claims.HintsApplyToTheNextWord : Prop :=
  ∀ (s s₁ : State) (w : Word) (i : Instr), ¬ s.standsInSlot →
    fetchFor s s.cur.core s.cur.ctxNo (s.address + 4) = .ok (w, s₁) → s₁.cur = s.cur → decodeWord w = some i →
    let hint (h : Hint) : Host.Outcome State Fault Refusal :=
      .next (s₁.passed.onMe (fun x => x.setStream s.cur.stream { x.stream s.cur.stream with hint := h }))
    let illegal : Host.Outcome State Fault Refusal := .next (precise { code := 1, both := true } s)
    (takesPfx i = true → ∀ p, exec (.hintPfx p) s = hint (.pfx p)) ∧
    (isHint i = false → ∀ n, exec (.hintSched n) s = hint (.sched n)) ∧
    (takesNt i = true → exec (.hintMod 0 1) s = hint (.mod true 0)) ∧
    (takesTmo i = true → ∀ t, exec (.hintMod t 0) s = hint (.mod false t)) ∧
    (isHint i = false → 0x22 ≤ w.toNat / 2 ^ 26 → w.toNat / 2 ^ 26 ≤ 0x30 → ∀ l, exec (.hintPrio l) s = hint (.prio l)) ∧
    (s.me.together = true → takesPfx i = false → ∀ p, exec (.hintPfx p) s = illegal) ∧
    (s.me.together = true → isHint i = true → ∀ n l, exec (.hintSched n) s = illegal ∧ exec (.hintPrio l) s = illegal) ∧
    (s.me.together = true → takesNt i = false → ∀ t, exec (.hintMod t 1) s = illegal)

/-- Past the delay slot both streams redirect alike; a HINT applies to the next word. -/
def Obligations.RedirectsAndHints : Prop :=
  Sys2Proof.Claims.StreamsRedirectAlike ∧ Sys2Proof.Claims.HintsApplyToTheNextWord

/-- R113 to R116: FOLLOW and LEAVE. A leader whose tile has no member that is detached passes FOLLOW, taking in the members that have
arrived; with one still to come it waits there; LEAVE withdraws the core that executes it. -/
def Sys2Proof.Claims.FollowAndLeave : Prop :=
  ∀ (s : State) (c : Nat) (st : Stream) (r : BitVec 8), s.cur = .ctx c 0 st → ¬ s.standsInSlot →
    (exec .leave s = .next ((s.modCore c (fun v => { v with enrolled := false, follower := false })).onMe
      (fun x => { x with fol := false, ldr := false })).passedBoth) ∧
    ((s.core c).follower = false → leaderOf s c = c → detachedMembers s c = [] → arrivedAt s c r = [] →
      exec (.follow r) s = .next (s.onMe (fun x => { x with ldr := true, atFollow := none })).passedBoth) ∧
    ((s.core c).follower = false → leaderOf s c = c → (∃ m, m ∈ detachedMembers s c ∧ (s.ctx m 0).atFollow ≠ some r) →
      ∃ t, exec (.follow r) s = .next t ∧ t.me.atFollow = some r ∧ (t.me.stream st).pos = s.position) ∧
    ((s.core c).follower = true → s.me.acc.pos < (s.ctx (leaderOf s c) 0).acc.pos → exec (.follow r) s = .next s.passedBoth)

/-- R327, R325: SBWAIT passes in both streams once no named slot has a setter pending before it and none is in error; an errored one
raises the trap of its cause, which clears the error (in a delay slot, once the branch has its outcome, R376). -/
def Sys2Proof.Claims.SbwaitWaitsAndReportsErrors : Prop :=
  ∀ (s : State) (m : BitVec 7),
    (∀ i, i < 7 → m.getLsbD i = true → s.me.pendBefore (BitVec.ofNat 3 (i + 1)) s.position = false) →
    ((∀ i, i < 7 → m.getLsbD i = true → s.me.slotErr (i + 1) = false) → exec (.sbwait m) s = .next s.passedBoth) ∧
    (∀ i, i < 7 → m.getLsbD i = true → s.me.slotErr (i + 1) = true →
      (∀ j, j < i → m.getLsbD j = true → s.me.slotErr (j + 1) = false) →
      exec (.sbwait m) s = .next (precise { code := causeTrap (s.me.slotCause (i + 1)) }
        (if awaitsOutcome s then s else s.onMe (fun x => x.clearErr (i + 1)))))

/-- R6, R75: a word that is not an instruction raises the illegal-instruction trap at that word, in the stream that its major selects. -/
def Sys2Proof.Claims.IllegalWordTraps : Prop :=
  ∀ (s : State) (w : Word) (c k : Nat) (st : Stream), s.cur = .ctx c k st → s.ev = .illegalInstructionWord w →
    exec .illegalInstructionWord s = .next (precise { code := 1, both := decide (0x38 ≤ w.toNat / 2 ^ 26) } s)

/-- FOLLOW, LEAVE and SBWAIT complete; a word that is no instruction traps. -/
def Obligations.GroupsSlotsAndIllegalWords : Prop :=
  Sys2Proof.Claims.FollowAndLeave ∧ Sys2Proof.Claims.SbwaitWaitsAndReportsErrors ∧ Sys2Proof.Claims.IllegalWordTraps

/-! ## Accesses of the access stream (R148, R149, R179 to R202) -/

/-- R148, R149: the rules of regions 0xF and 0xE: which addresses name a byte, which are an address fault (0x04), which a
protection fault (0x05); a scratchpad of another gang, or an Ashlar bank that is not the gang's, cannot be reached. -/
def Sys2Proof.Claims.ScratchpadAndAshlarAddresses : Prop :=
  ∀ (s : State) (c : Nat) (gid : BitVec 32) (asid : BitVec 12) (va : VA) (size : Nat) (need : AccNeed) (user : Bool),
    let v := va.toNat
    let other := nbits v 28 2 * 1024 + nbits v 18 10
    let bank := nbits v 23 2 * 128 + nbits v 17 6 * 2 + nbits v 16 1
    (vaRegion va = 15 → nbits v 31 45 ≠ 0 → resolve s c gid asid va size need user = .error 0x04) ∧
    (vaRegion va = 15 → nbits v 18 58 = 0 → resolve s c gid asid va size need user = .ok (.sp c (v % 2 ^ 18), s)) ∧
    (vaRegion va = 15 → nbits v 30 46 = 0 → nbits v 18 12 ≠ 0 → resolve s c gid asid va size need user = .error 0x04) ∧
    (vaRegion va = 15 → nbits v 30 46 = 1 → (s.core other).gid = gid →
      resolve s c gid asid va size need user = .ok (.sp other (v % 2 ^ 18), s)) ∧
    (vaRegion va = 15 → nbits v 30 46 = 1 → (s.core other).gid ≠ gid → resolve s c gid asid va size need user = .error 0x05) ∧
    (vaRegion va = 14 → nbits v 25 51 ≠ 0 → resolve s c gid asid va size need user = .error 0x04) ∧
    (vaRegion va = 14 → nbits v 25 51 = 0 → (s.ashlar bank).gid ≠ gid → resolve s c gid asid va size need user = .error 0x05) ∧
    (vaRegion va = 14 → nbits v 25 51 = 0 → (s.ashlar bank).gid = gid → v % 2 ^ 16 + size ≤ (s.ashlar bank).mst * 256 →
      resolve s c gid asid va size need user = .ok (.ash bank (v % 2 ^ 16), s)) ∧
    (vaRegion va < 14 → attValid (attOf s (vaRegion va)) = false → resolve s c gid asid va size need user = .error 0x04)

/-- R71, R179, R197, R198, R206: an access whose effective address is not a multiple of its size raises the alignment trap (code 3) with
that address, and nothing else has come about: no request is sent and no queue item is popped or reserved. (That this trap comes before
the address fault of a full/empty access outside region 0xF and of a WAITA in regions 0xE and 0xF, and after the operands are there, is
log 89.) -/
def Sys2Proof.Claims.MisalignedAccessTraps : Prop :=
  ∀ (a : BitVec 4) (ss ws : BitVec 3) (v : BitVec 4) (z sc : BitVec 2) (q z₁ : BitVec 1) (o : BitVec 12) (p : BitVec 8) (s s₁ : State)
    (va : VA), s.unheld ws →
    let traps : Host.Outcome State Fault Refusal := .next (precise { code := 3, va := va } s)
    (s.addresses a o (2 ^ z.toNat) va s₁ → va.toNat % 2 ^ z.toNat ≠ 0 →
      exec (.ld a ss ws z q o) s = traps ∧ exec (.ldc a ss ws z q o) s = traps ∧ exec (.ldi a ss ws z q o) s = traps ∧
      exec (.ldfe a ss ws z q o) s = traps ∧ exec (.ldacq a ss ws z sc o) s = traps ∧
      (∀ x s₂, popSdq s₁ = .ok (x, s₂) → exec (.st a ss ws z o) s = traps ∧ exec (.stfe a ss ws z q o) s = traps ∧
        (s.me.replay = [] ∨ s.me.accessesBefore s.position = false → exec (.strel a ss ws z sc o) s = traps))) ∧
    (∀ x s₂, s.addresses a o (if z₁ = 0 then 4 else 8) va s₁ → va.toNat % (if z₁ = 0 then 4 else 8) ≠ 0 → popSdq s₁ = .ok (x, s₂) →
      exec (.atadd a ss ws z₁ o) s = traps ∧ exec (.atand a ss ws z₁ o) s = traps ∧ exec (.ator a ss ws z₁ o) s = traps ∧
      exec (.atxor a ss ws z₁ o) s = traps ∧ exec (.atswp a ss ws z₁ o) s = traps ∧ exec (.waita a ss ws z₁ o) s = traps ∧
      (∀ y s₃, popSdq s₂ = .ok (y, s₃) → exec (.atcas a ss ws z₁ o) s = traps)) ∧
    (∀ x s₂, s.addresses a o (if z.getLsbD 0 then 8 else 4) va s₁ → va.toNat % (if z.getLsbD 0 then 8 else 4) ≠ 0 →
      popSdq s₁ = .ok (x, s₂) → exec (.atmin a ss ws z o) s = traps ∧ exec (.atmax a ss ws z o) s = traps) ∧
    (s.addresses a o 64 va s₁ → va.toNat % 64 ≠ 0 → ∀ i ∈ [Instr.asopReduceAdd, .asopReduceMax, .asopAxpy, .asopConvert, .asopScale,
      .asopGather, .asopScatterAdd, .asopSmerge], exec (i a ss ws o) s = traps) ∧
    (s.addresses a p 16 va s₁ → va.toNat % 16 ≠ 0 → exec (.la a ss ws v p) s = traps) ∧
    (s.addresses a p 64 va s₁ → va.toNat % 64 ≠ 0 → exec (.vld a ss ws v p) s = traps ∧
      (∀ x s₂, readV v s₁ = .ok (x, s₂) → exec (.vst a ss ws v p) s = traps ∧ exec (.vstfe a ss ws v p) s = traps))

/-- Regions 0xE and 0xF, and the alignment trap of every access. That the full/empty forms test it before their region is the model's (log
89). -/
def Obligations.AddressRulesAndAlignment : Prop :=
  Sys2Proof.Claims.ScratchpadAndAshlarAddresses ∧ Sys2Proof.Claims.MisalignedAccessTraps

/-- R157, R158, R180, R185 to R190, R228: a load that passes its checks reserves a load-data queue position and joins its slot. Where the
region admits it, a copy in the L1 (for LDC: in the constant cache) answers it; LD and LDACQ take a copy only while no earlier access of
the context, and no store of the core, to that line is still to be performed. Any other load is sent to its home. LDACQ holds later
accesses back. -/
def Obligations.LoadsReserveAndSend : Prop :=
  ∀ (a : BitVec 4) (ss ws : BitVec 3) (z : BitVec 2) (q : BitVec 1) (sc : BitVec 2) (o : BitVec 12) (s s₁ s₂ : State) (va : VA) (tgt : Target),
    s.unheld ws → s.addresses a o (2 ^ z.toNat) va s₁ → va.toNat % 2 ^ z.toNat = 0 →
    check va (2 ^ z.toNat) .read s₁ = .ok (tgt, s₂) → s₂.slotRoom ss → s₂.me.ldq.length < 16 →
    let base (hold : Bool) := (s₂.joined ss .access hold .ldq).reserved s₂.nextId
    let l1 := admitsL1 tgt va
    let req (sx : Bool) (path : ReqPath) := s₂.request .read va (2 ^ z.toNat) 0 0 sx .ldq path (tgt.leaf s₂)
    let posted (u : State) (r : Req) : Host.Outcome State Fault Refusal := .next (post r false u).passed
    let answered (u : State) (sx : Bool) (d : Nat) : Host.Outcome State Fault Refusal :=
      .next (u.send (.loadReturn s₂.cur.core s₂.cur.ctxNo s₂.nextId (extend (2 ^ z.toNat) sx d))).passed
    let plain (hold sx : Bool) : Host.Outcome State Fault Refusal :=
      let copy := if l1 then cachedCopy (base hold) s₂.mine (req sx .plain) else none
      let u := (base hold).countedL1 l1 copy.isSome
      match copy with
      | some d => if lineBusy u s₂.cur.core s₂.cur.ctxNo (va.toNat / 128) then posted u (req sx .plain) else answered u sx d
      | none => posted u (req sx .plain)
    exec (.ld a ss ws z q o) s = plain false (q == 1) ∧
    exec (.ldacq a ss ws z sc o) s = plain true false ∧
    (l1 = false → exec (.ldc a ss ws z q o) s = posted (base false) (req (q == 1) .plain) ∧
      exec (.ldi a ss ws z q o) s = posted (base false) (req (q == 1) .plain)) ∧
    (l1 = true → cachedCopy (base false) s₂.mine (req (q == 1) .constant) = none →
      exec (.ldc a ss ws z q o) s = posted (base false) (req (q == 1) .constant)) ∧
    (l1 = true → cachedCopy (base false) s₂.mine (req (q == 1) .invariant) = none →
      exec (.ldi a ss ws z q o) s = posted ((base false).countedL1 true false) (req (q == 1) .invariant)) ∧
    (∀ d, l1 = true → cachedCopy (base false) s₂.mine (req (q == 1) .constant) = some d →
      exec (.ldc a ss ws z q o) s = answered (base false) (q == 1) d) ∧
    (∀ d, l1 = true → cachedCopy (base false) s₂.mine (req (q == 1) .invariant) = some d →
      exec (.ldi a ss ws z q o) s = answered ((base false).countedL1 true true) (q == 1) d)

/-- R183, R189, R191, R194: a store pops its data from sdq and sends the bytes, behind a deferred access to its line; STREL goes on at
once, and is sent once every earlier access has completed; the full/empty forms send the operation that their bank performs. The bytes
change when the request reaches its home, not before. -/
def Sys2Proof.Claims.StoresPopAndSend : Prop :=
  ∀ (a : BitVec 4) (ss ws : BitVec 3) (z : BitVec 2) (sc : BitVec 2) (o : BitVec 12) (s s₁ s₂ s₃ : State) (va : VA) (x : Dword)
    (tgt : Target),
    s.unheld ws → s.addresses a o (2 ^ z.toNat) va s₁ → va.toNat % 2 ^ z.toNat = 0 → popSdq s₁ = .ok (x, s₂) →
    check va (2 ^ z.toNat) .write s₂ = .ok (tgt, s₃) → s₃.slotRoom ss →
    let data : VReg := BitVec.ofNat 512 (x.toNat % 2 ^ (8 * 2 ^ z.toNat))
    let req (op : ReqOp) := s₃.request op va (2 ^ z.toNat) data 0 false .none .plain (tgt.leaf s₃)
    let posted (op : ReqOp) (kind : PendKind) (release : Bool) : Host.Outcome State Fault Refusal :=
      .next (post (req op) release (s₃.joined ss kind false .none)).passed
    exec (.st a ss ws z o) s = posted .write .store false ∧
    (s.me.replay = [] ∨ s.me.accessesBefore s.position = false → exec (.strel a ss ws z sc o) s = posted .write .store true) ∧
    (s.me.replay = [] → s₃.me.replay = [] → s₃.me.hasPend s₃.nextId = false → s₃.me.accessesBefore s₃.position = true →
      exec (.strel a ss ws z sc o) s = .next ((s₃.joined ss .store false .none).onMe (fun y =>
        { y with deferred := y.deferred ++ [{ req := req .write, release := true }] })).passed) ∧
    (vaRegion va = 15 → exec (.stfe a ss ws z 0 o) s = posted .writeFull .store false ∧
      (s₂.feRoom → exec (.stfe a ss ws z 1 o) s = posted .writeWhenEmpty .fullEmpty false))

/-- R194, R196: STFE and VSTFE outside region 0xF raise the address fault (code 4) with the address, and nothing else has come about. -/
def Sys2Proof.Claims.FullEmptyOutsideScratchpads : Prop :=
  ∀ (a v : BitVec 4) (ss ws : BitVec 3) (z : BitVec 2) (q : BitVec 1) (o : BitVec 12) (p : BitVec 8) (s s₁ s₂ : State) (va : VA),
    s.unheld ws → vaRegion va ≠ 15 →
    let faults : Host.Outcome State Fault Refusal := .next (precise { code := 4, va := va } s)
    (∀ x, s.addresses a o (2 ^ z.toNat) va s₁ → va.toNat % 2 ^ z.toNat = 0 → popSdq s₁ = .ok (x, s₂) →
      exec (.stfe a ss ws z q o) s = faults) ∧
    (∀ x, s.addresses a p 64 va s₁ → va.toNat % 64 = 0 → readV v s₁ = .ok (x, s₂) → exec (.vstfe a ss ws v p) s = faults)

/-- R194, R195, R196: LDFE, LA, VLD, VST and VSTFE. A full/empty access outside region 0xF raises the address fault (code 4). LA and VLD
may be answered from a copy in the L1, as a load; a dead granule of their register raises its fault (0x0B) before anything is sent. -/
def Sys2Proof.Claims.FullEmptyAndWholeRegisterAccesses : Prop :=
  ∀ (a v : BitVec 4) (ss ws : BitVec 3) (z : BitVec 2) (q : BitVec 1) (o : BitVec 12) (p : BitVec 8) (s s₁ s₂ s₃ : State) (va : VA)
    (tgt : Target) (x : VReg), s.unheld ws →
    let load (n : Nat) (d : ReqDest) : Host.Outcome State Fault Refusal :=
      let base := s₂.joined ss .access false d
      let req := s₂.request .read va n 0 0 false d .plain (tgt.leaf s₂)
      let copy := if admitsL1 tgt va then cachedCopy base s₂.mine req else none
      let u := base.countedL1 (admitsL1 tgt va) copy.isSome
      match copy with
      | some c =>
        if lineBusy u s₂.cur.core s₂.cur.ctxNo (va.toNat / 128) then .next (post req false u).passed
        else .next (u.send (.loadReturn s₂.cur.core s₂.cur.ctxNo s₂.nextId (extend n false c))).passed
      | none => .next (post req false u).passed
    (s.addresses a o (2 ^ z.toNat) va s₁ → va.toNat % 2 ^ z.toNat = 0 → vaRegion va ≠ 15 →
      exec (.ldfe a ss ws z q o) s = .next (precise { code := 4, va := va } s)) ∧
    (s.addresses a o (2 ^ z.toNat) va s₁ → va.toNat % 2 ^ z.toNat = 0 → vaRegion va = 15 → s₁.feRoom →
      check va (2 ^ z.toNat) .read s₁ = .ok (tgt, s₂) → s₂.slotRoom ss → s₂.me.ldq.length < 16 →
      exec (.ldfe a ss ws z q o) s = .next (post (s₂.request (.readWhenFull (q == 1)) va (2 ^ z.toNat) 0 0 false .ldq .plain (tgt.leaf s₂))
        false ((s₂.joined ss .fullEmpty false .ldq).reserved s₂.nextId)).passed) ∧
    (s.addresses a p 16 va s₁ → va.toNat % 16 = 0 → check va 16 .read s₁ = .ok (tgt, s₂) →
      (s₂.destUsable (.addr v) → s₂.slotRoom ss → exec (.la a ss ws v p) s = load 16 (.addr v)) ∧
      (s₂.mine.granule s₂.me.area ((0x580 + 16 * v.toNat) / 64) = .dead →
        exec (.la a ss ws v p) s = .next (precise { code := 0x0B } s))) ∧
    (s.addresses a p 64 va s₁ → va.toNat % 64 = 0 → check va 64 .read s₁ = .ok (tgt, s₂) →
      (s₂.destUsable (.vec v) → s₂.slotRoom ss → exec (.vld a ss ws v p) s = load 64 (.vec v)) ∧
      (s₂.mine.granule s₂.me.area ((0x180 + 64 * v.toNat) / 64) = .dead →
        exec (.vld a ss ws v p) s = .next (precise { code := 0x0B } s))) ∧
    (s.addresses a p 64 va s₁ → va.toNat % 64 = 0 → readV v s₁ = .ok (x, s₂) → check va 64 .write s₂ = .ok (tgt, s₃) →
      s₃.slotRoom ss →
      let posted (op : ReqOp) : Host.Outcome State Fault Refusal :=
        .next (post (s₃.request op va 64 x 0 false .none .plain (tgt.leaf s₃)) false (s₃.joined ss .store false .none)).passed
      exec (.vst a ss ws v p) s = posted .write ∧ (vaRegion va = 15 → exec (.vstfe a ss ws v p) s = posted .writeFull))

/-- ST, STREL, STFE, LDFE, LA, VLD, VST and VSTFE send their requests. -/
def Obligations.StoresAndFullEmptySend : Prop :=
  Sys2Proof.Claims.StoresPopAndSend ∧ Sys2Proof.Claims.FullEmptyOutsideScratchpads ∧ Sys2Proof.Claims.FullEmptyAndWholeRegisterAccesses

/-- R197, R198, R71: an atomic pops its operands, drops its core's own copy of the line, reserves a load-data queue position for the
old value and is sent to the home; the size is 4 or 8 bytes and the order signed or natural as sz says. WAITA carries the expected
value and its timeout, and is an address fault in regions 0xE and 0xF. -/
def Sys2Proof.Claims.AtomicsPopAndSend : Prop :=
  ∀ (a : BitVec 4) (ss ws : BitVec 3) (z : BitVec 1) (z2 : BitVec 2) (o : BitVec 12) (s s₁ s₂ s₃ s₄ : State) (va : VA) (x y : Dword)
    (tgt : Target), s.unheld ws →
    let sent (u : State) (op : ReqOp) (n : Nat) (y : Dword) : Host.Outcome State Fault Refusal :=
      .next (post (u.request op va n (x.setWidth 512) y false .ldq .plain (tgt.leaf u)) false
        (((u.joined ss .atomic false .ldq).reserved u.nextId).modCore u.cur.core (fun v =>
          { v with l1 := v.l1.filter (fun l => !(l.line == va.toNat / 128 && l.asid == u.mine.asid)) }))).passed
    (s.addresses a o (if z = 0 then 4 else 8) va s₁ → va.toNat % (if z = 0 then 4 else 8) = 0 → popSdq s₁ = .ok (x, s₂) →
      check va (if z = 0 then 4 else 8) .atomic s₂ = .ok (tgt, s₃) → s₃.slotRoom ss → s₃.me.ldq.length < 16 →
      let one (op : AtOp) := sent s₃ (.atomic op) (if z = 0 then 4 else 8) 0
      exec (.atadd a ss ws z o) s = one .add ∧ exec (.atand a ss ws z o) s = one .and ∧ exec (.ator a ss ws z o) s = one .or ∧
      exec (.atxor a ss ws z o) s = one .xor ∧ exec (.atswp a ss ws z o) s = one .swp) ∧
    (s.addresses a o (if z2.getLsbD 0 then 8 else 4) va s₁ → va.toNat % (if z2.getLsbD 0 then 8 else 4) = 0 →
      popSdq s₁ = .ok (x, s₂) → check va (if z2.getLsbD 0 then 8 else 4) .atomic s₂ = .ok (tgt, s₃) → s₃.slotRoom ss →
      s₃.me.ldq.length < 16 →
      exec (.atmin a ss ws z2 o) s =
        sent s₃ (.atomic (if z2.getLsbD 1 then .minS else .minN)) (if z2.getLsbD 0 then 8 else 4) 0 ∧
      exec (.atmax a ss ws z2 o) s =
        sent s₃ (.atomic (if z2.getLsbD 1 then .maxS else .maxN)) (if z2.getLsbD 0 then 8 else 4) 0) ∧
    (s.addresses a o (if z = 0 then 4 else 8) va s₁ → va.toNat % (if z = 0 then 4 else 8) = 0 → popSdq s₁ = .ok (x, s₂) →
      popSdq s₂ = .ok (y, s₃) → check va (if z = 0 then 4 else 8) .atomic s₃ = .ok (tgt, s₄) → s₄.slotRoom ss →
      s₄.me.ldq.length < 16 → exec (.atcas a ss ws z o) s = sent s₄ (.atomic .cas) (if z = 0 then 4 else 8) y) ∧
    (s.addresses a o (if z = 0 then 4 else 8) va s₁ → va.toNat % (if z = 0 then 4 else 8) = 0 → popSdq s₁ = .ok (x, s₂) →
      vaRegion va < 14 → check va (if z = 0 then 4 else 8) .read s₂ = .ok (tgt, s₃) → s₃.slotRoom ss → s₃.me.ldq.length < 16 →
      exec (.waita a ss ws z o) s = .next (post (s₃.request .waita va (if z = 0 then 4 else 8) (x.setWidth 512)
          (match s₂.hinted with
           | .mod _ tmo => tmo.setWidth 64
           | _ => 0) false .ldq .plain (tgt.leaf s₃)) false ((s₃.joined ss .access false .ldq).reserved s₃.nextId)).passed) ∧
    (s.addresses a o (if z = 0 then 4 else 8) va s₁ → va.toNat % (if z = 0 then 4 else 8) = 0 → popSdq s₁ = .ok (x, s₂) →
      14 ≤ vaRegion va → exec (.waita a ss ws z o) s = .next (precise { code := 4, va := va } s))

/-- R92, R201, R323: PREF, CFLUSH, CINV, CPIN and CUNPIN: in regions 0xE and 0xF they change nothing, but at user privilege one whose
line touches the area of a live context faults (0x0A; that R92 stands before R201 is log 89); elsewhere the operation is sent to the
line's home, where only PREF and CPIN translate; a fault cancels PREF silently, and with nt it leaves the page's translation with
the slice (R184). -/
def Sys2Proof.Claims.LineOperations : Prop :=
  ∀ (a : BitVec 4) (ss ws : BitVec 3) (o : BitVec 12) (s s₁ : State) (va : VA),
    s.unheld ws → s.addresses a o 128 va s₁ →
    let line : VA := BitVec.ofNat 80 (va.toNat / 128 * 128)
    let words := [exec (.cflush a ss ws o) s, exec (.cinv a ss ws o) s, exec (.cpin a ss ws o) s, exec (.cunpin a ss ws o) s,
      exec (.pref a ss ws o) s]
    let checked := checkAccess s₁ s₁.cur.core s₁.cur.ctxNo line 128 .read
    let sent (u : State) (op : ReqOp) (leaf : Dword) : Host.Outcome State Fault Refusal :=
      .next (post { u.request op line 128 0 0 false .none .plain leaf with nt := false } false (u.joined ss .access false .none)).passed
    (14 ≤ vaRegion va → (∀ e, checked = .error e → e ≠ 0x0A) → s₁.slotRoom ss → ∀ r ∈ words, r = .next s₁.passed) ∧
    (14 ≤ vaRegion va → checked = .error 0x0A → ∀ r ∈ words, r = .next (precise { code := 0x0A, va := va } s)) ∧
    (vaRegion va < 14 → s₁.slotRoom ss → exec (.cflush a ss ws o) s = sent s₁ .cflush 0 ∧ exec (.cinv a ss ws o) s = sent s₁ .cinv 0 ∧
      exec (.cunpin a ss ws o) s = sent s₁ .cunpin 0) ∧
    (∀ tgt s₂, vaRegion va < 14 → check line 128 .read s₁ = .ok (tgt, s₂) → s₂.slotRoom ss →
      exec (.cpin a ss ws o) s = sent s₂ .cpin (tgt.leaf s₂)) ∧
    (∀ e, vaRegion va < 14 → s₁.slotRoom ss → checked = .error e → exec (.pref a ss ws o) s = .next s₁.passed) ∧
    (∀ tgt s₂, vaRegion va < 14 → s₁.slotRoom ss → checked = .ok (tgt, s₂) →
      exec (.pref a ss ws o) s = .next ({ post (s₁.request .pref line 128 0 0 false .none .plain (tgt.leaf s₁)) false
          (loadTranslation s₁.hintedNt s₁.mine.asid line (!s₁.me.dev) s₂) with
        nextId := s₁.nextId + 1 } : State).passed)

/-- R200, R325: FENCE at every scope passes once every earlier access has completed and no slot is pending; the lowest errored slot
traps with its cause. -/
def Sys2Proof.Claims.FencesWait : Prop :=
  ∀ (ss : BitVec 3) (s : State), s.unheld 0 →
    let fences := [exec (.fenceCore ss) s, exec (.fenceTile ss) s, exec (.fenceDie ss) s, exec (.fenceModule ss) s,
      exec (.fenceDomain ss) s]
    (s.me.accessesBefore s.position = false → s.me.pend.any (fun p => p.ss != 0 && p.pos < s.position) = false →
      (∀ n, 1 ≤ n → n ≤ 7 → s.me.slotErr n = false) → ∀ r ∈ fences, r = .next s.passed) ∧
    (s.me.accessesBefore s.position = true → ∀ r ∈ fences, r = .next (stalled .event s)) ∧
    (∀ n, s.me.accessesBefore s.position = false → s.me.pend.any (fun p => p.ss != 0 && p.pos < s.position) = false →
      1 ≤ n → n ≤ 7 → s.me.slotErr n = true → (∀ m, 1 ≤ m → m < n → s.me.slotErr m = false) →
      ∀ r ∈ fences, r = .next (precise { code := causeTrap (s.me.slotCause n) }
        (if awaitsOutcome s then s else s.onMe (fun x => x.clearErr n))))

/-- PREF, CFLUSH, CINV, CPIN, CUNPIN and the five FENCE scopes. -/
def Obligations.LineOperationsAndFences : Prop :=
  Sys2Proof.Claims.LineOperations ∧ Sys2Proof.Claims.FencesWait

/-- R154, R155, R180, R194: a request that reaches a scratchpad or an Ashlar bank whose bank is on is performed there, where none waits
before it: a read answers with the bytes, extended as the load says; a write changes exactly its bytes and is acknowledged; an atomic
does both, with the old value; an LDFE of an empty granule waits there, and an STFE leaves its granule full. -/
def Sys2Proof.Claims.RequestsAtScratchpadsAndBanks : Prop :=
  ∀ (s : State) (r : Req),
    s.ev = .homeRequest r →
    (∀ c n, reqTarget s r = .ok (.sp c n, s) → (s.core c).power (reqBank r) = .on → (s.core c).feWait = [] →
      let off := reqOff r
      (r.op = .read → exec .homeRequest s =
        .next (s.send (.loadReturn r.core r.ctx r.id (extend r.size r.sx (s.load (spPlace c off) r.size))))) ∧
      (r.op = .write → ∃ t, exec .homeRequest s = .next t ∧ t.agenda = s.agenda ++ [.storeAck r.core r.ctx r.id] ∧
        t.load (spPlace c off) r.size = r.x.toNat % 256 ^ r.size ∧
        ∀ p, p < spPlace c off ∨ spPlace c off + r.size ≤ p → memByte t.mem p = memByte s.mem p) ∧
      (∀ op, r.op = .atomic op → ∃ t, exec .homeRequest s = .next t ∧
        t.agenda = s.agenda ++ [.loadReturn r.core r.ctx r.id (atomicResult r op (s.load (spPlace c off) r.size)).2] ∧
        (∀ p, p < spPlace c off ∨ spPlace c off + r.size ≤ p → memByte t.mem p = memByte s.mem p) ∧
        t.load (spPlace c off) r.size =
          ((atomicResult r op (s.load (spPlace c off) r.size)).1.getD (s.load (spPlace c off) r.size)) % 256 ^ r.size) ∧
      (∀ clear, r.op = .readWhenFull clear → isFull s c (off / 16) = false →
        exec .homeRequest s = .next (s.modCore c (fun v => { v with feWait := v.feWait ++ [r] }))) ∧
      (r.op = .writeFull → ∃ t, exec .homeRequest s = .next t ∧ t.agenda = s.agenda ++ [.storeAck r.core r.ctx r.id] ∧
        t.load (spPlace c off) r.size = r.x.toNat % 256 ^ r.size ∧ isFull t c (off / 16) = true)) ∧
    (∀ b off, reqTarget s r = .ok (.ash b off, s) →
      (r.op = .read → exec .homeRequest s =
        .next (s.send (.loadReturn r.core r.ctx r.id (extend r.size r.sx (s.load (ashPlace b off) r.size))))) ∧
      (r.op = .write → exec .homeRequest s =
        .next ((s.store (ashPlace b off) r.size r.x.toNat).send (.storeAck r.core r.ctx r.id))))

/-- R197, Table 8-4: the new value of each atomic operation on 32 or 64 bits. -/
def Sys2Proof.Claims.AtomicOperations : Prop :=
  ∀ w, w = 32 ∨ w = 64 → ∀ old x nv : BitVec w,
    atomicOp .add w old.toNat x.toNat nv.toNat = some (old + x).toNat ∧
    atomicOp .and w old.toNat x.toNat nv.toNat = some (old &&& x).toNat ∧
    atomicOp .or w old.toNat x.toNat nv.toNat = some (old ||| x).toNat ∧
    atomicOp .xor w old.toNat x.toNat nv.toNat = some (old ^^^ x).toNat ∧
    atomicOp .swp w old.toNat x.toNat nv.toNat = some x.toNat ∧
    atomicOp .minS w old.toNat x.toNat nv.toNat = some (if old.toInt ≤ x.toInt then old else x).toNat ∧
    atomicOp .maxS w old.toNat x.toNat nv.toNat = some (if old.toInt ≤ x.toInt then x else old).toNat ∧
    atomicOp .minN w old.toNat x.toNat nv.toNat = some (if old.toNat ≤ x.toNat then old else x).toNat ∧
    atomicOp .maxN w old.toNat x.toNat nv.toNat = some (if old.toNat ≤ x.toNat then x else old).toNat ∧
    atomicOp .cas w old.toNat x.toNat nv.toNat = (if old = x then some nv.toNat else none)

/-- Atomics and WAITA send their operation; the new value of each atomic operation. -/
def Obligations.Atomics : Prop :=
  Sys2Proof.Claims.AtomicsPopAndSend ∧ Sys2Proof.Claims.AtomicOperations

/-- R164, R165: a request whose line its LLC slice does not hold makes a fill due, in a miss-status register of its own, and its
completion waits for the fill; a second one joins that register's merge list, and is performed and acknowledged there if it is a store
of a sector that the fill is to bring; the fill serves the list and frees the register. -/
def Sys2Proof.Claims.MissesAndFills : Prop :=
  (∀ (s u : State) (r : Req) (l : Loc), s.ev = .homeRequest r → reqTarget s r = .ok (.hbm l, u) →
    (u.slice l.slice).ingress = [] → (u.slice l.slice).held = [] → replicaServes r l u = false → reqHit r l u = false →
    ((u.slice l.slice).mshrs = [] → ∃ t, exec .homeRequest s = .next t ∧
      (t.slice l.slice).mshrs = [{ tag := l.tag, pa := l.pa, perm := 0, merge := [r] }] ∧
      t.agenda = u.agenda ++ [.llcFill l.slice l.tag] ∧ t.mem = u.mem) ∧
    (∀ m, (u.slice l.slice).mshrs = [m] → sameLine m.tag l.tag = true → m.merge.length < 33 →
      (r.op ≠ .write → ∃ t, exec .homeRequest s = .next t ∧ (t.slice l.slice).mshrs = [{ m with merge := m.merge ++ [r] }] ∧
        t.agenda = u.agenda ∧ t.mem = u.mem) ∧
      (r.op = .write → findLine u l.slice l.tag false = none → exec .homeRequest s = .next ((l1Merge r.core l r.size r.x.toNat
        (beforeWrite l (some r.core) (u.modSlice l.slice (fun v => { v with
          mshrs := [{ m with merge := m.merge ++ [r], acked := m.acked ++ [r.id] }] })))).send (.storeAck r.core r.ctx r.id))))) ∧
  (∀ (s u : State) (sl : Nat) (tag : LineTag) (m : Mshr) (r : Req) (l : Loc), s.ev = .llcFill sl tag → (s.slice sl).mshrs = [m] →
    sameLine m.tag tag = true → m.merge = [r] → m.acked = [] → reqTarget (s.modSlice sl (fun v => { v with mshrs := [] })) r = .ok (.hbm l, u) →
    ((performHbm r l u).slice sl).ingress = [] → ((performHbm r l u).slice sl).held = [] →
    exec .llcFill s = .next ((performHbm r l u).modSlice sl (fun v => { v with ingress := [], held := [] })))

/-- R180, R181, R191, R228: a value that returns fills the position that its access reserved, and the access is complete; an
acknowledgement completes its store; no other outstanding instruction, position or byte changes. A deferred STREL is sent when the last
access before it has completed, unless a WAITA with a byte in common is still parked. -/
def Sys2Proof.Claims.ReturnsComplete : Prop :=
  ∀ (s : State) (c k id : Nat) (p : Pend), (s.ctx c k).pend.find? (fun q => q.id == id) = some p →
    (∀ v, s.ev = .loadReturn c k id v → p.dest = .ldq → (s.ctx c k).deferred = [] → ∃ t, exec .loadReturn s = .next t ∧
      (t.ctx c k).pend = (s.ctx c k).pend.filter (fun q => q.id != id) ∧
      (t.ctx c k).ldq = (s.ctx c k).ldq.map (fun i => if i.id == p.id then { i with val := some (v.setWidth 64) } else i) ∧
      (t.ctx c k).err = (s.ctx c k).err ∧ t.mem = s.mem ∧ (∀ c', c' ≠ c → t.core c' = s.core c')) ∧
    (s.ev = .storeAck c k id → (s.ctx c k).deferred = [] → exec .storeAck s = .next (s.modCtx c k (fun x =>
      { x with pend := x.pend.filter (fun q => q.id != id) }))) ∧
    (∀ h, s.ev = .storeAck c k id → (s.ctx c k).deferred = [h] → (s.ctx c k).replay = [] → waitaAhead s h.req = false →
      (let x : Ctx := { s.ctx c k with pend := (s.ctx c k).pend.filter (fun q => q.id != id) }
       x.accessesBefore (x.posOf h.req.id) = false) →
      exec .storeAck s = .next ((s.modCtx c k (fun x => { x with pend := x.pend.filter (fun q => q.id != id), deferred := [] })).send
        (.homeRequest { h.req with core := c })))

/-- HOME_REQUEST, LLC_FILL, LOAD_RETURN and STORE_ACK. -/
def Obligations.HomesPerformRequests : Prop :=
  Sys2Proof.Claims.RequestsAtScratchpadsAndBanks ∧ Sys2Proof.Claims.MissesAndFills ∧ Sys2Proof.Claims.ReturnsComplete

/-- R87, R156, R170, R172, R177, R199, R330, R368: the other events of the memory system come about as their rules say when they are due. An
uncorrectable error is an input of LLC_FILL at a place of the stores: a sector of HBM is poisoned, a unit of a scratchpad holds the error,
and one in the state area of a live context, from 0x680 on, fails the core (the model's choices, logs 95 and 97); an error of one bit is
corrected and counted. -/
def Obligations.MemoryEvents : Prop :=
  (∀ (s : State) (c k g : Nat), s.ev = .granuleFill c k g → (s.ctx c k).live = true → g < 26 →
    (s.core c).granule (s.ctx c k).area g = .absent → exec .granuleFill s = .next (fillGranule c k g s)) ∧
  (∀ (s : State) (c b : Nat), s.ev = .bankWake c b → b < 16 → (s.core c).power b = .retention →
    exec .bankWake s = .next (s.modCore c (fun v => { v with bank := tset v.bank b .on }))) ∧
  (∀ (s t : State) (asid : BitVec 12) (va : VA) (need : AccNeed) (user : Bool) (e : Nat), s.ev = .pageWalk asid va need user →
    vaRegion va < 14 → translate s asid va need user = .ok (t, e) → exec .pageWalk s = .next t) ∧
  (∀ (s : State) (d : BitVec 2), s.ev = .monitorWindow d → exec .monitorWindow s = .next (s.modDie d.toNat (fun v =>
    { v with monitor := v.monitor.map (fun m => { m with reads := 0, writes := 0 }) }))) ∧
  (∀ (s u : State) (sl id : Nat) (w : Waiter) (l : Loc), s.ev = .waitaTimeout sl id → (s.slice sl).waiters = [w] →
    w.req.id = id → w.req.op = .waita → w.req.y ≠ 0 →
    reqHome (s.modSlice sl (fun v => { v with waiters := [] })) w.req .read = .ok (.hbm l, u) →
    exec .waitaTimeout s = .next ((settle l u).send
      (.loadReturn w.req.core w.req.ctx id (BitVec.ofNat 512 (locNow l w.req.size (settle l u)))))) ∧
  (∀ (s : State) (pa : Nat), s.ev = .sectorError pa → pa < 2 ^ 58 → s.slices = [] → ∃ t, exec .llcFill s = .next t ∧
    sectorPoison t pa = true ∧ t.mem = s.mem ∧ t.agenda = s.agenda) ∧
  (∀ (s : State) (c off : Nat), s.ev = .sectorError (spPlace c off) → c < 4096 → off < 2 ^ 18 →
    ((s.core c).areaLive (off / 2048) = false ∨ off % 2048 < 0x680 → ∃ t, exec .llcFill s = .next t ∧
      t = { s with flaws := insertNat (spPlace c off / 16) s.flaws } ∧ ∀ n, 0 < n → t.flawed (spPlace c off) n = true) ∧
    ((s.core c).areaLive (off / 2048) = true → 0x680 ≤ off % 2048 → exec .llcFill s = .next (s.send (.coreFailure c true)))) ∧
  (∀ (s : State) (d : BitVec 2), s.ev = .correctedError d →
    exec .llcFill s = .next (s.modDie d.toNat (fun v => { v with corrected := v.corrected + 1 }))) ∧
  (∀ (s : State) (c k : Nat) (w : Waiting), s.ev = .sigwaitRepoll c k → (s.ctx c k).wait = some w → w.val = none →
    (s.ctx c k).hasPend w.id = true → s.agenda = [] → s.slices = [] → (s.ctx c k).deferred = [] →
    exec .sigwaitRepoll s = .next (s.modCtx c k (fun x => { x with pend := x.pend.filter (fun p => p.id != w.id), wait := none })))

/-! ## Traps and returns (R364 to R367, R376, R380, R381) -/

/-- R364, R366, R376: taking a trap writes the trap record (program counters, code, stream, synchrony, privilege, replays, number,
address), sets device privilege, saves the code and the delay-slot record, and starts both streams at tb + 16 × code; the context
leaves the places where it waited for a unit or for its followers; no other byte or register changes. A trap of a word in a delay slot waits for the branch's outcome and records it. -/
def Obligations.TakingATrap : Prop :=
  (∀ (s : State) (c k : Nat) (i : TrapInfo) (es : Bool) (slot : Option (Bool × Dword)), i.code < 256 →
    (s.core c).power (areaBank (s.ctx c k).area) = .on →
    let x := s.ctx c k
    let t := takeTrap c k i es slot s
    let pcs := i.pcs.getD (x.acc.savePc, x.exe.savePc)
    let p := spPlace c (x.area * 2048 + 0x7E0)
    let r := t.load p 32
    nbits r 0 64 = pcs.1.toNat ∧ nbits r 64 64 = pcs.2.toNat ∧ nbits r 128 8 = i.code ∧ (nbits r 136 1 == 1) = es ∧
    (nbits r 137 1 == 1) = i.asy ∧ (nbits r 138 1 == 1) = x.dev ∧ (nbits r 139 1 == 1) = !x.replay.isEmpty ∧
    nbits r 144 8 = i.num.toNat ∧ nbits r 176 16 = i.va.toNat / 2 ^ 64 ∧ nbits r 192 64 = i.va.toNat % 2 ^ 64 ∧
    (∀ q, q < p ∨ p + 32 ≤ q → memByte t.mem q = memByte s.mem q) ∧
    (∀ c', c' ≠ c → t.core c' = s.core c') ∧ (∀ k', k' ≠ k → t.ctx c k' = s.ctx c k') ∧
    t.core c = { s.core c with
      ctxs := (t.core c).ctxs, ownWait := (s.core c).ownWait.filter (· != k), scaleWait := (s.core c).scaleWait.filter (· != k) } ∧
    t.ctx c k = { x with
      dev := true, tc := BitVec.ofNat 8 i.code, wait := none, within := false, retiring := false, loose := false, ahead := []
      saved := (t.ctx c k).saved
      ds := match slot with
        | some (tk, tgt) => BitVec.ofNat 64 (1 + (if tk then 2 else 0) + tgt.toNat / 4 * 4)
        | none => x.ds
      acc := { pc := x.tb + BitVec.ofNat 64 (16 * i.code), pos := max x.acc.pos x.exe.pos + 1 }
      exe := { pc := x.tb + BitVec.ofNat 64 (16 * i.code), pos := max x.acc.pos x.exe.pos + 1 } }) ∧
  (∀ (s : State) (i : TrapInfo),
    let c := s.cur.core
    let k := s.cur.ctxNo
    let es := decide (s.cur.stream = .exe) && !i.both
    (s.me.slotOf s.cur.stream = none → precise i s = takeTrap c k i es none (detachForTrap c k s)) ∧
    (∀ b, s.me.slotOf s.cur.stream = some b → s.me.outcome s.cur.stream b = none →
      precise i s = s.onMe (fun x => x.setStream s.cur.stream { x.stream s.cur.stream with blk := true })) ∧
    (∀ b tk tgt, s.me.slotOf s.cur.stream = some b → s.me.outcome s.cur.stream b = some (tk, tgt) →
      precise i s = takeTrap c k i es (some (tk, if tk then tgt else b.addr + 8)) (detachForTrap c k s)))

/-- R380, R376: TRAP and SVC are legal at either privilege; each completes and takes a precise trap in both streams' name, with code
0x20 or 0x21 and its number. The saved PC of a stream is the word after, or, in a delay slot, where the branch takes that stream; a
stream whose branch has no outcome yet waits. The encodings are the manual's. -/
def Obligations.TrapAndSvc : Prop :=
  decodeWord 0xF4000005 = some (.trap 5) ∧ decodeWord 0xF4000211 = some (.svc 17) ∧
  ∀ (s : State) (n : BitVec 8),
    let u := s.onMe (fun x => x.retireBoth)
    let after := (afterSlot s.cur.core s.cur.ctxNo .acc u).bind (afterSlot s.cur.core s.cur.ctxNo .exe)
    (after = none → exec (.trap n) s = .next (stalled .event s) ∧ exec (.svc n) s = .next (stalled .event s)) ∧
    (∀ v, after = some v →
      exec (.trap n) s = .next (precise { code := 0x20, num := n, both := true } (if awaitsOutcome s then s else v)) ∧
      exec (.svc n) s = .next (precise { code := 0x21, num := n, both := true } (if awaitsOutcome s then s else v)) ∧
      (s.me.acc.ctl = .seq → v.me.acc.savePc = s.me.acc.pc + 4) ∧ (s.me.exe.ctl = .seq → v.me.exe.savePc = s.me.exe.pc + 4) ∧
      (∀ b tk tgt, s.me.acc.ctl = .slot b → s.me.outcome .acc b = some (tk, tgt) →
        v.me.acc.savePc = if tk then tgt else b.addr + 8) ∧
      (∀ b tk tgt, s.me.exe.ctl = .slot b → s.me.outcome .exe b = some (tk, tgt) →
        v.me.exe.savePc = if tk then tgt else b.addr + 8)) ∧
    (s.me.acc.ctl = .seq → s.me.exe.ctl = .seq → after = some u)

/-- R382: WRPRIV is device only; a source value with a bit other than bit 0 raises the illegal-instruction trap; the word waits until
every earlier instruction has completed, and then sets the privilege, at which every later word runs. The wait leaves out ports' tokens
and withdrawn requests: logs 43 and 44. -/
def Obligations.PrivilegeIsWritten : Prop :=
  decodeWord 0xF400C300 = some (.wrpriv 3) ∧
  ∀ (s : State) (a : BitVec 6),
    (s.me.dev = false → exec (.wrpriv a) s = .next (precise { code := 2 } s)) ∧
    (s.me.dev = true →
      let early := s.me.pend.any (fun p => p.pos < s.position && p.kind != .token && !s.me.withdrawn p.id)
      (early = true → exec (.wrpriv a) s = .next (stalled .event s)) ∧
      (∀ v s₁, early = false → readS a s = .ok (v, s₁) →
        (v.toNat / 2 ≠ 0 → exec (.wrpriv a) s = .next (precise { code := 1 } s)) ∧
        (v.toNat / 2 = 0 → exec (.wrpriv a) s = .next (s₁.onMe (fun x => { x with dev := v.getLsbD 0 })).passedBoth)))

/-- R381: RFT resumes both streams at the recorded program counters with the recorded privilege: a trap at a boundary followed by RFT
brings the context back where it was. That the streams keep the distance between their positions in the text is log 12, not R381. -/
def Obligations.TrapsReturn : Prop :=
  (∀ (s : State) (c k : Nat) (st : Stream) (i : TrapInfo) (es : Bool), s.cur = .ctx c k st → i.code < 256 → i.pcs = none →
    (s.core c).power (areaBank s.me.area) = .on → s.me.pend = [] → s.me.replay = [] → s.me.ds.getLsbD 0 = false →
    s.me.acc.ctl = .seq → s.me.exe.ctl = .seq → s.me.acc.hint = .none → s.me.exe.hint = .none → s.me.deferred = [] →
    s.me.acc.pc.toNat % 4 = 0 → s.me.exe.pc.toNat % 4 = 0 →
    ∃ t, exec .rft (takeTrap c k i es none s) = .next t ∧ t.me.acc.pc = s.me.acc.pc ∧ t.me.exe.pc = s.me.exe.pc ∧
      t.me.dev = s.me.dev ∧ t.me.acc.ctl = .seq ∧ t.me.exe.ctl = .seq ∧ t.me.ds = 0 ∧
      (t.me.acc.pos : Int) - t.me.exe.pos = (s.me.acc.pos : Int) - s.me.exe.pos ∧ t.me.tb = s.me.tb ∧ t.me.o = s.me.o ∧ t.me.fsn = s.me.fsn)

/-- R75, R79: a device-only word at user privilege raises the privileged-instruction trap (code 2); a word of the control context in
a helper raises the illegal-instruction trap (code 1); either has no other effect. -/
def Obligations.PrivilegedAndControlOnlyWords : Prop :=
  (∀ (s : State) (a d n : BitVec 6) (m : BitVec 4), s.me.dev = false →
    ∀ i ∈ [Instr.rft, .wrpriv a, .haltx, .xinvPage m a, .xinvAsid a, .xinvAll, .xinvFrame a n, .keysetRand d a, .keysetLoad d a m,
        .keysetRetire d a, .sparemap d a, .mcap d a], exec i s = .next (precise { code := 2 } s)) ∧
  (∀ (s s₁ : State) (a : BitVec 6) (v : Dword), s.me.dev = false → s.me.pend = [] → readS a s = .ok (v, s₁) → s₁.me.dev = false →
    exec (.wrsw a 3) s = .next (precise { code := 2 } s) ∧ exec (.wrsw a 6) s = .next (precise { code := 2 } s)) ∧
  (∀ (s : State) (a d m : BitVec 6) (r : BitVec 8) (t : BitVec 20), s.cur.ctxNo ≠ 0 →
    ∀ i ∈ [Instr.follow r, .leave, .join d a, .rets m a, .amsg a, .bar, .barGroup, .tndone d, .start d t],
      exec i s = .next (precise { code := 1 } s))

/-! ## Contexts (R90, R91, R99, R342 to R348, R351 to R353, R359, R378) -/

/-- R99, R101, R346, Table 5-5: RDSW gives each state word; the other indices are illegal. The depth of the return stack is that of the
last word both streams have passed: that of the stream behind. -/
def Sys2Proof.Claims.StateWordsAreRead : Prop :=
  ∀ (s t : State) (d i : BitVec 6),
    (s.me.pend.any (fun p => p.pos < s.position && p.kind == .macroOp) = false) →
    let gives (v : Dword) : Prop := writeS d v s = .ok ((), t) → exec (.rdsw d i) s = .next t.passedBoth
    (s.me.acc.pos < s.me.exe.pos → s.me.rsd = s.me.rsA.length) ∧ (s.me.exe.pos < s.me.acc.pos → s.me.rsd = s.me.rsE.length) ∧
    (s.me.rsA.length = s.me.rsE.length → s.me.rsd = s.me.rsA.length) ∧
    (i = 0 → gives s.me.wp) ∧ (i = 1 ∨ i = 2 → gives s.address) ∧ (i = 3 → gives s.me.tb) ∧ (i = 4 → gives s.me.uh) ∧
    (i = 5 → gives (BitVec.ofNat 64 (s.cur.ctxNo + s.me.tc.toNat * 2 ^ 8 + s.me.rsd * 2 ^ 16))) ∧
    (i = 6 → gives s.me.ds) ∧ (i = 7 → gives s.me.gid) ∧ (i = 8 → gives s.me.rank) ∧ (i = 9 → gives s.me.sbs) ∧
    (i = 10 → gives s.me.fsn) ∧
    (i = 11 → gives (BitVec.ofNat 64 (s.me.chi.toNat + (if s.me.dev then 2 ^ 16 else 0) + (if s.me.ue then 2 ^ 17 else 0) +
      (if s.me.fol then 2 ^ 18 else 0) + (if s.me.ldr then 2 ^ 19 else 0)))) ∧
    (12 ≤ i.toNat → exec (.rdsw d i) s = .next (precise { code := 1 } s))

/-- R91, R99, R100, R346: WRSW writes wp, uh, fsn and msr (ue, and chi at device privilege), and tb and ds at device privilege, once
every earlier instruction has completed; a wp that is not a free area raises the workspace-guard fault, a value with a reserved bit
or a word that is not writable the illegal-instruction trap. -/
def Sys2Proof.Claims.StateWordsAreWritten : Prop :=
  ∀ (s s₁ : State) (a : BitVec 6) (v : Dword), s.me.pend = [] → readS a s = .ok (v, s₁) →
    let illegal : Host.Outcome State Fault Refusal := .next (precise { code := 1 } s)
    (areaTaken s₁ s.cur.core s.cur.ctxNo v = false →
      exec (.wrsw a 0) s = .next (switchArea s.cur.core s.cur.ctxNo v s₁).passedBoth) ∧
    (areaTaken s₁ s.cur.core s.cur.ctxNo v = true → exec (.wrsw a 0) s = .next (precise { code := 0x0A } s)) ∧
    (s₁.me.dev = true → v.toNat % 256 = 0 → exec (.wrsw a 3) s = .next (s₁.onMe (fun x => { x with tb := v })).passedBoth) ∧
    (s₁.me.dev = true → v.toNat % 256 ≠ 0 → exec (.wrsw a 3) s = illegal) ∧
    (v.toNat % 4 = 0 → exec (.wrsw a 4) s = .next (s₁.onMe (fun x => { x with uh := v })).passedBoth) ∧
    (v.toNat % 4 ≠ 0 → exec (.wrsw a 4) s = illegal) ∧
    (s₁.me.dev = true → exec (.wrsw a 6) s = .next (s₁.onMe (fun x => { x with ds := v })).passedBoth) ∧
    (v.toNat < 2 ^ 7 → exec (.wrsw a 10) s = .next (s₁.onMe (fun x => { x with fsn := v })).passedBoth) ∧
    (2 ^ 7 ≤ v.toNat → exec (.wrsw a 10) s = illegal) ∧
    (v.toNat < 2 ^ 20 → nbits v.toNat 16 1 = nbits s.me.msr.toNat 16 1 → nbits v.toNat 18 2 = nbits s.me.msr.toNat 18 2 →
      (v.setWidth 16 = s.me.chi ∨ s₁.me.dev = true) →
      exec (.wrsw a 11) s = .next (s₁.onMe (fun x => { x with chi := v.setWidth 16, ue := v.getLsbD 17 })).passedBoth) ∧
    (v.toNat < 2 ^ 20 → (nbits v.toNat 16 1 ≠ nbits s.me.msr.toNat 16 1 ∨ nbits v.toNat 18 2 ≠ nbits s.me.msr.toNat 18 2) →
      exec (.wrsw a 11) s = illegal) ∧
    (∀ i : BitVec 6, i ∈ [1, 2, 5, 7, 8, 9] ∨ 12 ≤ i.toNat → exec (.wrsw a i) s = illegal)

/-- RDSW and WRSW of every state word. -/
def Obligations.StateWords : Prop :=
  Sys2Proof.Claims.StateWordsAreRead ∧ Sys2Proof.Claims.StateWordsAreWritten

/-- R90, R342 to R344, R351 to R353, R359: START, JOIN, END, RETS, BAR, BAR.GROUP and TNDONE. A RETS that waits has begun to retire. -/
def Obligations.ContextsStartAndEnd : Prop :=
  (∀ (s s₁ t : State) (c h : Nat) (st : Stream) (d : BitVec 6) (e : BitVec 20) (a0 : VA), s.cur = .ctx c 0 st → (s.core c).hlp ≠ 0 →
    s.me.accessesBefore s.position = false →
    (freeHelper (s.core c) = none → exec (.start d e) s = .next (stalled .event s)) ∧
    (freeHelper (s.core c) = some h → readA 0 s = .ok (a0, s₁) →
      let pc := s.address + BitVec.ofInt 64 (4 * e.toInt)
      let u := startCtx c h (tget (s.core c).areas h 0) a0
        (helperCtx s.me s.me.chi s.me.ue pc ((List.range 4).map (fun i => tget s.me.o i 0))) s₁
      (u.ctx c h).live = true ∧ (u.ctx c h).acc.pc = pc ∧ (u.ctx c h).exe.pc = pc ∧ (u.ctx c h).dev = false ∧
        (u.ctx c h).gid = s.me.gid ∧ (u.ctx c h).tb = s.me.tb ∧ (∃ e ∈ u.ring, e.1 = c ∧ e.2.1 = h) ∧
        (writeS d (BitVec.ofNat 64 h) u = .ok ((), t) → exec (.start d e) s = .next t.passedBoth))) ∧
  (∀ (s s₁ t : State) (c : Nat) (st : Stream) (d a : BitVec 6) (n : Dword), s.cur = .ctx c 0 st → readS a s = .ok (n, s₁) →
    1 ≤ n.toNat → n.toNat ≤ 10 →
    ((tget s₁.mine.ctxs n.toNat {}).live = true → exec (.join d a) s = .next (stalled .event s)) ∧
    ((tget s₁.mine.ctxs n.toNat {}).live = false → writeS d (tget s₁.mine.exits n.toNat 0) s₁ = .ok ((), t) →
      exec (.join d a) s = .next t.passedBoth)) ∧
  (∀ (s s₁ : State) (c k : Nat) (st : Stream) (a : BitVec 6) (v : Dword), s.cur = .ctx c k st → ¬ s.standsInSlot → s.me.pend = [] →
    readS a s = .ok (v, s₁) →
    (k ≠ 0 → exec (.endc a) s = .next (endHelper c k v s₁) ∧ tget ((endHelper c k v s₁).core c).exits k 0 = v ∧
      ((endHelper c k v s₁).ctx c k).live = false) ∧
    (k = 0 → (s.core c).ctxs.any (fun e => e.1 != 0 && e.2.live) = false →
      exec (.endc a) s = .next (retireCore c .byEnd s₁) ∧ ((retireCore c .byEnd s₁).core c).retired = .byEnd ∧
      (∀ (m : BitVec 6) (w : Dword) (s₂ : State), readS m s₁ = .ok (w, s₂) →
        exec (.rets m a) s = .next (retireCore c (.byRets v w) s₂) ∧ ((retireCore c (.byRets v w) s₂).core c).retired = .byRets v w))) ∧
  (∀ (s : State) (c : Nat) (st : Stream) (m a : BitVec 6), s.cur = .ctx c 0 st → ¬ s.standsInSlot →
    s.me.pend.any (fun p => !sentStore s.me p) = true →
    exec (.rets m a) s = .next (stalled .event (s.onMe (fun x => { x with retiring := true })))) ∧
  (∀ (s : State) (c n : Nat) (st : Stream) (i : Instr), s.cur = .ctx c 0 st → s.me.accessesBefore s.position = false →
    (n = 1 ∧ i = .bar) ∨ (n = 2 ∧ i = .barGroup) →
    let u := s.modCtx c 0 (fun x => { x with atBar := n })
    (s.me.atBar = n + 2 → exec i s = .next (s.onMe (fun x => { x with atBar := 0 })).passedBoth) ∧
    (s.me.atBar ≠ n + 2 → barComplete u c n = true →
      exec i s = .next ((barRelease c n u).onMe (fun x => { x with atBar := 0 })).passedBoth) ∧
    (s.me.atBar ≠ n + 2 → barComplete u c n = false → exec i s = .next (stalled .event u))) ∧
  (∀ (s t : State) (c : Nat) (st : Stream) (d : BitVec 6) (g : Gang), s.cur = .ctx c 0 st → s.me.accessesBefore s.position = false →
    gangOn s c = some g →
    (g.launch.node ≠ none → (s.core c).tnDone = false →
      writeS d 0 (nodeCheck c (s.modCore c (fun v => { v with tnDone := true }))) = .ok ((), t) →
      exec (.tndone d) s = .next t.passedBoth) ∧
    (g.launch.node = none ∨ (s.core c).tnDone = true → writeS d 1 s = .ok ((), t) → exec (.tndone d) s = .next t.passedBoth))

/-- R298, R299: TNSUB admits a graph: its status word gives the graph number, or status 1 when the pool has no room, 2 for a bad graph;
its record, node array and successor lists are read with the translation and faults of a load. The trap of a misaligned header or record
is log 66, the nodes counted against the room are log 67. -/
def Sys2Proof.Claims.GraphAdmission : Prop :=
  ∀ (s s₁ s₂ t : State) (d : BitVec 6) (a : BitVec 4) (va : VA) (r : Option (BitVec 16 × Table Node)),
    readA a s = .ok (va, s₁) →
    (va.toNat % 64 ≠ 0 → exec (.tnsub d a) s = .next (precise { code := 3, va := va } s)) ∧
    (∀ n al u, n % al ≠ 0 → loadReader n 64 al u = .error (.trap { code := 3, va := BitVec.ofNat 80 n })) ∧
    (readGraph loadReader va.toNat s₁ = .ok (r, s₂) →
      let die := coreDie s₁.cur.core
      (r = none → writeS d (BitVec.ofNat 64 (die * 2 ^ 32 + 2 * 2 ^ 62)) s₂ = .ok ((), t) → exec (.tnsub d a) s = .next t.passedBoth) ∧
      (∀ chi n, r = some (chi, n) → 8192 < poolNodes s₂ die + n.length →
        writeS d (BitVec.ofNat 64 (die * 2 ^ 32 + 2 ^ 62)) s₂ = .ok ((), t) → exec (.tnsub d a) s = .next t.passedBoth) ∧
      (∀ chi n, r = some (chi, n) → poolNodes s₂ die + n.length ≤ 8192 →
        let g : Graph := { num := (s₂.die die).graphNext, asid := s₂.mine.asid, gid := s₂.mine.gid, chi := chi,
                           lat := ((gangOn s₂ s₁.cur.core).map (·.launch.lat)).getD false,
                           queue := ((gangOn s₂ s₁.cur.core).map (·.launch.queue)).getD 0, nodes := n, retired := false }
        writeS d (BitVec.ofNat 64 (g.num.toNat + die * 2 ^ 32))
          (enterPool die g (s₂.modDie die (fun k => { k with graphNext := k.graphNext + 1 }))) = .ok ((), t) →
        exec (.tnsub d a) s = .next t.passedBoth))

/-- R233 to R236, R347: AMSG pops its program counter and two arguments and sends an inbox entry to a core of its gang; INBX reads the
counts, INBX.WAIT once a mail entry is there. -/
def Sys2Proof.Claims.MessagesAndInbox : Prop :=
  (∀ (s s₁ s₂ s₃ s₄ : State) (c : Nat) (st : Stream) (a : BitVec 6) (w pc a0 a1 : Dword), s.cur = .ctx c 0 st → readS a s = .ok (w, s₁) →
    popSdq s₁ = .ok (pc, s₂) → popSdq s₂ = .ok (a0, s₃) → popSdq s₃ = .ok (a1, s₄) → s₄.cur = s.cur →
    let to_ := nbits w.toNat 10 2 * 1024 + nbits w.toNat 0 10
    (w.toNat < 2 ^ 12 → (s₄.core to_).gid = (s₄.core c).gid → pc.toNat % 4 = 0 → s₄.me.accessesBefore s₄.position = false →
      inboxShared s₄ to_ < 16 →
      exec (.amsg a) s = .next (s₄.send (.inboxArrival to_
        { kind := if pc = 0 then 0 else 1, port := 0, gid := (s₄.core c).gid, src := BitVec.ofNat 10 (c % 1024),
          sdie := BitVec.ofNat 2 (c / 1024), payload := if pc = 0 then [a0, a1] else [pc, a0, a1], ctx := 0, id := 0 })).passedBoth) ∧
    (2 ^ 12 ≤ w.toNat ∨ (s₄.core to_).gid ≠ (s₄.core c).gid → exec (.amsg a) s = .next (precise { code := 5 } s))) ∧
  (∀ (s t : State) (d : BitVec 6), writeS d (inboxWord s.mine) s = .ok ((), t) → exec (.inbx d) s = .next t.passedBoth ∧
    ((∃ e ∈ s.mine.inbox, e.kind = 0 ∧ e.gid = s.mine.gid) → exec (.inbxWait d) s = .next t.passedBoth)) ∧
  (∀ (s : State) (d : BitVec 6), (∀ e ∈ s.mine.inbox, e.kind ≠ 0 ∨ e.gid ≠ s.mine.gid) →
    exec (.inbxWait d) s = .next (stalled .event s))

/-- TNSUB admits a graph; AMSG, INBX and INBX.WAIT. The alignment trap of a header or record and the count of the room are the model's
readings (logs 66, 67). -/
def Obligations.GraphsAndMessages : Prop :=
  Sys2Proof.Claims.GraphAdmission ∧ Sys2Proof.Claims.MessagesAndInbox

/-- R378: FIBSW writes the running fibre's frame at a14 and takes the fibre of the frame that it names: its area, queues and program
counters; UPRET does so once the notice of the frame's page fault is 1, clears the notice and honours the delay-slot record; at
another value of the notice it takes the page-fault trap of the frame's fault instead, and where the frame names no notice it waits (R275). -/
def Obligations.FibresSwitch : Prop :=
  ∀ (s s₁ s₂ s₃ s₄ s₅ : State) (c k : Nat) (st : Stream) (a : BitVec 4) (fva a14 : VA) (f head : List Byte), s.cur = .ctx c k st →
    ¬ s.standsInSlot → readA a s = .ok (fva, s₁) →
    let image (u : State) : List Byte := frameHead (u.address + 4) (u.address + 4) u.me.wp 0 0 0
    let wp : Dword := BitVec.ofNat 64 (dwordAt f 0x10)
    let es := nbits (dwordAt f 0x18) 16 1 == 1
    let by_ (u : State) : Option Stream := slotBranchBy u c k (BitVec.ofNat 64 (dwordAt f (if es then 8 else 0)))
    let enter (u : State) (ds : Bool) : State := u.onMe (fun x =>
      { (((x.issued .acc).issued .exe).loadQueues (f.drop 0x40)).resume (BitVec.ofNat 64 (dwordAt f 0)) (BitVec.ofNat 64 (dwordAt f 8))
          es ds (BitVec.ofNat 64 (dwordAt f 0x20) / 4 * 4) (by_ u)
          (wordsBetween u c k (BitVec.ofNat 64 (dwordAt f 0)) (BitVec.ofNat 64 (dwordAt f 8))) with wait := none })
    (readWord fva 0x38 true s₁ = .ok (head, s₂) → frameFlt head = false → s₂.me.pend = [] → readA 14 s₂ = .ok (a14, s₃) → s₃.cur = s.cur →
      writeFrame s₃ c k a14 (image s₃) = .ok s₄ → readWord fva 512 true s₄ = .ok (f, s₅) → areaTaken s₅ c k wp = false →
      (switchFibre c k wp s₅).cur = s.cur → exec (.fibsw a) s = .next (enter (switchFibre c k wp s₅) false)) ∧
    (readWord fva 0x38 true s₁ = .ok (head, s₂) → frameFlt head = true → exec (.fibsw a) s = .next (precise { code := 1 } s)) ∧
    (readWord fva 0x40 true s₁ = .ok (head, s₂) → frameFlt head = false → exec (.upret a) s = .next (precise { code := 1 } s)) ∧
    (readWord fva 0x40 true s₁ = .ok (head, s₂) → frameFlt head = true → s₂.me.pend = [] → dwordAt head 0x38 = 0 →
      exec (.upret a) s = .next (stalled .event s)) ∧
    (readWord fva 0x40 true s₁ = .ok (head, s₂) → frameFlt head = true → s₂.me.pend = [] → dwordAt head 0x38 ≠ 0 →
      (∀ l u, readWord (noticeVa head) 8 true s₂ = .ok (l, u) → 1 < leNat l → u.cur = s.cur →
        writeBytesNow u c k (noticeVa head) (leBytes 8 0) = .ok s₃ →
        let flags := dwordAt head 0x18
        exec (.upret a) s = .next (takeTrap c k
          { code := 6, va := BitVec.ofNat 80 (dwordAt head 0x28 + dwordAt head 0x30 % 2 ^ 16 * 2 ^ 64)
            pcs := some (BitVec.ofNat 64 (dwordAt head 0), BitVec.ofNat 64 (dwordAt head 8)) } (nbits flags 16 1 == 1)
          (if nbits flags 1 1 = 1 then some (nbits flags 2 1 == 1, BitVec.ofNat 64 (dwordAt head 0x20)) else none)
          (detachForTrap c k s₃))) ∧
      (∀ l, readWord (noticeVa head) 8 true s₂ = .ok (l, s₃) → leNat l = 0 → exec (.upret a) s = .next (stalled .event s)) ∧
      (∀ l u, readWord (noticeVa head) 8 true s₂ = .ok (l, u) → leNat l = 1 → u.cur = s.cur →
        writeBytesNow u c k (noticeVa head) (leBytes 8 0) = .ok s₃ → s₃.cur = s.cur → readA 14 s₃ = .ok (a14, s₄) → s₄.cur = s.cur →
        ∀ u₁ u₂ u₃, writeFrame s₄ c k a14 (image s₄) = .ok u₁ → u₁.cur = s.cur → readWord fva 512 true u₁ = .ok (f, u₂) → u₂.cur = s.cur →
          areaTaken u₂ c k wp = false → (switchFibre c k wp u₂).cur = s.cur →
          writeBytesNow (switchFibre c k wp u₂) c k (fva + 0x18) (leBytes 8 (dwordAt f 0x18 / 2 * 2)) = .ok u₃ → u₃.cur = s.cur →
          exec (.upret a) s = .next (enter u₃ (nbits (dwordAt f 0x18) 1 1 == 1))))

/-! ## System words (R93, R94, R284, R285, R300, R301, R370, R371, R382, R383, R397) -/

/-- R93, R94, R95, Table 5-4: PWRB makes its transition once the bank holds no waiting request, and gang-stop does not halt it meanwhile;
one that leaves the bank in its state goes on. Retention keeps bytes and granules, OFF makes the granules of the bank's areas dead, ON from
off gives zero bytes. OFF of a bank that is off waits and makes the granules dead by log 61, not by R94. -/
def Obligations.BankPower : Prop :=
  ∀ (s : State) (b : BitVec 4),
    let c := s.cur.core
    let waits : Host.Outcome State Fault Refusal := .next (stalled .event (s.onMe (fun x => { x with within := true })))
    (bankBusy s c b.toNat = true →
      (s.mine.power b.toNat ≠ .on → exec (.pwrbOn b) s = waits) ∧ (s.mine.power b.toNat = .on → exec (.pwrbRtn b) s = waits) ∧
      (s.mine.power b.toNat ≠ .off → exec (.pwrbSave b) s = waits) ∧ exec (.pwrbOff b) s = waits) ∧
    (s.mine.power b.toNat = .on → exec (.pwrbOn b) s = .next s.passedBoth) ∧
    (s.mine.power b.toNat ≠ .on → exec (.pwrbRtn b) s = .next s.passedBoth) ∧
    (s.mine.power b.toNat = .off → exec (.pwrbSave b) s = .next s.passedBoth) ∧
    (bankBusy s c b.toNat = false →
      (s.mine.power b.toNat = .retention →
        exec (.pwrbOn b) s = .next (s.modCore c (fun v => { v with bank := tset v.bank b.toNat .on })).passedBoth) ∧
      (s.mine.power b.toNat = .off → ∃ t, exec (.pwrbOn b) s = .next t ∧ (t.core c).power b.toNat = .on ∧
        (∀ i, i < 16384 → memByte t.mem (spPlace c (b.toNat * 16384 + i)) = 0) ∧
        ∀ p, p < spPlace c (b.toNat * 16384) ∨ spPlace c (b.toNat * 16384) + 16384 ≤ p → memByte t.mem p = memByte s.mem p) ∧
      (s.mine.power b.toNat = .on →
        exec (.pwrbRtn b) s = .next (s.modCore c (fun v => { v with bank := tset v.bank b.toNat .retention })).passedBoth) ∧
      (s.mine.power b.toNat ≠ .off → exec (.pwrbSave b) s = .next (powerDown c b.toNat (saveBank c b.toNat s)).passedBoth) ∧
      (∃ t, exec (.pwrbOff b) s = .next t ∧ (t.core c).power b.toNat = .off ∧ t.mem = s.mem ∧
        ∀ a g, g < 26 → (t.core c).granule a g = if areaBank a = b.toNat then .dead else s.mine.granule a g))

/-- R284, R285: XINV removes the translations and the cached lines that its kind names, once no fill, request, macro-op or pending report
that may hold one is in flight (what it waits for is log 62); after XINV.ALL no translation is held. R301: the frame kind clears the
frames' records. -/
def Sys2Proof.Claims.TranslationsAreRemoved : Prop :=
  ∀ (s s₁ s₂ : State) (m : BitVec 4) (a n : BitVec 6) (va : VA) (v : Dword), s.me.dev = true →
    let quiet (u : State) : Prop := u.cores.any (fun e => e.2.queue.any (fun _ => true)) = false ∧
      u.dies.any (fun e => e.2.attests.any (fun _ => true)) = false ∧
      u.slices.any (fun e => e.2.mshrs.any (fun _ => true)) = false ∧ sentAny u (fun _ => true) = false
    (s.slices.any (fun e => e.2.mshrs.any (fun _ => true)) = true → exec .xinvAll s = .next (stalled .event s)) ∧
    (quiet s → exec .xinvAll s = .next (removePages (fun _ => true) (fun _ => true) (fun _ _ => true) s).passedBoth ∧
      allTrans (removePages (fun _ => true) (fun _ => true) (fun _ _ => true) s) = []) ∧
    (readS a s = .ok (v, s₁) → quiet s₁ →
      (v.toNat < 2 ^ 12 → exec (.xinvAsid a) s = .next (removeVirtual (fun q _ => q == BitVec.ofNat 12 v.toNat) s₁).passedBoth ∧
        ∀ t ∈ allTrans (removeVirtual (fun q _ => q == BitVec.ofNat 12 v.toNat) s₁), t.asid ≠ BitVec.ofNat 12 v.toNat) ∧
      (2 ^ 12 ≤ v.toNat → exec (.xinvAsid a) s = .next (precise { code := 1 } s)) ∧
      (v.toNat % 2 ^ 12 = 0 → v.toNat < 2 ^ 58 →
        exec (.xinvFrame a n) s = .next (clearFrames (v.toNat / 4096) (n.toNat + 1) s₁).passedBoth ∧
        ∀ f, v.toNat / 4096 ≤ f → f < v.toNat / 4096 + (n.toNat + 1) →
          tget (clearFrames (v.toNat / 4096) (n.toNat + 1) s₁).frames f {} = {})) ∧
    (readA m s = .ok (va, s₁) → readS a s₁ = .ok (v, s₂) → v.toNat < 2 ^ 12 → quiet s₂ →
      exec (.xinvPage m a) s = .next (removeVirtual (fun q line => q == BitVec.ofNat 12 v.toNat &&
        line * 128 / 2 ^ attP (attOf s₂ (vaRegion va)) == va.toNat / 2 ^ attP (attOf s₂ (vaRegion va))) s₂).passedBoth)

/-- R176, R300, R301: KEYSET: .RAND and .LOAD install key material in an empty slot (status 0) and refuse a taken one (1) or equal
halves (3); .RETIRE waits while a fill, a request or a macro-op may use the key, destroys it and every copy under it (0), or finds
none (2). .LOAD reads its block before it tests the slot (log 63). -/
def Sys2Proof.Claims.KeySlots : Prop :=
  ∀ (s s₁ t : State) (d a : BitVec 6) (v : Dword), s.me.dev = true → readS a s = .ok (v, s₁) →
    (v.toNat = 0 ∨ 2 ^ 12 ≤ v.toNat → exec (.keysetRand d a) s = .next (precise { code := 1 } s) ∧
      exec (.keysetRetire d a) s = .next (precise { code := 1 } s)) ∧
    (0 < v.toNat → v.toNat < 2 ^ 12 →
      (keyInstalled s₁ v.toNat = true → writeS d 1 s₁ = .ok ((), t) → exec (.keysetRand d a) s = .next t.passedBoth) ∧
      (keyInstalled s₁ v.toNat = false → writeS d 0 (installKey v.toNat (Config.randomKey s₁.draws) s₁.drawn) = .ok ((), t) →
        exec (.keysetRand d a) s = .next t.passedBoth) ∧
      (keyInstalled s₁ v.toNat = false → writeS d 2 s₁ = .ok ((), t) → exec (.keysetRetire d a) s = .next t.passedBoth) ∧
      (keyInstalled s₁ v.toNat = true → keyInUse s₁ v.toNat = true → exec (.keysetRetire d a) s = .next (stalled .event s)) ∧
      (keyInstalled s₁ v.toNat = true → keyInUse s₁ v.toNat = false →
        writeS d 0 (retireKey v.toNat s₁) = .ok ((), t) → exec (.keysetRetire d a) s = .next t.passedBoth) ∧
      (∀ (m : BitVec 4) (va : VA) (n : Nat) (s₂ s₃ : State), readA m s₁ = .ok (va, s₂) → readKeyBlock va s₂ = .ok (n, s₃) →
        (keyInstalled s₃ v.toNat = true → writeS d 1 s₃ = .ok ((), t) → exec (.keysetLoad d a m) s = .next t.passedBoth) ∧
        (keyInstalled s₃ v.toNat = false → n % 2 ^ 256 = n / 2 ^ 256 → writeS d 3 s₃ = .ok ((), t) →
          exec (.keysetLoad d a m) s = .next t.passedBoth) ∧
        (keyInstalled s₃ v.toNat = false → n % 2 ^ 256 ≠ n / 2 ^ 256 →
          writeS d 0 (installKey v.toNat (BitVec.ofNat 512 n) s₃) = .ok ((), t) → exec (.keysetLoad d a m) s = .next t.passedBoth)))

/-- R370, R371, R383, R397: HALTX fails its core, SPAREMAP maps a spare or says why not (a taken or failed spare before a core that has
not failed: log 98), ATTEST queues a report with the translations of its buffer, or says that four wait and does nothing else. -/
def Sys2Proof.Claims.OtherSystemWords : Prop :=
  (∀ (s : State), s.me.dev = true → s.me.pend = [] →
    exec .haltx s = .next ((s.passedBoth.modCore s.cur.core (fun v => { v with failed := true })).send (.coreFailure s.cur.core false))) ∧
  (∀ (s s₁ t : State) (d a : BitVec 6) (v : Dword), s.me.dev = true → readS a s = .ok (v, s₁) → v.toNat < 2 ^ 15 →
    let die := coreDie s₁.cur.core
    let c := 1024 * die + nbits v.toNat 0 10
    let k := nbits v.toNat 10 5
    let taken := (tfind (s₁.die die).spares k).isSome || (s₁.die die).badSpares.contains k
    (taken = true → writeS d 1 s₁ = .ok ((), t) → exec (.sparemap d a) s = .next t.passedBoth) ∧
    (taken = false → (s₁.core c).failed = false → writeS d 2 s₁ = .ok ((), t) → exec (.sparemap d a) s = .next t.passedBoth) ∧
    (taken = false → (s₁.core c).failed = true → gangAt s₁ c = none → writeS d 0 (placeAgain (mapSpare c k s₁)) = .ok ((), t) →
      exec (.sparemap d a) s = .next t.passedBoth)) ∧
  (∀ (s t : State) (d : BitVec 6) (a : BitVec 4) (ss : BitVec 3), 4 ≤ (s.die (coreDie s.cur.core)).attests.length →
    writeS d 1 s = .ok ((), t) → exec (.attest d a ss) s = .next t.passedBoth) ∧
  (∀ (s s₁ s₂ s₃ t : State) (d : BitVec 6) (a : BitVec 4) (ss : BitVec 3) (va : VA) (pages : List Trans) (l : List Byte),
    (s.die (coreDie s.cur.core)).attests.length < 4 → s.slotRoom ss → readA a s = .ok (va, s₁) →
    (va.toNat % 4096 ≠ 0 → exec (.attest d a ss) s = .next (precise { code := 3, va := va } s)) ∧
    (va.toNat % 4096 = 0 → 13 ≤ vaRegion va → exec (.attest d a ss) s = .next (precise { code := 4, va := va } s)) ∧
    (va.toNat % 4096 = 0 → vaRegion va < 13 → probeBuffer va 8 s₁ = .ok (pages, s₂) → readWord va 64 true s₂ = .ok (l, s₃) → ss = 0 →
      let r : AttestReq := { core := s.cur.core, ctx := s.cur.ctxNo, id := s₃.nextId, va := va, asid := s₃.mine.asid,
                             nonce := BitVec.ofNat 512 (leNat l), gid := s₃.mine.gid,
                             key := ((gangOn s₃ s.cur.core).map (fun g => g.launch.key)).getD 0, pages := pages }
      let u : State := { s₃ with nextId := s₃.nextId + 1 }
      s₃.cur = s.cur → writeS d 0 ((u.modDie (coreDie s.cur.core) (fun q => { q with attests := q.attests ++ [r] })).send
        (.attestReportDone (BitVec.ofNat 2 (coreDie s.cur.core)))) = .ok ((), t) → exec (.attest d a ss) s = .next t.passedBoth))

/-- XINV, KEYSET, HALTX, SPAREMAP and ATTEST. The waits of XINV (log 62), the read of a key before the slot test (log 63) and the order of
SPAREMAP's statuses (log 98) are the model's readings. -/
def Obligations.TranslationsKeysAndSystemWords : Prop :=
  Sys2Proof.Claims.TranslationsAreRemoved ∧ Sys2Proof.Claims.KeySlots ∧ Sys2Proof.Claims.OtherSystemWords

/-! ## The matrix array (R119, R122 to R146, R286 to R288, R338, R339) -/

/-- R123, R124, R130, R137: a matrix word (MMS, MMSS, LDSTAT, SWAPSTAT, both forms of ACCZ, ACCLD, ACCST, ACCADD, TCVT, TCOPY) that
passes its checks takes its permit, joins its slot and enters the sequencer queue as a macro-op; one that firmware emulates is recorded
for it and holds its context; one that fails a check traps with no other effect. -/
def Sys2Proof.Claims.MatrixWordsIssue : Prop :=
  ∀ (i : Instr) (ss : BitVec 3) (s : State), matrixSlot i = some ss → s.slotRoom ss → s.ownsSequencer →
    let c := s.cur.core
    let k := s.cur.ctxNo
    (∀ (p : Plan) (s₁ s₂ : State), mxPlan s c k i = .ok (p, s₁) →
      let own := decide (p.weight ≠ 0) && decide (p.weight ≤ s.me.held)
      let n := if own then 0 else p.weight
      s₁.permits n s₂ → s₂.slotRoom ss →
      let u := s₂.joined ss .macroOp false .none
      let m : MacroOp := { word := i, ctx := k, id := s₂.nextId, entA := p.entA, entB := p.entB, permit := n, own := own, step := 0,
                           reply := none, emu := p.emu, asid := s.mine.asid, pages := p.pages }
      (p.emu = false → exec i s = .next (enqueueMacro c m u).passed) ∧
      (p.emu = true → exec i s = .next (enqueueMacro c m ((u.onMe (fun x => { x with emulating := true })).modDie (coreDie c) (fun d =>
        { d with emuRecords := d.emuRecords ++ [{ core := c, ctx := k, word := i, entA := p.entA, entB := p.entB }] }))).passed)) ∧
    (∀ code va need, mxPlan s c k i = .error (code, va, need) → code ≠ 6 →
      exec i s = .next (precise { code := code, va := va } s))

/-- R130, Table 6-5: the checks of the words at issue: an invalid tid is the tensor-table trap (0x0F), a shape, format, tag or mode
that does not fit the tensor-combination trap (0x10), a field that the word does not allow the illegal-instruction trap (1). -/
def Sys2Proof.Claims.MatrixChecks : Prop :=
  ∀ (v : Core) (x : Ctx),
    (∀ (b : BitVec 6) (t : BitVec 1), tnValid (entryOf x b) = false → mxCheck v x (.ldstat b t) = .error (0x0F, 0)) ∧
    (∀ (b : BitVec 6) (t : BitVec 1), tnValid (entryOf x b) = true →
      (tnRows (entryOf x b) ≠ 32 ∨ tnCols (entryOf x b) ≠ 32 ∨ tnSparse (entryOf x b) = true) →
      mxCheck v x (.ldstat b t) = .error (0x10, 0)) ∧
    (∀ (c m : BitVec 2) (ss : BitVec 3), m = 2 → c.toNat % 2 = 1 → mxCheck v x (.accz c m ss) = .error (1, 0)) ∧
    (mxCheck v x (.acczMark 0) = .error (1, 0)) ∧
    (∀ (c m : BitVec 2) (a b : BitVec 6) (t : BitVec 1) (n : BitVec 3), 2 ≤ m.toNat →
      mxCheck v x (.mms c a b t m n) = .error (1, 0) ∧ mxCheck v x (.mmss c a b t m n) = .error (1, 0)) ∧
    (∀ (c m : BitVec 2) (a b : BitVec 6) (t : BitVec 1) (n : BitVec 3), m.toNat < 2 →
      tnValid (entryOf x a) = true → tnValid (entryOf x b) = true → (projected v).active.ld = true → (projected v).active.tid = b →
      (projected v).active.fmt.toNat ≠ tnFmt (entryOf x a) → mxCheck v x (.mms c a b t m n) = .error (0x10, 0)) ∧
    (∀ (c m : BitVec 2) (a b : BitVec 6) (t : BitVec 1) (n : BitVec 3), m.toNat < 2 →
      ((projected v).active.ld = false ∨ (projected v).active.tid ≠ b) → mxCheck v x (.mms c a b t m n) = .error (0x0F, 0)) ∧
    (∀ (d e : BitVec 2) (ss : BitVec 3), tget (projected v).mode d.toNat 0 ≠ tget (projected v).mode e.toNat 0 →
      mxCheck v x (.accadd d e ss) = .error (0x10, 0))

/-- Matrix words issue as macro-ops; the checks they make. -/
def Obligations.MatrixIssue : Prop :=
  Sys2Proof.Claims.MatrixWordsIssue ∧ Sys2Proof.Claims.MatrixChecks

/-- R125, R126, R47, R48, R145, R338: the events of the array: the macro-op at the head takes one step after another and then completes;
firmware carries out an emulated one, 32 rows a step; the oldest waiting acquisition is granted when it is possible; a matrix command that its target
accepts enters the target's queue, and one without the capability is rejected with cause 1. -/
def Sys2Proof.Claims.MatrixEventSteps : Prop :=
  (∀ (s : State) (c : Nat) (m : MacroOp) (q : List MacroOp), s.ev = .macroOpStep c → (s.core c).queue = m :: q → halting s c = false →
    m.owed = false → m.emu = false →
    let t := macroStep c m s
    (m.step + 1 < macroSteps m → exec .macroOpStep s =
      .next (kickMatrix c (t.modCore c (fun v => { v with queue := { m with step := m.step + 1 } :: v.queue.drop 1 })))) ∧
    (macroSteps m ≤ m.step + 1 → exec .macroOpStep s = .next (finishMacro c m t))) ∧
  (∀ (s : State) (c : Nat) (m : MacroOp) (q : List MacroOp), (s.core c).queue = m :: q → m.permit = 0 → m.reply = none →
    (s.core c).inbox = [] → (s.ctx c m.ctx).hasPend m.id = true → (s.ctx c m.ctx).deferred = [] →
    ((finishMacro c m s).core c).queue = q ∧ ((finishMacro c m s).ctx c m.ctx).hasPend m.id = false ∧
    (finishMacro c m s).mem = s.mem ∧ ((finishMacro c m s).core c).owner = if q.isEmpty then none else (s.core c).owner) ∧
  (∀ (s : State) (c : Nat) (m : MacroOp) (q : List MacroOp), s.ev = .emulationComplete c → (s.core c).queue = m :: q →
    halting s c = false → m.emu = true → m.owed = false →
    let t := macroStep c m s
    (m.step + 1 < macroSteps m → exec .emulationComplete s =
      .next (kickMatrix c (t.modCore c (fun v => { v with queue := { m with step := m.step + 1 } :: v.queue.drop 1 })))) ∧
    (macroSteps m ≤ m.step + 1 → exec .emulationComplete s = .next (finishMacro c m ((t.modCtx c m.ctx (fun x =>
      { x with emulating := false })).modDie (coreDie c) (fun d =>
        { d with emuRecords := removeFirst (fun r => r.core == c && r.ctx == m.ctx) d.emuRecords }))))) ∧
  (∀ (s : State) (d : BitVec 2) (r : PermitReq), s.ev = .permitGrant d → (s.die d.toNat).permitQ = [r] → r.granted = false →
    r.ctx < 1000 →
    (permitPossible s r.core r.n = false → exec .permitGrant s = .next s) ∧
    (permitPossible s r.core r.n = true → coreDie r.core = d.toNat → ∃ t, exec .permitGrant s = .next t ∧
      (t.die d.toNat).permitQ = [{ r with granted := true }] ∧ (t.die d.toNat).poolHeld = (s.die d.toNat).poolHeld + r.n)) ∧
  (∀ (s : State) (cmd cap : Dword) (c k id : Nat) (e : InboxEntry) (i : Instr), s.ev = .mcmdArrival cmd cap c k id →
    let t := commandTarget cmd
    (s.core t).inbox = [e] → e.kind = 3 → e.payload = [cmd, cap] → e.ctx = k → e.id = id → e.sdie.toNat * 1024 + e.src.toNat = c →
    halting s t = false → commandWord (BitVec.ofNat 32 cmd.toNat) = some i →
    let u := s.modCore t (fun v => { v with inbox := [], ownWait := v.ownWait.erase commandCtx })
    (capOk s t cap i = false → exec .mcmdArrival s = .next (kickCommand t (completePend c k id 1 u))) ∧
    (capOk s t cap i = true → (s.core t).owner = none → (s.core t).queue = [] → (s.core t).ownWait.headD commandCtx = commandCtx →
      ∀ p, mxPlan s t 0 i = .ok (p, s) → p.emu = false → p.weight = 0 →
        exec .mcmdArrival s = .next (kickCommand t (enqueueMacro t
          { word := i, ctx := 0, id := 0, entA := p.entA, entB := p.entB, permit := 0, own := false, step := 0,
            reply := some ⟨c, k, id⟩, emu := false, asid := (s.core t).asid, pages := p.pages } u))))

/-- R134, R135, R138, R141: what the steps of LDSTAT, SWAPSTAT, ACCZ and ACCADD leave in the array. -/
def Sys2Proof.Claims.PlanesAndAccumulators : Prop :=
  ∀ (s : State) (c : Nat) (m : MacroOp),
    (∀ b t, m.word = .ldstat b t →
      let p := ((macroStep c m s).core c).shadow
      p.tid = b ∧ p.fmt.toNat = tnFmt m.entA % 16 ∧ p.sc = tnScaled m.entA ∧ p.ld = true) ∧
    (∀ ss, m.word = .swapstat ss →
      ((macroStep c m s).core c).active = (s.core c).shadow ∧ ((macroStep c m s).core c).shadow = (s.core c).active ∧
      ((macroStep c m s).core c).cacc = (s.core c).cacc ∧ (macroStep c m s).mem = s.mem) ∧
    (∀ a md ss, m.word = .accz a md ss → md ≠ 2 → accMode (s.core c) (if a.toNat % 2 = 0 then a.toNat + 1 else a.toNat - 1) ≠ 2 →
      (∀ i j, i < 32 → j < 32 → accWord ((macroStep c m s).core c) a.toNat i j = 0) ∧
      accMode ((macroStep c m s).core c) a.toNat = md.toNat ∧
      (∀ n i j, n ≠ a.toNat → i < 32 → j < 32 → accWord ((macroStep c m s).core c) n i j = accWord (s.core c) n i j)) ∧
    (∀ d e ss, m.word = .accadd d e ss → accMode (s.core c) d.toNat = 0 →
      (∀ i j, i < 32 → j < 32 → accWord ((macroStep c m s).core c) d.toNat i j =
        (shapeF32.round (vAdd (accVal (s.core c) d.toNat i j) (accVal (s.core c) e.toNat i j)).1).1 % 2 ^ 32) ∧
      (∀ n i j, n ≠ d.toNat → i < 32 → j < 32 → accWord ((macroStep c m s).core c) n i j = accWord (s.core c) n i j) ∧
      (macroStep c m s).mem = s.mem)

/-- R41, R136: one step of MMS: each element of its accumulator in f32 mode takes the chunk of its row and column, added or (with ovw,
in the first four steps) in place of the old value; the other accumulators keep theirs. -/
def Sys2Proof.Claims.MatrixMultiplyStep : Prop :=
  ∀ (s s₁ s₂ : State) (c : Nat) (m : MacroOp) (acc : BitVec 2) (a b : BitVec 6) (tr : BitVec 1) (o : BitVec 2) (steps : BitVec 3)
    (rows : List (List Nat)) (sc : List Byte),
    m.word = .mms acc a b tr o steps → tnFmt m.entA ≠ 14 →
    let r0 := 32 * m.step
    let r1 := min (r0 + 32) (tnRows m.entA)
    let nb := tnBlocks m.entA
    readRect c m.asid m.entA r0 r1 0 32 s = (s₁, rows) →
    (if tnScaled m.entA then mxRead c m.asid (tnSbase m.entA + nb * r0) (nb * (r1 - r0)) s₁ else (s₁, [])) = (s₂, sc) →
    let v := s₂.core c
    let n := (acc.toNat + m.step) % 4
    accMode v n ≠ 2 →
    let t := (macroStep c m s).core c
    (∀ i j, i < r1 - r0 → j < 32 →
      accWord t n i j = (accumulate (accMode v n) (decide (o = 1) && decide (m.step < 4)) (accVal v n i j)
        (chunkVal (tnFmt m.entA == 5) (((nth rows i []).map (fun x => some (tnVal (tnFmt m.entA) x))).take 32)
          ((List.range 32).map (fun k => if tr = 1 then planeVal v.active j k else planeVal v.active k j))
          (nth (if tnScaled m.entA then ((sc.drop (nb * i)).take nb).map (·.toNat) else [127, 127]) 0 127)
          (planeScale v.active j))).1 % 2 ^ 32) ∧
    (∀ n' i j, i < 32 → j < 32 → n' ≠ n ∨ r1 - r0 ≤ i → accWord t n' i j = accWord v n' i j) ∧
    (macroStep c m s).mem = s₂.mem

/-- MACRO_OP_STEP, EMULATION_COMPLETE, PERMIT_GRANT and MCMD_ARRIVAL; what the steps leave in planes and accumulators. -/
def Obligations.MatrixEvents : Prop :=
  Sys2Proof.Claims.MatrixEventSteps ∧ Sys2Proof.Claims.PlanesAndAccumulators ∧ Sys2Proof.Claims.MatrixMultiplyStep

/-- R131 to R133: TIDGET and TIDSET complete. TIDGET gives dword `n` of a tensor entry; TIDSET pops four items of ldq, the lowest dword
first, and writes them to its entry, once no macro-op that names the entry is in the queue; a valid entry that is not legal traps, and
the reserved fields of an invalid one read as zero afterwards. -/
def Sys2Proof.Claims.TensorTableWordsComplete : Prop :=
  (∀ (s t : State) (d r : BitVec 6) (n : BitVec 2),
    let v : Dword := BitVec.ofNat 64 (nbits (entryOf s.me r).toNat (64 * n.toNat) 64)
    writeS d v s = .ok ((), t) → exec (.tidget d r n) s = .next (t.entered v).passed) ∧
  (∀ (s s₁ s₂ s₃ s₄ : State) (r : BitVec 6) (d0 d1 d2 d3 : Dword), popLdq s = .ok (d0, s₁) → popLdq s₁ = .ok (d1, s₂) →
    popLdq s₂ = .ok (d2, s₃) → popLdq s₃ = .ok (d3, s₄) →
    s₄.mine.queue.any (fun m => m.ctx == s₄.cur.ctxNo && (namedTids m.word).contains r) = false →
    let e : BitVec 256 := d3 ++ d2 ++ d1 ++ d0
    let held (i : BitVec 256) : State := (s₄.onMe (fun x => { x with tids := tset x.tids r.toNat i })).passed
    (tnValid e = true → tnLegal e = true → exec (.tidset r) s = .next (held e)) ∧
    (tnValid e = false → exec (.tidset r) s = .next (held (storedImage e)) ∧ ∀ j, (storedImage e).getLsbD j =
      (e.getLsbD j && !(decide (119 ≤ j) && decide (j ≤ 126)) && !(decide (168 ≤ j) && decide (j ≤ 191)))) ∧
    (tnValid e = true → tnLegal e = false →
      exec (.tidset r) s = .next (precise { code := 0x10 } (if awaitsOutcome s then s else s₄))))

/-- R143: SCALEW and SCALEK complete. SCALEW takes the scales that stand in o7, in its turn among the SCALEWs of the core, and leaves o7
empty; it waits while o7 is empty. SCALEK, at the leader of a tile with peers, gives the sums of its scales to itself and to every peer that
has not ended; it waits while one of them still holds scales. -/
def Sys2Proof.Claims.ScaleLinkWordsComplete : Prop :=
  (∀ (s t : State) (d : BitVec 6),
    (s.mine.scaleWait.headD s.cur.ctxNo = s.cur.ctxNo → s.mine.o7full = true → writeS d s.mine.o7 s = .ok ((), t) →
      exec (.scalew d) s = .next ((t.entered s.mine.o7).passed.modCore t.cur.core (fun v =>
        { v with o7full := false, scaleWait := v.scaleWait.filter (· != s.cur.ctxNo) }))) ∧
    (s.mine.o7full = false ∨ s.mine.scaleWait.headD s.cur.ctxNo ≠ s.cur.ctxNo → s.mine.scaleWait.contains s.cur.ctxNo = false →
      exec (.scalew d) s = .next (stalled .event (s.modCore s.cur.core (fun v => { v with scaleWait := v.scaleWait ++ [s.cur.ctxNo] })))) ∧
    (s.mine.o7full = false ∨ s.mine.scaleWait.headD s.cur.ctxNo ≠ s.cur.ctxNo → s.mine.scaleWait.contains s.cur.ctxNo = true →
      exec (.scalew d) s = .next (stalled .event s))) ∧
  (∀ (s s₁ s₂ t : State) (d a b : BitVec 6) (x y : Dword), leaderOf s s.cur.core = s.cur.core → tilePeers s s.cur.core ≠ [] →
    readS a s = .ok (x, s₁) → readS b s₁ = .ok (y, s₂) →
    let there := (tilePeers s s.cur.core).filter (fun p => (s.core p).retired != .byEnd)
    let r := addScaleDwords x y
    (there.any (fun p => (s.core p).o7full) = true → exec (.scalek d a b) s = .next (stalled .event s)) ∧
    (there.any (fun p => (s.core p).o7full) = false →
      writeS d r.1 ((there.foldl (fun s p => s.modCore p (fun v => { v with o7 := r.1, o7full := true })) s₂).flagged r.2) = .ok ((), t) →
      exec (.scalek d a b) s = .next (t.entered r.1).passed))

/-- R144, R145, R286: MCAP and MCMD complete. MCAP mints the capability that its source names; MCMD sends the command and its
capability to the inbox of the target, in the name of the gang that is addressed there (log 24: a stopped gang of the target whose
capability this is, else the gang that runs there), and traps on a word that no command may carry (log 84). -/
def Sys2Proof.Claims.CommandWordsComplete : Prop :=
  (∀ (s s₁ t : State) (d a : BitVec 6) (v : Dword), s.me.dev = true → readS a s = .ok (v, s₁) →
    writeS d (mintCap s₁ v) s₁ = .ok ((), t) → exec (.mcap d a) s = .next (t.entered (mintCap s₁ v)).passed) ∧
  (∀ (s s₁ s₂ : State) (ss : BitVec 3) (a b : BitVec 6) (cmd cap : Dword), readS a s = .ok (cmd, s₁) → readS b s₁ = .ok (cap, s₂) →
    (cmd.toNat < 2 ^ 44 → (commandWord (BitVec.ofNat 32 cmd.toNat)).isSome = true → inboxShared s₂ (commandTarget cmd) < 16 →
      s₂.slotRoom ss →
      let c := s₂.cur.core
      exec (.mcmd ss a b) s = .next ((s₂.joined ss .engine false .none).send (.inboxArrival (commandTarget cmd)
        { kind := 3, port := 0, gid := addressedGang s₂ (commandTarget cmd) cap, src := BitVec.ofNat 10 (c % 1024), sdie := BitVec.ofNat 2 (coreDie c),
          payload := [cmd, cap], ctx := s₂.cur.ctxNo, id := s₂.nextId })).passed) ∧
    ((2 ^ 44 ≤ cmd.toNat ∨ commandWord (BitVec.ofNat 32 cmd.toNat) = none) →
      exec (.mcmd ss a b) s = .next (precise { code := 1 } s))) ∧
  (∀ (s : State) (t : Nat) (cap : Dword),
    ((∀ g ∈ s.plinth.gangs, g.stopped = false) → addressedGang s t cap = (s.core t).gid) ∧
    (∀ g ∈ s.plinth.gangs, (∀ h ∈ s.plinth.gangs, h.stopped = true → h = g) → g.stopped = true → (tfind g.savedCores t).isSome = true →
      nbits cap.toNat 32 32 = capTag s (cap.toNat % 2 ^ 32) g.gid → addressedGang s t cap = g.gid))

/-- R338, R339: PERMIT and PERMREL complete. PERMIT adds the units that it is given to those of the context and answers their number, or a
refusal; without them it waits, and its operand is still to be read. PERMREL gives units back and answers what is left. -/
def Sys2Proof.Claims.PermitWordsComplete : Prop :=
  ∀ (s s₁ s₂ t : State) (d a : BitVec 6) (v : Dword), readS a s = .ok (v, s₁) →
    let c := s₁.cur.core
    let k := s₁.cur.ctxNo
    let h := s₁.me.held
    let n := v.toNat % 2 ^ 16
    let refused : Dword := BitVec.ofNat 64 (2 ^ 63 + h)
    let given : Dword := BitVec.ofNat 64 (h + n)
    (permitReq s₁ c k = none → permitRefused s₁ c k v = true → writeS d refused s₁ = .ok ((), t) →
      exec (.permit d a) s = .next (t.entered refused).passed) ∧
    (permitReq s₁ c k = none → permitRefused s₁ c k v = false → s₁.permits n s₂ →
      writeS d given (s₂.onMe (fun x => { x with held := x.held + n })) = .ok ((), t) →
      exec (.permit d a) s = .next (t.entered given).passed) ∧
    (permitReq s₁ c k = none → permitRefused s₁ c k v = false → permitReq s₁ c (permitKey s₁.cur) = none →
      (queuedPermit c (permitKey s₁.cur) n s₁).1 = none →
      exec (.permit d a) s = .next (stalled .permit (queuedPermit s.cur.core (permitKey s.cur) n s).2)) ∧
    (s₁.mine.queue.any (fun m => m.ctx == k && m.own) = false →
      let r := if v.toNat / 2 ^ 16 ≠ 0 then 0 else if n = 0 then h else min n h
      let left : Dword := BitVec.ofNat 64 (h - r)
      writeS d left ((releasePermit c r s₁).onMe (fun x => { x with held := x.held - r })) = .ok ((), t) →
      exec (.permrel d a) s = .next (t.entered left).passed)

/-- TIDSET, TIDGET, SCALEK, SCALEW, MCAP, MCMD, PERMIT and PERMREL complete. A command goes under the gang that it is addressed to (log
24). Which words a command may carry is the model's reading (log 84). -/
def Obligations.MatrixState : Prop :=
  Sys2Proof.Claims.TensorTableWordsComplete ∧ Sys2Proof.Claims.ScaleLinkWordsComplete ∧ Sys2Proof.Claims.CommandWordsComplete ∧
  Sys2Proof.Claims.PermitWordsComplete

/-! ## Engines and near memory (R203 to R208, R238 to R240, R289 to R292, R302, R303, R328 to R337) -/

/-- R206, R208, R290, R291: each ASOP word reads its descriptor, checks it, takes its permit and sends the operator to the unit; a
descriptor of another operator, or one that R291 refuses, raises the operator-descriptor trap (0x14). -/
def Sys2Proof.Claims.OperatorWords : Prop :=
  ∀ (a : BitVec 4) (ss ws : BitVec 3) (o : BitVec 12) (s s₁ s₂ s₃ : State) (va : VA) (l : List Byte),
    s.unheld ws → s.addresses a o 64 va s₁ → va.toNat % 64 = 0 → s₁.me.accessesBefore s₁.position = false →
    readWord va 64 false s₁ = .ok (l, s₂) →
    let card := leNat l
    ∀ (op : Nat) (i : Instr),
      (op, i) ∈ [(0, Instr.asopReduceAdd a ss ws o), (1, .asopReduceMax a ss ws o), (2, .asopAxpy a ss ws o), (3, .asopConvert a ss ws o),
        (4, .asopScale a ss ws o), (5, .asopGather a ss ws o), (6, .asopScatterAdd a ss ws o), (7, .asopSmerge a ss ws o)] →
      (cardKind card = 3 → cardOp card = op → cardOk card = true → s₂.slotRoom ss →
        s₂.permits (if cardPermit card then 1 else 0) s₃ → s₃.slotRoom ss →
        let u := s₃.joined ss .engine false .none
        let j : Job := { num := 0, card := BitVec.ofNat 512 card, asid := u.mine.asid, gid := u.mine.gid, core := u.cur.core,
                         ctx := u.cur.ctxNo, id := s₃.nextId, user := !u.me.dev, node := none, running := true,
                         permit := cardPermit card }
        exec i s = .next ((u.modDie (coreDie u.cur.core) (fun d => { d with ops := d.ops ++ [j] })).send (.operatorComplete s₃.nextId)).passed) ∧
      (cardKind card ≠ 3 ∨ cardOp card ≠ op ∨ cardOk card = false → exec i s = .next (precise { code := 0x14 } s))

/-- R207, R291, Tables 8-8 and 12-10: which cards the device takes: kinds 1 to 3 with their reserved fields zero and, for an operator,
the types and row length that it admits; AXPY, SCALE, GATHER and SCATTER-ADD use the third operand, and only they. -/
def Sys2Proof.Claims.CardChecks : Prop :=
  ∀ c : Nat,
    (cardOk c = true → 1 ≤ cardKind c ∧ cardKind c ≤ 3 ∧ ∀ i, i < 3 → nbits (cardEntry c i) 122 6 = 0) ∧
    (cardOk c = true → cardKind c ≠ 3 → nbits c 4 12 = 0 ∧ cardRl c = 0 ∧ cardEntry c 2 = 0) ∧
    (cardOk c = true → cardKind c = 3 → cardOp c ≤ 7 ∧ (cardOp c ∉ [2, 4, 5, 6] → cardEntry c 2 = 0) ∧
      (cardOp c ∈ [5, 6] ↔ cardRl c ≠ 0) ∧ (cardOp c ∈ [2, 4, 5, 6, 7] → cardStyp c = 0 ∧ cardDtyp c = 0) ∧
      (cardOp c ≤ 1 → (cardStyp c = 0 ∨ cardStyp c = 7) ∧ cardDtyp c = cardStyp c)) ∧
    (cardPermit c = true ↔ cardKind c = 3 ∧ cardOp c ≠ 5)

/-- The ASOP words and which cards the device takes. -/
def Obligations.OperatorsAndCards : Prop :=
  Sys2Proof.Claims.OperatorWords ∧ Sys2Proof.Claims.CardChecks

/-- R238 to R240, R292: JCSUB queues the job of a card and gives its number, or status 1 when its footprint is refused, with a job number
of 0, which is the model's choice (log 92), and waits while 512 jobs that no engine runs are queued (log 110); JCWAIT gives a job's end,
0xFF for an unknown one, and waits for one that has not ended. That a number whose status bits are 01 answers 2 is log 51. -/
def Sys2Proof.Claims.JobWords : Prop :=
  (∀ (s s₁ s₂ : State) (d : BitVec 6) (a : BitVec 4) (ss : BitVec 3) (va : VA) (l : List Byte), s.unheld 0 → s.slotRoom ss →
    readA a s = .ok (va, s₁) → va.toNat % 64 = 0 → readWord va 64 false s₁ = .ok (l, s₂) →
    let card := leNat l
    let die := coreDie s₂.cur.core
    let u := s₂.joined ss .token false .none
    let j : Job := { num := 0, card := BitVec.ofNat 512 card, asid := s₂.mine.asid, gid := s₂.mine.gid, core := s₂.cur.core,
                     ctx := s₂.cur.ctxNo, id := s₂.nextId, user := !s₂.me.dev, node := none, running := false, permit := false }
    (cardOk card = false ∨ cardFootprint card = [] → exec (.jcsub d a ss) s = .next (precise { code := 0x14 } s)) ∧
    (cardOk card = true → cardFootprint card ≠ [] →
      (footRefused s₂ s₂.cur.core s₂.mine.gid card = true → AnswersIn (.jcsub d a ss) d (BitVec.ofNat 64 (die * 2 ^ 32 + 2 ^ 62)) s s₂) ∧
      (footRefused s₂ s₂.cur.core s₂.mine.gid card = false → 512 ≤ jobsQueued (s₂.die die) →
        exec (.jcsub d a ss) s = .next (stalled .event s)) ∧
      (footRefused s₂ s₂.cur.core s₂.mine.gid card = false → jobsQueued (s₂.die die) < 512 → s₂.slotRoom ss →
        AnswersIn (.jcsub d a ss) d (BitVec.ofNat 64 ((s₂.die die).jobNext.toNat + die * 2 ^ 32)) s (enqueueJob die j u)))) ∧
  (∀ (s s₁ : State) (d a : BitVec 6) (ss : BitVec 3) (j : Dword), s.unheld 0 → s.slotRoom ss → readS a s = .ok (j, s₁) →
    let die := s₁.die (nbits j.toNat 32 2)
    let num : BitVec 32 := j.setWidth 32
    (nbits j.toNat 62 2 = 1 → AnswersIn (.jcwait d a ss) d 2 s s₁) ∧
    (nbits j.toNat 62 2 ≠ 1 → die.jobs.any (fun q => q.num == num) = true → exec (.jcwait d a ss) s = .next (stalled .event s)) ∧
    (nbits j.toNat 62 2 ≠ 1 → die.jobs.any (fun q => q.num == num) = false →
      (∀ q, die.jobDone.find? (fun q => q.1 == num) = some q → AnswersIn (.jcwait d a ss) d (if q.2 then 1 else 0) s s₁) ∧
      (die.jobDone.find? (fun q => q.1 == num) = none → AnswersIn (.jcwait d a ss) d 0xFF s s₁)))

/-- R208, R223, R238, R240: the events of the engines: a queued job without earlier overlapping jobs starts; it and an operator are
carried out and complete, a fault setting cause 3 of their slot. -/
def Sys2Proof.Claims.EngineEvents : Prop :=
  (∀ (s : State) (d : BitVec 2) (j : Job), s.ev = .jobDispatch d → (s.die d.toNat).jobs = [j] → j.running = false →
    gangIdle s j.gid = false → cardPermit j.card.toNat = false →
    exec .jobDispatch s = .next ((s.modDie d.toNat (fun v => { v with jobs := [{ j with running := true, permit := false }] })).send
      (.jobComplete d j.num))) ∧
  (∀ (s : State) (d : BitVec 2) (j k : Job), s.ev = .jobDispatch d → (s.die d.toNat).jobs = [j, k] → j.running = true →
    k.running = false → k.num ≠ j.num → footEdge j k = true → exec .jobDispatch s = .next s) ∧
  (∀ (s u : State) (d : BitVec 2) (j : Job) (bad : Bool), s.ev = .jobComplete d j.num → (s.die d.toNat).jobs = [j] → j.running = true →
    j.permit = false → j.node = none → cardSig j.card.toNat = 0 → runCard j.actor j.card.toNat s = (u, bad) →
    (u.die d.toNat).jobs = [j] → (u.die d.toNat).jobDone = [] →
    exec .jobComplete s = .next (completePend j.core j.ctx j.id (if bad then 3 else 0)
      (u.modDie d.toNat (fun v => { v with jobs := [], jobDone := [(j.num, bad)] })))) ∧
  (∀ (s u : State) (d : Nat) (j : Job), s.ev = .operatorComplete j.id → opDie s j.id = some (d, j) → j.permit = false →
    cardSig j.card.toNat = 0 → runCard j.actor j.card.toNat s = (u, false) →
    exec .operatorComplete s = .next (completePend j.core j.ctx j.id 0 (u.modDie d (fun v => { v with ops := v.ops.filter (fun q => q.id != j.id) }))))

/-- JCSUB and JCWAIT; JOB_DISPATCH, JOB_COMPLETE and OPERATOR_COMPLETE. That a number of another kind answers 2 and that a running job
holds no entry are the model's (logs 51, 92, 110). -/
def Obligations.Jobs : Prop :=
  Sys2Proof.Claims.JobWords ∧ Sys2Proof.Claims.EngineEvents

/-- R303, R334 to R337: ASCFG and the segment-channel words: configuration or refusal, opening, elements, closing and the count. -/
def Sys2Proof.Claims.AshlarWords : Prop :=
  ∀ (s s₁ : State) (a : BitVec 4) (ss : BitVec 3) (va : VA) (u off : Nat), s.unheld 0 → s.slotRoom ss → readA a s = .ok (va, s₁) →
    (∀ (d b : BitVec 6) (w : Dword) (s₂ : State), readS b s₁ = .ok (w, s₂) → s₂.namesUnit va u off →
      let x := s₂.ashlar u
      let mst := nbits w.toNat 0 9
      let nseg := nbits w.toNat 9 3
      (off = 0 → unitBusy s₂ u = false → x.chans.any (fun c => c.2.isOpen && !c.2.pfx) = false →
        (w.toNat < 2 ^ 12 → mst ≤ 256 → nseg ≤ 4 → configRefused x mst nseg = false →
          AnswersIn (.ascfg d a b ss) d (BitVec.ofNat 64 (x.mst + x.nseg * 2 ^ 9)) s
            (s₂.modAshlar u (fun x => { x with mst := mst, nseg := nseg }))) ∧
        (2 ^ 12 ≤ w.toNat ∨ 256 < mst ∨ 4 < nseg ∨ configRefused x mst nseg = true →
          AnswersIn (.ascfg d a b ss) d (BitVec.ofNat 64 (x.mst + x.nseg * 2 ^ 9 + 2 ^ 63)) s s₂)) ∧
      (off % 4 = 0 →
        (w.toNat < 8 → w.toNat % 4 < x.nseg → (s₂.chan u (w.toNat % 4)).isOpen = false →
          AnswersIn (.segopen d a b ss) d 0 s (s₂.setChan u (w.toNat % 4)
            { isOpen := true, owner := (s₂.cur.core, s₂.cur.ctxNo), opMax := w.toNat / 4 == 1, rbase := off,
              kind := (s₂.chan u (w.toNat % 4)).kind })) ∧
        (8 ≤ w.toNat ∨ x.nseg ≤ w.toNat % 4 ∨ (s₂.chan u (w.toNat % 4)).isOpen = true →
          AnswersIn (.segopen d a b ss) d 1 s s₂)) ∧
      (∀ ch : BitVec 2,
        let c := s₂.chan u ch.toNat
        (c.isOpen = false ∨ c.owner = (s₂.cur.core, s₂.cur.ctxNo) →
          exec (.segput ch a b ss) s = .next (chanElem u ch.toNat (w.setWidth 32) s₂).passed ∧
          exec (.segput2 ch a b ss) s = .next (chanPair u ch.toNat w s₂).passed ∧
          exec (.segputPfx ch a b ss) s = .next (chanPrefix u ch.toNat (w.setWidth 32) s₂).passed) ∧
        (c.isOpen = true → c.owner ≠ (s₂.cur.core, s₂.cur.ctxNo) →
          exec (.segput ch a b ss) s = .next (precise { code := 5, va := va } s) ∧
          exec (.segput2 ch a b ss) s = .next (precise { code := 5, va := va } s) ∧
          exec (.segputPfx ch a b ss) s = .next (precise { code := 5, va := va } s)))) ∧
    (∀ (d : BitVec 6) (ch : BitVec 2), s₁.namesUnit va u off →
      let c := s₁.chan u ch.toNat
      let t := s₁.setChan u ch.toNat { c with isOpen := false }
      (c.isOpen = false → AnswersIn (.segclose d a ch ss) d (BitVec.allOnes 64) s s₁) ∧
      (c.isOpen = true → c.owner = (s₁.cur.core, s₁.cur.ctxNo) → c.bad = false → c.cnt = 0 → c.pfx = true →
        AnswersIn (.segclose d a ch ss) d (c.nclosed.setWidth 64) s t) ∧
      (c.isOpen = true → c.owner = (s₁.cur.core, s₁.cur.ctxNo) → c.bad = true ∨ c.cnt ≠ 0 ∨ c.pfx = false →
        exec (.segclose d a ch ss) s = .next (precise { code := 0x1D } (if awaitsOutcome s then s else t))) ∧
      AnswersIn (.segcnt d a ch ss) d (BitVec.ofNat 64 (c.cnt.toNat + c.kind.toNat * 2 ^ 24 + c.nclosed.toNat * 2 ^ 32 +
        (if c.isOpen then 2 ^ 56 else 0) + (if c.pfx then 2 ^ 57 else 0) + (if c.bad then 2 ^ 58 else 0))) s s₁)

/-- R335, R336: what an element does at an open channel: it joins the running sum or maximum, the last of its segment closes the
segment: the result goes to the channel's result place and the next word must be a prefix; an element where a prefix is due marks the
channel bad. -/
def Sys2Proof.Claims.SegmentsReduce : Prop :=
  ∀ (s : State) (u ch : Nat) (w : BitVec 32),
    let c := s.chan u ch
    c.isOpen = true → c.bad = false →
    (c.pfx = true → chanElem u ch w s = s.setChan u ch { c with bad := true }) ∧
    (c.pfx = false → c.cnt ≠ 1 → chanElem u ch w s = s.setChan u ch { c with cnt := c.cnt - 1, sum := some (chanFold c w) }) ∧
    (c.pfx = false → c.cnt = 1 → c.rbase < min ((s.ashlar u).mst * 256) 65536 →
      let t := chanElem u ch w s
      t.load (ashPlace u c.rbase) 4 = (chanFold c w).toNat ∧
      t.chan u ch = { c with cnt := 0, sum := none, pfx := true, rbase := c.rbase + 4, nclosed := c.nclosed + 1 } ∧
      ∀ p, p < ashPlace u c.rbase ∨ ashPlace u c.rbase + 4 ≤ p → memByte t.mem p = memByte s.mem p) ∧
    (∀ x : BitVec 32, c.sum = some x → c.kind ≠ 1 → c.opMax = false → chanFold c w = x + w) ∧
    (∀ x : BitVec 32, c.sum = some x → c.kind ≠ 1 → c.opMax = true → chanFold c w = if x.toInt < w.toInt then w else x)

/-- ASCFG and the segment channels. -/
def Obligations.AshlarSegments : Prop :=
  Sys2Proof.Claims.AshlarWords ∧ Sys2Proof.Claims.SegmentsReduce

/-- R328 to R332: SIGDEC, SIGWAIT, DCINIT and DCDEC. The count field answered beside status 2 is a free value (log 27). -/
def Sys2Proof.Claims.SignalsAndCounters : Prop :=
  (∀ (s s₁ s₂ s₃ : State) (d b : BitVec 6) (a : BitVec 4) (ss : BitVec 3) (va : VA) (n : Dword), s.unheld 0 →
    readA a s = .ok (va, s₁) → readS b s₁ = .ok (n, s₂) →
    (va.toNat % 8 ≠ 0 → s.me.accessesBefore s.position = false → s.slotRoom ss →
      exec (.sigdec d a b ss) s = .next (precise { code := 3, va := va } s)) ∧
    (va.toNat % 8 = 0 → vaRegion va ≠ 13 → s.me.accessesBefore s.position = false → s.slotRoom ss →
      exec (.sigdec d a b ss) s = .next (precise { code := 4, va := va } s)) ∧
    (∀ tgt, va.toNat % 8 = 0 → vaRegion va = 13 → s.me.accessesBefore s.position = false → s.slotRoom ss →
      check va 8 .atomic s₂ = .ok (tgt, s₃) →
      let r := decSig s₃.mine.asid va (n.toNat % 2 ^ 56) 0 s₃
      AnswersIn (.sigdec d a b ss) d (BitVec.ofNat 64 r.2) s r.1) ∧
    (∀ tgt, va.toNat % 8 = 0 → vaRegion va = 13 → s₂.me.wait = none → s₂.slotRoom ss → check va 8 .read s₂ = .ok (tgt, s₃) →
      exec (.sigwait d a b ss) s = .next (stalled .event (post { s.request .sigwait va 8 0 n false .none .plain (tgt.leaf s) with nt := false }
        false (({ s with nextId := s.nextId + 1 } : State).onMe (fun x =>
          { x with pend := x.pend ++ [{ id := s.nextId, pos := s₃.position, ss := ss, kind := .access, hold := true }],
                   wait := some { id := s.nextId, val := none } }))))) ∧
    (∀ (w : Waiting) (v : Dword), va.toNat % 8 = 0 → vaRegion va = 13 → s₂.me.wait = some w → w.val = some v →
      AnswersIn (.sigwait d a b ss) d v s s₂)) ∧
  (∀ (s s₁ s₂ : State) (d a b : BitVec 6) (ss : BitVec 3) (r n : Dword), s.unheld 0 → s.slotRoom ss → readS a s = .ok (r, s₁) →
    readS b s₁ = .ok (n, s₂) →
    (∀ die g k q, nodeOf s₂ s₂.mine.asid r = some (die, g, k, q) →
      (n.toNat ≤ 65535 → q.past = false →
        AnswersIn (.dcinit d a b ss) d (BitVec.ofNat 64 q.count.toNat) s (setCounter die g.num k (BitVec.ofNat 16 n.toNat) s₂)) ∧
      (n.toNat ≤ 65535 → q.past = true → AnswersIn (.dcinit d a b ss) d (BitVec.ofNat 64 (2 ^ 62 + q.count.toNat)) s s₂) ∧
      (65535 < n.toNat → AnswersIn (.dcinit d a b ss) d (BitVec.ofNat 64 (3 * 2 ^ 62 + q.count.toNat)) s s₂) ∧
      (s.me.accessesBefore s.position = false →
        (0 < n.toNat → n.toNat ≤ q.count.toNat → AnswersIn (.dcdec d a b ss) d (BitVec.ofNat 64 (q.count.toNat - n.toNat)) s
          (setCounter die g.num k (q.count - BitVec.ofNat 16 n.toNat) s₂)) ∧
        (n.toNat ≤ 65535 → q.count.toNat < n.toNat → exec (.dcdec d a b ss) s = .next (precise { code := 0x1C } s)) ∧
        (n.toNat = 0 ∨ 65535 < n.toNat → AnswersIn (.dcdec d a b ss) d (BitVec.ofNat 64 (3 * 2 ^ 62 + q.count.toNat)) s s₂))) ∧
    (nodeOf s₂ s₂.mine.asid r = none →
      let free := (Config.freeDword s₂.draws).toNat % 2 ^ 16
      (n.toNat ≤ 65535 → AnswersIn (.dcinit d a b ss) d (BitVec.ofNat 64 (2 * 2 ^ 62 + free)) s s₂.drawn) ∧
      (s.me.accessesBefore s.position = false → 0 < n.toNat → n.toNat ≤ 65535 →
        AnswersIn (.dcdec d a b ss) d (BitVec.ofNat 64 (2 * 2 ^ 62 + free)) s s₂.drawn)))

/-- R203 to R205, R289: RHOPEN claims a handle for a range or answers all ones; RHPRI, RHDEMOTE, RHEVICT and RHCLOSE act on an open
handle of the gang; any other number or a bad field raises the handle trap (0x1B). RHPRI takes bits [2:0] of its source alone (log 52). -/
def Sys2Proof.Claims.ResidencyHandles : Prop :=
  (∀ (s s₁ s₂ : State) (d b : BitVec 6) (a : BitVec 4) (ss : BitVec 3) (va : VA) (w : Dword), s.unheld 0 → s.slotRoom ss →
    readA a s = .ok (va, s₁) → readS b s₁ = .ok (w, s₂) →
    let len := nbits w.toNat 0 40
    let pri := nbits w.toNat 40 3
    let die := coreDie s₂.cur.core
    let hs := (s₂.die die).handles
    let clash := hs.any (fun e => handleOpen e.2 && handleAsid e.2 == s₂.mine.asid.toNat &&
      rangesMeet (handleBase e.2) (handleLen e.2) va.toNat (if len = 0 then 2 ^ 40 else len))
    (va.toNat % 128 ≠ 0 ∨ len % 128 ≠ 0 ∨ 2 ^ 43 ≤ w.toNat ∨ pri = 0 →
      exec (.rhopen d a b ss) s = .next (precise { code := 0x1B } s)) ∧
    (va.toNat % 128 = 0 → len % 128 = 0 → w.toNat < 2 ^ 43 → pri ≠ 0 →
      ((clash = true ∨ ∀ n, n < 64 → handleOpen (tget hs n 0) = true) → AnswersIn (.rhopen d a b ss) d (BitVec.allOnes 64) s s₂) ∧
      (∀ n, clash = false → n < 64 → handleOpen (tget hs n 0) = false → (∀ m, m < n → handleOpen (tget hs m 0) = true) →
        let h : BitVec 256 := BitVec.ofNat 256 (1 + pri * 2 + s₂.mine.asid.toNat * 2 ^ 4 + s₂.mine.gid.toNat * 2 ^ 16 + va.toNat * 2 ^ 64 +
          len * 2 ^ 144)
        AnswersIn (.rhopen d a b ss) d (BitVec.ofNat 64 n) s (s₂.modDie die (fun k => { k with handles := tset k.handles n h }))))) ∧
  (∀ (s s₁ s₂ : State) (a b : BitVec 6) (ss : BitVec 3) (n p : Dword), s.unheld 0 → s.slotRoom ss → readS a s = .ok (n, s₁) →
    let die := coreDie s₁.cur.core
    let h := tget (s₁.die die).handles n.toNat 0
    (n.toNat < 64 → handleOpen h = true → handleGid h = s₁.mine.gid.toNat →
      (readS b s₁ = .ok (p, s₂) → p.toNat % 8 ≠ 0 →
        exec (.rhpri a b ss) s = .next (setHandlePri die n.toNat (p.setWidth 3) s₂).passed) ∧
      (readS b s₁ = .ok (p, s₂) → p.toNat % 8 = 0 → exec (.rhpri a b ss) s = .next (precise { code := 0x1B } s)) ∧
      exec (.rhdemote a ss) s = .next (setHandlePri die n.toNat 0 s₁).passed ∧
      exec (.rhevict a ss) s = .next (evictHandle die n.toNat s₁).passed ∧
      exec (.rhclose a ss) s = .next (closeHandle die n.toNat s₁).passed) ∧
    (64 ≤ n.toNat ∨ handleOpen h = false ∨ handleGid h ≠ s₁.mine.gid.toNat →
      exec (.rhpri a b ss) s = .next (precise { code := 0x1B } s) ∧ exec (.rhdemote a ss) s = .next (precise { code := 0x1B } s) ∧
      exec (.rhevict a ss) s = .next (precise { code := 0x1B } s) ∧ exec (.rhclose a ss) s = .next (precise { code := 0x1B } s)))

/-- SIGDEC, SIGWAIT, DCINIT and DCDEC; the residency handles. RHPRI by its low bits and the free count field are the model's (logs 27,
52). -/
def Obligations.SignalsAndHandles : Prop :=
  Sys2Proof.Claims.SignalsAndCounters ∧ Sys2Proof.Claims.ResidencyHandles

/-! ## Attention: merge entries, subscriptions, passes (R304 to R322) -/

/-- R312 to R314, R319 to R321: MRGCFG allocates, resets and frees entries; MRGPUT puts a partial into its entry's window, whence those
that are due are merged in the order of their sequence numbers; MRGGET gives the result once every partial is in, and resets. -/
def Sys2Proof.Claims.MergeWords : Prop :=
  ∀ (s s₁ s₂ : State) (a : BitVec 4) (b : BitVec 6) (ss : BitVec 3) (va : VA) (r : Dword), s.unheld 0 → s.slotRoom ss →
    readA a s = .ok (va, s₁) → readS b s₁ = .ok (r, s₂) →
    (∀ (d : BitVec 6) (u off : Nat), s₂.namesUnit va u off → off % 256 = 0 → r.toNat < 2 ^ 17 →
      let blk := off / 256
      let e := mergeEntry s₂ u blk
      let n : MergeEntry := { alloc := true, dv := BitVec.ofNat 3 r.toNat, n := nbits r.toNat 3 12 + 1 }
      let x := s₂.ashlar u
      let meets := x.entries.any (fun q => q.2.alloc && rangesMeet q.1 (entryBlocks q.2.dv) blk (entryBlocks n.dv))
      (nbits r.toNat 15 2 = 0 → x.mst ≤ blk → blk + entryBlocks n.dv ≤ 256 → meets = false →
        AnswersIn (.mrgcfg d a b ss) d 0 s (setEntry u blk n.fresh s₂)) ∧
      (nbits r.toNat 15 2 = 0 → blk < x.mst ∨ 256 < blk + entryBlocks n.dv ∨ meets = true →
        AnswersIn (.mrgcfg d a b ss) d 1 s s₂) ∧
      (nbits r.toNat 15 2 = 1 → e.alloc = true → AnswersIn (.mrgcfg d a b ss) d 0 s (setEntry u blk e.fresh s₂)) ∧
      (nbits r.toNat 15 2 = 2 → e.alloc = true → e.sub = false →
        AnswersIn (.mrgcfg d a b ss) d 0 s (setEntry u blk { e with alloc := false } s₂)) ∧
      (nbits r.toNat 15 2 ≠ 0 → nbits r.toNat 15 2 ≠ 3 → e.alloc = false → AnswersIn (.mrgcfg d a b ss) d 1 s s₂) ∧
      (nbits r.toNat 15 2 = 3 → exec (.mrgcfg d a b ss) s = .next (precise { code := 1 } s))) ∧
    (∀ (u blk : Nat) (l : List Byte) (s₃ : State), va.toNat % 64 = 0 → (ownOffset s₁.cur.core va).isSome = true →
      entryRef r.toNat = some (u, blk) → (s₂.ashlar u).gid = s₂.mine.gid →
      let e := mergeEntry s₂ u blk
      e.alloc = true →
      (inOwn s.cur.core va (0x40 + 4 * dvOf e.dv) = false → exec (.mrgput a b ss) s = .next (precise { code := 0x1A } s)) ∧
      (inOwn s.cur.core va (0x40 + 4 * dvOf e.dv) = true → readSpan va (0x40 + 4 * dvOf e.dv) s₂ = .ok (l, s₃) →
      let q := leNat ((l.drop 8).take 2)
      leNat ((l.drop 0x0A).take 0x36) = 0 → e.nextS ≤ q → q < e.n →
      (q < e.nextS + 8 → tfind e.window (q % 8) = none →
        let p : Partial := ⟨BitVec.ofNat 32 (leNat (l.take 4)), BitVec.ofNat 32 (leNat ((l.drop 4).take 4)), wordsOf (dvOf e.dv) (l.drop 0x40)⟩
        exec (.mrgput a b ss) s = .next (setEntry u blk ({ e with window := tset e.window (q % 8) p }.drain 8) s₃).passed) ∧
      (q < e.nextS + 8 → (tfind e.window (q % 8)).isSome = true → exec (.mrgput a b ss) s = .next (precise { code := 0x1A } s)) ∧
      (e.nextS + 8 ≤ q → s₃.me.wait = none → exec (.mrgput a b ss) s = .next (stalled .event ((s.onMe (fun x =>
        { x with wait := some { id := s.nextId, val := none } })).modDie (coreDie s.cur.core) (fun d => { d with mrgStall := d.mrgStall + 1 })))))) ∧
    (∀ (d : BitVec 6) (u blk : Nat) (s₃ : State), va.toNat % 64 = 0 → (ownOffset s₁.cur.core va).isSome = true →
      entryRef r.toNat = some (u, blk) → (s₂.ashlar u).gid = s₂.mine.gid →
      let e := mergeEntry s₂ u blk
      let bytes := leBytes 4 e.acc.m.toNat ++ leBytes 4 e.acc.l.toNat ++ leBytes 2 e.n ++ List.replicate 0x36 0 ++
        (e.acc.o.map (fun x => leBytes 4 x.toNat)).flatten
      e.alloc = true → inOwn s₂.cur.core va (0x40 + 4 * dvOf e.dv) = true →
      (e.nextS ≠ e.n → exec (.mrgget d a b ss) s = .next (stalled .event s)) ∧
      (e.nextS = e.n → writeBytesNow s₂ s₂.cur.core s₂.cur.ctxNo va bytes = .ok s₃ →
        AnswersIn (.mrgget d a b ss) d (BitVec.ofNat 64 (e.acc.m.toNat + e.acc.l.toNat * 2 ^ 32)) s
          (setEntry u blk e.fresh (feChanged s₂.cur.core (setFull s₂.cur.core ((ownOffset s₂.cur.core va).getD 0) bytes.length s₃)))))

/-- R313, R314, Table 13-5: a fresh entry is empty with m = −∞ and l = 0; partials leave the window in the order of their numbers:
what is due is merged and what is not stays. -/
def Sys2Proof.Claims.PartialsMergeInOrder : Prop :=
  ∀ e : MergeEntry,
    (e.fresh.acc.m = 0xFF80_0000 ∧ e.fresh.acc.l = 0 ∧ e.fresh.acc.o = List.replicate (dvOf e.dv) 0 ∧ e.fresh.empty = true ∧
      e.fresh.nextS = 0 ∧ e.fresh.window = [] ∧ e.fresh.n = e.n ∧ e.fresh.alloc = e.alloc) ∧
    (tfind e.window (e.nextS % 8) = none → e.drain 8 = e) ∧
    (∀ p, e.window = [(e.nextS % 8, p)] →
      let t := e.drain 8
      t.window = [] ∧ t.nextS = e.nextS + 1 ∧ t.empty = false ∧ (e.empty = true → t.acc = p) ∧
        (e.empty = false → t.acc = mergeInto e.acc p)) ∧
    (∀ p q, e.window = [(e.nextS % 8, p), ((e.nextS + 1) % 8, q)] → e.nextS % 8 ≠ 7 → e.empty = true →
      (e.drain 8).acc = mergeInto p q ∧ (e.drain 8).nextS = e.nextS + 2)

/-- MRGCFG, MRGPUT and MRGGET; partials merge in the order of their numbers. -/
def Obligations.Merges : Prop :=
  Sys2Proof.Claims.MergeWords ∧ Sys2Proof.Claims.PartialsMergeInOrder

/-- R305, R306, R309, R315 to R318: PGSUB, PGUNSUB, PGPASS, PGRECV and PGRECV.FREE. A PGSUB of a gang whose pass runs joins its round
when the round has not taken its pages yet, or holds all of the table's and has begun none; else it is late: status 1, due in the round
after. That PGRECV meets the poison of its tag is log 97. -/
def Obligations.PageWords : Prop :=
  (∀ (s s₁ s₂ s₃ : State) (d : BitVec 6) (a : BitVec 4) (ss : BitVec 3) (va : VA) (l t : List Byte), s.unheld 0 → s.slotRoom ss →
    readA a s = .ok (va, s₁) → va.toNat % 64 = 0 → readWord va 64 false s₁ = .ok (l, s₂) →
    let desc : BitVec 512 := BitVec.ofNat 512 (leNat l)
    let die := coreDie s₃.cur.core
    let v := s₃.die die
    let gid := s₃.mine.gid
    let pages := (wordsOf (subN desc) t).map (·.toNat)
    let run := runningPass v gid
    (nbits desc.toNat 92 4 ≠ 0 ∨ nbits desc.toNat 126 2 ≠ 0 ∨ 2 ^ 160 ≤ desc.toNat →
      exec (.pgsub d a ss) s = .next (precise { code := 0x1A } s)) ∧
    (nbits desc.toNat 92 4 = 0 → nbits desc.toNat 126 2 = 0 → desc.toNat < 2 ^ 160 → subTable desc % 4 = 0 →
      readSpan (BitVec.ofNat 80 (subTable desc)) (4 * subN desc) s₂ = .ok (t, s₃) →
      ∀ u b, entryRef (subMrg desc) = some (u, b) → (s₃.ashlar u).gid = gid →
        (subMisuse s₃ gid desc pages = true → exec (.pgsub d a ss) s = .next (precise { code := 0x1A } s)) ∧
        (subMisuse s₃ gid desc pages = false →
          let ill := run.any (fun p => passDv p.desc != subDv s₃ desc || decide (subSsz desc < slotNeed p.desc))
          (ill = true → AnswersIn (.pgsub d a ss) d 3 s s₃) ∧
          (ill = false → storeFull v gid pages = true → AnswersIn (.pgsub d a ss) d 2 s s₃) ∧
          let joins (due : Nat) : State := markGroup desc true (s₃.modDie die (fun k =>
            { k with subs := k.subs ++ [{ desc := desc, gid := gid, asid := s₃.mine.asid, pages := pages.map (BitVec.ofNat 16), due := due,
                                          k := 0, faulted := false }] }))
          (run = none → storeFull v gid pages = false → AnswersIn (.pgsub d a ss) d 0 s (joins 0)) ∧
          (∀ p, run = some p → ill = false → storeFull v gid pages = false →
            let onTime := p.between = true ∨ ∀ q ∈ pages, BitVec.ofNat 16 q ∉ p.begun ∧ BitVec.ofNat 16 q ∈ p.pageSet
            (onTime → AnswersIn (.pgsub d a ss) d 0 s (joins p.round)) ∧
            (¬ onTime → AnswersIn (.pgsub d a ss) d 1 s (joins (p.round + 1))))))) ∧
  (∀ (s s₁ : State) (d a : BitVec 6) (ss : BitVec 3) (r : Dword) (u b : Nat), s.unheld 0 → s.slotRoom ss → readS a s = .ok (r, s₁) →
    entryRef r.toNat = some (u, b) → (s₁.ashlar u).gid = s₁.mine.gid →
    let die := coreDie s₁.cur.core
    let found := (s₁.die die).subs.find? (fun q => q.gid == s₁.mine.gid && subMrg q.desc == r.toNat)
    (found = none → AnswersIn (.pgunsub d a ss) d 1 s s₁) ∧
    (∀ q, found = some q → AnswersIn (.pgunsub d a ss) d 0 s (dropSub die q s₁))) ∧
  (∀ (s s₁ s₂ : State) (d : BitVec 6) (a : BitVec 4) (ss : BitVec 3) (va : VA) (l : List Byte), s.unheld 0 → s.slotRoom ss →
    readA a s = .ok (va, s₁) → va.toNat % 64 = 0 → readWord va 64 false s₁ = .ok (l, s₂) →
    let n := leNat l % 2 ^ 512
    let desc : BitVec 512 := BitVec.ofNat 512 (leNat l)
    let die := coreDie s₂.cur.core
    let v := s₂.die die
    let ok := nbits n 80 16 = 0 ∧ nbits n 135 57 = 0 ∧ n < 2 ^ 256 ∧ passPool desc % 256 = 0 ∧
      (pageSize desc + 255) / 256 * 256 ≤ passStride desc
    let clash := v.subs.any (fun q => q.gid == s₂.mine.gid && (subDv s₂ q.desc != passDv desc || decide (subSsz q.desc < slotNeed desc)))
    (¬ ok → exec (.pgpass d a ss) s = .next (precise { code := 0x1A } s)) ∧
    (ok → 4 ≤ v.passes.length → exec (.pgpass d a ss) s = .next (stalled .event s)) ∧
    (ok → v.passes.length < 4 → clash = true → AnswersIn (.pgpass d a ss) d (BitVec.ofNat 64 (2 ^ 62)) s s₂) ∧
    (ok → v.passes.length < 4 → clash = false → s₂.slotRoom ss →
      let p : Pass := { num := v.passNext, desc := desc, gid := s₂.mine.gid, asid := s₂.mine.asid, core := s₂.cur.core,
                        ctx := s₂.cur.ctxNo, id := s₂.nextId, user := !s₂.me.dev, started := false, round := 0, todo := [],
                        pageSet := [], begun := [], fetched := [], failed := false, paused := false }
      AnswersIn (.pgpass d a ss) d (v.passNext.setWidth 64) s (sendOnce (.passRoundStart (BitVec.ofNat 2 die))
        ((s₂.joined ss .token false .none).modDie die (fun t => { t with passes := t.passes ++ [p], passNext := t.passNext + 1 }))))) ∧
  (∀ (s s₁ : State) (d : BitVec 6) (a : BitVec 4) (ss : BitVec 3) (va : VA) (off : Nat), s.unheld 0 → s.slotRoom ss →
    readA a s = .ok (va, s₁) → ownOffset s₁.cur.core va = some off → off % 256 = 0 →
    let c := s₁.cur.core
    (isFull s₁ c (off / 16) = false → exec (.pgrecv d a ss) s = .next (stalled .event s)) ∧
    (isFull s₁ c (off / 16) = true → s₁.flawed (spPlace c off) 8 = true → exec (.pgrecv d a ss) s = .next (precise { code := 0x1E, va := va } s)) ∧
    (isFull s₁ c (off / 16) = true → s₁.flawed (spPlace c off) 8 = false → s₁.mine.power (off / 16384) = .on →
      AnswersIn (.pgrecv d a ss) d (BitVec.ofNat 64 (s₁.load (spPlace c off) 8)) s s₁) ∧
    (s.me.accessesBefore s.position = false →
      (ringSlot s₁ c off = none → exec (.pgrecvFree a ss) s = .next (precise { code := 0x1A } s)) ∧
      (∀ base z, ringSlot s₁ c off = some (base, z) → exec (.pgrecvFree a ss) s = .next
        (sendOnce (.pageDelivery (BitVec.ofNat 2 (coreDie c)))
          (feChanged c (s₁.modCore c (fun v => { v with full := v.full.filter (fun g => g < base / 16 || (base + z) / 16 ≤ g) })))).passed))) ∧
  (∀ (s s₁ : State) (d : BitVec 6) (a : BitVec 4) (ss : BitVec 3) (va : VA), s.unheld 0 → s.slotRoom ss →
    readA a s = .ok (va, s₁) → ownOffset s₁.cur.core va = none → exec (.pgrecv d a ss) s = .next (precise { code := 4, va := va } s))

/-- R308, R309, R310, R317: a pass starts with the pages of its due subscriptions, least sequence number first; the streamer fetches
them, a fault ending the pass with cause 3; a page that waits in a staging buffer is delivered to its subscriber's free slot: the image,
then the tag, whose granule is full; with the last one the next round starts, when a subscription is due in it, or the pass ends, and
its end completes the slot. Pages that a pass has carried from another die stand in staging buffers before it goes on. -/
def Obligations.PassEvents : Prop :=
  ∀ (s : State) (d : BitVec 2) (p : Pass),
    (s.die d.toNat).passes = [p] →
    let due := (s.die d.toNat).subs.any (fun q => q.gid == p.gid && q.due == p.round + 1 && !q.faulted)
    let nextRound := sendOnce (.passRoundStart d) (s.modDie d.toNat (fun v => { v with passes := [{ p with round := p.round + 1, pageSet := [], between := true }] }))
    (s.ev = .passRoundStart d → p.paused = false → p.started = false → (s.die d.toNat).subs = [] → exec .passRoundStart s =
      .next (sendOnce (.passEnd d) (s.modDie d.toNat (fun v =>
        { v with passes := [{ p with started := true, todo := [], pageSet := [], begun := [], between := false }] })))) ∧
    (∀ q : Subscription, s.ev = .passRoundStart d → p.paused = false → p.started = true → p.ended = false → p.pageSet = [] →
      (s.die d.toNat).subs = [q] →
      q.gid = p.gid → q.due = p.round → q.faulted = false → q.pages.Nodup → q.pages ≠ [] → q.pages.length ≤ 4096 →
      exec .passRoundStart s = .next (sendOnce (.pageFetch d) (s.modDie d.toNat (fun v =>
        { v with passes := [{ p with todo := q.pages, pageSet := q.pages, begun := [], between := false }] })))) ∧
    (p.carried ≠ [] →
      let u := s.modDie d.toNat (fun v => { v with passes := [{ p with carried := [] }], staging := v.staging ++ p.carried })
      (s.ev = .pageFetch d → exec .pageFetch s = exec .pageFetch u) ∧ (s.ev = .pageDelivery d → exec .pageDelivery s = exec .pageDelivery u) ∧
      (s.ev = .passEnd d → exec .passEnd s = .next s)) ∧
    (∀ page rest, s.ev = .pageFetch d → p.carried = [] → p.todo = page :: rest → p.paused = false → (s.die d.toNat).staging = [] →
      p.fetched.contains page = false →
      let at_ : VA := BitVec.ofNat 80 (passPool p.desc + page.toNat * passStride p.desc)
      let u := s.modDie d.toNat (fun v => { v with passes := [{ p with todo := rest, begun := p.begun ++ [page], fetched := p.fetched ++ [page] }] })
      (∀ e, engReadBytes p.core p.gid p.asid p.user at_ (pageSize p.desc) u = .error e →
        ∃ t, exec .pageFetch s = .next t ∧ Msg.pageDelivery d ∈ t.agenda ∧
          ((t.die d.toNat).passes.map (fun q => (q.failed, q.ended, q.todo))) = [(true, true, [])]) ∧
      (∀ v image, engReadBytes p.core p.gid p.asid p.user at_ (pageSize p.desc) u = .ok (v, image) → (v.die d.toNat).staging = [] →
        ∃ t x, exec .pageFetch s = .next t ∧ (t.die d.toNat).staging = [x] ∧ x.page = page ∧ x.image = image)) ∧
    (∀ (c : Nat) (q : Subscription) (x : Staged), s.ev = .pageDelivery d → p.carried = [] → p.paused = false → p.started = true → p.pageSet ≠ [] → p.todo = [] →
      (s.die d.toNat).staging = [x] → (s.die d.toNat).subs = [q] → subMrg q.desc < 2 ^ 25 → x.subs = [BitVec.ofNat 25 (subMrg q.desc)] →
      q.gid = p.gid → q.faulted = false → (p.ended = true ∨ q.due ≠ p.round + 1) → rankCore s p.gid (subRank q.desc) = some c →
      let slot := subRing q.desc + q.k % subSlots q.desc * (subSsz q.desc * 256)
      touchesLiveArea s c slot (subSsz q.desc * 256) = false → isFull s c (slot / 16) = false → (s.core c).feWait = [] →
      (∀ b, (s.core c).power b = .on) →
      ∃ t, exec .pageDelivery s = .next t ∧ (t.die d.toNat).staging = [] ∧ (t.die d.toNat).subs = [{ q with k := q.k + 1 }] ∧
        isFull t c (slot / 16) = true ∧ t.load (spPlace c slot) 16 = ringTag p x.page (seqOf q x.page) % 2 ^ 128 ∧
        Msg.passEnd d ∈ t.agenda) ∧
    (∀ (c off : Nat) (q : Subscription) (image : List Byte) (page : BitVec 16), (s.die d.toNat).subs = [q] → q.gid = p.gid →
      q.faulted = false → subMrg q.desc < 2 ^ 25 → rankCore s p.gid (subRank q.desc) = some c →
      off = subRing q.desc + q.k % subSlots q.desc * (subSsz q.desc * 256) → touchesLiveArea s c off (subSsz q.desc * 256) = false →
      isFull s c (off / 16) = true → deliverPage d.toNat p page image (BitVec.ofNat 25 (subMrg q.desc)) s = (s, false)) ∧
    (s.ev = .pageDelivery d → p.carried = [] → p.paused = false → p.started = true → p.pageSet ≠ [] → p.todo = [] → (s.die d.toNat).staging = [] →
      (p.ended = true ∨ due = false → ∃ t, exec .pageDelivery s = .next t ∧ Msg.passEnd d ∈ t.agenda ∧ t.mem = s.mem) ∧
      (p.ended = false → due = true → exec .pageDelivery s = .next nextRound)) ∧
    (s.ev = .passEnd d → p.carried = [] → p.started = true → p.paused = false → p.todo = [] → (s.die d.toNat).staging = [] →
      (p.ended = false → due = true → exec .passEnd s = .next nextRound) ∧
      (p.ended = true ∨ due = false → passSig p.desc = 0 → exec .passEnd s = .next (completePend p.core p.ctx p.id (if p.failed then 3 else 0)
        (s.modDie d.toNat (fun v => { v with passes := [] })))))

/-! ## Ports and connectors (R245 to R274) -/

/-- R68, R263, R264, R270: PUT and GET: a slot that is bound the right way and offers nothing sends an offer under its next serial and the
word waits; when the offer has fired the slot is idle again and the word completes, a GET with the parcel; a dropped connector raises
the connector-dropped trap (0x18) and has taken no queue item, any other misuse the port-misuse trap (0x16), a source that no word reads
the illegal-instruction trap. -/
def Sys2Proof.Claims.PutAndGet : Prop :=
  ∀ (s s₁ : State) (r : BitVec 6) (p : BitVec 4) (ss : BitVec 3) (n : BitVec 6) (l : PortSlot), s.unheld 0 → s.slotRoom ss →
    let c := s.cur.core
    let k := s.cur.ctxNo
    let q := s.port c p.toNat
    (q.bound = true → q.get = false → q.offer = .none → q.blk = false → s.me.accessesBefore s.position = false →
      s.givesParcel q r n l s₁ → s₁.cur = s.cur →
      exec (.put r p ss n) s = .next (stalled .event (sendOffer c p.toNat { l with blk := true, owner := some k, token := none } s₁))) ∧
    (q.wide = false → srcOk r = false → exec (.put r p ss n) s = .next (precise { code := 1 } s)) ∧
    (q.wide = true ∨ srcOk r = true → q.get = false → q.blk = true → q.owner = some k →
      let back (u : State) : State := match q.src with
        | some v => unpop c k r v u
        | none => u
      (q.offer = .fired → exec (.put r p ss n) s = .next (freeFire c p.toNat (s.setPort c p.toNat q.idle)).passed) ∧
      (q.offer = .pending → exec (.put r p ss n) s = .next (stalled .event (s.setPort c p.toNat q))) ∧
      (q.offer = .dropped → exec (.put r p ss n) s =
        .next (precise { code := 0x18 } (if awaitsOutcome s then s
          else back (s.setPort c p.toNat { q with blk := false, owner := none, src := none }))))) ∧
    (q.wide = true ∨ srcOk r = true → q.bound = false → q.blk = false → q.offer ≠ .dropped → exec (.put r p ss n) s = .next (precise { code := 0x16 } s)) ∧
    (q.bound = true → q.get = true → q.offer = .none → q.blk = false → q.takesParcel r →
      exec (.get r p ss) s = .next (stalled .event (sendOffer c p.toNat { q with blk := true, owner := some k, token := none } s))) ∧
    (q.get = true → q.takesParcel r → q.owner = some k → q.offer = .fired →
      let u := freeFire c p.toNat (s.setPort c p.toNat { q with blk := true }.idle)
      (q.wide = false → ∀ t, writeS r (BitVec.ofNat 64 (leNat (q.parcel.take 8))) u = .ok ((), t) → exec (.get r p ss) s = .next t.passed) ∧
      (q.wide = true → ∀ t, writeV (r.setWidth 4) (BitVec.ofNat 512 (leNat q.parcel)) u = .ok ((), t) →
        exec (.get r p ss) s = .next t.passed)) ∧
    (q.takesParcel r → q.offer = .dropped → q.blk = false → exec (.get r p ss) s = .next (precise { code := 0x18 } s)) ∧
    (q.get = true → q.takesParcel r → q.offer = .dropped → q.blk = true → q.owner = some k → q.src = none →
      exec (.get r p ss) s = .next (precise { code := 0x18 } (if awaitsOutcome s then s
        else s.setPort c p.toNat { q with blk := false, owner := none, src := none })))

/-- R265, R270, Table 11-10: OFFER.PUT and OFFER.GET send an offer and go on; POLL gives the slot's state and takes a fired put back;
RETRACT ends an offer: 0 retracted, 1 fired, 2 none, 3 dropped; of a pending one it waits for the answer, where gang-stop does not halt
it, and another RETRACT of the slot waits for it. That POLL and RETRACT of an unbound slot take the port-misuse trap is log 29. -/
def Sys2Proof.Claims.OffersAreAsynchronous : Prop :=
  ∀ (s s₁ : State) (r : BitVec 6) (p : BitVec 4) (ss : BitVec 3) (n : BitVec 6) (l : PortSlot), s.unheld 0 → s.slotRoom ss →
    let c := s.cur.core
    let k := s.cur.ctxNo
    let q := s.port c p.toNat
    (q.bound = true → q.get = false → q.offer = .none → ss = 0 → s.me.accessesBefore s.position = false →
      s.givesParcel q r n l s₁ → s₁.cur = s.cur →
      exec (.offerPut r p ss n) s = .next (sendOffer c p.toNat { l with blk := false, owner := none, token := none, src := none } s₁).passed) ∧
    (q.wide = false → srcOk r = false → exec (.offerPut r p ss n) s = .next (precise { code := 1 } s)) ∧
    (q.bound = true → q.get = true → q.offer = .none → ss = 0 → exec (.offerGet p ss) s =
      .next (sendOffer c p.toNat { q with blk := false, owner := none, token := none } s).passed) ∧
    (q.bound = true → q.get = true → q.offer = .none → ss ≠ 0 → exec (.offerGet p ss) s =
      .next (sendOffer c p.toNat { q with blk := false, owner := none, token := some ⟨c, s.cur.ctxNo, s.nextId⟩ }
        (s.joined ss .token false .none)).passed) ∧
    (q.bound = true ∨ q.offer ≠ .none →
      (¬ (q.offer = .fired ∧ q.get = false ∧ q.blk = false) → AnswersIn (.poll r p ss) r (pollWord q) s s) ∧
      (q.offer = .fired → q.get = false → q.blk = false →
        AnswersIn (.poll r p ss) r (pollWord q) s (freeFire c p.toNat (s.setPort c p.toNat q.idle))) ∧
      (q.asker = none → q.offer = .none → AnswersIn (.retract r p ss) r 2 s s) ∧
      (q.asker = none → q.offer = .dropped →
        AnswersIn (.retract r p ss) r 3 s (s.setPort c p.toNat { q with ans := none, asker := none })) ∧
      (q.asker = none → q.offer = .fired → q.get = false → q.blk = false →
        AnswersIn (.retract r p ss) r 1 s (freeFire c p.toNat (s.setPort c p.toNat { q.idle with ans := none, asker := none }))) ∧
      (q.asker = none → q.offer = .fired → (q.get = true ∨ q.blk = true) →
        AnswersIn (.retract r p ss) r 1 s (s.setPort c p.toNat { q with ans := none, asker := none })) ∧
      (q.asker = none → q.offer = .pending → exec (.retract r p ss) s = .next (stalled .event (((s.setPort c p.toNat
        { q with offer := .retracting, ans := none, asker := some k }).send
          (.retractMessage (connKs q.conn) (connIdx q.conn) q.port.toNat c p.toNat q.serial)).onMe (fun x => { x with within := true })))) ∧
      (q.asker = none → q.offer = .retracting → exec (.retract r p ss) s = .next (stalled .event s))) ∧
    (q.asker = some k → q.ans = some 0 →
      AnswersIn (.retract r p ss) r 0 s (s.setPort c p.toNat { q with ans := none, asker := none })) ∧
    (q.asker = some k → q.ans = none → exec (.retract r p ss) s = .next (stalled .event (s.onMe (fun x => { x with within := true })))) ∧
    (∀ j, q.asker = some j → j ≠ k → exec (.retract r p ss) s = .next (stalled .event s)) ∧
    (q.bound = false → q.offer = .none → q.asker = none → exec (.poll r p ss) s = .next (precise { code := 0x16 } s) ∧
      exec (.retract r p ss) s = .next (precise { code := 0x16 } s))

/-- PUT, GET, OFFER.PUT, OFFER.GET, POLL and RETRACT. That POLL and RETRACT of an unbound slot are misuse is the model's reading (log 29).
-/
def Obligations.PortOperations : Prop :=
  Sys2Proof.Claims.PutAndGet ∧ Sys2Proof.Claims.OffersAreAsynchronous

/-- R266 to R269: PBIND reads its binding word, asks the Keystone and keeps the word in the slot; BACK binds the slot by it, where the
connector still holds the binding, after the port that the slot leaves is unbound; BREF is the bind-refused trap, and gives a queue item
back. To unbind a slot that is not bound completes at once (log 29). CONLOAD sends a load descriptor and goes on; CONDROP waits for the
drop of a loaded connector of its gang and completes at once for an empty slot; CONSTAT gives the connector's state. -/
def Obligations.BindingWords : Prop :=
  (∀ (s s₁ : State) (r : BitVec 6) (p : BitVec 4) (ss : BitVec 3) (w : Dword), s.unheld 0 → s.slotRoom ss →
    let c := s.cur.core
    let k := s.cur.ctxNo
    let q := s.port c p.toNat
    q.asker = none → readS r s = .ok (w, s₁) →
    let waits (m : Msg) : Host.Outcome State Fault Refusal := .next (stalled .event
      ((s₁.setPort c p.toNat { q with ans := none, asker := some k, took := (r, w) }).send m))
    (2 ^ 20 ≤ w.toNat ∨ (nbits w.toNat 19 1 = 1 ∧ nbits w.toNat 0 19 ≠ 0) → exec (.pbind r p ss) s = .next (precise { code := 0x17 } s)) ∧
    (w.toNat ≤ 2 ^ 19 → q.offer ≠ .none → q.offer ≠ .dropped → exec (.pbind r p ss) s = .next (precise { code := 0x16 } s)) ∧
    (w.toNat < 2 ^ 19 → q.offer = .none ∨ q.offer = .dropped → exec (.pbind r p ss) s =
      waits (.bindMsg (connKs (bindConn w)) (connIdx (bindConn w)) (bindPort w).toNat c k p.toNat (nbits w.toNat 18 1 == 1) (s₁.core c).gid)) ∧
    (w.toNat = 2 ^ 19 → q.offer = .none → q.bound = false → exec (.pbind r p ss) s = .next s₁.passed) ∧
    (w.toNat = 2 ^ 19 → q.offer = .none → q.bound = true → exec (.pbind r p ss) s =
      waits (.unbindMsg (connKs q.conn) (connIdx q.conn) q.port.toNat c p.toNat))) ∧
  (∀ (s : State) (r : BitVec 6) (p : BitVec 4) (ss : BitVec 3), s.unheld 0 → s.slotRoom ss →
    let c := s.cur.core
    let k := s.cur.ctxNo
    let q := s.port c p.toNat
    let w := q.took.2
    q.asker = some k →
    (q.ans = none → exec (.pbind r p ss) s = .next (stalled .event s)) ∧
    (∀ v, w.toNat < 2 ^ 19 → q.ans = some v →
      (v = 6 → exec (.pbind r p ss) s = .next (precise { code := 0x17 }
        (if awaitsOutcome s then s else giveBack c k q.took (s.setPort c p.toNat { q with ans := none, asker := none })))) ∧
      (v = 4 ∨ v = 5 → q.bound = true → q.conn ≠ bindConn w ∨ q.port ≠ bindPort w → exec (.pbind r p ss) s = .next (stalled .event
        ((s.setPort c p.toNat { q with ans := some (v + 6) }).send (.unbindMsg (connKs q.conn) (connIdx q.conn) q.port.toNat c p.toNat)))) ∧
      (v = 12 ∨ v = 13 ∨ ((v = 4 ∨ v = 5) ∧ (q.bound = false ∨ (q.conn = bindConn w ∧ q.port = bindPort w))) →
        exec (.pbind r p ss) s = .next ((s.setPort c p.toNat
          { bound := boundTo (connAt s (connKs (bindConn w)) (connIdx (bindConn w))) (bindPort w).toNat c p.toNat, conn := bindConn w
            port := bindPort w, get := v == 5 || v == 13, wide := nbits w.toNat 18 1 == 1, serial := q.serial })).passed)) ∧
    (∀ v, w.toNat = 2 ^ 19 → q.ans = some v → exec (.pbind r p ss) s = .next ((s.setPort c p.toNat { serial := q.serial })).passed)) ∧
  (∀ (s s₁ s₂ : State) (a : BitVec 4) (va : VA) (l : List Byte), s.unheld 0 → readA a s = .ok (va, s₁) → va.toNat % 64 = 0 →
    readWord va 64 false s₁ = .ok (l, s₂) →
    let d : BitVec 512 := BitVec.ofNat 512 (leNat l)
    exec (.conload a 0) s = .next (({ s₂ with nextId := s₂.nextId + 1 } : State).send (.loadConn (descKey d) (descIndex d) s₂.cur.core
      s₂.cur.ctxNo s₂.nextId d (BitVec.ofNat 16 (va.toNat / 2 ^ 64)) s₂.mine.asid s₂.mine.gid (!s₂.me.dev))).passed) ∧
  (∀ (s s₁ : State) (r : BitVec 6) (ss : BitVec 3) (n : Dword), s.unheld 0 → s.slotRoom ss → readS r s = .ok (n, s₁) → n.toNat < 2 ^ 12 →
    let q := connAt s (n.toNat / 16) (n.toNat % 16)
    AnswersIn (.constat r ss) r (statWord (connAt s₁ (n.toNat / 16) (n.toNat % 16))) s s₁ ∧
    (s₁.me.wait = none → q.loaded = false → q.ver = false → exec (.condrop r ss) s = .next s₁.passed) ∧
    (s₁.me.wait = none → q.loaded = true → q.gid ≠ (s.core s₁.cur.core).gid → exec (.condrop r ss) s = .next (precise { code := 0x17 } s)) ∧
    (s₁.me.wait = none → q.loaded = true → q.gid = (s.core s₁.cur.core).gid → exec (.condrop r ss) s = .next (stalled .event
      ((s.modCtx s₁.cur.core s₁.cur.ctxNo (fun x => { x with wait := some ⟨dropName, none⟩ })).send
        (.dropMsg (n.toNat / 16) (n.toNat % 16) s₁.cur.core s₁.cur.ctxNo)))) ∧
    (∀ w v, s₁.me.wait = some ⟨w, some v⟩ → exec (.condrop r ss) s = .next s₁.passed)) ∧
  (∀ c : Connector,
    (c.ver = true → statWord c = 4) ∧ (c.ver = false → c.loaded = false → statWord c = 0) ∧
    (c.ver = false → c.loaded = true → c.failover = false → c.offers = [] → (∀ f ∈ c.fifos, f.items = []) → c.rules.length = 1 →
      c.nports ≤ 64 → (statWord c).toNat = 1 + c.nports * 2 ^ 24 + c.fires.toNat * 2 ^ 32))

/-- R255 to R259, R264 to R267, R273: the messages between cores and Keystones and their events. -/
def Obligations.PortEvents : Prop :=
  (∀ (s : State) (k i port core slot : Nat) (serial : BitVec 8) (parcel : List Byte),
    s.ev = .offerMsg k i port core slot serial parcel →
    let c := connAt s k i
    let q := s.port core slot
    (c.loaded = true → boundTo c port core slot = true → exec .offerMsg s =
      .next ((putConn k i { c with offers := tset c.offers port ⟨core, slot, serial, parcel⟩ } s).send (.decision k i))) ∧
    (c.loaded = false → q.serial ≠ serial → exec .offerMsg s = .next s) ∧
    (c.loaded = false → q.serial = serial → q.offer = .pending → q.token = none → q.ans = none → exec .offerMsg s =
      .next (s.setPort core slot { q with bound := false, offer := .dropped, token := none, ans := none }))) ∧
  (∀ (s : State) (k i port core slot : Nat) (serial : BitVec 8), s.ev = .retractMessage k i port core slot serial →
    let c := connAt s k i
    (∀ l, tfind c.offers port = some ⟨core, slot, serial, l⟩ → exec .retractMessage s =
      .next (((putConn k i { c with offers := terase c.offers port } s).send (.rack core slot serial)).send (.decision k i))) ∧
    (tfind c.offers port = none → exec .retractMessage s = .next (s.send (.rlate core slot serial)))) ∧
  (∀ (s : State) (k i port core ctx slot : Nat) (wide : Bool) (gid : BitVec 32), s.ev = .bindMsg k i port core ctx slot wide gid →
    let c := connAt s k i
    c.ver = false →
    (c.loaded = true → port < c.nports → tfind c.binds port = none → mayBind c gid = true → exec .bindMsg s =
      .next ((setBinding k i port (some ⟨core, slot, wide, gid⟩) s).send (.back core slot (decide (c.nputs ≤ port))))) ∧
    (c.loaded = false ∨ c.nports ≤ port ∨ mayBind c gid = false → exec .bindMsg s = .next (s.send (.bref core slot)))) ∧
  (∀ (s : State) (k i port core slot : Nat), s.ev = .unbindMsg k i port core slot →
    (boundTo (connAt s k i) port core slot = true → exec .unbindMsg s = .next ((setBinding k i port none s).send (.back core slot false))) ∧
    (boundTo (connAt s k i) port core slot = false → exec .unbindMsg s = .next (s.send (.back core slot false)))) ∧
  (∀ (s : State) (k i core ctx id : Nat) (desc : BitVec 512) (hi : BitVec 16) (asid : BitVec 12) (gid : BitVec 32) (user : Bool),
    s.ev = .loadConn k i core ctx id desc hi asid gid user →
    let c := connAt s k i
    ((s.keystone k).failed = true ∨ c.ver = true ∨ c.loaded = true → exec .loadConn s = .next (s.send (.lack core ctx id false))) ∧
    ((s.keystone k).failed = false → c.ver = false → c.loaded = false → exec .loadConn s = .next ((putConn k i
      { ver := true, desc := desc, hi := hi, asid := asid, gid := gid, user := user,
        loader := ⟨core, ctx, id⟩ } s).send (.connectorVerified k i)))) ∧
  (∀ (s : State) (k i : Nat), s.ev = .connectorVerified k i → (connAt s k i).ver = true →
    let c := connAt s k i
    (descOk c = false ∨ ckptOk s c = false → exec .connectorVerified s =
      .next ((putConn k i {} s).send (.lack c.loader.core c.loader.ctx c.loader.id false))) ∧
    exec .connectorVerified s = .next (match tryLoad c s with
      | some (t, n) => (putConn k i n t).send (.lack c.loader.core c.loader.ctx c.loader.id true)
      | none => (putConn k i {} s).send (.lack c.loader.core c.loader.ctx c.loader.id false))) ∧
  (∀ (s : State) (k i core ctx : Nat), s.ev = .dropMsg k i core ctx → (connAt s k i).ver = false →
    ((connAt s k i).gid = (s.core core).gid → exec .dropMsg s =
      .next ((dropConn (homeConn s k i).1 (homeConn s k i).2 s).send (.dack core ctx))) ∧
    ((connAt s k i).gid ≠ (s.core core).gid → exec .dropMsg s = .next (s.send (.dack core ctx)))) ∧
  (∀ (s : State) (core slot : Nat) (serial : BitVec 8) (l : List Byte),
    let q := s.port core slot
    (s.ev = .fireMsg core slot serial l → q.serial ≠ serial → exec .fireMsg s = .next s) ∧
    (s.ev = .fireMsg core slot serial l → q.serial = serial → q.offer = .pending → q.token = none → ∃ t, exec .fireMsg s = .next t ∧
      t.port core slot = { q with offer := .fired, fireIn := false, parcel := if q.get then l else q.parcel, token := none } ∧
      (∃ e, (t.core core).inbox = (s.core core).inbox ++ [e] ∧ e.kind = 2 ∧ e.port = BitVec.ofNat 4 slot ∧ e.payload = parcelDwords l) ∧
      t.mem = s.mem ∧ ∀ c', c' ≠ core → t.core c' = s.core c') ∧
    (s.ev = .fireMsg core slot serial l → q.serial = serial → q.offer = .retracting → q.token = none → ∃ t, exec .fireMsg s = .next t ∧
      t.port core slot = { q with fireIn := true, parcel := if q.get then l else q.parcel, token := none }) ∧
    (s.ev = .rack core slot serial → q.serial = serial → q.offer = .retracting → q.ans = none → q.blk = false → q.token = none →
      exec .rack s = .next (s.setPort core slot { q.idle with ans := some 0 })) ∧
    (s.ev = .rlate core slot serial → q.serial = serial → q.offer = .retracting → q.ans ≠ some 9 →
      exec .rlate s = .next (s.setPort core slot { q with offer := .fired, fireIn := false, ans := some 1 })) ∧
    (s.ev = .bref core slot → exec .bref s = .next (s.setPort core slot { q with ans := some 6 })) ∧
    (∀ get, s.ev = .back core slot get → exec .back s = .next (s.setPort core slot
      { q with ans := some (if q.ans = some 10 then 12 else if q.ans = some 11 then 13 else if get then 5 else 4) }))) ∧
  (∀ (s : State) (c k id : Nat) (ok : Bool), (s.ctx c k).hasPend id = true → (s.ctx c k).deferred = [] → s.ev = .lack c k id ok →
    exec .lack s = .next (s.modCtx c k (fun x => x.complete id (if ok then 0 else 4)))) ∧
  (∀ (s : State) (c k : Nat), s.ev = .dack c k → (s.ctx c k).wait = some ⟨dropName, none⟩ →
    exec .dack s = .next (s.modCtx c k (fun x => { x with wait := some ⟨dropName, some 0⟩ }))) ∧
  (∀ (s : State) (c k i : Nat), s.ev = .failover c k i → ∃ t, exec .failover s = .next t ∧ t = { s with agenda := t.agenda } ∧
    (∀ m ∈ s.agenda, m ∈ t.agenda) ∧
    ∀ p, p < 16 →
      let q := s.port c p
      q.bound = true → connKs q.conn = k → connIdx q.conn = i → q.ans ≠ some 8 → q.offer = .pending ∨ q.offer = .retracting →
      (q.fireIn = false → Msg.offerMsg k i q.port.toNat c p q.serial (if q.get then [] else q.parcel) ∈ t.agenda) ∧
      (q.offer = .retracting → Msg.retractMessage k i q.port.toNat c p q.serial ∈ t.agenda)) ∧
  (∀ (s : State) (k : Nat), s.ev = .keystoneFailure k → k < 256 → (s.keystone k).failed = false → (s.keystone k).conns = [] →
    exec .keystoneFailure s = .next { s with keystones := tset s.keystones k { s.keystone k with failed := true } })

/-- R256 to R258: a decision fires the enabled rule of the greatest age, the lowest number among equals, or nothing: the connector is
left as fired: its ports' offers are gone, its FIFOs popped and pushed, its age is 0 and every other age one more (at most 65,535); each
of its ports gets a FIRE, a get port with the parcel that the data map gives it. -/
def Obligations.RulesFireByAge : Prop :=
  (∀ (c : Connector), chooseRule c = none ↔ ∀ r ∈ c.rules, enabled c r = false) ∧
  (∀ (c : Connector) (n : Nat), chooseRule c = some n → ∃ q, c.rules[n]? = some q ∧ enabled c q = true ∧
    ∀ m r, c.rules[m]? = some r → enabled c r = true → tget c.ages m 0 ≤ tget c.ages n 0 ∧ (tget c.ages m 0 = tget c.ages n 0 → n ≤ m)) ∧
  (∀ (c : Connector) (n : Nat) (q : Rule), c.rules[n]? = some q →
    tget (fired c n q).ages n 0 = 0 ∧ (fired c n q).fires = c.fires + 1 ∧
    (∀ m, m ≠ n → m < c.rules.length → tget (fired c n q).ages m 0 = min (tget c.ages m 0 + 1) 65535) ∧
    (∀ p, q.ports.getLsbD p = true → tfind (fired c n q).offers p = none) ∧
    (∀ p, q.ports.getLsbD p = false → tfind (fired c n q).offers p = tfind c.offers p) ∧
    (∀ f x, c.fifos[f]? = some x → ∃ y, (fired c n q).fifos[f]? = some y ∧ y.cap = x.cap ∧
      y.items = (if q.pop.getLsbD f then x.items.drop 1 else x.items) ++ (if q.push.getLsbD f then [mapOut c q true f] else []))) ∧
  (∀ (c : Connector) (q : Rule) (m : BitVec 16), m ∈ q.dmap → (∀ m' ∈ q.dmap, m'.setWidth 7 = m.setWidth 7 → m' = m) →
    let dst := nbits m.toNat 0 6
    let src := nbits m.toNat 7 6
    (∀ o, m.getLsbD 13 = false → tfind c.offers src = some o → mapOut c q (m.getLsbD 6) dst = o.parcel) ∧
    (∀ x, m.getLsbD 13 = true → c.fifos[src]? = some x → mapOut c q (m.getLsbD 6) dst = x.items.headD [])) ∧
  (∀ (s : State) (k i : Nat), s.ev = .decision k i →
    (chooseRule (connAt s k i) = none → exec .decision s = .next s) ∧
    ((connAt s k i).loaded = false → exec .decision s = .next s) ∧
    (∀ n q, (connAt s k i).loaded = true → chooseRule (connAt s k i) = some n → (connAt s k i).rules[n]? = some q →
      ∃ t l, exec .decision s = .next t ∧ connAt t k i = fired (connAt s k i) n q ∧ t.agenda = l ++ [.decision k i] ∧
        ∀ p o, (p, o) ∈ (connAt s k i).offers → q.ports.getLsbD p = true → Msg.fireMsg o.core o.slot o.serial
          (if (connAt s k i).nputs ≤ p then mapOut (connAt s k i) q false p else []) ∈ l))

/-! ## Queue programs (R363, R385 to R390) -/

/-- R388, Table 17-2: each word of a queue program counts one step and has its effect on the registers of its interpreter; the branches
are taken forward when their condition holds and backward while their count is below their bound; a word past the budget aborts. -/
def Sys2Proof.Claims.QueueWordsCompute : Prop :=
  ∀ (s : State) (n : Nat) (d r : BitVec 4), s.cur = .interp n →
    let i := s.interp n
    let budget := (s.queue i.queue).budget
    let runs (j : Interp) : Host.Outcome State Fault Refusal := .next (s.setInterp n { j with pc := i.pc + 1, steps := i.steps + 1 })
    (i.steps < budget → i.ended = none →
      (∀ imm, exec (.qmovi d imm) s = runs (i.set d (imm.signExtend 64)) ∧ exec (.qaddi d imm) s = runs (i.set d (i.get d + imm.signExtend 64))) ∧
      exec (.qmov d r) s = runs (i.set d (i.get r)) ∧ exec (.qadd d r) s = runs (i.set d (i.get d + i.get r)) ∧
      exec (.qand d r) s = runs (i.set d (i.get d &&& i.get r)) ∧
      (∀ k : BitVec 6, exec (.qshl d k) s = runs (i.set d (i.get d <<< k.toNat)) ∧ exec (.qshr d k) s = runs (i.set d (i.get d >>> k.toNat))) ∧
      exec (.qsigdec d r) s = runs ((i.stage (.sigdec (i.get d) (i.get r))).set d 0) ∧
      (∀ disp bound : BitVec 16,
        let to_ (taken : Bool) : Host.Outcome State Fault Refusal :=
          if taken = false then runs i
          else if 0 < disp.toInt then .next (s.setInterp n { i with pc := ((i.pc : Int) + disp.toInt).toNat, steps := i.steps + 1 })
          else if tget i.counts i.pc 0 < bound.toNat then .next (s.setInterp n
            { i with pc := ((i.pc : Int) + disp.toInt).toNat, steps := i.steps + 1, counts := tset i.counts i.pc (tget i.counts i.pc 0 + 1) })
          else runs i
        exec (.qbeq d r disp bound) s = to_ (i.get d == i.get r) ∧ exec (.qbne d r disp bound) s = to_ (i.get d != i.get r) ∧
        exec (.qbltn d r disp bound) s = to_ (decide ((i.get d).toNat < (i.get r).toNat)) ∧ exec (.qjmp disp bound) s = to_ true) ∧
      exec (.qend d) s = .next (packetEnded n (s.setInterp n { i with pc := i.pc + 1, steps := i.steps + 1,
                                                                       ended := some (((i.get d).setWidth 8).setWidth 16) })) ∧
      (let t := s.clock + Config.elapsed s.draws
       exec (.qcyc d) s = .next (({ s.drawn with clock := t } : State).setInterp n { i.set d (BitVec.ofNat 64 t) with
         pc := i.pc + 1, steps := i.steps + 1 }))) ∧
    (budget ≤ i.steps → ∀ (imm : BitVec 48) (disp bound : BitVec 16),
      ∀ w ∈ [Instr.qmovi d imm, .qmov d r, .qadd d r, .qaddi d imm, .qand d r, .qjmp disp bound, .qlaunch d, .qend d],
        exec w s = .next (abortPacket n 0x101 i s))

/-- R386, R388, R389: QLD, QST, QSIGRD, QLAUNCH, QGRAPH and QAMSG: the windows and faults of their accesses, and what they stage. That a
misaligned graph aborts with status 0x102 is log 66, the nodes counted against the pool's room are log 67. -/
def Sys2Proof.Claims.QueueWordsAccessAndStage : Prop :=
  ∀ (s : State) (n : Nat) (d r : BitVec 4) (w : BitVec 2) (off : BitVec 16), s.cur = .interp n →
    let i := s.interp n
    let q := s.queue i.queue
    i.steps < q.budget → i.ended = none →
    let on (u : State) (j : Interp) : Host.Outcome State Fault Refusal := .next (u.setInterp n { j with pc := i.pc + 1, steps := i.steps + 1 })
    let aborts (status : BitVec 16) : Host.Outcome State Fault Refusal := .next (abortPacket n status { i with steps := i.steps + 1 } s)
    (let (base, len) := q.window i.pkt w.toNat
     let at_ := base + off.toNat + (if r = 0 then 0 else (i.get r).toNat)
     let va : VA := q.chi ++ BitVec.ofNat 64 at_
     (base + len < at_ + 8 → exec (.qld d r w off) s = aborts 0x103 ∧ exec (.qst d r w off) s = aborts 0x103) ∧
     (at_ + 8 ≤ base + len →
       (∀ e, plinthRead q.asid va 8 8 s = .error e → exec (.qld d r w off) s = aborts 0x102) ∧
       (∀ u l, plinthRead q.asid va 8 8 s = .ok (u, l) → exec (.qld d r w off) s = on u (i.set d (BitVec.ofNat 64 (leNat l)))) ∧
       (∀ e, plinthWrite q.asid va (leBytes 8 (i.get d).toNat) s = .error e → exec (.qst d r w off) s = aborts 0x102) ∧
       (∀ u, plinthWrite q.asid va (leBytes 8 (i.get d).toNat) s = .ok u → exec (.qst d r w off) s = on u i))) ∧
    (let va : VA := BitVec.ofNat 80 (0xD000 * 2 ^ 64 + (i.get r).toNat)
     (∀ u l, plinthRead q.asid va 8 8 s = .ok (u, l) → exec (.qsigrd d r) s = on u (i.set d (BitVec.ofNat 64 (leNat l % 2 ^ 56)))) ∧
     (∀ e, plinthRead q.asid va 8 8 s = .error e → exec (.qsigrd d r) s = aborts 0x102)) ∧
    (∀ u l, plinthRead q.asid (q.chi ++ i.get d) 256 64 s = .ok (u, l) →
      let rec_ : BitVec 2048 := BitVec.ofNat 2048 (leNat l)
      (recordOk rec_ false = true → exec (.qlaunch d) s = on u ((i.stage (.launch rec_)).set d 0)) ∧
      (recordOk rec_ false = false → exec (.qlaunch d) s = on u ((i.stage (.refusedLaunch ((recSig rec_).setWidth 64))).set d 1))) ∧
    (messageOk s i.queue (i.get d) (i.get r) = true →
      exec (.qamsg d r) s = on s ((i.stage (.amsg (i.get d) (i.get r) (i.get 14) (i.get 15))).set d 0)) ∧
    (messageOk s i.queue (i.get d) (i.get r) = false → exec (.qamsg d r) s = on s (i.set d 1)) ∧
    ((∀ g ∈ s.plinth.gangs, g.stopped = true) → exec (.qamsg d r) s = on s (i.set d 1)) ∧
    (let rd : Reader Nat := fun va n al s => (plinthRead q.asid (BitVec.ofNat 80 va) n al s).map (fun x => (x.2, x.1))
     let va := (q.chi ++ i.get d : VA).toNat
     (va % 64 ≠ 0 → exec (.qgraph d) s = aborts 0x102) ∧
     (∀ u, va % 64 = 0 → readGraph rd va s = .ok (none, u) → exec (.qgraph d) s = on u (i.set d (BitVec.ofNat 64 (2 * 2 ^ 62)))) ∧
     (∀ u chi t, va % 64 = 0 → readGraph rd va s = .ok (some (chi, t), u) → 8192 < poolNodes u 0 + t.length →
       exec (.qgraph d) s = on u (i.set d (BitVec.ofNat 64 (2 ^ 62)))) ∧
     (∀ u chi t, va % 64 = 0 → readGraph rd va s = .ok (some (chi, t), u) → poolNodes u 0 + t.length ≤ 8192 →
       let num := (u.die 0).graphNext
       exec (.qgraph d) s = on (u.modDie 0 (fun v => { v with graphNext := v.graphNext + 1 }))
         ((i.stage (.graph { num := num, asid := q.asid, gid := 0, chi := chi, lat := q.lat, queue := i.queue, nodes := t,
                             retired := false })).set d (BitVec.ofNat 64 num.toNat))))

/-- The words of a queue program. The abort of a misaligned graph and the count of its room are the model's readings (logs 66, 67). -/
def Obligations.QueueWords : Prop :=
  Sys2Proof.Claims.QueueWordsCompute ∧ Sys2Proof.Claims.QueueWordsAccessAndStage

/-- R241 to R244, R363, R385, R389, R390, R395: submission, packets, commit, restart, trial and the loading of programs, each request of
the host in its turn (R392). Of the causes of a refused submission dis is tested first, then bad, then retry (log 109). A packet commits
when it has ended and is the next in sequence (log 15); a refused or disabled block is held with its reserved bits zero (log 70). -/
def Obligations.WorkQueueEvents : Prop :=
  (∀ (s u : State) (q : Nat) (pkt : Dword), s.ev = .submission q pkt → s.hasTurn u →
    let w := s.queue q
    (w.dis = true → exec .submission s = .next (u.modQueue q (fun w => { w with acc := false, retry := false, bad := false }))) ∧
    (w.dis = false → pkt.toNat % 64 ≠ 0 → exec .submission s =
      .next (u.modQueue q (fun w => { w with acc := false, retry := false, bad := true }))) ∧
    (w.dis = false → pkt.toNat % 64 = 0 → journalFull s.plinth = true → exec .submission s =
      .next (u.modQueue q (fun w => { w with acc := false, retry := true, bad := false }))) ∧
    (w.dis = false → pkt.toNat % 64 = 0 → journalFull s.plinth = false → ∃ t, exec .submission s = .next t ∧
      t.plinth.journal = s.plinth.journal ++ [{ pkt := pkt, seq := s.plinth.nextSeq, queue := q, taken := false }] ∧
      t.plinth.nextSeq = s.plinth.nextSeq + 1 ∧ (t.queue q).seq = s.plinth.nextSeq ∧ (t.queue q).acc = true ∧ t.mem = s.mem)) ∧
  (∀ (s : State) (n : Nat), s.ev = .packetStart n → n < 8 →
    ((s.interp n).busy = true → exec .packetStart s = .next s) ∧
    ((s.interp n).busy = false → s.plinth.journal = [] → exec .packetStart s = .next s) ∧
    (∀ e w, (s.interp n).busy = false → s.plinth.journal = [e] → e.taken = false → s.plinth.queues = [(e.queue, w)] →
      s.plinth.interps = [] → s.plinth.stride = false →
      (blockHeld s.plinth e.queue = true → exec .packetStart s = .next s) ∧
      (blockHeld s.plinth e.queue = false → ∃ t, exec .packetStart s = .next t ∧
        t.interp n = { busy := true, queue := e.queue, seq := e.seq, pkt := e.pkt,
                       q := [(0, e.pkt), (1, e.seq.setWidth 64), (2, BitVec.ofNat 64 e.queue)]
                       ended := if w.dis = true ∨ e.dead = true then some 0x106 else none } ∧
        t.plinth.journal = [{ e with taken := true }] ∧ t.mem = s.mem))) ∧
  (∀ (s : State) (c : BitVec 32), s.ev = .commitWrite c →
    ((s.plinth.nextSeq - 1 - s.plinth.commit).toNat < (c - s.plinth.commit).toNat → exec .commitWrite s =
      .next (s.modPlinth (fun p => { p with cerr := true }))) ∧
    (c = s.plinth.commit + 1 → s.plinth.nextSeq - 1 - s.plinth.commit ≠ 0 → s.plinth.interps = [] → ∃ t, exec .commitWrite s = .next t ∧
      t.plinth.commit = c ∧ t.plinth.journal = s.plinth.journal.filter (fun e => e.seq != c) ∧ t.plinth.trial = false ∧
      (s.plinth.trial = true → t.plinth.slotA = s.plinth.slotB ∧ t.plinth.fmin = s.plinth.slotB) ∧ t.mem = s.mem)) ∧
  (∀ (s : State), exec .firmwareRestart s = .next (firmwareRestart s) ∧ (firmwareRestart s).plinth.interps = [] ∧
    (firmwareRestart s).plinth.journal = s.plinth.journal.map (fun e => { e with taken := false, again := true }) ∧
    (∀ m ∈ (firmwareRestart s).agenda, m ∈ s.agenda ∧ commitDue s m = false ∨ ∃ n, m = .packetStart n) ∧
    (s.plinth.trial = false → exec .trialTimeout s = .next s) ∧
    (s.plinth.trial = true → ∃ t, exec .trialTimeout s = .next t ∧ t.plinth.trial = false ∧ t.plinth.rev = true ∧
      t.plinth.fseq = s.plinth.slotA ∧ t.plinth.interps = [])) ∧
  (∀ (s : State) (seq : BitVec 32) (image : List Byte) (ok : Bool), s.ev = .startTrial seq image ok →
    (ok = false ∨ seq.toNat < s.plinth.fmin.toNat ∨ s.plinth.trial = true → exec .startTrial s = .next s) ∧
    (ok = true → s.plinth.fmin.toNat ≤ seq.toNat → s.plinth.trial = false → ∃ t, exec .startTrial s = .next t ∧ t.plinth.trial = true ∧
      t.plinth.slotB = seq ∧ t.plinth.fseq = seq ∧ t.plinth.slotA = s.plinth.fseq)) ∧
  (∀ (s u : State) (q : Nat) (cfg : BitVec 512), s.ev = .queueProgramLoad q cfg → cfg.getLsbD 0 = true →
    (queueRuns s q = true → exec .queueProgramLoad s = .next s.holdsRequest) ∧
    (queueRuns s q = false → s.hasTurn u →
      (readProgram { u.queue q with cfg := cfg } u = none → ∃ t, exec .queueProgramLoad s = .next t ∧
        (t.queue q).dis = true ∧ (t.queue q).cfg = cfg &&& configBits &&& ~~~ 1 ∧ t.plinth.lref = true ∧ t.plinth.lq = BitVec.ofNat 8 q) ∧
      (∀ v prog budget image, readProgram { u.queue q with cfg := cfg } u = some (v, prog, budget, image) →
        ∃ t, exec .queueProgramLoad s = .next t ∧ (t.queue q).prog = prog ∧ (t.queue q).budget = budget ∧ (t.queue q).dis = false ∧
          (t.queue q).cfg = cfg))) ∧
  (∀ (s u : State) (q : Nat) (cfg : BitVec 512), s.ev = .queueDisable q cfg → cfg.getLsbD 0 = false →
    (queueRuns s q = true → exec .queueDisable s = .next s.holdsRequest) ∧
    (queueRuns s q = false → s.hasTurn u → ∃ t, exec .queueDisable s = .next t ∧ (t.queue q).dis = true ∧ (t.queue q).prog = [] ∧
      (t.queue q).cfg = cfg &&& configBits ∧ t.mem = s.mem ∧
      t.plinth.journal = s.plinth.journal.map (fun e => if e.queue = q ∧ e.taken = false then { e with dead := true } else e))) ∧
  (∀ (s : State), (s.plinth.stride = false → exec .strideQuantum s = .next s) ∧
    (∀ on, s.ev = .strideSelect on → ∃ t, exec .registerWrite s = .next t ∧ t.plinth.stride = on ∧ t.plinth.chosen = none ∧ t.mem = s.mem) ∧
    (s.plinth.stride = true → s.plinth.chosen = none → (∀ q, hasWork s.plinth q = false) → exec .strideQuantum s = .next s) ∧
    (∀ q w, s.plinth.stride = true → s.plinth.queues = [(q, w)] → hasWork s.plinth q = true →
      (s.plinth.chosen = none ∨ s.plinth.chosen = some q) → ∃ t, exec .strideQuantum s = .next t ∧ t.plinth.chosen = some q ∧
      (t.queue q).pass = w.pass + (if s.plinth.chosen = some q then 1048576 / (nbits w.cfg.toNat 26 10 + 1) else 0)) ∧
    (∀ a b v w, s.plinth.stride = true → s.plinth.chosen = none → s.plinth.queues = [(a, v), (b, w)] → a < b →
      hasWork s.plinth a = true → hasWork s.plinth b = true → ∃ t, exec .strideQuantum s = .next t ∧
        t.plinth.chosen = some (if w.pass < v.pass then b else a)))

/-- R241, R391 to R393, R399: the host's registers, apertures and active-message blocks. A request of the host waits while one that was
sent before it to the same register or block is held, and a submission or a message while any write is; its turn comes once no such
request stands before it. How the host's read of a register comes to the model is log 96. -/
def Obligations.HostEvents : Prop :=
  (∀ (s : State) (m : Msg) (l : List Msg), s.plinth.held = m :: l →
    (s.ev ≠ m →
      (∀ q pkt, s.ev = .submission q pkt → isHostRead m = false → exec .submission s = .next s.holdsRequest) ∧
      (∀ q t, s.ev = .activeMessageBlockTarget q t → isHostRead m = false → exec .activeMessageBlockTarget s = .next s.holdsRequest) ∧
      (∀ off v, s.ev = .registerWrite off v → hostAddress m = hostAddress s.ev → exec .registerWrite s = .next s.holdsRequest) ∧
      (∀ q cfg, s.ev = .queueProgramLoad q cfg → cfg.getLsbD 0 = true → hostAddress m = hostAddress s.ev →
        exec .queueProgramLoad s = .next s.holdsRequest) ∧
      (∀ q cfg, s.ev = .queueDisable q cfg → cfg.getLsbD 0 = false → hostAddress m = hostAddress s.ev →
        exec .queueDisable s = .next s.holdsRequest) ∧
      (∀ off, s.ev = .registerRead off → (hostAddress s.ev).isSome = true → hostAddress m = hostAddress s.ev →
        exec .hostApertureAccess s = .next s.holdsRequest)) ∧
    (s.ev = m → s.hasTurn (s.modPlinth (fun p => { p with held := l })))) ∧
  (∀ (s : State), s.plinth.held = [] → s.hasTurn s) ∧
  (∀ (s : State), exec .clearStatus s =
    .next (s.modPlinth (fun p => { p with cerr := false, rev := false, hflt := false, lref := false, lq := 0 }))) ∧
  (∀ (s u : State) (v : Dword), s.hasTurn u →
    (s.ev = .registerWrite 0x1018 v → exec .registerWrite s = .next (u.modPlinth (fun p => { p with sigCtl := (v.setWidth 44).setWidth 64 }))) ∧
    (s.ev = .registerWrite 0x1020 v → exec .registerWrite s = .next (u.modPlinth (fun p => { p with memCtl := (v.setWidth 52).setWidth 64 }))) ∧
    (∀ q : Nat, q < 256 →
      (s.ev = .registerWrite (BitVec.ofNat 18 (0x2000 + 32 * q + 8)) v →
        exec .registerWrite s = .next (u.modQueue q (fun w => { w with am0 := v }))) ∧
      (s.ev = .registerWrite (BitVec.ofNat 18 (0x2000 + 32 * q + 16)) v →
        exec .registerWrite s = .next (u.modQueue q (fun w => { w with am1 := v }))) ∧
      (s.ev = .registerWrite (BitVec.ofNat 18 (0x2000 + 32 * q + 24)) v →
        exec .registerWrite s = .next (u.modQueue q (fun w => { w with amPc := v }))))) ∧
  (∀ (s : State) (d : BitVec 2),
    (∀ n, s.ev = .watchdogWrite d n → 20 ≤ n.toNat → n.toNat ≤ 30 →
      exec .registerWrite s = .next (s.modDie d.toNat (fun v => { v with watchdog := n.toNat }))) ∧
    (∀ tiles, s.ev = .reservedWrite d tiles →
      (((List.range 64).filter (fun i => tiles.getLsbD i)).length ≠ 4 → exec .registerWrite s = .next s) ∧
      (((List.range 64).filter (fun i => tiles.getLsbD i)).length = 4 → ∃ t, exec .registerWrite s = .next t ∧
        ∀ i, i < 64 → (i ∈ (t.die d.toNat).reserved ↔ tiles.getLsbD i = true)))) ∧
  (∀ (s u : State) (q : Nat), q < 256 → s.hasTurn u →
    let w := s.queue q
    let reads (v : Dword) : Host.Outcome State Fault Refusal := .next (u.modPlinth (fun p => { p with hostRead := v }))
    (s.ev = .registerRead (BitVec.ofNat 18 (16 * q)) → exec .hostApertureAccess s = reads 0) ∧
    (s.ev = .registerRead (BitVec.ofNat 18 (16 * q + 8)) → ∃ v, exec .hostApertureAccess s = reads v ∧
      v.getLsbD 0 = w.acc ∧ v.getLsbD 1 = w.retry ∧ v.getLsbD 2 = w.dis ∧ v.getLsbD 3 = w.bad ∧ nbits v.toNat 4 28 = 0 ∧
      nbits v.toNat 32 32 = w.seq.toNat) ∧
    (s.ev = .registerRead 0x1000 → exec .hostApertureAccess s = reads (s.plinth.commit.setWidth 64)) ∧
    (s.ev = .registerRead 0x1008 → s.stopped = true → exec .hostApertureAccess s = reads (BitVec.allOnes 64)) ∧
    (s.ev = .registerRead (BitVec.ofNat 18 (0x2000 + 32 * q)) →
      (targetHeld s.plinth q = true → exec .hostApertureAccess s = reads 0) ∧
      (targetHeld s.plinth q = false → exec .hostApertureAccess s =
        reads (BitVec.ofNat 64 ((if w.amSent then 1 else 0) + (if w.amRefused then 2 else 0))))) ∧
    (s.ev = .registerRead (BitVec.ofNat 18 (0x10000 + 64 * q)) → exec .hostApertureAccess s = reads (w.cfg.setWidth 64))) ∧
  (∀ (s : State) (off : BitVec 40) (size : Nat) (data : Dword), size ∈ [1, 2, 4, 8] →
    let asid : BitVec 12 := s.plinth.memCtl.setWidth 12
    let va : VA := BitVec.ofNat 80 (nbits s.plinth.memCtl.toNat 12 40 * 2 ^ 40 + off.toNat)
    (∀ t, s.ev = .hostApertureAccess false true off size data → plinthWrite asid va (leBytes size data.toNat) s = .ok t →
      exec .hostApertureAccess s = .next t) ∧
    (∀ e, s.ev = .hostApertureAccess false true off size data → plinthWrite asid va (leBytes size data.toNat) s = .error e →
      exec .hostApertureAccess s = .next (s.modPlinth (fun p => { p with hflt := true }))) ∧
    (∀ t l, s.ev = .hostApertureAccess false false off size data → plinthRead asid va size size s = .ok (t, l) →
      exec .hostApertureAccess s = .next (t.modPlinth (fun p => { p with hostRead := BitVec.ofNat 64 (leNat l) }))) ∧
    (∀ e, s.ev = .hostApertureAccess false false off size data → plinthRead asid va size size s = .error e →
      exec .hostApertureAccess s = .next (s.modPlinth (fun p => { p with hflt := true, hostRead := BitVec.allOnes 64 })))) ∧
  (∀ (s u : State) (q : Nat) (target : Dword), s.ev = .activeMessageBlockTarget q target →
    let w := s.queue q
    let core := nbits target.toNat 10 2 * 1024 + nbits target.toNat 0 10
    (messageOk s q target w.amPc = true → 16 ≤ inboxShared s core → exec .activeMessageBlockTarget s = .next s.holdsRequest) ∧
    (s.hasTurn u →
      (messageOk s q target w.amPc = false → exec .activeMessageBlockTarget s = .next (u.modQueue q (fun w =>
        { w with amSent := false, amRefused := true }))) ∧
      (messageOk s q target w.amPc = true → inboxShared s core < 16 → exec .activeMessageBlockTarget s =
        .next (plinthMessage target w.amPc w.am0 w.am1 (u.modQueue q (fun w => { w with amSent := true, amRefused := false }))))))

/-! ## Gangs, graphs and the module (R25, R178, R279, R280, R338, R348 to R356, R358 to R375, R391, R396 to R400, R409) -/

/-- R233 to R236, R348, R367: arrivals at an inbox, the start of an active message, the watchdog, and reports taken at a boundary. The
model's: an arrival that finds the shared entries full is sent again at the end of the agenda (log 79), a boundary is a place where no
stream stands in a delay slot or under a hint (log 48), and a report drops the parked word, whose trap the context takes (log 99). -/
def Obligations.InboxAndReportEvents : Prop :=
  (∀ (s : State) (c : Nat) (e : InboxEntry), s.ev = .inboxArrival c e → (s.core c).gid = e.gid →
    let free := ((s.core c).inbox.filter (fun e => e.kind != 2)).length < 16
    let put := s.modCore c (fun v => { v with inbox := v.inbox ++ [e] })
    (e.kind ≠ 2 → ¬ free → exec .inboxArrival s = .next (s.send s.ev)) ∧
    (e.kind = 0 → free → exec .inboxArrival s = .next put) ∧
    (e.kind = 1 → free → exec .inboxArrival s = .next (put.send (.activeMessageStart c))) ∧
    (e.kind = 3 → free → exec .inboxArrival s = .next (kickCommand c put))) ∧
  (∀ (s : State) (c h : Nat) (e : InboxEntry), s.ev = .activeMessageStart c → (s.core c).inbox = [e] → e.kind = 1 →
    (freeHelper (s.core c) = none → exec .activeMessageStart s = .next s) ∧
    (freeHelper (s.core c) = some h → (s.core c).retired = .no → (s.ctx c 0).live = true → halting s c = false →
      ∃ t, exec .activeMessageStart s = .next t ∧ (t.core c).inbox = [] ∧ (t.ctx c h).live = true ∧
        (t.ctx c h).acc.pc = nth e.payload 0 0 ∧ (t.ctx c h).exe.pc = nth e.payload 0 0 ∧ (t.ctx c h).o =
          operandFile [nth e.payload 1 0, nth e.payload 2 0] ∧ (t.ctx c h).chi = (s.ctx c 0).chi ∧ ∃ st, (c, h, st) ∈ t.ring)) ∧
  (∀ (s : State) (c k : Nat), s.ev = .stallTimeout c k →
    ((s.ctx c k).live = false → exec .stallTimeout s = .next s) ∧
    ((s.ctx c k).live = true → (s.ctx c k).acc.blk = true ∨ (s.ctx c k).exe.blk = true ∨ waitingRequests c k s ≠ [] →
      (s.ctx c k).stallReport = false → exec .stallTimeout s =
      .next (((s.modDie (coreDie c) (fun v => { v with wdReport := v.wdReport + 1 })).modCtx c k (fun x =>
        { x with stallReport := true })).send (.asyncReport c k)))) ∧
  (∀ (s : State) (c k : Nat), s.ev = .asyncReport c k → (s.ctx c k).live = true →
    let x := s.ctx c k
    ((x.stallReport = true ∨ x.poisonReport ≠ none) → x.dev = true → exec .asyncReport s = .next (s.send s.ev)) ∧
    (x.stallReport = false → x.poisonReport = none → exec .asyncReport s = .next s) ∧
    (∀ va : BitVec 58, x.stallReport = false → x.poisonReport = some va → x.dev = false → x.emulating = false → x.atBoundary = true →
      exec .asyncReport s = .next (takeTrap c k { code := 0x31, asy := true, va := va.setWidth 80 } false none
        ((detachForTrap c k s).modCtx c k (fun x => { x with poisonReport := none })))) ∧
    (x.stallReport = true → x.poisonReport = none → x.dev = false → x.emulating = false → x.atBoundary = true →
      exec .asyncReport s = .next (takeTrap c k { code := 0x30, asy := true } false none
        ((withdraw c k (detachForTrap c k s)).modCtx c k (fun x => { x with stallReport := false })))))

/-- R358, R360, R361: the ready pool: the first ready node by priority, readiness, graph and index is dispatched; a completing node
decrements its signal and its successors' counters, and one that reaches zero is ready. That a running job holds none of the 512
entries is the model's (log 110). -/
def Obligations.GraphEvents : Prop :=
  (∀ (s : State) (d : BitVec 2), s.ev = .nodeDispatch d → (∀ d', d' < 4 → (s.die d').runQ = []) → readyNodes s d.toNat = [] →
    exec .nodeDispatch s = .next s) ∧
  (∀ (s : State) (d : BitVec 2) (num : BitVec 32) (n : Nat) (q : Node) (g : Graph), s.ev = .nodeDispatch d → (∀ d', d' < 4 → (s.die d').runQ = []) →
    firstNode (readyNodes s d.toNat) = some (num, n, q) → findGraph s d.toNat num = some g → nodeEx q.record = true →
    (512 ≤ jobsQueued (s.die d.toNat) → exec .nodeDispatch s = .next s) ∧
    (jobsQueued (s.die d.toNat) < 512 → ∃ t j, exec .nodeDispatch s = .next t ∧
      (t.die d.toNat).jobs = (s.die d.toNat).jobs ++ [j] ∧ j.node = some (num, n) ∧ j.card = BitVec.ofNat 512 (leNat q.work) ∧
      j.num = (s.die d.toNat).jobNext ∧ j.running = false ∧ t.mem = s.mem)) ∧
  (∀ a b : BitVec 32 × Nat × Node, nodeBefore a b = true → nodeBefore b a = false ∧ nodePrio b.2.2.record ≤ nodePrio a.2.2.record) ∧
  (∀ (s : State) (d : BitVec 2) (num : BitVec 32) (n : Nat) (g : Graph) (q : Node), s.ev = .nodeComplete d num n →
    (s.die d.toNat).graphs = [g] → g.num = num → g.retired = false → g.nodes = [(n, q)] → q.succs = [] → nodeSig q.record = 0 →
    s.plinth.gangs = [] →
    (q.dispatched = false ∨ q.done = true → exec .nodeComplete s = .next s) ∧
    (q.dispatched = true → q.done = false → exec .nodeComplete s = .next
      (({ s with stamp := s.stamp + 1 } : State).modDie d.toNat (fun v => { v with graphs := [] }) |>.send (.nodeDispatch d)))) ∧
  (∀ (s : State) (d : Nat) (g : Graph) (pred n : Nat) (q : Node), (s.die d).graphs = [g] → tfind g.nodes n = some q →
    let t := decEdge d g pred s n
    (q.count ≠ 0 → ((findGraph t d g.num).bind (fun h => tfind h.nodes n)) =
      some { q with count := q.count - 1, ready := if q.count = 1 then some s.stamp else q.ready }) ∧
    (q.count = 0 → nodeSig q.record = 0 → t = logFault d (discardEntry d g.num n pred) s))

/-- R178, R349 to R356, R362, R375: gangs begin at the first open place, end when every core has retired, go on as successors, stop and
resume: what the events do on a module without gangs, without stores outstanding, or without a place. A resume that waits because
the streamer of its die has no room is the model's (log 94). -/
def Sys2Proof.Claims.GangEvents : Prop :=
  (∀ (s : State), s.plinth.gangs = [] → s.plinth.waiting = [] → exec .gangPlacement s = .next s) ∧
  (∀ (s : State) (l : Launch), s.plinth.gangs = [] → s.plinth.waiting = [l] → l.lat = false →
    (placeFor s l.record false 0 (coreFree s 0) = none → exec .gangPlacement s = .next s) ∧
    (∀ d x y, placeFor s l.record false 0 (coreFree s 0) = some (d, x, y) → exec .gangPlacement s =
      .next (placeAgain ((launchAt l d x y s).modPlinth (fun p => { p with waiting := removeFirst (· == l) p.waiting }))))) ∧
  (∀ (s : State) (gid : BitVec 32), findGang s gid = none →
    (s.ev = .gangStop gid → exec .gangStop s = .next s) ∧ (s.ev = .gangComplete gid → exec .gangComplete s = .next s) ∧
    (s.ev = .successorStart gid → exec .successorStart s = .next s) ∧
    (∀ d x y, s.ev = .gangResume gid d x y → exec .gangResume s = .next s)) ∧
  (∀ (s : State) (g : Gang), findGang s g.gid = some g →
    (s.ev = .gangComplete g.gid → g.stopped = false → g.stopping = false →
      (allRetired s g = false → exec .gangComplete s = .next s) ∧
      (allRetired s g = true → g.cores.any (fun c => (s.core c).retired != .byEnd) = true → exec .gangComplete s =
        .next (s.send (.successorStart g.gid))) ∧
      (allRetired s g = true → g.cores.any (fun c => (s.core c).retired != .byEnd) = false → storesOut s g s.nextId = true →
        exec .gangComplete s = .next (s.send s.ev)) ∧
      (allRetired s g = true → g.cores.any (fun c => (s.core c).retired != .byEnd) = false → storesOut s g s.nextId = false →
        exec .gangComplete s = .next (releaseGang g (if g.faulted then 4 else 0) s))) ∧
    (s.ev = .successorStart g.gid → g.stopped = false → g.stopping = false → allRetired s g = true → ∀ r, g.next = .record r →
      s.plinth.gangs = [g] →
      (successorOk g r s = false → storesOut s g s.nextId = false → exec .successorStart s =
        .next (decSigOpt g.launch.asid (recSig r) 1 (releaseGang g 0 s))) ∧
      (successorOk g r s = true → recOv r = false → storesOut s g s.nextId = true → exec .successorStart s = .next (s.send s.ev)) ∧
      (∀ u, successorOk g r s = true → recOv r = true ∨ storesOut s g s.nextId = false → writeCaps r g.gid g.launch.asid g.cores s = some u →
        exec .successorStart s = .next (takeSlot g r u))) ∧
    (s.ev = .gangStop g.gid → g.stopped = true → exec .gangStop s = .next s) ∧
    (s.ev = .gangStop g.gid → g.stopped = false → (∃ c k st, (c, k, st) ∈ s.ring ∧ c ∈ g.cores ∧ mayHalt (s.core c) (s.ctx c k) = false) →
      ∃ t, exec .gangStop s = .next t ∧ t.agenda = s.agenda ++ [s.ev] ∧ t.cores = s.cores ∧ t.mem = s.mem ∧
        (∀ e ∈ t.ring, e.1 ∈ g.cores → mayHalt (s.core e.1) (s.ctx e.1 e.2.1) = false ∨ (e.2.1 = 0 ∧ groupMayHalt s e.1 = false))) ∧
    (∀ d x y, s.ev = .gangResume g.gid d x y →
      (g.stopping = true → exec .gangResume s = .next (s.send s.ev)) ∧
      (g.stopping = false → g.stopped = false → exec .gangResume s = .next s) ∧
      (g.stopping = false → g.stopped = true → placeOpen s g.launch.record g.gid (coreFree s g.gid) (d, x, y) = false →
        exec .gangResume s = .next (modGang g.gid (fun g => { g with waits := true }) s)) ∧
      (g.stopping = false → g.stopped = true → streamRoom s g.gid g.die d = false →
        exec .gangResume s = .next (modGang g.gid (fun g => { g with waits := true }) s)) ∧
      (g.stopping = false → g.stopped = true → placeOpen s g.launch.record g.gid (coreFree s g.gid) (d, x, y) = true →
        streamRoom s g.gid g.die d = true →
        coresOf g.launch.record d x y = g.cores → s.plinth.gangs = [g] → exec .gangResume s = .next (resumeAt g d x y s)))) ∧
  (∀ (s : State) (c : Nat), s.ev = .successorOverlapStoresDone c →
    (s.plinth.gangs.all (fun g => g.preds.isEmpty) = true → exec .successorOverlapStoresDone s = .next s) ∧
    (∀ g m, s.plinth.gangs = [g] → g.preds = [(0, m)] → g.stopped = false → c ∈ g.cores → storesOut s g m = false →
      exec .successorOverlapStoresDone s = .next (modGang g.gid (fun g => { g with preds := [] }) s)) ∧
    (∀ g m, s.plinth.gangs = [g] → g.preds = [(0, m)] → g.stopped = false → c ∈ g.cores → storesOut s { g with cores := [c] } m = true →
      exec .successorOverlapStoresDone s = .next (s.send s.ev)))

/-- R373, R375: GANG_STOP from its first step to its last. Once every context has halted and nothing is on its way any more, the gang
is stopped: it holds no permit units, its cores hold no context, no macro-op, no message and no port any more, and every byte, granule
state, bank state and full bit of their scratchpads stays. -/
def Sys2Proof.Claims.GangStopCompletes : Prop :=
  (∀ (s : State) (g : Gang), s.ev = .gangStop g.gid → findGang s g.gid = some g → g.stopped = false →
    let u := haltContexts g (modGang g.gid (fun g => { g with stopping := true }) s)
    allHalted g u = true →
    (isQuiet g (quiesce g u) = true → exec .gangStop s = .next (finishStop g (quiesce g u))) ∧
    (isQuiet g (quiesce g u) = false → exec .gangStop s = .next ((quiesce g u).send s.ev))) ∧
  (∀ (s : State) (g h : Gang), findGang s g.gid = some h →
    (∀ c ∈ g.cores, c < 4096 ∧ (∀ e ∈ (s.core c).ctxs, e.1 < 11) ∧ ∀ p, (tget (s.core c).slots p {}).parcel.length ≤ 64) →
    let t := finishStop g s
    (∃ h', findGang t g.gid = some h' ∧ h'.stopped = true ∧ h'.stopping = false ∧ h'.held = [] ∧ h'.cores = h.cores ∧ h'.launch = h.launch) ∧
    (∀ c ∈ g.cores, (t.core c).ctxs = [] ∧ (t.core c).gid = 0 ∧ (t.core c).queue = [] ∧ (t.core c).inbox = [] ∧ (t.core c).slots = [] ∧
      (t.core c).gran = (s.core c).gran ∧ (t.core c).bank = (s.core c).bank ∧ (t.core c).full = (s.core c).full ∧
      (t.core c).failed = (s.core c).failed) ∧
    (∀ c, c ∉ g.cores → t.core c = s.core c) ∧
    ∀ c i, c < 4096 → i < 262144 → memByte t.mem (spPlace c i) = memByte s.mem (spPlace c i))

/-- Tables 5-1, 16-3, 16-4, R88, R121, R237, R271, R375: what an unload writes of a context, dirty granules, state area and context
record, and what its core writes beside it. The packing of a port slot is the model's (log 29). -/
def Sys2Proof.Claims.SaveBlocksHoldTheState : Prop :=
  (∀ (s : State) (c k : Nat), c < 4096 → k < 11 →
    let x := s.ctx c k
    let t := unload c k s
    let dirty (g : Nat) : Prop := (s.core c).granule x.area g = .present true
    (contextRecord x).length = 1024 ∧ (stateArea c k s).length = 384 ∧
    memBytes t.mem (contextRecordAt c k) 1024 = contextRecord x ∧ memBytes t.mem (saveArea c k + 0x680) 384 = stateArea c k s ∧
    (∀ g, g < 26 → dirty g → memBytes t.mem (saveArea c k + 64 * g) 64 = memBytes s.mem (spPlace c (x.area * 2048 + 64 * g)) 64) ∧
    (∀ g, g < 26 → ¬ dirty g → memBytes t.mem (saveArea c k + 64 * g) 64 = memBytes s.mem (saveArea c k + 64 * g) 64) ∧
    (∀ p, (p < saveArea c k ∨ saveArea c k + 2048 ≤ p) → (p < contextRecordAt c k ∨ contextRecordAt c k + 1024 ≤ p) →
      memByte t.mem p = memByte s.mem p) ∧ t.cores = s.cores) ∧
  (∀ (x : Ctx), x.ldq.length ≤ 16 → x.sdq.length ≤ 16 → x.oqE.length ≤ 8 → x.oqA.length ≤ 8 → x.replay.length ≤ 16 →
    let l := contextRecord x
    nbits (dwordAt l 0x148) 0 5 = x.ldq.length ∧ nbits (dwordAt l 0x148) 5 5 = (x.ldq.filter (fun i => i.val.isNone)).length ∧
    nbits (dwordAt l 0x148) 10 5 = x.sdq.length ∧ nbits (dwordAt l 0x148) 15 4 = x.oqE.length ∧ nbits (dwordAt l 0x148) 19 4 = x.oqA.length ∧
    (∀ i q, x.ldq[i]? = some q → dwordAt l (8 * i) = (q.val.getD 0).toNat) ∧
    (∀ i q, x.sdq[i]? = some q → dwordAt l (0x80 + 8 * i) = q.val.toNat) ∧
    dwordAt l 0x150 = x.sbs.toNat ∧ dwordAt l 0x2E0 = x.replay.length ∧
    (∀ i r, x.replay[i]? = some r → dwordAt l (0x160 + 24 * i) = r.va.toNat % 2 ^ 64 ∧ dwordAt l (0x170 + 24 * i) = r.data.toNat)) ∧
  (∀ (s : State) (c k : Nat), let x := s.ctx c k; let l := stateArea c k s
    (∀ i, i < 7 → dwordAt l (0x80 + 8 * i) = (tget x.o i 0).toNat) ∧
    dwordAt l 0xC0 = x.y0.toNat ∧ dwordAt l 0xC8 = x.y1.toNat ∧ dwordAt l 0xD0 = x.y2.toNat ∧ dwordAt l 0xD8 = x.y3.toNat ∧
    dwordAt l 0xE0 = x.wp.toNat ∧ dwordAt l 0xE8 = x.acc.savePc.toNat ∧ dwordAt l 0xF0 = x.exe.savePc.toNat ∧
    dwordAt l 0x108 = (x.st k).toNat ∧ dwordAt l 0x110 = x.ds.toNat) ∧
  (∀ (s : State) (c : Nat), c < 4096 →
    let v := s.core c
    let b := Config.saveBlock c
    let t := saveCore c s
    memBytes t.mem (b + 0x1_0000) 0x6048 = matrixArea v ∧
    (∀ i e, i < 32 → v.inbox[i]? = some e → memBytes t.mem (b + 0x1_8000 + 72 * i) 72 = inboxBytes e) ∧
    memBytes t.mem (b + 0x1_8E00) 8 = leBytes 8 v.o7.toNat ∧ (memByte t.mem (b + 0x1_8E08)).getLsbD 0 = v.o7full ∧
    ((∀ p, (tget v.slots p {}).parcel.length ≤ 64) →
      (∀ p, p < 16 → memBytes t.mem (b + 0x1_8900 + 80 * p) 80 = slotBytes (tget v.slots p {})) ∧
      ∀ p, p < b + 0x1_0000 ∨ b + 0x1_8E20 ≤ p → memByte t.mem p = memByte s.mem p) ∧ t.cores = s.cores) ∧
  (∀ (s : State) (g : Gang) (c k : Nat) (x : Ctx), g.cores = [c] → c < 4096 → k < 11 → (s.core c).ctxs = [(k, x)] → x.acc.ctl = .seq →
    x.exe.ctl = .seq → (s.core c).slots.all (fun e => e.2.asker.isNone) = true →
    let t := finishStop g s
    memBytes t.mem (contextRecordAt c k) 1024 = contextRecord x ∧ memBytes t.mem (saveArea c k + 0x680) 384 = stateArea c k s)

/-- GANG_PLACEMENT, GANG_COMPLETE, SUCCESSOR_START and its overlap, GANG_STOP and what it leaves, GANG_RESUME. A resume that waits for the
streamer is the model's (log 94), the packing of a port slot log 29. -/
def Obligations.GangEvents : Prop :=
  Sys2Proof.Claims.GangEvents ∧ Sys2Proof.Claims.GangStopCompletes ∧ Sys2Proof.Claims.SaveBlocksHoldTheState

/-- R178: the scrub of a core: its scratchpad reads zero and it keeps nothing of its gang; no other core and no other byte changes
where no matrix command waits in its inbox, and one that waits is rejected at its sender (R145). -/
def Sys2Proof.Claims.ScrubbingLeavesNothing : Prop :=
  ∀ (s : State) (c : Nat),
    let t := scrubCore c s
    (∀ i, i < 262144 → memByte t.mem (spPlace c i) = 0) ∧
    (∀ u : State, (s.core c).inbox.filter (fun e => e.kind == 3) = [] ∧ u = s ∨
        (∃ e, (s.core c).inbox.filter (fun e => e.kind == 3) = [e] ∧ u = rejectCommand e s) →
      (∀ p, p < spPlace c 0 ∨ spPlace c 0 + 262144 ≤ p → memByte t.mem p = memByte u.mem p) ∧ (∀ c', c' ≠ c → t.core c' = u.core c')) ∧
    (t.core c).ctxs = [] ∧ (t.core c).gid = 0 ∧ (t.core c).cacc = [] ∧ (t.core c).active = {} ∧ (t.core c).shadow = {} ∧
    (t.core c).o7full = false ∧ (t.core c).inbox = [] ∧ (t.core c).slots = [] ∧ (t.core c).full = [] ∧ (t.core c).gran = [] ∧
    (∀ e ∈ t.ring, e.1 ≠ c)

/-- R361, R368 to R372: failures, spares and the balancer. That an error in the live state of a core that fails is met by the stop is the
model's (log 97). -/
def Sys2Proof.Claims.FailureEvents : Prop :=
  (∀ (s : State) (c : Nat) (lost : Bool), s.ev = .coreFailure c lost →
    (4096 ≤ c → exec .coreFailure s = .next s) ∧
    (c < 4096 → gangAt (s.modCore c (fun v => { v with failed := true })) c = none → exec .coreFailure s =
      .next ((s.modCore c (fun v => { v with failed := true })).modCore c (fun v => { v with fenced := true }))) ∧
    (∀ g, c < 4096 → gangAt (s.modCore c (fun v => { v with failed := true })) c = some g → g.stopped = false → g.stopping = false →
      exec .coreFailure s = .next (((modGang g.gid (fun g => { g with stopping := true, faulted := lost || (!s.flaws.isEmpty && stateFlawed s c) })
        (s.modCore c (fun v => { v with failed := true }))).send (.gangStop g.gid)).send s.ev))) ∧
  (∀ (s : State) (d : BitVec 2), s.ev = .controlCoreFailover d → ∃ t, exec .controlCoreFailover s = .next t ∧
    (t.die d.toNat).standby = !(s.die d.toNat).standby ∧ t.mem = s.mem ∧ t.cores = s.cores ∧
    (t.agenda = s.agenda ++ (s.die d.toNat).emuRecords.map (fun r => Msg.emulationComplete r.core))) ∧
  (∀ (s : State) (st : BitVec 4) (row spare : Nat), s.ev = .hbmRowRemap st row spare → exec .hbmRowRemap s =
    .next (s.modPlinth (fun p => { p with rowMaps := p.rowMaps ++ [(st.toNat, row, spare)] }))) ∧
  (∀ (s : State) (port : Nat), s.ev = .bexuzLaneFailure port → exec .bexuzLaneFailure s =
    .next (s.modPlinth (fun p => { p with lanes := insertNat port p.lanes }))) ∧
  (∀ (s : State) (src dst n : Nat), s.ev = .balancerTick src dst n →
    (src = dst ∨ 4096 ≤ src ∨ 4096 ≤ dst → exec .balancerTick s = .next s) ∧
    (∀ q, src < 4096 → dst < 4096 → src ≠ dst → runQueue s src = [q] → runQueue s dst = [] → nodeLatency s q = false → n = 1 → ∃ t, exec .balancerTick s = .next t ∧ runQueue t src = [] ∧ runQueue t dst = [q] ∧
        t.agenda = s.agenda ++ [.nodeDispatch (BitVec.ofNat 2 (coreDie src))] ∧ t.cores = s.cores))

/-- The scrub of a core; failures, spares and the balancer. That the flawed state of a failed core is met by the stop is the model's (log
97), and so is it that each move the balancer orders is an input (log 35). -/
def Obligations.ScrubsAndFailures : Prop :=
  Sys2Proof.Claims.ScrubbingLeavesNothing ∧ Sys2Proof.Claims.FailureEvents

/-- R25, R279, R280, R338, R395 to R400, R409: the device register window, power, temperature, reset, the ramp limiter, attestation. A
millisecond of samples that means more than 3,300 W takes 288 units from every pool, never below 1,152; one with every sample below
3,000 W gives 288 back, but on a hot die (every sample, and the hot die, are log 72). The model's: a reset keeps what stands in HBM, as it keeps
the firmware slots (log 38), and a key of zeros clears a slot (log 65). -/
def Obligations.ModuleEvents : Prop :=
  (∀ (s : State) (r : BitVec 4) (e : BitVec 128), s.ev = .regionEntryWrite r e →
    (13 ≤ r.toNat → exec .regionEntryWrite s = .next s) ∧
    (r.toNat < 13 → entryOk e.toNat = false → exec .regionEntryWrite s = .next (s.modPlinth (fun p => { p with winErr := true }))) ∧
    (r.toNat < 13 → entryOk e.toNat = true → sentAny s (fun q => vaRegion q.va == r.toNat) = true ∨ probedBy s (fun _ => true) = true →
      exec .regionEntryWrite s = .next (s.send s.ev)) ∧
    (r.toNat < 13 → entryOk e.toNat = true → sentAny s (fun q => vaRegion q.va == r.toNat) = false → probedBy s (fun _ => true) = false →
      s.slices = [] → ∃ t, exec .regionEntryWrite s = .next t ∧
      tget t.regions r.toNat 0 = e ∧ t.mem = s.mem)) ∧
  (∀ (s : State) (slot : BitVec 8) (key : BitVec 512), s.ev = .connectorKeyInstall slot key →
    (key = 0 → exec .connectorKeyInstall s = .next (s.modPlinth (fun p => { p with connKeys := terase p.connKeys slot.toNat }))) ∧
    (key ≠ 0 → (tfind s.plinth.connKeys slot.toNat).isSome = true → exec .connectorKeyInstall s = .next s) ∧
    (key ≠ 0 → tfind s.plinth.connKeys slot.toNat = none → ∃ t, exec .connectorKeyInstall s = .next t ∧
      tfind t.plinth.connKeys slot.toNat = some key ∧ tget t.plinth.measures 2 0 =
        BitVec.ofNat 512 (leNat (shake256 (bytes64 (tget s.plinth.measures 2 0) ++ shake256 (bytes64 key) 64) 64)))) ∧
  (∀ (s : State) (d : BitVec 2) (n : BitVec 14), s.ev = .poolSizeWrite d n → s.plinth.gangs = [] → permitWaits (s.die d.toNat) = false →
    exec .poolSizeWrite s = .next (s.modDie d.toNat (fun v => { v with poolSize := n.toNat }))) ∧
  (∀ (s : State) (d : BitVec 2), s.ev = .faultLogRead d →
    ((s.die d.toNat).faultLog = [] → exec .faultLogRead s = .next s) ∧
    (∀ e l, (s.die d.toNat).faultLog = e :: l → exec .faultLogRead s =
      .next ((s.modDie d.toNat (fun v => { v with faultLog := l })).modPlinth (fun p => { p with fwRead := e })))) ∧
  (∀ (s : State), ∃ t, exec .moduleReset s = .next t ∧ t.cores = State.reset.cores ∧
    t.plinth = { measures := [(0, s.plinth.measureA)], fseq := s.plinth.slotA, slotA := s.plinth.slotA, slotB := s.plinth.slotB,
                 fmin := s.plinth.fmin, measureA := s.plinth.measureA, measureB := s.plinth.measureB } ∧
    t.dies = State.reset.dies ∧ t.stopped = false ∧ t.agenda = State.reset.agenda ∧ (∀ p, p < 2 ^ 58 → memByte t.mem p = memByte s.mem p) ∧
    ∀ p, 2 ^ 58 ≤ p → memByte t.mem p = 0) ∧
  (∀ (s : State) (mw : Nat), s.ev = .powerSample mw → s.plinth.samples.length < 99 → exec .powerSample s =
    .next (s.modPlinth (fun p => { p with samples := mw :: p.samples }))) ∧
  (∀ (s : State) (mw : Nat), s.ev = .powerSample mw → 99 ≤ s.plinth.samples.length → ∃ t, exec .powerSample s = .next t ∧
    t.plinth.samples = [] ∧ t.mem = s.mem ∧ t.cores = s.cores ∧ ∀ d, d < 4 →
    let n := (s.die d).poolSize
    let sum := (mw :: s.plinth.samples).foldl (· + ·) 0
    let low := (mw :: s.plinth.samples).all (fun w => decide (w < 3_000_000))
    (330_000_000 < sum → (t.die d).poolSize = if n ≤ 1152 then n else max 1152 (n - 288)) ∧
    (sum ≤ 330_000_000 → low = true → (t.die d).poolSize = if 2304 ≤ n ∨ (s.die d).hot = true then n else min 2304 (n + 288)) ∧
    (sum ≤ 330_000_000 → low = false → (t.die d).poolSize = n)) ∧
  (∀ (s : State) (d : BitVec 2) (deg : Nat), s.ev = .thermalEvent d deg →
    (110 ≤ deg → exec .thermalEvent s = .next (thermalStop s) ∧ (thermalStop s).stopped = true) ∧
    (deg < 90 → exec .thermalEvent s = .next (s.modDie d.toNat (fun v => { v with hot := false }))) ∧
    (90 ≤ deg → deg < 95 → (s.die d.toNat).hot = false → exec .thermalEvent s = .next s) ∧
    (90 ≤ deg → deg < 110 → 95 ≤ deg ∨ (s.die d.toNat).hot = true → ∃ t, exec .thermalEvent s = .next t ∧ (t.die d.toNat).hot = true ∧
      (t.die d.toNat).poolSize ≤ (s.die d.toNat).poolSize ∧
      (1152 < (s.die d.toNat).poolSize → (t.die d.toNat).poolSize = max 1152 ((s.die d.toNat).poolSize - 288)))) ∧
  (∀ (s : State), exec .thermalStop s = .next (thermalStop s) ∧ (thermalStop s).agenda = s.agenda.filter mayCome ∧ (thermalStop s).ring = [] ∧
    ∀ p, p < 2 ^ 58 → memByte (thermalStop s).mem p = 0) ∧
  (∀ (s : State) (d : BitVec 2) (n : Nat), s.ev = .rampLimiterFill d n → exec .rampLimiterFill s =
    .next (s.modDie d.toNat (fun v => { v with rampFill := v.rampFill + BitVec.ofNat 64 n }))) ∧
  (∀ (s : State) (d : BitVec 2), s.ev = .attestReportDone d →
    ((s.die d.toNat).attests = [] → exec .attestReportDone s = .next s) ∧
    (∀ r l, (s.die d.toNat).attests = r :: l →
      let body := reportBody r s.plinth
      let report := body ++ (List.range 29792).map (Config.identitySignature body)
      exec .attestReportDone s = .next (completePend r.core r.ctx r.id 0
        ((engWriteBytes r.core r.gid r.asid false r.va report s).1.modDie d.toNat (fun v => { v with attests := l }))))) ∧
  (∀ (r : AttestReq) (p : Plinth), let l := reportBody r p
    l.length = 0x300 ∧ l.take 64 = leBytes 64 r.nonce.toNat ∧ dwordAt l 0x40 = (Config.moduleId + p.fseq.toNat * 2 ^ 32) % 2 ^ 64 ∧
    dwordAt l 0x48 = r.gid.toNat + r.asid.toNat * 2 ^ 32 + r.key.toNat * 2 ^ 44 ∧
    (l.drop 0x50).take 48 = (List.range 48).map Config.identityKeyHash ∧
    (∀ i, i < 8 → (l.drop (0x80 + 64 * i)).take 64 = leBytes 64 (tget p.measures i 0).toNat) ∧ (l.drop 0x280) = List.replicate 128 0)

/-! ## The machine as a whole -/

/-- A step runs the decoded instruction: with no message due, no interpreter busy and a stream whose turn it is, that stream
redirects where it must and then executes the word that it fetches; words of the other stream are passed over (R67, R78); the members
of a follow group take their turn together (R19, R117); a queue program's word runs likewise; and a message that is due is the event
of its name (log 4), also in a module that has stopped where it may still come (R399). -/
def Obligations.StepRunsTheDecodedInstruction : Prop :=
  (∀ (s s2 u : State) (c k : Nat) (l : List (Nat × Nat × Stream)) (st : Stream) (w : Word) (i : Instr), s.stopped = false → s.turn = false →
    s.ring = (c, k, st) :: l → busyInterp s = none →
    (s.ctx c k).live = true → (s.ctx c k).emulating = false → (s.core c).failed = false → (s.ctx c k).owed = 0 →
    (k = 0 → inGroup s c = false) →
    let s0 : State := { s with ring := l ++ [(c, k, st)], cur := .ctx c k st, ev := .idle, turn := true }
    let y := (s.ctx c k).stream st
    ((y.ctl = .seq ∧ s2 = s0) ∨
      (∃ b, y.ctl = .slot b ∧ s2 = s0 ∧ (b.indirect = true → ((s.ctx c k).outcome st b).isSome = true)) ∨
      (∃ b, y.ctl = .redirect b ∧ redirect c k st b s0 = some s2)) →
    fetchFor s2 c k ((s2.ctx c k).stream st).pc = .ok (w, u) → decodeWord w = some i →
    (wordOwner w = .exe → st = .acc → step s = .next (passOver c k .acc (some i) u)) ∧
    (wordOwner w = .acc → st = .exe → step s = .next (passOver c k .exe (some i) u)) ∧
    (wordOwner w = .both → usesOperands i st = false → step s = exec i { u with cur := .ctx c k st }) ∧
    (wordOwner w = .both → ownCopy i = false → (s2.ctx c k).together = true →
      hazard (u.core c) (s2.ctx c k).align (s2.ctx c k).align.acc.pos i = false →
      step s = exec i { fillNamed c k i (u.modCtx c k Ctx.align) with cur := .ctx c k .acc }) ∧
    (hazard (u.core c) (s2.ctx c k) ((s2.ctx c k).stream st).pos i = false → usesOperands i st = true →
      (wordOwner w = .exe → st = .exe → step s = exec i { fillNamed c k i u with cur := .ctx c k .exe }) ∧
      (wordOwner w = .acc → st = .acc → step s = exec i { fillNamed c k i u with cur := .ctx c k .acc }) ∧
      (wordOwner w = .both → ownCopy i = true → step s = exec i { fillNamed c k i u with cur := .ctx c k st }))) ∧
  (∀ (s : State) (c : Nat) (l : List (Nat × Nat × Stream)) (st : Stream), s.stopped = false → s.turn = false → s.ring = (c, 0, st) :: l →
    busyInterp s = none → inGroup s c = true → step s = .next (groupTurn (leaderIn s c) st
      { s with ring := l ++ [(c, 0, st)], cur := .ctx c 0 st, ev := .idle, turn := true })) ∧
  (∀ (s : State) (n : Nat) (i : Instr), s.stopped = false → s.turn = false → busyInterp s = some n → interpWord s n = some i →
    step s = exec i { s with cur := .interp n, turn := true }) ∧
  (∀ (s : State) (m : Msg) (l : List Msg) (i : Instr), s.stopped = false ∨ mayCome m = true → s.turn = true → s.agenda = m :: l → m.instr = some i →
    step s = exec i { s with agenda := l, ev := m, cur := .none, turn := false })

/-- A few words written out from the encoding tables (Tables 4-1 to 4-12, 17-2) decode to the instructions that they stand for. -/
def Sys2Proof.Claims.WordsDecode : Prop :=
  decodeTableWord 32 0x1460804C = some (.shri 6 2 12) ∧ decodeTableWord 32 0x1C1253C8 = some (.extS 1 9 15 8) ∧
  decodeTableWord 32 0x20310511 = some (.fadd 3 4 5 1) ∧ decodeTableWord 32 0x84208008 = some (.aaddi 2 2 8) ∧
  decodeTableWord 32 0xF0000000 = some .nop ∧ decodeTableWord 32 0xC8701200 = some (.constat 7 0) ∧
  decodeTableWord 64 0x0000000000071204 = none ∧ decodeTableWord 64 0x0000000000070204 = some (.qaddi 2 7)

/-- Every instruction goes on: no word and no event ends in a fault or a refusal; only a module that has stopped at its temperature
limit does not move (R399). -/
def Obligations.EveryInstructionGoesOn : Prop :=
  (∀ (i : Instr) (s : State), ∃ t, exec i s = .next t) ∧
  (∀ s : State, mayMove s = true → Safety.goesOn s) ∧
  (∀ s : State, mayMove s = false → step s = .fault .moduleStopped)

/-- What reset leaves: the values of the spec (R280, R409) and those of log 2; the stores list nothing (log 1). -/
def Sys2Proof.Claims.ResetState : Prop :=
  Safety.wf State.reset = true ∧ (∀ p, memByte State.reset.mem p = 0) ∧ State.reset.ring = [] ∧ State.reset.stopped = false ∧
  State.reset.plinth.gangs = [] ∧ State.reset.plinth.interps = [] ∧
  (∀ c, (State.reset.core c).gid = 0 ∧ (State.reset.core c).failed = false ∧ ∀ k, (State.reset.ctx c k).live = false) ∧
  ∀ d, d < 4 → (State.reset.die d).jobs = [] ∧ (State.reset.die d).graphs = []

/-- What reset leaves, and a few words decoded. After reset the stores are in canonical form and read zero (log 1), no context runs, no
gang, job or graph is held, no core has failed (log 2). -/
def Obligations.ResetAndWords : Prop :=
  Sys2Proof.Claims.ResetState ∧ Sys2Proof.Claims.WordsDecode

/-- The stores keep their canonical form: every step from a state whose stores are in canonical form leaves them in it (log 1). -/
def Obligations.StoresStayCanonical : Prop :=
  ∀ s t : State, Safety.wf s = true → step s = .next t → Safety.wf t = true

/-- R67 to R75, R386: for every well-formed word, decoding its encoding gives it back with every operand; and every well-formed
instruction has a word or is the event of a message. -/
def Obligations.DecodingInvertsEncoding : Prop :=
  (∀ (i : Instr) (w : Word), i.wellFormed = true → encode i = some w → decodeWord w = some i) ∧
  (∀ (i : Instr) (w : Dword), i.wellFormed = true → encodeQueue i = some w → decodeQueueWord w = some i) ∧
  (∀ i : Instr, i.wellFormed = true → (∃ w, encode i = some w) ∨ (∃ w, encodeQueue i = some w) ∨ ∃ m : Msg, m.instr = some i)

end
end

