-- ==== Sys2Proof/Laws/Tables.lean ====
section
/-! SUPPORT. Sparse tables and the bytes of the stores: what a read gives after a write, and that every operation on the stores
keeps their canonical form. -/

namespace Sys2Proof.Machine

/-! ## Tables -/

/-- A key that has been set reads as what was set. -/
theorem tget_tset_same (t : Table α) (k : Nat) (v d : α) : tget (tset t k v) k d = v := by
  induction t with
  | nil => simp [tset, tget]
  | cons e t ih =>
    obtain ⟨k', v'⟩ := e
    unfold tset
    split
    · simp [tget]
    · split
      · simp [tget]
      · simp [tget, *]

/-- Setting a key leaves every other key alone. -/
theorem tget_tset_other (t : Table α) (v : α) {k k' : Nat} (h : k' ≠ k) {d : α} : tget (tset t k v) k' d = tget t k' d := by
  induction t with
  | nil => simp [tset, tget, h]
  | cons e t ih =>
    obtain ⟨j, w⟩ := e
    unfold tset
    split
    · next hj => subst hj; simp [tget, h]
    · split
      · simp [tget, h]
      · simp [tget, ih]

theorem tset_tset (t : Table α) (k : Nat) (v w : α) : tset (tset t k v) k w = tset t k w := by
  induction t with
  | nil => simp [tset]
  | cons e t ih =>
    obtain ⟨k', v'⟩ := e
    unfold tset
    by_cases h : k = k'
    · subst h; simp [tset]
    · by_cases h' : k < k'
      · simp [tset, h, h']
      · simp [tset, h, h', ih]

theorem tget_eq_tfind (t : Table α) (k : Nat) (d : α) : tget t k d = (tfind t k).getD d := by
  induction t with
  | nil => rfl
  | cons e t ih =>
    obtain ⟨j, w⟩ := e
    by_cases h : k = j <;> simp [tget, tfind, h, ih]

/-- A filter that keeps every entry of a key leaves what the key reads as. -/
theorem tget_filter_keep (t : Table α) (p : Nat → Bool) (k : Nat) (d : α) (h : p k = true) :
    tget (t.filter (fun e => p e.1)) k d = tget t k d := by
  induction t with
  | nil => rfl
  | cons e t ih =>
    obtain ⟨j, w⟩ := e
    by_cases hj : p j = true
    · by_cases hk : k = j <;> simp [tget, hj, hk, ih]
    · have hk : k ≠ j := fun he => hj (he ▸ h)
      simp [tget, hj, hk, ih]

/-- A filter that drops every entry of a key leaves its default. -/
theorem tget_filter_drop (t : Table α) (p : Nat → Bool) (k : Nat) (d : α) (h : p k = false) :
    tget (t.filter (fun e => p e.1)) k d = d := by
  induction t with
  | nil => rfl
  | cons e t ih =>
    obtain ⟨j, w⟩ := e
    by_cases hj : p j = true
    · have hk : k ≠ j := fun he => by rw [he, hj] at h; exact absurd h (by simp)
      simp [tget, hj, hk, ih]
    · simp [hj, ih]

theorem tget_append (a b : Table α) (k : Nat) (d : α) : tget (a ++ b) k d = tget a k (tget b k d) := by
  induction a with
  | nil => rfl
  | cons e a ih =>
    obtain ⟨j, w⟩ := e
    by_cases h : k = j <;> simp [tget, h, ih]

theorem tget_absent (t : Table α) (k : Nat) (d : α) (h : ∀ e ∈ t, e.1 ≠ k) : tget t k d = d := by
  induction t with
  | nil => rfl
  | cons e t ih =>
    obtain ⟨j, w⟩ := e
    have hj : k ≠ j := fun he => h (j, w) (by simp) he.symm
    simp [tget, hj, ih (fun e he => h e (by simp [he]))]

/-! ## Bytes of the stores -/

theorem leBytes_length (n x : Nat) : (leBytes n x).length = n := by
  induction n generalizing x with
  | zero => rfl
  | succ n ih => simp [leBytes, ih]

theorem leNat_leBytes (n x : Nat) : leNat (leBytes n x) = x % 256 ^ n := by
  induction n generalizing x with
  | zero => simp [leBytes, leNat, Nat.mod_one]
  | succ n ih =>
    rw [leBytes, leNat, ih, BitVec.toNat_ofNat, show (2 : Nat) ^ 8 = 256 from rfl, Nat.pow_succ, Nat.mul_comm (256 ^ n) 256,
      Nat.mod_mul]

/-- Reading a byte of written cells. -/
theorem memByte_cellsAt (p a : Nat) (l : List Byte) :
    memByte (cellsAt p l) a = if p ≤ a then l.getD (a - p) 0 else 0 := by
  induction l generalizing p a with
  | nil => simp [cellsAt, memByte, tget]
  | cons b l ih =>
    have hrest : ∀ q, memByte (cellsAt (p + 1) l) q = if p + 1 ≤ q then l.getD (q - (p + 1)) 0 else 0 := fun q => ih (p + 1) q
    by_cases hb : b = 0
    · rw [cellsAt, if_pos hb, hrest a]
      by_cases h1 : p + 1 ≤ a
      · have : a - p = (a - (p + 1)) + 1 := by omega
        simp [h1, show p ≤ a by omega, this]
      · by_cases h2 : p ≤ a
        · have : a - p = 0 := by omega
          simp [h1, h2, this, hb]
        · simp [h1, h2]
    · rw [cellsAt, if_neg hb]
      have hstep : memByte ((p, b) :: cellsAt (p + 1) l) a = if a = p then b else memByte (cellsAt (p + 1) l) a := by
        simp [memByte, tget]
      rw [hstep, hrest a]
      by_cases h0 : a = p
      · subst h0; simp
      · by_cases h1 : p + 1 ≤ a
        · have : a - p = (a - (p + 1)) + 1 := by omega
          simp [h0, h1, show p ≤ a by omega, this]
        · simp [h0, h1, show ¬ p ≤ a by omega]

/-- Putting cells in the place of a range: outside the range nothing changes, inside it the cells are read. -/
theorem memByte_memReplace (m : List Host.Cell) (p n : Nat) (cells : List Host.Cell)
    (h : ∀ e ∈ cells, p ≤ e.1 ∧ e.1 < p + n) (a : Nat) :
    memByte (memReplace m p n cells) a = if p ≤ a ∧ a < p + n then memByte cells a else memByte m a := by
  unfold memReplace memByte
  rw [List.append_assoc, tget_append, tget_append]
  have hlow : ∀ d, tget (m.filter (fun c => decide (c.1 < p))) a d = if a < p then tget m a d else d := by
    intro d
    split
    · exact tget_filter_keep m (fun k => decide (k < p)) a d (by simpa)
    · exact tget_filter_drop m (fun k => decide (k < p)) a d (by simpa using ‹¬ a < p›)
  have hhigh : ∀ d, tget (m.filter (fun c => decide (p + n ≤ c.1))) a d = if p + n ≤ a then tget m a d else d := by
    intro d
    split
    · exact tget_filter_keep m (fun k => decide (p + n ≤ k)) a d (by simpa)
    · exact tget_filter_drop m (fun k => decide (p + n ≤ k)) a d (by simpa using ‹¬ p + n ≤ a›)
  rw [hlow, hhigh]
  have hdflt : a < p → tget m a (tget cells a (if p + n ≤ a then tget m a 0 else 0)) = tget m a 0 := by
    intro h1
    have : ¬ p + n ≤ a := by omega
    rw [tget_absent cells a _ (fun e he hk => by have := h e he; omega)]
    simp [this]
  by_cases h1 : a < p
  · rw [if_pos h1, hdflt h1, if_neg (by omega)]
  · by_cases h2 : p + n ≤ a
    · rw [if_neg h1, if_pos h2, tget_absent cells a _ (fun e he hk => by have := h e he; omega), if_neg (by omega)]
    · rw [if_neg h1, if_neg h2, if_pos (by omega)]

theorem cellsAt_range (p : Nat) (l : List Byte) : ∀ e ∈ cellsAt p l, p ≤ e.1 ∧ e.1 < p + l.length := by
  induction l generalizing p with
  | nil => simp [cellsAt]
  | cons b l ih =>
    intro e he
    unfold cellsAt at he
    simp only [List.length_cons]
    split at he
    · have := ih (p + 1) e he; omega
    · rcases List.mem_cons.1 he with rfl | he
      · omega
      · have := ih (p + 1) e he; omega

/-- Writing bytes: the bytes written are read back, every other byte stays. -/
theorem memByte_memSetBytes (m : List Host.Cell) (p : Nat) (l : List Byte) (a : Nat) :
    memByte (memSetBytes m p l) a = if p ≤ a ∧ a < p + l.length then l.getD (a - p) 0 else memByte m a := by
  unfold memSetBytes
  rw [memByte_memReplace m p _ _ (cellsAt_range p l) a]
  by_cases h : p ≤ a ∧ a < p + l.length
  · rw [if_pos h, if_pos h, memByte_cellsAt, if_pos h.1]
  · rw [if_neg h, if_neg h]

/-- Zeroing a range. -/
theorem memByte_memZero (m : List Host.Cell) (p n a : Nat) :
    memByte (memZero m p n) a = if p ≤ a ∧ a < p + n then 0 else memByte m a := by
  unfold memZero
  rw [memByte_memReplace m p n [] (by simp) a]
  rfl

/-- A part of the memory reads as the memory inside the part. -/
theorem memByte_memPart (m : List Host.Cell) (p n a : Nat) (h : p ≤ a ∧ a < p + n) : memByte (memPart m p n) a = memByte m a := by
  unfold memPart memByte
  exact tget_filter_keep m (fun k => decide (p ≤ k) && decide (k < p + n)) a 0 (by simpa using h)

theorem memBytes_eq (m : List Host.Cell) (p n : Nat) : memBytes m p n = (List.range n).map (fun i => memByte m (p + i)) := by
  unfold memBytes
  apply List.map_congr_left
  intro i hi
  exact memByte_memPart m p n (p + i) ⟨by omega, by have := List.mem_range.1 hi; omega⟩

/-- Bytes written are read back as they were. -/
theorem memBytes_memSetBytes_same (m : List Host.Cell) (p : Nat) (l : List Byte) : memBytes (memSetBytes m p l) p l.length = l := by
  rw [memBytes_eq]
  apply List.ext_getElem
  · simp
  · intro i h1 h2
    simp only [List.getElem_map, List.getElem_range, memByte_memSetBytes]
    rw [if_pos ⟨by omega, by omega⟩]
    simp [show p + i - p = i by omega, List.getD_eq_getElem?_getD, List.getElem?_eq_getElem h2]

/-- Bytes outside those written are as they were. -/
theorem memBytes_memSetBytes_apart (m : List Host.Cell) (p q n : Nat) (l : List Byte) (h : q + n ≤ p ∨ p + l.length ≤ q) :
    memBytes (memSetBytes m p l) q n = memBytes m q n := by
  rw [memBytes_eq, memBytes_eq]
  apply List.map_congr_left
  intro i hi
  have := List.mem_range.1 hi
  rw [memByte_memSetBytes, if_neg (by omega)]

/-- A number stored is loaded back, cut to its bytes. -/
theorem State.load_store_same (s : State) (p n x : Nat) : (s.store p n x).load p n = x % 256 ^ n := by
  have h := memBytes_memSetBytes_same s.mem p (leBytes n x)
  rw [leBytes_length] at h
  unfold State.load State.store
  rw [h, leNat_leBytes]

theorem State.load_store_apart (s : State) (p q n k x : Nat) (h : q + k ≤ p ∨ p + n ≤ q) : (s.store p n x).load q k = s.load q k := by
  unfold State.load State.store
  rw [memBytes_memSetBytes_apart _ _ _ _ _ (by simpa [leBytes_length] using h)]

/-! ## The canonical form -/

theorem memRising_iff (m : List Host.Cell) : memRising m = true ↔ m.Pairwise (fun a b => a.1 < b.1) := by
  induction m with
  | nil => simp [memRising]
  | cons a m ih =>
    cases m with
    | nil => simp [memRising]
    | cons b l =>
      simp only [memRising, Bool.and_eq_true, decide_eq_true_eq, ih, List.pairwise_cons]
      constructor
      · rintro ⟨h, hb, hl⟩
        refine ⟨fun c hc => ?_, hb, hl⟩
        rcases List.mem_cons.1 hc with rfl | hc
        · exact h
        · exact Nat.lt_trans h (hb c hc)
      · rintro ⟨h, hb, hl⟩
        exact ⟨h b (by simp), hb, hl⟩

theorem memWf_iff (m : List Host.Cell) : memWf m = true ↔ (∀ c ∈ m, c.2 ≠ 0) ∧ m.Pairwise (fun a b => a.1 < b.1) := by
  simp [memWf, memRising_iff]

/-- Putting canonical cells of a range in its place keeps the canonical form. -/
theorem memWf_memReplace {m cells : List Host.Cell} (p n : Nat) (hm : memWf m = true) (hc : memWf cells = true)
    (hr : ∀ e ∈ cells, p ≤ e.1 ∧ e.1 < p + n) : memWf (memReplace m p n cells) = true := by
  rw [memWf_iff] at hm hc ⊢
  unfold memReplace
  constructor
  · intro c h
    rcases List.mem_append.1 h with h | h
    · rcases List.mem_append.1 h with h | h
      · exact hm.1 c (List.mem_filter.1 h).1
      · exact hc.1 c h
    · exact hm.1 c (List.mem_filter.1 h).1
  · rw [List.pairwise_append, List.pairwise_append]
    refine ⟨⟨hm.2.filter _, hc.2, ?_⟩, hm.2.filter _, ?_⟩
    · intro a ha b hb
      have h1 := (List.mem_filter.1 ha).2
      have h2 := hr b hb
      simp only [decide_eq_true_eq] at h1
      omega
    · intro a ha b hb
      have h2 := (List.mem_filter.1 hb).2
      simp only [decide_eq_true_eq] at h2
      rcases List.mem_append.1 ha with ha | ha
      · have h1 := (List.mem_filter.1 ha).2
        simp only [decide_eq_true_eq] at h1
        omega
      · have h1 := hr a ha
        omega

theorem memWf_cellsAt (p : Nat) (l : List Byte) : memWf (cellsAt p l) = true := by
  induction l generalizing p with
  | nil => rfl
  | cons b l ih =>
    unfold cellsAt
    split
    · exact ih (p + 1)
    · next hb =>
      have h := (memWf_iff _).1 (ih (p + 1))
      rw [memWf_iff]
      refine ⟨?_, ?_⟩
      · intro c hc
        rcases List.mem_cons.1 hc with rfl | hc
        · exact hb
        · exact h.1 c hc
      · rw [List.pairwise_cons]
        exact ⟨fun c hc => by have := cellsAt_range (p + 1) l c hc; show p < c.1; omega, h.2⟩

/-- Writing bytes keeps the canonical form. -/
theorem memWf_memSetBytes {m : List Host.Cell} (p : Nat) (l : List Byte) (h : memWf m = true) : memWf (memSetBytes m p l) = true :=
  memWf_memReplace p _ h (memWf_cellsAt p l) (cellsAt_range p l)

/-- Zeroing a range keeps the canonical form. -/
theorem memWf_memZero {m : List Host.Cell} (p n : Nat) (h : memWf m = true) : memWf (memZero m p n) = true :=
  memWf_memReplace p n h rfl (by simp)

/-- Dropping cells keeps the canonical form. -/
theorem memWf_filter {m : List Host.Cell} (f : Host.Cell → Bool) (h : memWf m = true) : memWf (m.filter f) = true := by
  rw [memWf_iff] at h ⊢
  exact ⟨fun c hc => h.1 c (List.mem_filter.1 hc).1, h.2.filter _⟩

/-- Moving cells by a distance keeps the canonical form. -/
theorem memWf_shift {m : List Host.Cell} (src dst : Nat) (h : memWf m = true) (hs : ∀ c ∈ m, src ≤ c.1) :
    memWf (m.map (fun c => (dst + (c.1 - src), c.2))) = true := by
  rw [memWf_iff] at h ⊢
  refine ⟨?_, ?_⟩
  · intro c hc
    obtain ⟨d, hd, rfl⟩ := List.mem_map.1 hc
    exact h.1 d hd
  · rw [List.pairwise_map]
    refine h.2.imp_of_mem ?_
    intro a b ha hb hab
    have := hs a ha
    have := hs b hb
    show dst + (a.1 - src) < dst + (b.1 - src)
    omega

/-- Copying bytes keeps the canonical form. -/
theorem memWf_memCopy {m : List Host.Cell} (src dst n : Nat) (h : memWf m = true) : memWf (memCopy m src dst n) = true := by
  have hp : ∀ c ∈ memPart m src n, src ≤ c.1 ∧ c.1 < src + n := fun c hc => by
    have := (List.mem_filter.1 hc).2
    simpa using this
  refine memWf_memReplace dst n h (memWf_shift src dst (memWf_filter _ h) (fun c hc => (hp c hc).1)) ?_
  intro e he
  obtain ⟨d, hd, rfl⟩ := List.mem_map.1 he
  have := hp d hd
  show dst ≤ dst + (d.1 - src) ∧ dst + (d.1 - src) < dst + n
  omega

/-- A store keeps the canonical form of the memory. -/
theorem State.store_memWf (s : State) (p n x : Nat) (h : memWf s.mem = true) : memWf (s.store p n x).mem = true :=
  memWf_memSetBytes p _ h

end Sys2Proof.Machine
end

