-- ==== Sys2Proof/Laws/State.lean ====
section
/-! SUPPORT. One lemma per field per update of the state, true by definition, so that no proof unfolds a record update; then what
the accessors of cores and contexts read after an update. -/

namespace Sys2Proof.Machine

/-! ## setCore -/

@[simp] theorem State.setCore_agenda (s : State) (c : Nat) (v : Core) : (s.setCore c v).agenda = s.agenda := rfl
@[simp] theorem State.setCore_ev (s : State) (c : Nat) (v : Core) : (s.setCore c v).ev = s.ev := rfl
@[simp] theorem State.setCore_ring (s : State) (c : Nat) (v : Core) : (s.setCore c v).ring = s.ring := rfl
@[simp] theorem State.setCore_cur (s : State) (c : Nat) (v : Core) : (s.setCore c v).cur = s.cur := rfl
@[simp] theorem State.setCore_turn (s : State) (c : Nat) (v : Core) : (s.setCore c v).turn = s.turn := rfl
@[simp] theorem State.setCore_draws (s : State) (c : Nat) (v : Core) : (s.setCore c v).draws = s.draws := rfl
@[simp] theorem State.setCore_nextId (s : State) (c : Nat) (v : Core) : (s.setCore c v).nextId = s.nextId := rfl
@[simp] theorem State.setCore_stamp (s : State) (c : Nat) (v : Core) : (s.setCore c v).stamp = s.stamp := rfl
@[simp] theorem State.setCore_mem (s : State) (c : Nat) (v : Core) : (s.setCore c v).mem = s.mem := rfl
@[simp] theorem State.setCore_sectors (s : State) (c : Nat) (v : Core) : (s.setCore c v).sectors = s.sectors := rfl
@[simp] theorem State.setCore_flaws (s : State) (c : Nat) (v : Core) : (s.setCore c v).flaws = s.flaws := rfl
@[simp] theorem State.setCore_frames (s : State) (c : Nat) (v : Core) : (s.setCore c v).frames = s.frames := rfl
@[simp] theorem State.setCore_slices (s : State) (c : Nat) (v : Core) : (s.setCore c v).slices = s.slices := rfl
@[simp] theorem State.setCore_ashlars (s : State) (c : Nat) (v : Core) : (s.setCore c v).ashlars = s.ashlars := rfl
@[simp] theorem State.setCore_keystones (s : State) (c : Nat) (v : Core) : (s.setCore c v).keystones = s.keystones := rfl
@[simp] theorem State.setCore_dies (s : State) (c : Nat) (v : Core) : (s.setCore c v).dies = s.dies := rfl
@[simp] theorem State.setCore_regions (s : State) (c : Nat) (v : Core) : (s.setCore c v).regions = s.regions := rfl
@[simp] theorem State.setCore_keys (s : State) (c : Nat) (v : Core) : (s.setCore c v).keys = s.keys := rfl
@[simp] theorem State.setCore_capDraw (s : State) (c : Nat) (v : Core) : (s.setCore c v).capDraw = s.capDraw := rfl
@[simp] theorem State.setCore_clock (s : State) (c : Nat) (v : Core) : (s.setCore c v).clock = s.clock := rfl
@[simp] theorem State.setCore_plinth (s : State) (c : Nat) (v : Core) : (s.setCore c v).plinth = s.plinth := rfl
@[simp] theorem State.setCore_stopped (s : State) (c : Nat) (v : Core) : (s.setCore c v).stopped = s.stopped := rfl

/-! ## modCore -/

@[simp] theorem State.modCore_agenda (s : State) (c : Nat) (f : Core → Core) : (s.modCore c f).agenda = s.agenda := rfl
@[simp] theorem State.modCore_ev (s : State) (c : Nat) (f : Core → Core) : (s.modCore c f).ev = s.ev := rfl
@[simp] theorem State.modCore_ring (s : State) (c : Nat) (f : Core → Core) : (s.modCore c f).ring = s.ring := rfl
@[simp] theorem State.modCore_cur (s : State) (c : Nat) (f : Core → Core) : (s.modCore c f).cur = s.cur := rfl
@[simp] theorem State.modCore_turn (s : State) (c : Nat) (f : Core → Core) : (s.modCore c f).turn = s.turn := rfl
@[simp] theorem State.modCore_draws (s : State) (c : Nat) (f : Core → Core) : (s.modCore c f).draws = s.draws := rfl
@[simp] theorem State.modCore_nextId (s : State) (c : Nat) (f : Core → Core) : (s.modCore c f).nextId = s.nextId := rfl
@[simp] theorem State.modCore_stamp (s : State) (c : Nat) (f : Core → Core) : (s.modCore c f).stamp = s.stamp := rfl
@[simp] theorem State.modCore_mem (s : State) (c : Nat) (f : Core → Core) : (s.modCore c f).mem = s.mem := rfl
@[simp] theorem State.modCore_sectors (s : State) (c : Nat) (f : Core → Core) : (s.modCore c f).sectors = s.sectors := rfl
@[simp] theorem State.modCore_flaws (s : State) (c : Nat) (f : Core → Core) : (s.modCore c f).flaws = s.flaws := rfl
@[simp] theorem State.modCore_frames (s : State) (c : Nat) (f : Core → Core) : (s.modCore c f).frames = s.frames := rfl
@[simp] theorem State.modCore_slices (s : State) (c : Nat) (f : Core → Core) : (s.modCore c f).slices = s.slices := rfl
@[simp] theorem State.modCore_ashlars (s : State) (c : Nat) (f : Core → Core) : (s.modCore c f).ashlars = s.ashlars := rfl
@[simp] theorem State.modCore_keystones (s : State) (c : Nat) (f : Core → Core) : (s.modCore c f).keystones = s.keystones := rfl
@[simp] theorem State.modCore_dies (s : State) (c : Nat) (f : Core → Core) : (s.modCore c f).dies = s.dies := rfl
@[simp] theorem State.modCore_regions (s : State) (c : Nat) (f : Core → Core) : (s.modCore c f).regions = s.regions := rfl
@[simp] theorem State.modCore_keys (s : State) (c : Nat) (f : Core → Core) : (s.modCore c f).keys = s.keys := rfl
@[simp] theorem State.modCore_capDraw (s : State) (c : Nat) (f : Core → Core) : (s.modCore c f).capDraw = s.capDraw := rfl
@[simp] theorem State.modCore_clock (s : State) (c : Nat) (f : Core → Core) : (s.modCore c f).clock = s.clock := rfl
@[simp] theorem State.modCore_plinth (s : State) (c : Nat) (f : Core → Core) : (s.modCore c f).plinth = s.plinth := rfl
@[simp] theorem State.modCore_stopped (s : State) (c : Nat) (f : Core → Core) : (s.modCore c f).stopped = s.stopped := rfl

/-! ## setCtx -/

@[simp] theorem State.setCtx_agenda (s : State) (c k : Nat) (x : Ctx) : (s.setCtx c k x).agenda = s.agenda := rfl
@[simp] theorem State.setCtx_ev (s : State) (c k : Nat) (x : Ctx) : (s.setCtx c k x).ev = s.ev := rfl
@[simp] theorem State.setCtx_ring (s : State) (c k : Nat) (x : Ctx) : (s.setCtx c k x).ring = s.ring := rfl
@[simp] theorem State.setCtx_cur (s : State) (c k : Nat) (x : Ctx) : (s.setCtx c k x).cur = s.cur := rfl
@[simp] theorem State.setCtx_turn (s : State) (c k : Nat) (x : Ctx) : (s.setCtx c k x).turn = s.turn := rfl
@[simp] theorem State.setCtx_draws (s : State) (c k : Nat) (x : Ctx) : (s.setCtx c k x).draws = s.draws := rfl
@[simp] theorem State.setCtx_nextId (s : State) (c k : Nat) (x : Ctx) : (s.setCtx c k x).nextId = s.nextId := rfl
@[simp] theorem State.setCtx_stamp (s : State) (c k : Nat) (x : Ctx) : (s.setCtx c k x).stamp = s.stamp := rfl
@[simp] theorem State.setCtx_mem (s : State) (c k : Nat) (x : Ctx) : (s.setCtx c k x).mem = s.mem := rfl
@[simp] theorem State.setCtx_sectors (s : State) (c k : Nat) (x : Ctx) : (s.setCtx c k x).sectors = s.sectors := rfl
@[simp] theorem State.setCtx_flaws (s : State) (c k : Nat) (x : Ctx) : (s.setCtx c k x).flaws = s.flaws := rfl
@[simp] theorem State.setCtx_frames (s : State) (c k : Nat) (x : Ctx) : (s.setCtx c k x).frames = s.frames := rfl
@[simp] theorem State.setCtx_slices (s : State) (c k : Nat) (x : Ctx) : (s.setCtx c k x).slices = s.slices := rfl
@[simp] theorem State.setCtx_ashlars (s : State) (c k : Nat) (x : Ctx) : (s.setCtx c k x).ashlars = s.ashlars := rfl
@[simp] theorem State.setCtx_keystones (s : State) (c k : Nat) (x : Ctx) : (s.setCtx c k x).keystones = s.keystones := rfl
@[simp] theorem State.setCtx_dies (s : State) (c k : Nat) (x : Ctx) : (s.setCtx c k x).dies = s.dies := rfl
@[simp] theorem State.setCtx_regions (s : State) (c k : Nat) (x : Ctx) : (s.setCtx c k x).regions = s.regions := rfl
@[simp] theorem State.setCtx_keys (s : State) (c k : Nat) (x : Ctx) : (s.setCtx c k x).keys = s.keys := rfl
@[simp] theorem State.setCtx_capDraw (s : State) (c k : Nat) (x : Ctx) : (s.setCtx c k x).capDraw = s.capDraw := rfl
@[simp] theorem State.setCtx_clock (s : State) (c k : Nat) (x : Ctx) : (s.setCtx c k x).clock = s.clock := rfl
@[simp] theorem State.setCtx_plinth (s : State) (c k : Nat) (x : Ctx) : (s.setCtx c k x).plinth = s.plinth := rfl
@[simp] theorem State.setCtx_stopped (s : State) (c k : Nat) (x : Ctx) : (s.setCtx c k x).stopped = s.stopped := rfl

/-! ## modCtx -/

@[simp] theorem State.modCtx_agenda (s : State) (c k : Nat) (f : Ctx → Ctx) : (s.modCtx c k f).agenda = s.agenda := rfl
@[simp] theorem State.modCtx_ev (s : State) (c k : Nat) (f : Ctx → Ctx) : (s.modCtx c k f).ev = s.ev := rfl
@[simp] theorem State.modCtx_ring (s : State) (c k : Nat) (f : Ctx → Ctx) : (s.modCtx c k f).ring = s.ring := rfl
@[simp] theorem State.modCtx_cur (s : State) (c k : Nat) (f : Ctx → Ctx) : (s.modCtx c k f).cur = s.cur := rfl
@[simp] theorem State.modCtx_turn (s : State) (c k : Nat) (f : Ctx → Ctx) : (s.modCtx c k f).turn = s.turn := rfl
@[simp] theorem State.modCtx_draws (s : State) (c k : Nat) (f : Ctx → Ctx) : (s.modCtx c k f).draws = s.draws := rfl
@[simp] theorem State.modCtx_nextId (s : State) (c k : Nat) (f : Ctx → Ctx) : (s.modCtx c k f).nextId = s.nextId := rfl
@[simp] theorem State.modCtx_stamp (s : State) (c k : Nat) (f : Ctx → Ctx) : (s.modCtx c k f).stamp = s.stamp := rfl
@[simp] theorem State.modCtx_mem (s : State) (c k : Nat) (f : Ctx → Ctx) : (s.modCtx c k f).mem = s.mem := rfl
@[simp] theorem State.modCtx_sectors (s : State) (c k : Nat) (f : Ctx → Ctx) : (s.modCtx c k f).sectors = s.sectors := rfl
@[simp] theorem State.modCtx_flaws (s : State) (c k : Nat) (f : Ctx → Ctx) : (s.modCtx c k f).flaws = s.flaws := rfl
@[simp] theorem State.modCtx_frames (s : State) (c k : Nat) (f : Ctx → Ctx) : (s.modCtx c k f).frames = s.frames := rfl
@[simp] theorem State.modCtx_slices (s : State) (c k : Nat) (f : Ctx → Ctx) : (s.modCtx c k f).slices = s.slices := rfl
@[simp] theorem State.modCtx_ashlars (s : State) (c k : Nat) (f : Ctx → Ctx) : (s.modCtx c k f).ashlars = s.ashlars := rfl
@[simp] theorem State.modCtx_keystones (s : State) (c k : Nat) (f : Ctx → Ctx) : (s.modCtx c k f).keystones = s.keystones := rfl
@[simp] theorem State.modCtx_dies (s : State) (c k : Nat) (f : Ctx → Ctx) : (s.modCtx c k f).dies = s.dies := rfl
@[simp] theorem State.modCtx_regions (s : State) (c k : Nat) (f : Ctx → Ctx) : (s.modCtx c k f).regions = s.regions := rfl
@[simp] theorem State.modCtx_keys (s : State) (c k : Nat) (f : Ctx → Ctx) : (s.modCtx c k f).keys = s.keys := rfl
@[simp] theorem State.modCtx_capDraw (s : State) (c k : Nat) (f : Ctx → Ctx) : (s.modCtx c k f).capDraw = s.capDraw := rfl
@[simp] theorem State.modCtx_clock (s : State) (c k : Nat) (f : Ctx → Ctx) : (s.modCtx c k f).clock = s.clock := rfl
@[simp] theorem State.modCtx_plinth (s : State) (c k : Nat) (f : Ctx → Ctx) : (s.modCtx c k f).plinth = s.plinth := rfl
@[simp] theorem State.modCtx_stopped (s : State) (c k : Nat) (f : Ctx → Ctx) : (s.modCtx c k f).stopped = s.stopped := rfl

/-! ## setPort -/

@[simp] theorem State.setPort_agenda (s : State) (c p : Nat) (v : PortSlot) : (s.setPort c p v).agenda = s.agenda := rfl
@[simp] theorem State.setPort_ev (s : State) (c p : Nat) (v : PortSlot) : (s.setPort c p v).ev = s.ev := rfl
@[simp] theorem State.setPort_ring (s : State) (c p : Nat) (v : PortSlot) : (s.setPort c p v).ring = s.ring := rfl
@[simp] theorem State.setPort_cur (s : State) (c p : Nat) (v : PortSlot) : (s.setPort c p v).cur = s.cur := rfl
@[simp] theorem State.setPort_turn (s : State) (c p : Nat) (v : PortSlot) : (s.setPort c p v).turn = s.turn := rfl
@[simp] theorem State.setPort_draws (s : State) (c p : Nat) (v : PortSlot) : (s.setPort c p v).draws = s.draws := rfl
@[simp] theorem State.setPort_nextId (s : State) (c p : Nat) (v : PortSlot) : (s.setPort c p v).nextId = s.nextId := rfl
@[simp] theorem State.setPort_stamp (s : State) (c p : Nat) (v : PortSlot) : (s.setPort c p v).stamp = s.stamp := rfl
@[simp] theorem State.setPort_mem (s : State) (c p : Nat) (v : PortSlot) : (s.setPort c p v).mem = s.mem := rfl
@[simp] theorem State.setPort_sectors (s : State) (c p : Nat) (v : PortSlot) : (s.setPort c p v).sectors = s.sectors := rfl
@[simp] theorem State.setPort_flaws (s : State) (c p : Nat) (v : PortSlot) : (s.setPort c p v).flaws = s.flaws := rfl
@[simp] theorem State.setPort_frames (s : State) (c p : Nat) (v : PortSlot) : (s.setPort c p v).frames = s.frames := rfl
@[simp] theorem State.setPort_slices (s : State) (c p : Nat) (v : PortSlot) : (s.setPort c p v).slices = s.slices := rfl
@[simp] theorem State.setPort_ashlars (s : State) (c p : Nat) (v : PortSlot) : (s.setPort c p v).ashlars = s.ashlars := rfl
@[simp] theorem State.setPort_keystones (s : State) (c p : Nat) (v : PortSlot) : (s.setPort c p v).keystones = s.keystones := rfl
@[simp] theorem State.setPort_dies (s : State) (c p : Nat) (v : PortSlot) : (s.setPort c p v).dies = s.dies := rfl
@[simp] theorem State.setPort_regions (s : State) (c p : Nat) (v : PortSlot) : (s.setPort c p v).regions = s.regions := rfl
@[simp] theorem State.setPort_keys (s : State) (c p : Nat) (v : PortSlot) : (s.setPort c p v).keys = s.keys := rfl
@[simp] theorem State.setPort_capDraw (s : State) (c p : Nat) (v : PortSlot) : (s.setPort c p v).capDraw = s.capDraw := rfl
@[simp] theorem State.setPort_clock (s : State) (c p : Nat) (v : PortSlot) : (s.setPort c p v).clock = s.clock := rfl
@[simp] theorem State.setPort_plinth (s : State) (c p : Nat) (v : PortSlot) : (s.setPort c p v).plinth = s.plinth := rfl
@[simp] theorem State.setPort_stopped (s : State) (c p : Nat) (v : PortSlot) : (s.setPort c p v).stopped = s.stopped := rfl

/-! ## setDie -/

@[simp] theorem State.setDie_agenda (s : State) (d : Nat) (v : Die) : (s.setDie d v).agenda = s.agenda := rfl
@[simp] theorem State.setDie_ev (s : State) (d : Nat) (v : Die) : (s.setDie d v).ev = s.ev := rfl
@[simp] theorem State.setDie_ring (s : State) (d : Nat) (v : Die) : (s.setDie d v).ring = s.ring := rfl
@[simp] theorem State.setDie_cur (s : State) (d : Nat) (v : Die) : (s.setDie d v).cur = s.cur := rfl
@[simp] theorem State.setDie_turn (s : State) (d : Nat) (v : Die) : (s.setDie d v).turn = s.turn := rfl
@[simp] theorem State.setDie_draws (s : State) (d : Nat) (v : Die) : (s.setDie d v).draws = s.draws := rfl
@[simp] theorem State.setDie_nextId (s : State) (d : Nat) (v : Die) : (s.setDie d v).nextId = s.nextId := rfl
@[simp] theorem State.setDie_stamp (s : State) (d : Nat) (v : Die) : (s.setDie d v).stamp = s.stamp := rfl
@[simp] theorem State.setDie_mem (s : State) (d : Nat) (v : Die) : (s.setDie d v).mem = s.mem := rfl
@[simp] theorem State.setDie_sectors (s : State) (d : Nat) (v : Die) : (s.setDie d v).sectors = s.sectors := rfl
@[simp] theorem State.setDie_flaws (s : State) (d : Nat) (v : Die) : (s.setDie d v).flaws = s.flaws := rfl
@[simp] theorem State.setDie_frames (s : State) (d : Nat) (v : Die) : (s.setDie d v).frames = s.frames := rfl
@[simp] theorem State.setDie_cores (s : State) (d : Nat) (v : Die) : (s.setDie d v).cores = s.cores := rfl
@[simp] theorem State.setDie_slices (s : State) (d : Nat) (v : Die) : (s.setDie d v).slices = s.slices := rfl
@[simp] theorem State.setDie_ashlars (s : State) (d : Nat) (v : Die) : (s.setDie d v).ashlars = s.ashlars := rfl
@[simp] theorem State.setDie_keystones (s : State) (d : Nat) (v : Die) : (s.setDie d v).keystones = s.keystones := rfl
@[simp] theorem State.setDie_regions (s : State) (d : Nat) (v : Die) : (s.setDie d v).regions = s.regions := rfl
@[simp] theorem State.setDie_keys (s : State) (d : Nat) (v : Die) : (s.setDie d v).keys = s.keys := rfl
@[simp] theorem State.setDie_capDraw (s : State) (d : Nat) (v : Die) : (s.setDie d v).capDraw = s.capDraw := rfl
@[simp] theorem State.setDie_clock (s : State) (d : Nat) (v : Die) : (s.setDie d v).clock = s.clock := rfl
@[simp] theorem State.setDie_plinth (s : State) (d : Nat) (v : Die) : (s.setDie d v).plinth = s.plinth := rfl
@[simp] theorem State.setDie_stopped (s : State) (d : Nat) (v : Die) : (s.setDie d v).stopped = s.stopped := rfl

/-! ## modDie -/

@[simp] theorem State.modDie_agenda (s : State) (d : Nat) (f : Die → Die) : (s.modDie d f).agenda = s.agenda := rfl
@[simp] theorem State.modDie_ev (s : State) (d : Nat) (f : Die → Die) : (s.modDie d f).ev = s.ev := rfl
@[simp] theorem State.modDie_ring (s : State) (d : Nat) (f : Die → Die) : (s.modDie d f).ring = s.ring := rfl
@[simp] theorem State.modDie_cur (s : State) (d : Nat) (f : Die → Die) : (s.modDie d f).cur = s.cur := rfl
@[simp] theorem State.modDie_turn (s : State) (d : Nat) (f : Die → Die) : (s.modDie d f).turn = s.turn := rfl
@[simp] theorem State.modDie_draws (s : State) (d : Nat) (f : Die → Die) : (s.modDie d f).draws = s.draws := rfl
@[simp] theorem State.modDie_nextId (s : State) (d : Nat) (f : Die → Die) : (s.modDie d f).nextId = s.nextId := rfl
@[simp] theorem State.modDie_stamp (s : State) (d : Nat) (f : Die → Die) : (s.modDie d f).stamp = s.stamp := rfl
@[simp] theorem State.modDie_mem (s : State) (d : Nat) (f : Die → Die) : (s.modDie d f).mem = s.mem := rfl
@[simp] theorem State.modDie_sectors (s : State) (d : Nat) (f : Die → Die) : (s.modDie d f).sectors = s.sectors := rfl
@[simp] theorem State.modDie_flaws (s : State) (d : Nat) (f : Die → Die) : (s.modDie d f).flaws = s.flaws := rfl
@[simp] theorem State.modDie_frames (s : State) (d : Nat) (f : Die → Die) : (s.modDie d f).frames = s.frames := rfl
@[simp] theorem State.modDie_cores (s : State) (d : Nat) (f : Die → Die) : (s.modDie d f).cores = s.cores := rfl
@[simp] theorem State.modDie_slices (s : State) (d : Nat) (f : Die → Die) : (s.modDie d f).slices = s.slices := rfl
@[simp] theorem State.modDie_ashlars (s : State) (d : Nat) (f : Die → Die) : (s.modDie d f).ashlars = s.ashlars := rfl
@[simp] theorem State.modDie_keystones (s : State) (d : Nat) (f : Die → Die) : (s.modDie d f).keystones = s.keystones := rfl
@[simp] theorem State.modDie_regions (s : State) (d : Nat) (f : Die → Die) : (s.modDie d f).regions = s.regions := rfl
@[simp] theorem State.modDie_keys (s : State) (d : Nat) (f : Die → Die) : (s.modDie d f).keys = s.keys := rfl
@[simp] theorem State.modDie_capDraw (s : State) (d : Nat) (f : Die → Die) : (s.modDie d f).capDraw = s.capDraw := rfl
@[simp] theorem State.modDie_clock (s : State) (d : Nat) (f : Die → Die) : (s.modDie d f).clock = s.clock := rfl
@[simp] theorem State.modDie_plinth (s : State) (d : Nat) (f : Die → Die) : (s.modDie d f).plinth = s.plinth := rfl
@[simp] theorem State.modDie_stopped (s : State) (d : Nat) (f : Die → Die) : (s.modDie d f).stopped = s.stopped := rfl

/-! ## setSlice -/

@[simp] theorem State.setSlice_agenda (s : State) (n : Nat) (v : Slice) : (s.setSlice n v).agenda = s.agenda := rfl
@[simp] theorem State.setSlice_ev (s : State) (n : Nat) (v : Slice) : (s.setSlice n v).ev = s.ev := rfl
@[simp] theorem State.setSlice_ring (s : State) (n : Nat) (v : Slice) : (s.setSlice n v).ring = s.ring := rfl
@[simp] theorem State.setSlice_cur (s : State) (n : Nat) (v : Slice) : (s.setSlice n v).cur = s.cur := rfl
@[simp] theorem State.setSlice_turn (s : State) (n : Nat) (v : Slice) : (s.setSlice n v).turn = s.turn := rfl
@[simp] theorem State.setSlice_draws (s : State) (n : Nat) (v : Slice) : (s.setSlice n v).draws = s.draws := rfl
@[simp] theorem State.setSlice_nextId (s : State) (n : Nat) (v : Slice) : (s.setSlice n v).nextId = s.nextId := rfl
@[simp] theorem State.setSlice_stamp (s : State) (n : Nat) (v : Slice) : (s.setSlice n v).stamp = s.stamp := rfl
@[simp] theorem State.setSlice_mem (s : State) (n : Nat) (v : Slice) : (s.setSlice n v).mem = s.mem := rfl
@[simp] theorem State.setSlice_sectors (s : State) (n : Nat) (v : Slice) : (s.setSlice n v).sectors = s.sectors := rfl
@[simp] theorem State.setSlice_flaws (s : State) (n : Nat) (v : Slice) : (s.setSlice n v).flaws = s.flaws := rfl
@[simp] theorem State.setSlice_frames (s : State) (n : Nat) (v : Slice) : (s.setSlice n v).frames = s.frames := rfl
@[simp] theorem State.setSlice_cores (s : State) (n : Nat) (v : Slice) : (s.setSlice n v).cores = s.cores := rfl
@[simp] theorem State.setSlice_ashlars (s : State) (n : Nat) (v : Slice) : (s.setSlice n v).ashlars = s.ashlars := rfl
@[simp] theorem State.setSlice_keystones (s : State) (n : Nat) (v : Slice) : (s.setSlice n v).keystones = s.keystones := rfl
@[simp] theorem State.setSlice_dies (s : State) (n : Nat) (v : Slice) : (s.setSlice n v).dies = s.dies := rfl
@[simp] theorem State.setSlice_regions (s : State) (n : Nat) (v : Slice) : (s.setSlice n v).regions = s.regions := rfl
@[simp] theorem State.setSlice_keys (s : State) (n : Nat) (v : Slice) : (s.setSlice n v).keys = s.keys := rfl
@[simp] theorem State.setSlice_capDraw (s : State) (n : Nat) (v : Slice) : (s.setSlice n v).capDraw = s.capDraw := rfl
@[simp] theorem State.setSlice_clock (s : State) (n : Nat) (v : Slice) : (s.setSlice n v).clock = s.clock := rfl
@[simp] theorem State.setSlice_plinth (s : State) (n : Nat) (v : Slice) : (s.setSlice n v).plinth = s.plinth := rfl
@[simp] theorem State.setSlice_stopped (s : State) (n : Nat) (v : Slice) : (s.setSlice n v).stopped = s.stopped := rfl

/-! ## modSlice -/

@[simp] theorem State.modSlice_agenda (s : State) (n : Nat) (f : Slice → Slice) : (s.modSlice n f).agenda = s.agenda := rfl
@[simp] theorem State.modSlice_ev (s : State) (n : Nat) (f : Slice → Slice) : (s.modSlice n f).ev = s.ev := rfl
@[simp] theorem State.modSlice_ring (s : State) (n : Nat) (f : Slice → Slice) : (s.modSlice n f).ring = s.ring := rfl
@[simp] theorem State.modSlice_cur (s : State) (n : Nat) (f : Slice → Slice) : (s.modSlice n f).cur = s.cur := rfl
@[simp] theorem State.modSlice_turn (s : State) (n : Nat) (f : Slice → Slice) : (s.modSlice n f).turn = s.turn := rfl
@[simp] theorem State.modSlice_draws (s : State) (n : Nat) (f : Slice → Slice) : (s.modSlice n f).draws = s.draws := rfl
@[simp] theorem State.modSlice_nextId (s : State) (n : Nat) (f : Slice → Slice) : (s.modSlice n f).nextId = s.nextId := rfl
@[simp] theorem State.modSlice_stamp (s : State) (n : Nat) (f : Slice → Slice) : (s.modSlice n f).stamp = s.stamp := rfl
@[simp] theorem State.modSlice_mem (s : State) (n : Nat) (f : Slice → Slice) : (s.modSlice n f).mem = s.mem := rfl
@[simp] theorem State.modSlice_sectors (s : State) (n : Nat) (f : Slice → Slice) : (s.modSlice n f).sectors = s.sectors := rfl
@[simp] theorem State.modSlice_flaws (s : State) (n : Nat) (f : Slice → Slice) : (s.modSlice n f).flaws = s.flaws := rfl
@[simp] theorem State.modSlice_frames (s : State) (n : Nat) (f : Slice → Slice) : (s.modSlice n f).frames = s.frames := rfl
@[simp] theorem State.modSlice_cores (s : State) (n : Nat) (f : Slice → Slice) : (s.modSlice n f).cores = s.cores := rfl
@[simp] theorem State.modSlice_ashlars (s : State) (n : Nat) (f : Slice → Slice) : (s.modSlice n f).ashlars = s.ashlars := rfl
@[simp] theorem State.modSlice_keystones (s : State) (n : Nat) (f : Slice → Slice) : (s.modSlice n f).keystones = s.keystones := rfl
@[simp] theorem State.modSlice_dies (s : State) (n : Nat) (f : Slice → Slice) : (s.modSlice n f).dies = s.dies := rfl
@[simp] theorem State.modSlice_regions (s : State) (n : Nat) (f : Slice → Slice) : (s.modSlice n f).regions = s.regions := rfl
@[simp] theorem State.modSlice_keys (s : State) (n : Nat) (f : Slice → Slice) : (s.modSlice n f).keys = s.keys := rfl
@[simp] theorem State.modSlice_capDraw (s : State) (n : Nat) (f : Slice → Slice) : (s.modSlice n f).capDraw = s.capDraw := rfl
@[simp] theorem State.modSlice_clock (s : State) (n : Nat) (f : Slice → Slice) : (s.modSlice n f).clock = s.clock := rfl
@[simp] theorem State.modSlice_plinth (s : State) (n : Nat) (f : Slice → Slice) : (s.modSlice n f).plinth = s.plinth := rfl
@[simp] theorem State.modSlice_stopped (s : State) (n : Nat) (f : Slice → Slice) : (s.modSlice n f).stopped = s.stopped := rfl

/-! ## modAshlar -/

@[simp] theorem State.modAshlar_agenda (s : State) (u : Nat) (f : Ashlar → Ashlar) : (s.modAshlar u f).agenda = s.agenda := rfl
@[simp] theorem State.modAshlar_ev (s : State) (u : Nat) (f : Ashlar → Ashlar) : (s.modAshlar u f).ev = s.ev := rfl
@[simp] theorem State.modAshlar_ring (s : State) (u : Nat) (f : Ashlar → Ashlar) : (s.modAshlar u f).ring = s.ring := rfl
@[simp] theorem State.modAshlar_cur (s : State) (u : Nat) (f : Ashlar → Ashlar) : (s.modAshlar u f).cur = s.cur := rfl
@[simp] theorem State.modAshlar_turn (s : State) (u : Nat) (f : Ashlar → Ashlar) : (s.modAshlar u f).turn = s.turn := rfl
@[simp] theorem State.modAshlar_draws (s : State) (u : Nat) (f : Ashlar → Ashlar) : (s.modAshlar u f).draws = s.draws := rfl
@[simp] theorem State.modAshlar_nextId (s : State) (u : Nat) (f : Ashlar → Ashlar) : (s.modAshlar u f).nextId = s.nextId := rfl
@[simp] theorem State.modAshlar_stamp (s : State) (u : Nat) (f : Ashlar → Ashlar) : (s.modAshlar u f).stamp = s.stamp := rfl
@[simp] theorem State.modAshlar_mem (s : State) (u : Nat) (f : Ashlar → Ashlar) : (s.modAshlar u f).mem = s.mem := rfl
@[simp] theorem State.modAshlar_sectors (s : State) (u : Nat) (f : Ashlar → Ashlar) : (s.modAshlar u f).sectors = s.sectors := rfl
@[simp] theorem State.modAshlar_flaws (s : State) (u : Nat) (f : Ashlar → Ashlar) : (s.modAshlar u f).flaws = s.flaws := rfl
@[simp] theorem State.modAshlar_frames (s : State) (u : Nat) (f : Ashlar → Ashlar) : (s.modAshlar u f).frames = s.frames := rfl
@[simp] theorem State.modAshlar_cores (s : State) (u : Nat) (f : Ashlar → Ashlar) : (s.modAshlar u f).cores = s.cores := rfl
@[simp] theorem State.modAshlar_slices (s : State) (u : Nat) (f : Ashlar → Ashlar) : (s.modAshlar u f).slices = s.slices := rfl
@[simp] theorem State.modAshlar_keystones (s : State) (u : Nat) (f : Ashlar → Ashlar) : (s.modAshlar u f).keystones = s.keystones := rfl
@[simp] theorem State.modAshlar_dies (s : State) (u : Nat) (f : Ashlar → Ashlar) : (s.modAshlar u f).dies = s.dies := rfl
@[simp] theorem State.modAshlar_regions (s : State) (u : Nat) (f : Ashlar → Ashlar) : (s.modAshlar u f).regions = s.regions := rfl
@[simp] theorem State.modAshlar_keys (s : State) (u : Nat) (f : Ashlar → Ashlar) : (s.modAshlar u f).keys = s.keys := rfl
@[simp] theorem State.modAshlar_capDraw (s : State) (u : Nat) (f : Ashlar → Ashlar) : (s.modAshlar u f).capDraw = s.capDraw := rfl
@[simp] theorem State.modAshlar_clock (s : State) (u : Nat) (f : Ashlar → Ashlar) : (s.modAshlar u f).clock = s.clock := rfl
@[simp] theorem State.modAshlar_plinth (s : State) (u : Nat) (f : Ashlar → Ashlar) : (s.modAshlar u f).plinth = s.plinth := rfl
@[simp] theorem State.modAshlar_stopped (s : State) (u : Nat) (f : Ashlar → Ashlar) : (s.modAshlar u f).stopped = s.stopped := rfl

/-! ## setConn -/

@[simp] theorem State.setConn_agenda (s : State) (k i : Nat) (v : Connector) : (s.setConn k i v).agenda = s.agenda := rfl
@[simp] theorem State.setConn_ev (s : State) (k i : Nat) (v : Connector) : (s.setConn k i v).ev = s.ev := rfl
@[simp] theorem State.setConn_ring (s : State) (k i : Nat) (v : Connector) : (s.setConn k i v).ring = s.ring := rfl
@[simp] theorem State.setConn_cur (s : State) (k i : Nat) (v : Connector) : (s.setConn k i v).cur = s.cur := rfl
@[simp] theorem State.setConn_turn (s : State) (k i : Nat) (v : Connector) : (s.setConn k i v).turn = s.turn := rfl
@[simp] theorem State.setConn_draws (s : State) (k i : Nat) (v : Connector) : (s.setConn k i v).draws = s.draws := rfl
@[simp] theorem State.setConn_nextId (s : State) (k i : Nat) (v : Connector) : (s.setConn k i v).nextId = s.nextId := rfl
@[simp] theorem State.setConn_stamp (s : State) (k i : Nat) (v : Connector) : (s.setConn k i v).stamp = s.stamp := rfl
@[simp] theorem State.setConn_mem (s : State) (k i : Nat) (v : Connector) : (s.setConn k i v).mem = s.mem := rfl
@[simp] theorem State.setConn_sectors (s : State) (k i : Nat) (v : Connector) : (s.setConn k i v).sectors = s.sectors := rfl
@[simp] theorem State.setConn_flaws (s : State) (k i : Nat) (v : Connector) : (s.setConn k i v).flaws = s.flaws := rfl
@[simp] theorem State.setConn_frames (s : State) (k i : Nat) (v : Connector) : (s.setConn k i v).frames = s.frames := rfl
@[simp] theorem State.setConn_cores (s : State) (k i : Nat) (v : Connector) : (s.setConn k i v).cores = s.cores := rfl
@[simp] theorem State.setConn_slices (s : State) (k i : Nat) (v : Connector) : (s.setConn k i v).slices = s.slices := rfl
@[simp] theorem State.setConn_ashlars (s : State) (k i : Nat) (v : Connector) : (s.setConn k i v).ashlars = s.ashlars := rfl
@[simp] theorem State.setConn_dies (s : State) (k i : Nat) (v : Connector) : (s.setConn k i v).dies = s.dies := rfl
@[simp] theorem State.setConn_regions (s : State) (k i : Nat) (v : Connector) : (s.setConn k i v).regions = s.regions := rfl
@[simp] theorem State.setConn_keys (s : State) (k i : Nat) (v : Connector) : (s.setConn k i v).keys = s.keys := rfl
@[simp] theorem State.setConn_capDraw (s : State) (k i : Nat) (v : Connector) : (s.setConn k i v).capDraw = s.capDraw := rfl
@[simp] theorem State.setConn_clock (s : State) (k i : Nat) (v : Connector) : (s.setConn k i v).clock = s.clock := rfl
@[simp] theorem State.setConn_plinth (s : State) (k i : Nat) (v : Connector) : (s.setConn k i v).plinth = s.plinth := rfl
@[simp] theorem State.setConn_stopped (s : State) (k i : Nat) (v : Connector) : (s.setConn k i v).stopped = s.stopped := rfl

/-! ## modPlinth -/

@[simp] theorem State.modPlinth_agenda (s : State) (f : Plinth → Plinth) : (s.modPlinth f).agenda = s.agenda := rfl
@[simp] theorem State.modPlinth_ev (s : State) (f : Plinth → Plinth) : (s.modPlinth f).ev = s.ev := rfl
@[simp] theorem State.modPlinth_ring (s : State) (f : Plinth → Plinth) : (s.modPlinth f).ring = s.ring := rfl
@[simp] theorem State.modPlinth_cur (s : State) (f : Plinth → Plinth) : (s.modPlinth f).cur = s.cur := rfl
@[simp] theorem State.modPlinth_turn (s : State) (f : Plinth → Plinth) : (s.modPlinth f).turn = s.turn := rfl
@[simp] theorem State.modPlinth_draws (s : State) (f : Plinth → Plinth) : (s.modPlinth f).draws = s.draws := rfl
@[simp] theorem State.modPlinth_nextId (s : State) (f : Plinth → Plinth) : (s.modPlinth f).nextId = s.nextId := rfl
@[simp] theorem State.modPlinth_stamp (s : State) (f : Plinth → Plinth) : (s.modPlinth f).stamp = s.stamp := rfl
@[simp] theorem State.modPlinth_mem (s : State) (f : Plinth → Plinth) : (s.modPlinth f).mem = s.mem := rfl
@[simp] theorem State.modPlinth_sectors (s : State) (f : Plinth → Plinth) : (s.modPlinth f).sectors = s.sectors := rfl
@[simp] theorem State.modPlinth_flaws (s : State) (f : Plinth → Plinth) : (s.modPlinth f).flaws = s.flaws := rfl
@[simp] theorem State.modPlinth_frames (s : State) (f : Plinth → Plinth) : (s.modPlinth f).frames = s.frames := rfl
@[simp] theorem State.modPlinth_cores (s : State) (f : Plinth → Plinth) : (s.modPlinth f).cores = s.cores := rfl
@[simp] theorem State.modPlinth_slices (s : State) (f : Plinth → Plinth) : (s.modPlinth f).slices = s.slices := rfl
@[simp] theorem State.modPlinth_ashlars (s : State) (f : Plinth → Plinth) : (s.modPlinth f).ashlars = s.ashlars := rfl
@[simp] theorem State.modPlinth_keystones (s : State) (f : Plinth → Plinth) : (s.modPlinth f).keystones = s.keystones := rfl
@[simp] theorem State.modPlinth_dies (s : State) (f : Plinth → Plinth) : (s.modPlinth f).dies = s.dies := rfl
@[simp] theorem State.modPlinth_regions (s : State) (f : Plinth → Plinth) : (s.modPlinth f).regions = s.regions := rfl
@[simp] theorem State.modPlinth_keys (s : State) (f : Plinth → Plinth) : (s.modPlinth f).keys = s.keys := rfl
@[simp] theorem State.modPlinth_capDraw (s : State) (f : Plinth → Plinth) : (s.modPlinth f).capDraw = s.capDraw := rfl
@[simp] theorem State.modPlinth_clock (s : State) (f : Plinth → Plinth) : (s.modPlinth f).clock = s.clock := rfl
@[simp] theorem State.modPlinth_stopped (s : State) (f : Plinth → Plinth) : (s.modPlinth f).stopped = s.stopped := rfl

/-! ## send -/

@[simp] theorem State.send_ev (s : State) (m : Msg) : (s.send m).ev = s.ev := rfl
@[simp] theorem State.send_ring (s : State) (m : Msg) : (s.send m).ring = s.ring := rfl
@[simp] theorem State.send_cur (s : State) (m : Msg) : (s.send m).cur = s.cur := rfl
@[simp] theorem State.send_turn (s : State) (m : Msg) : (s.send m).turn = s.turn := rfl
@[simp] theorem State.send_draws (s : State) (m : Msg) : (s.send m).draws = s.draws := rfl
@[simp] theorem State.send_nextId (s : State) (m : Msg) : (s.send m).nextId = s.nextId := rfl
@[simp] theorem State.send_stamp (s : State) (m : Msg) : (s.send m).stamp = s.stamp := rfl
@[simp] theorem State.send_mem (s : State) (m : Msg) : (s.send m).mem = s.mem := rfl
@[simp] theorem State.send_sectors (s : State) (m : Msg) : (s.send m).sectors = s.sectors := rfl
@[simp] theorem State.send_flaws (s : State) (m : Msg) : (s.send m).flaws = s.flaws := rfl
@[simp] theorem State.send_frames (s : State) (m : Msg) : (s.send m).frames = s.frames := rfl
@[simp] theorem State.send_cores (s : State) (m : Msg) : (s.send m).cores = s.cores := rfl
@[simp] theorem State.send_slices (s : State) (m : Msg) : (s.send m).slices = s.slices := rfl
@[simp] theorem State.send_ashlars (s : State) (m : Msg) : (s.send m).ashlars = s.ashlars := rfl
@[simp] theorem State.send_keystones (s : State) (m : Msg) : (s.send m).keystones = s.keystones := rfl
@[simp] theorem State.send_dies (s : State) (m : Msg) : (s.send m).dies = s.dies := rfl
@[simp] theorem State.send_regions (s : State) (m : Msg) : (s.send m).regions = s.regions := rfl
@[simp] theorem State.send_keys (s : State) (m : Msg) : (s.send m).keys = s.keys := rfl
@[simp] theorem State.send_capDraw (s : State) (m : Msg) : (s.send m).capDraw = s.capDraw := rfl
@[simp] theorem State.send_clock (s : State) (m : Msg) : (s.send m).clock = s.clock := rfl
@[simp] theorem State.send_plinth (s : State) (m : Msg) : (s.send m).plinth = s.plinth := rfl
@[simp] theorem State.send_stopped (s : State) (m : Msg) : (s.send m).stopped = s.stopped := rfl

/-! ## drawn -/

@[simp] theorem State.drawn_agenda (s : State) : (s.drawn).agenda = s.agenda := rfl
@[simp] theorem State.drawn_ev (s : State) : (s.drawn).ev = s.ev := rfl
@[simp] theorem State.drawn_ring (s : State) : (s.drawn).ring = s.ring := rfl
@[simp] theorem State.drawn_cur (s : State) : (s.drawn).cur = s.cur := rfl
@[simp] theorem State.drawn_turn (s : State) : (s.drawn).turn = s.turn := rfl
@[simp] theorem State.drawn_nextId (s : State) : (s.drawn).nextId = s.nextId := rfl
@[simp] theorem State.drawn_stamp (s : State) : (s.drawn).stamp = s.stamp := rfl
@[simp] theorem State.drawn_mem (s : State) : (s.drawn).mem = s.mem := rfl
@[simp] theorem State.drawn_sectors (s : State) : (s.drawn).sectors = s.sectors := rfl
@[simp] theorem State.drawn_flaws (s : State) : (s.drawn).flaws = s.flaws := rfl
@[simp] theorem State.drawn_frames (s : State) : (s.drawn).frames = s.frames := rfl
@[simp] theorem State.drawn_cores (s : State) : (s.drawn).cores = s.cores := rfl
@[simp] theorem State.drawn_slices (s : State) : (s.drawn).slices = s.slices := rfl
@[simp] theorem State.drawn_ashlars (s : State) : (s.drawn).ashlars = s.ashlars := rfl
@[simp] theorem State.drawn_keystones (s : State) : (s.drawn).keystones = s.keystones := rfl
@[simp] theorem State.drawn_dies (s : State) : (s.drawn).dies = s.dies := rfl
@[simp] theorem State.drawn_regions (s : State) : (s.drawn).regions = s.regions := rfl
@[simp] theorem State.drawn_keys (s : State) : (s.drawn).keys = s.keys := rfl
@[simp] theorem State.drawn_capDraw (s : State) : (s.drawn).capDraw = s.capDraw := rfl
@[simp] theorem State.drawn_clock (s : State) : (s.drawn).clock = s.clock := rfl
@[simp] theorem State.drawn_plinth (s : State) : (s.drawn).plinth = s.plinth := rfl
@[simp] theorem State.drawn_stopped (s : State) : (s.drawn).stopped = s.stopped := rfl

/-! ## store -/

@[simp] theorem State.store_agenda (s : State) (p n x : Nat) : (s.store p n x).agenda = s.agenda := rfl
@[simp] theorem State.store_ev (s : State) (p n x : Nat) : (s.store p n x).ev = s.ev := rfl
@[simp] theorem State.store_ring (s : State) (p n x : Nat) : (s.store p n x).ring = s.ring := rfl
@[simp] theorem State.store_cur (s : State) (p n x : Nat) : (s.store p n x).cur = s.cur := rfl
@[simp] theorem State.store_turn (s : State) (p n x : Nat) : (s.store p n x).turn = s.turn := rfl
@[simp] theorem State.store_draws (s : State) (p n x : Nat) : (s.store p n x).draws = s.draws := rfl
@[simp] theorem State.store_nextId (s : State) (p n x : Nat) : (s.store p n x).nextId = s.nextId := rfl
@[simp] theorem State.store_stamp (s : State) (p n x : Nat) : (s.store p n x).stamp = s.stamp := rfl
@[simp] theorem State.store_sectors (s : State) (p n x : Nat) : (s.store p n x).sectors = s.sectors := rfl
@[simp] theorem State.store_frames (s : State) (p n x : Nat) : (s.store p n x).frames = s.frames := rfl
@[simp] theorem State.store_cores (s : State) (p n x : Nat) : (s.store p n x).cores = s.cores := rfl
@[simp] theorem State.store_slices (s : State) (p n x : Nat) : (s.store p n x).slices = s.slices := rfl
@[simp] theorem State.store_ashlars (s : State) (p n x : Nat) : (s.store p n x).ashlars = s.ashlars := rfl
@[simp] theorem State.store_keystones (s : State) (p n x : Nat) : (s.store p n x).keystones = s.keystones := rfl
@[simp] theorem State.store_dies (s : State) (p n x : Nat) : (s.store p n x).dies = s.dies := rfl
@[simp] theorem State.store_regions (s : State) (p n x : Nat) : (s.store p n x).regions = s.regions := rfl
@[simp] theorem State.store_keys (s : State) (p n x : Nat) : (s.store p n x).keys = s.keys := rfl
@[simp] theorem State.store_capDraw (s : State) (p n x : Nat) : (s.store p n x).capDraw = s.capDraw := rfl
@[simp] theorem State.store_clock (s : State) (p n x : Nat) : (s.store p n x).clock = s.clock := rfl
@[simp] theorem State.store_plinth (s : State) (p n x : Nat) : (s.store p n x).plinth = s.plinth := rfl
@[simp] theorem State.store_stopped (s : State) (p n x : Nat) : (s.store p n x).stopped = s.stopped := rfl

/-! ## zero -/

@[simp] theorem State.zero_agenda (s : State) (p n : Nat) : (s.zero p n).agenda = s.agenda := rfl
@[simp] theorem State.zero_ev (s : State) (p n : Nat) : (s.zero p n).ev = s.ev := rfl
@[simp] theorem State.zero_ring (s : State) (p n : Nat) : (s.zero p n).ring = s.ring := rfl
@[simp] theorem State.zero_cur (s : State) (p n : Nat) : (s.zero p n).cur = s.cur := rfl
@[simp] theorem State.zero_turn (s : State) (p n : Nat) : (s.zero p n).turn = s.turn := rfl
@[simp] theorem State.zero_draws (s : State) (p n : Nat) : (s.zero p n).draws = s.draws := rfl
@[simp] theorem State.zero_nextId (s : State) (p n : Nat) : (s.zero p n).nextId = s.nextId := rfl
@[simp] theorem State.zero_stamp (s : State) (p n : Nat) : (s.zero p n).stamp = s.stamp := rfl
@[simp] theorem State.zero_sectors (s : State) (p n : Nat) : (s.zero p n).sectors = s.sectors := rfl
@[simp] theorem State.zero_frames (s : State) (p n : Nat) : (s.zero p n).frames = s.frames := rfl
@[simp] theorem State.zero_cores (s : State) (p n : Nat) : (s.zero p n).cores = s.cores := rfl
@[simp] theorem State.zero_slices (s : State) (p n : Nat) : (s.zero p n).slices = s.slices := rfl
@[simp] theorem State.zero_ashlars (s : State) (p n : Nat) : (s.zero p n).ashlars = s.ashlars := rfl
@[simp] theorem State.zero_keystones (s : State) (p n : Nat) : (s.zero p n).keystones = s.keystones := rfl
@[simp] theorem State.zero_dies (s : State) (p n : Nat) : (s.zero p n).dies = s.dies := rfl
@[simp] theorem State.zero_regions (s : State) (p n : Nat) : (s.zero p n).regions = s.regions := rfl
@[simp] theorem State.zero_keys (s : State) (p n : Nat) : (s.zero p n).keys = s.keys := rfl
@[simp] theorem State.zero_capDraw (s : State) (p n : Nat) : (s.zero p n).capDraw = s.capDraw := rfl
@[simp] theorem State.zero_clock (s : State) (p n : Nat) : (s.zero p n).clock = s.clock := rfl
@[simp] theorem State.zero_plinth (s : State) (p n : Nat) : (s.zero p n).plinth = s.plinth := rfl
@[simp] theorem State.zero_stopped (s : State) (p n : Nat) : (s.zero p n).stopped = s.stopped := rfl

/-! ## The fields that an update changes -/

@[simp] theorem State.send_agenda (s : State) (m : Msg) : (s.send m).agenda = s.agenda ++ [m] := rfl
@[simp] theorem State.drawn_draws (s : State) : s.drawn.draws = s.draws + 1 := rfl
@[simp] theorem State.modPlinth_plinth (s : State) (f : Plinth → Plinth) : (s.modPlinth f).plinth = f s.plinth := rfl
@[simp] theorem State.store_mem (s : State) (p n x : Nat) : (s.store p n x).mem = memSetBytes s.mem p (leBytes n x) := rfl
@[simp] theorem State.store_flaws (s : State) (p n x : Nat) : (s.store p n x).flaws = healed s.flaws p n := rfl
@[simp] theorem State.zero_mem (s : State) (p n : Nat) : (s.zero p n).mem = memZero s.mem p n := rfl
@[simp] theorem State.zero_flaws (s : State) (p n : Nat) : (s.zero p n).flaws = healed s.flaws p n := rfl

/-! ## Accessors after an update -/

@[simp] theorem State.core_setCore_same (s : State) (c : Nat) (v : Core) : (s.setCore c v).core c = v := tget_tset_same ..
theorem State.core_setCore_other (s : State) {c c' : Nat} (v : Core) (h : c' ≠ c) : (s.setCore c v).core c' = s.core c' :=
  tget_tset_other _ _ h
@[simp] theorem State.core_modCore_same (s : State) (c : Nat) (f : Core → Core) : (s.modCore c f).core c = f (s.core c) :=
  tget_tset_same ..
theorem State.core_modCore_other (s : State) {c c' : Nat} (f : Core → Core) (h : c' ≠ c) : (s.modCore c f).core c' = s.core c' :=
  tget_tset_other _ _ h

@[simp] theorem State.ctx_setCtx_same (s : State) (c k : Nat) (x : Ctx) : (s.setCtx c k x).ctx c k = x := by
  simp [State.ctx, State.setCtx, tget_tset_same]
theorem State.ctx_setCtx_other (s : State) {c k c' k' : Nat} (x : Ctx) (h : c' ≠ c ∨ k' ≠ k) :
    (s.setCtx c k x).ctx c' k' = s.ctx c' k' := by
  unfold State.ctx State.setCtx
  by_cases hc : c' = c
  · subst hc
    rw [State.core_modCore_same]
    exact tget_tset_other _ _ (by simpa using h)
  · rw [State.core_modCore_other _ _ hc]
@[simp] theorem State.ctx_modCtx_same (s : State) (c k : Nat) (f : Ctx → Ctx) : (s.modCtx c k f).ctx c k = f (s.ctx c k) :=
  State.ctx_setCtx_same ..
theorem State.ctx_modCtx_other (s : State) {c k c' k' : Nat} (f : Ctx → Ctx) (h : c' ≠ c ∨ k' ≠ k) :
    (s.modCtx c k f).ctx c' k' = s.ctx c' k' := State.ctx_setCtx_other _ _ h

/-- What an update of a context leaves of its core, and what one of other parts leaves of every core. -/
@[simp] theorem State.core_send (s : State) (m : Msg) (c : Nat) : (s.send m).core c = s.core c := rfl
@[simp] theorem State.core_zero (s : State) (p n c : Nat) : (s.zero p n).core c = s.core c := rfl
@[simp] theorem State.core_store (s : State) (p n x c : Nat) : (s.store p n x).core c = s.core c := rfl
@[simp] theorem State.core_drawn (s : State) (c : Nat) : s.drawn.core c = s.core c := rfl
@[simp] theorem State.core_modDie (s : State) (d : Nat) (f : Die → Die) (c : Nat) : (s.modDie d f).core c = s.core c := rfl
@[simp] theorem State.core_modSlice (s : State) (n : Nat) (f : Slice → Slice) (c : Nat) : (s.modSlice n f).core c = s.core c := rfl
@[simp] theorem State.core_modPlinth (s : State) (f : Plinth → Plinth) (c : Nat) : (s.modPlinth f).core c = s.core c := rfl
@[simp] theorem State.ctx_send (s : State) (m : Msg) (c k : Nat) : (s.send m).ctx c k = s.ctx c k := rfl
@[simp] theorem State.ctx_zero (s : State) (p n c k : Nat) : (s.zero p n).ctx c k = s.ctx c k := rfl
@[simp] theorem State.ctx_store (s : State) (p n x c k : Nat) : (s.store p n x).ctx c k = s.ctx c k := rfl
@[simp] theorem State.ctx_drawn (s : State) (c k : Nat) : s.drawn.ctx c k = s.ctx c k := rfl
@[simp] theorem State.ctx_modDie (s : State) (d : Nat) (f : Die → Die) (c k : Nat) : (s.modDie d f).ctx c k = s.ctx c k := rfl
@[simp] theorem State.ctx_modSlice (s : State) (n : Nat) (f : Slice → Slice) (c k : Nat) :
    (s.modSlice n f).ctx c k = s.ctx c k := rfl
@[simp] theorem State.ctx_modPlinth (s : State) (f : Plinth → Plinth) (c k : Nat) : (s.modPlinth f).ctx c k = s.ctx c k := rfl
@[simp] theorem State.core_setCtx_same (s : State) (c k : Nat) (x : Ctx) :
    (s.setCtx c k x).core c = { s.core c with ctxs := tset (s.core c).ctxs k x } := tget_tset_same ..
theorem State.core_setCtx_other (s : State) {c c' : Nat} (k : Nat) (x : Ctx) (h : c' ≠ c) :
    (s.setCtx c k x).core c' = s.core c' := tget_tset_other _ _ h
@[simp] theorem State.core_modCtx_same (s : State) (c k : Nat) (f : Ctx → Ctx) :
    (s.modCtx c k f).core c = { s.core c with ctxs := tset (s.core c).ctxs k (f (s.ctx c k)) } := tget_tset_same ..
theorem State.core_modCtx_other (s : State) {c c' : Nat} (k : Nat) (f : Ctx → Ctx) (h : c' ≠ c) :
    (s.modCtx c k f).core c' = s.core c' := tget_tset_other _ _ h
@[simp] theorem State.die_modDie_same (s : State) (d : Nat) (f : Die → Die) : (s.modDie d f).die d = f (s.die d) := tget_tset_same ..
theorem State.die_modDie_other (s : State) {d d' : Nat} (f : Die → Die) (h : d' ≠ d) : (s.modDie d f).die d' = s.die d' :=
  tget_tset_other _ _ h
@[simp] theorem State.slice_modSlice_same (s : State) (n : Nat) (f : Slice → Slice) : (s.modSlice n f).slice n = f (s.slice n) :=
  tget_tset_same ..
theorem State.slice_modSlice_other (s : State) {n n' : Nat} (f : Slice → Slice) (h : n' ≠ n) :
    (s.modSlice n f).slice n' = s.slice n' := tget_tset_other _ _ h
@[simp] theorem State.port_setPort_same (s : State) (c p : Nat) (v : PortSlot) : (s.setPort c p v).port c p = v := by
  simp [State.port, State.setPort, tget_tset_same]
@[simp] theorem State.conn_setConn_same (s : State) (k i : Nat) (v : Connector) : (s.setConn k i v).conn k i = v := by
  simp [State.conn, State.setConn, State.keystone, tget_tset_same]
@[simp] theorem State.ashlar_modAshlar_same (s : State) (u : Nat) (f : Ashlar → Ashlar) :
    (s.modAshlar u f).ashlar u = f (s.ashlar u) := tget_tset_same ..

/-- Two updates of one core, or of one context, are one. -/
theorem State.modCore_modCore (s : State) (c : Nat) (f g : Core → Core) :
    (s.modCore c f).modCore c g = s.modCore c (fun v => g (f v)) := by
  unfold State.modCore
  rw [State.core_setCore_same]
  simp only [State.setCore, tset_tset]
theorem State.modCtx_modCtx (s : State) (c k : Nat) (f g : Ctx → Ctx) :
    (s.modCtx c k f).modCtx c k g = s.modCtx c k (fun x => g (f x)) := by
  unfold State.modCtx
  rw [State.ctx_setCtx_same]
  unfold State.setCtx
  rw [State.modCore_modCore]
  simp only [tset_tset]

end Sys2Proof.Machine
end

