-- ==== Sys2Proof/Laws/Run.lean ====
section
/-! SUPPORT. The computation of an instruction step by step: what each of its parts answers on a state, so that a proof about a
meaning rewrites and never unfolds the monad. -/

namespace Sys2Proof.Machine

@[simp] theorem M.pure_apply (a : α) (s : State) : (pure a : M α) s = .ok (a, s) := rfl

theorem M.bind_apply (m : M α) (f : α → M β) (s : State) :
    (m >>= f) s = match m s with
      | .ok (a, t) => f a t
      | .error e => .error e := by
  show (StateT.bind m f s) = _
  unfold StateT.bind
  cases m s <;> rfl

/-- A part that succeeds hands its value and state on. -/
theorem M.bind_ok {m : M α} {f : α → M β} {s t : State} {a : α} (h : m s = .ok (a, t)) : (m >>= f) s = f a t := by
  rw [M.bind_apply, h]

/-- A part that stops stops the whole. -/
theorem M.bind_error {m : M α} {f : α → M β} {s : State} {e : Stop} (h : m s = .error e) : (m >>= f) s = .error e := by
  rw [M.bind_apply, h]

/-- Whoever answers from a bind has answered from its first part. -/
theorem M.bind_eq_ok {m : M α} {f : α → M β} {s u : State} {b : β} :
    (m >>= f) s = .ok (b, u) ↔ ∃ a t, m s = .ok (a, t) ∧ f a t = .ok (b, u) := by
  rw [M.bind_apply]
  cases h : m s with
  | error e => simp
  | ok r =>
    obtain ⟨a, t⟩ := r
    exact ⟨fun e => ⟨a, t, rfl, e⟩, fun ⟨_, _, e, e'⟩ => by cases e; exact e'⟩

@[simp] theorem M.get_apply (s : State) : (get : M State) s = .ok (s, s) := rfl
@[simp] theorem M.set_apply (t s : State) : (set t : M PUnit) s = .ok ((), t) := rfl
@[simp] theorem modS_apply (f : State → State) (s : State) : modS f s = .ok ((), f s) := rfl
@[simp] theorem stop_apply (e : Stop) (s : State) : (stop e : M α) s = .error e := rfl
@[simp] theorem stall_apply (s : State) : (stall : M α) s = .error (.stall .event) := rfl
@[simp] theorem trap_apply (code : Nat) (s : State) : (trap code : M α) s = .error (.trap { code := code }) := rfl
@[simp] theorem getCtx_apply (s : State) : getCtx s = .ok (s.me, s) := rfl
@[simp] theorem modCtx_apply (f : Ctx → Ctx) (s : State) : modCtx f s = .ok ((), s.onMe f) := rfl
@[simp] theorem getCore_apply (s : State) : getCore s = .ok (s.mine, s) := rfl
@[simp] theorem modCore_apply (f : Core → Core) (s : State) : modCore f s = .ok ((), s.modCore s.cur.core f) := rfl
@[simp] theorem coreNo_apply (s : State) : coreNo s = .ok (s.cur.core, s) := rfl
@[simp] theorem ctxNo_apply (s : State) : ctxNo s = .ok (s.cur.ctxNo, s) := rfl
@[simp] theorem myPos_apply (s : State) :
    myPos s = .ok (s.position, s) := rfl
@[simp] theorem myPc_apply (s : State) :
    myPc s = .ok (s.address, s) := rfl
@[simp] theorem myHint_apply (s : State) :
    myHint s = .ok (s.hinted, s) := rfl
@[simp] theorem freshId_apply (s : State) : freshId s = .ok (s.nextId, { s with nextId := s.nextId + 1 }) := rfl
@[simp] theorem drawDword_apply (s : State) : drawDword s = .ok (Config.freeDword s.draws, s.drawn) := rfl
@[simp] theorem setFlags_apply (f : Flags) (s : State) : setFlags f s = .ok ((), s.flagged f) := rfl
@[simp] theorem retire_apply (s : State) :
    retire s = .ok ((), s.passed) := rfl
@[simp] theorem retireBoth_apply (s : State) :
    retireBoth s = .ok ((), s.passedBoth) := rfl

@[simp] theorem stop_bind (e : Stop) (f : α → M β) (s : State) : ((stop e : M α) >>= f) s = .error e := rfl
@[simp] theorem stall_bind (f : α → M β) (s : State) : ((stall : M α) >>= f) s = .error (.stall .event) := rfl
@[simp] theorem trap_bind (code : Nat) (f : α → M β) (s : State) : ((trap code : M α) >>= f) s = .error (.trap { code := code }) := rfl

/-- The computation of an instruction that succeeds gives the next state. -/
theorem run_ok {m : M Unit} {s t : State} (h : m s = .ok ((), t)) : run m s = .next t := by
  unfold run; rw [h]

/-- A precise trap has no other effect than its own (R365). -/
theorem run_trap {m : M Unit} {s : State} {i : TrapInfo} (h : m s = .error (.trap i)) : run m s = .next (precise i s) := by
  unfold run; rw [h]

/-- A wait leaves the state but for the mark of the waiting stream. -/
theorem run_stall {m : M Unit} {s : State} {w : Wait} (h : m s = .error (.stall w)) : run m s = .next (stalled w s) := by
  unfold run; rw [h]

/-- Every computation of an instruction ends in a next state: no word of the manual stops the machine. -/
theorem run_next (m : M Unit) (s : State) : ∃ t, run m s = .next t := by
  unfold run; split <;> exact ⟨_, rfl⟩

theorem asBoth_ok {m : M α} {s t : State} {a : α} (h : m s = .ok (a, t)) : asBoth m s = .ok (a, t) := by
  unfold asBoth; rw [h]

theorem stallUnless_true (s : State) : stallUnless true s = .ok ((), s) := rfl
theorem trapUnless_true (code : Nat) (s : State) : trapUnless true code s = .ok ((), s) := rfl

end Sys2Proof.Machine
end

