-- ==== Sys2Proof/Laws/Operands.lean ====
section
/-! SUPPORT. What the operand forms and the shared shapes of words answer, in the words of Safety: one lemma for each, so that no
later proof unfolds them. -/

namespace Sys2Proof.Machine

/-! ## The context that moves -/

theorem State.me_def (s : State) : s.ctx s.cur.core s.cur.ctxNo = s.me := rfl
@[simp] theorem State.onMe_me (s : State) (f : Ctx → Ctx) : (s.onMe f).me = f s.me := State.ctx_modCtx_same ..
@[simp] theorem State.onMe_cur (s : State) (f : Ctx → Ctx) : (s.onMe f).cur = s.cur := rfl
@[simp] theorem State.onMe_mem (s : State) (f : Ctx → Ctx) : (s.onMe f).mem = s.mem := rfl
@[simp] theorem State.onMe_agenda (s : State) (f : Ctx → Ctx) : (s.onMe f).agenda = s.agenda := rfl
@[simp] theorem State.onMe_plinth (s : State) (f : Ctx → Ctx) : (s.onMe f).plinth = s.plinth := rfl
@[simp] theorem State.onMe_regions (s : State) (f : Ctx → Ctx) : (s.onMe f).regions = s.regions := rfl

theorem State.onMe_onMe (s : State) (f g : Ctx → Ctx) : (s.onMe f).onMe g = s.onMe (fun x => g (f x)) :=
  State.modCtx_modCtx ..

theorem fsnOr_eq (w : Dword) (f : Flags) : fsnOr w f = w ||| f.setWidth 64 := rfl

@[simp] theorem State.flagged_zero (s : State) : s.flagged 0 = s := rfl
/-- Lanes that set no flag set none together. -/
theorem laneFlags_zero (l : List α) (f : α → Nat) : laneFlags (l.map (fun i => (f i, 0))) = 0 := by
  have h : ∀ a : Flags, (l.map (fun i => (f i, (0 : Flags)))).foldl (fun g r => g ||| r.2) a = a := by
    induction l with
    | nil => intro a; rfl
    | cons b l ih => intro a; simpa using ih a
  exact h 0

/-- A branch that may stand where it does. -/
theorem notInSlot_ok {s : State} (h : ¬ s.standsInSlot) : notInSlot s = .ok ((), s) := by
  unfold notInSlot
  rw [M.bind_ok (getCtx_apply s), M.bind_ok (M.get_apply s), if_neg (by simpa [State.standsInSlot] using h)]
  rfl

theorem notInSlot_error {s : State} (h : s.standsInSlot) : notInSlot s = .error (.trap { code := 1 }) := by
  unfold notInSlot
  rw [M.bind_ok (getCtx_apply s), M.bind_ok (M.get_apply s), if_pos (by simpa [State.standsInSlot] using h)]
  rfl

theorem enterSlot_eq (b : Branch) (s : State) : enterSlot b s = .ok ((), s.intoSlot b) := rfl

/-- The stream that moves its own copy of a word: one in a delay slot traps, with both streams at it (R75, R79). -/
theorem copyNotInSlot_ok {s : State} (h : ¬ s.standsInSlot) : copyNotInSlot s = .ok ((), s) := by
  unfold copyNotInSlot
  rw [M.bind_ok (getCtx_apply s), M.bind_ok (M.get_apply s), if_neg (by simpa [State.standsInSlot] using h)]
  rfl

theorem trapTogether_eq {α : Type} (code : Nat) (s : State) : (trapTogether code : M α) s =
    if s.me.together then .error (.trap { code := code }) else .error (.stall .event) := by
  unfold trapTogether
  rw [M.bind_ok (getCtx_apply s)]
  split <;> rfl

theorem copyNotInSlot_error {s : State} (h : s.standsInSlot) (ht : s.me.together) :
    copyNotInSlot s = .error (.trap { code := 1 }) := by
  unfold copyNotInSlot
  rw [M.bind_ok (getCtx_apply s), M.bind_ok (M.get_apply s), if_pos (by simpa [State.standsInSlot] using h), trapTogether_eq,
    if_pos ht]

theorem copyNotInSlot_stall {s : State} (h : s.standsInSlot) (ht : s.me.together = false) :
    copyNotInSlot s = .error (.stall .event) := by
  unfold copyNotInSlot
  rw [M.bind_ok (getCtx_apply s), M.bind_ok (M.get_apply s), if_pos (by simpa [State.standsInSlot] using h), trapTogether_eq,
    if_neg (by simp [ht])]

theorem passCopy_eq (i : Instr) (b : Branch) (s : State) : passCopy i b s = .ok ((), s.pastCopy i b) := rfl

/-- A branch at the stream that evaluates it. -/
theorem condBranch_ok {i : Instr} {t : Stream} {m : M Bool} {d : BitVec 20} {s s₁ s₂ : State} {b : Bool} (h : ¬ s.standsInSlot)
    (hs : s.cur.stream = t) (hm : m s = .ok (b, s₁)) (hp : pushOutcome t { taken := b, target := 0 } s₁ = .ok ((), s₂)) :
    condBranch i t m d s =
      .ok ((), s₂.intoSlot { addr := s.address, target := branchTarget s.address d, outcome := some b }) := by
  refine asBoth_ok ?_
  rw [M.bind_ok (copyNotInSlot_ok h), M.bind_ok (myPc_apply s), M.bind_ok (M.get_apply s), if_pos hs, M.bind_ok hm, M.bind_ok hp]
  rfl

/-- The other stream's copy. -/
theorem condBranch_other {i : Instr} {t : Stream} {m : M Bool} {d : BitVec 20} {s : State} (h : ¬ s.standsInSlot) (hs : s.cur.stream ≠ t) :
    condBranch i t m d s =
      .ok ((), s.pastCopy i { addr := s.address, target := branchTarget s.address d, outcome := none }) := by
  refine asBoth_ok ?_
  rw [M.bind_ok (copyNotInSlot_ok h), M.bind_ok (myPc_apply s), M.bind_ok (M.get_apply s), if_neg hs]
  rfl

/-! ## Results -/

/-- A result of the execute stream is written, entered in the last-result file, and the stream passes the word. -/
theorem finish_ok {d : BitVec 6} {v : Dword} {s t : State} (h : writeS d v s = .ok ((), t)) :
    finish d v s = .ok ((), (t.entered v).passed) := by
  unfold finish
  rw [M.bind_ok h]
  rfl

theorem finishFlags_ok {d : BitVec 6} {r : Dword × Flags} {s t : State} (h : writeS d r.1 (s.flagged r.2) = .ok ((), t)) :
    finishFlags d r s = .ok ((), (t.entered r.1).passed) := by
  unfold finishFlags
  rw [M.bind_ok (setFlags_apply _ _)]
  exact finish_ok h

theorem finishQuiet_ok {d : BitVec 6} {v : Dword} {s t : State} (h : writeS d v s = .ok ((), t)) :
    finishQuiet d v s = .ok ((), t.passed) := by
  unfold finishQuiet
  rw [M.bind_ok h]
  rfl

theorem finishBoth_ok {d : BitVec 6} {v : Dword} {s t : State} (h : writeS d v s = .ok ((), t)) :
    finishBoth d v s = .ok ((), t.passedBoth) := by
  unfold finishBoth
  rw [M.bind_ok h]
  rfl

/-- The immediate of the word that moves. -/
theorem immediate_eq (i : BitVec 14) (signed : Bool) (s : State) : immediate i signed s = .ok (s.immediateOf signed i, s) := by
  unfold immediate State.immediateOf
  rw [M.bind_ok (myHint_apply s)]
  cases s.hinted <;> rfl

/-- A vector result is written with its flags and the stream passes the word. -/
theorem finishV_ok {d : BitVec 4} {w : Nat} {l : List (Nat × Flags)} {s t : State}
    (h : writeV d (ofLanes w (l.map (·.1))) (s.flagged (laneFlags l)) = .ok ((), t)) : finishV d w l s = .ok ((), t.passed) := by
  unfold finishV
  rw [M.bind_ok (setFlags_apply _ _), M.bind_ok h]
  rfl

/-! ## Shapes -/

theorem alu3_ok {f : Dword → Dword → Dword × Flags} {d a b : BitVec 6} {x y : Dword} {s s₁ s₂ s₃ : State}
    (ha : readS a s = .ok (x, s₁)) (hb : readS b s₁ = .ok (y, s₂)) (hd : writeS d (f x y).1 (s₂.flagged (f x y).2) = .ok ((), s₃)) :
    alu3 f d a b s = .ok ((), (s₃.entered (f x y).1).passed) := by
  unfold alu3
  rw [M.bind_ok ha, M.bind_ok hb]
  exact finishFlags_ok hd

theorem alu2_ok {f : Dword → Dword} {d a : BitVec 6} {x : Dword} {s s₁ s₂ : State} (ha : readS a s = .ok (x, s₁))
    (hd : writeS d (f x) s₁ = .ok ((), s₂)) : alu2 f d a s = .ok ((), (s₂.entered (f x)).passed) := by
  unfold alu2
  rw [M.bind_ok ha]
  exact finish_ok hd

theorem aluImm_ok {f : Dword → Dword → Dword} {signed : Bool} {d a : BitVec 6} {i : BitVec 14} {x : Dword} {s s₁ s₂ : State}
    (ha : readS a s = .ok (x, s₁)) (hd : writeS d (f x (s.immediateOf signed i)) s₁ = .ok ((), s₂)) :
    aluImm f signed d a i s = .ok ((), (s₂.entered (f x (s.immediateOf signed i))).passed) := by
  unfold aluImm
  rw [M.bind_ok (immediate_eq i signed s), M.bind_ok ha]
  exact finish_ok hd

/-- A word of the shape of R103 gives its result. -/
theorem Gives3.of_alu3 {i : BitVec 6 → BitVec 6 → BitVec 6 → Instr} {f : Dword → Dword → Dword × Flags}
    (h : ∀ d a b s, exec (i d a b) s = run (alu3 f d a b) s) : Gives3 i f := fun d a b _ _ s _ _ _ ha hb hd => by
  rw [h]; exact run_ok (alu3_ok ha hb hd)

theorem Gives2.of_alu2 {i : BitVec 6 → BitVec 6 → Instr} {f : Dword → Dword} (h : ∀ d a s, exec (i d a) s = run (alu2 f d a) s) :
    Gives2 i f := fun d a _ s _ _ ha hd => by
  rw [h]; exact run_ok (alu2_ok ha hd)

theorem GivesImm.of_aluImm {i : BitVec 6 → BitVec 6 → BitVec 14 → Instr} {signed : Bool} {f : Dword → Dword → Dword}
    (h : ∀ d a n s, exec (i d a n) s = run (aluImm f signed d a n) s) : GivesImm i signed f := fun d a n _ s _ _ ha hd => by
  rw [h]; exact run_ok (aluImm_ok ha hd)

theorem nth_lanesOf {w n m : Nat} {v : VReg} (h : m < n) : nth (lanesOf w n v) m 0 = nbits v.toNat (w * m) w := by
  simp [nth, lanesOf, h]

/-- The lanes of a three-operand vector word, written with the bits of its sources. -/
theorem vector3_ok {f : Nat → Nat → Nat → Nat × Flags} {d a b : BitVec 4} {l : BitVec 3} {x y : VReg} {s s₁ s₂ s₃ : State}
    (ha : readV a s = .ok (x, s₁)) (hb : readV b s₁ = .ok (y, s₂))
    (hd : writeV d (ofLanes (laneWidth l) ((List.range (laneCount l)).map (fun n =>
        (f (nbits x.toNat (laneWidth l * n) (laneWidth l)) (nbits y.toNat (laneWidth l * n) (laneWidth l)) 0).1)))
      (s₂.flagged (laneFlags ((List.range (laneCount l)).map (fun n =>
        f (nbits x.toNat (laneWidth l * n) (laneWidth l)) (nbits y.toNat (laneWidth l * n) (laneWidth l)) 0)))) = .ok ((), s₃)) :
    vector3 f false d a b l s = .ok ((), s₃.passed) := by
  unfold vector3
  have e : (List.range (laneCount l)).map (fun i => f (nth (lanesOf (laneWidth l) (laneCount l) x) i 0)
      (nth (lanesOf (laneWidth l) (laneCount l) y) i 0) (nth (List.replicate (laneCount l) 0) i 0)) =
      (List.range (laneCount l)).map (fun n =>
        f (nbits x.toNat (laneWidth l * n) (laneWidth l)) (nbits y.toNat (laneWidth l * n) (laneWidth l)) 0) := by
    refine List.map_congr_left (fun i hi => ?_)
    rw [List.mem_range] at hi
    rw [nth_lanesOf hi, nth_lanesOf hi]
    simp [nth, hi]
  show (readV a >>= _) s = _
  rw [M.bind_ok ha]
  show (readV b >>= _) s₁ = _
  rw [M.bind_ok hb]
  show finishV d (laneWidth l) _ s₂ = _
  rw [e]
  exact finishV_ok (by simpa [Function.comp_def] using hd)

theorem vector2_ok {f : Nat → Nat × Flags} {d a : BitVec 4} {l : BitVec 3} {x : VReg} {s s₁ s₂ : State}
    (ha : readV a s = .ok (x, s₁))
    (hd : writeV d (ofLanes (laneWidth l) ((lanesOf (laneWidth l) (laneCount l) x).map (fun e => (f e).1)))
      (s₁.flagged (laneFlags ((lanesOf (laneWidth l) (laneCount l) x).map f))) = .ok ((), s₂)) :
    vector2 f d a l s = .ok ((), s₂.passed) := by
  show (readV a >>= _) s = _
  rw [M.bind_ok ha]
  exact finishV_ok (by simpa [Function.comp_def] using hd)

theorem vred_ok {f : BitVec 3 → List Nat → Dword × Flags} {a : BitVec 4} {d : BitVec 6} {l : BitVec 3} {x : VReg} {s s₁ s₂ : State}
    (ha : readV a s = .ok (x, s₁))
    (hd : writeS d (f l (lanesOf (laneWidth l) (laneCount l) x)).1
      (s₁.flagged (f l (lanesOf (laneWidth l) (laneCount l) x)).2) = .ok ((), s₂)) :
    vred f a d l s = .ok ((), (s₂.entered (f l (lanesOf (laneWidth l) (laneCount l) x)).1).passed) := by
  show (readV a >>= _) s = _
  rw [M.bind_ok ha]
  exact finishFlags_ok hd

theorem addr3_ok {f : VA → VA → VA} {d a b : BitVec 4} {x y : VA} {s s₁ s₂ s₃ : State} (ha : readA a s = .ok (x, s₁))
    (hb : readA b s₁ = .ok (y, s₂)) (hd : writeA d (f x y) s₂ = .ok ((), s₃)) : addr3 f d a b s = .ok ((), s₃.passed) := by
  unfold addr3
  rw [M.bind_ok ha, M.bind_ok hb, M.bind_ok hd]
  rfl

theorem GivesV3.of_vector3 {i : BitVec 4 → BitVec 4 → BitVec 4 → Instr} {l : BitVec 3} {f : Nat → Nat → Nat → Nat × Flags}
    (h : ∀ d a b s, exec (i d a b) s = run (vector3 f false d a b l) s) : GivesV3 i l (fun x y => f x y 0) :=
  fun d a b _ _ s _ _ _ ha hb hd => by rw [h]; exact run_ok (vector3_ok ha hb hd)

theorem GivesV2.of_vector2 {i : BitVec 4 → BitVec 4 → Instr} {l : BitVec 3} {f : Nat → Nat × Flags}
    (h : ∀ d a s, exec (i d a) s = run (vector2 f d a l) s) : GivesV2 i l f :=
  fun d a _ s _ _ ha hd => by rw [h]; exact run_ok (vector2_ok ha hd)

theorem GivesRed.of_vred {i : BitVec 4 → BitVec 6 → Instr} {l : BitVec 3} {f : BitVec 3 → List Nat → Dword × Flags}
    (h : ∀ a d s, exec (i a d) s = run (vred f a d l) s) : GivesRed i l (f l) :=
  fun a d _ s _ _ ha hd => by rw [h]; exact run_ok (vred_ok ha hd)

theorem GivesA.of_addr3 {i : BitVec 4 → BitVec 4 → BitVec 4 → Instr} {f : VA → VA → VA}
    (h : ∀ d a b s, exec (i d a b) s = run (addr3 f d a b) s) : GivesA i f :=
  fun d a b _ _ s _ _ _ ha hb hd => by rw [h]; exact run_ok (addr3_ok ha hb hd)

end Sys2Proof.Machine
end

