-- ==== Sys2Proof/Laws/Access.lean ====
section
/-! SUPPORT. The parts of an access of the access stream: what each answers where the access goes ahead, and the whole of
`sendAccess` (R179 to R182). -/

namespace Sys2Proof.Machine

/-- Errors of slots: none of them carries one. -/
theorem slotErrors_ok {l : List Nat} {s : State} (h : ∀ n ∈ l, s.me.slotErr n = false) : slotErrors l s = .ok ((), s) := by
  induction l with
  | nil => rfl
  | cons n l ih =>
    unfold slotErrors
    rw [M.bind_ok (getCtx_apply s), if_neg (by simp [h n (by simp)])]
    exact ih (fun m hm => h m (by simp [hm]))

/-- The first of them that does: its trap, with the error cleared (R325). -/
theorem slotErrors_error {a b : List Nat} {n : Nat} {s : State} (ha : ∀ m ∈ a, s.me.slotErr m = false) (hn : s.me.slotErr n = true) :
    slotErrors (a ++ n :: b) s =
      .error (.trapWith { code := causeTrap (s.me.slotCause n) } (s.onMe (fun x => x.clearErr n))) := by
  induction a with
  | nil =>
    show slotErrors (n :: b) s = _
    unfold slotErrors
    rw [M.bind_ok (getCtx_apply s), if_pos hn]
    rfl
  | cons m a ih =>
    show slotErrors (m :: (a ++ n :: b)) s = _
    unfold slotErrors
    rw [M.bind_ok (getCtx_apply s), if_neg (by simp [ha m (by simp)])]
    exact ih (fun k hk => ha k (by simp [hk]))

theorem waitSlot_ok {s : State} {ws : BitVec 3} (h : s.unheld ws) : waitSlot ws s = .ok ((), s) := by
  unfold waitSlot
  by_cases hw : ws = 0
  · rw [if_pos hw]; rfl
  · obtain ⟨h | ⟨h1, h2⟩, _⟩ := h
    · exact absurd h hw
    · rw [if_neg hw, M.bind_ok (getCtx_apply s), M.bind_ok (myPos_apply s), if_neg (by simp [h1])]
      exact slotErrors_ok (by simpa using h2)

theorem waitHolds_ok {s : State} {ws : BitVec 3} (h : s.unheld ws) : waitHolds s = .ok ((), s) := by
  unfold waitHolds
  rw [M.bind_ok (getCtx_apply s), M.bind_ok (myPos_apply s), if_neg (by simp [h.2])]
  rfl

theorem effective_ok {s t : State} {a : BitVec 4} {off : BitVec n} {unit : Nat} {va : VA} (h : s.addresses a off unit va t) :
    effective a off unit s = .ok (va, t) := by
  obtain ⟨b, h1, rfl⟩ := h
  unfold effective
  rw [M.bind_ok h1]
  rfl

theorem joinPend_ok {s : State} {ss : BitVec 3} (kind : PendKind) (hold : Bool) (dest : ReqDest) (h : s.slotRoom ss) :
    joinPend ss kind hold dest s = .ok (s.nextId, s.joined ss kind hold dest) := by
  unfold joinPend
  rw [M.bind_ok (getCtx_apply s), M.bind_ok (myPos_apply s), if_neg]
  · rfl
  · obtain h | h := h
    · simp [h]
    · simp only [Bool.and_eq_true, decide_eq_true_eq, not_and]
      omega

theorem reserveLdq_ok {s : State} (id : Nat) (h : s.me.ldq.length < 16) : reserveLdq id s = .ok ((), s.reserved id) := by
  unfold reserveLdq
  rw [M.bind_ok (getCtx_apply s), M.bind_ok (myPos_apply s), if_neg (by omega)]
  rfl

theorem hintNt_apply (s : State) : hintNt s = .ok (s.hintedNt, s) := by
  unfold hintNt State.hintedNt
  rw [M.bind_ok (myHint_apply s)]
  cases s.hinted <;> rfl

@[simp] theorem State.joined_ldq (s : State) (ss : BitVec 3) (kind : PendKind) (hold : Bool) (dest : ReqDest) :
    (s.joined ss kind hold dest).me.ldq = s.me.ldq := by
  unfold State.joined
  rw [State.onMe_me]
  rfl

theorem feWaits_ok {s : State} {kind : PendKind} (h : kind = .fullEmpty → s.feRoom) : feWaits kind s = .ok ((), s) := by
  unfold feWaits
  rw [M.bind_ok (getCtx_apply s), if_neg]
  · rfl
  · by_cases hk : kind = .fullEmpty
    · have := h hk
      unfold State.feRoom at this
      simp only [Bool.and_eq_true, decide_eq_true_eq, not_and]
      omega
    · simp [hk]

theorem destAlive_ok {s : State} {d : ReqDest} (h : s.destUsable d) : destAlive d s = .ok ((), s) := by
  unfold destAlive
  rw [M.bind_ok (getCtx_apply s), M.bind_ok (getCore_apply s)]
  cases d with
  | none => rfl
  | ldq => rfl
  | addr n => simp [h.1 n rfl]
  | vec n => simp [h.2 n rfl]

/-- An ordinary read leaves: a copy answers it where no request of the context to the line is before it; else it is sent. -/
theorem sendOut_plain {v : Core} {r : Req} {l1 release : Bool} {s : State} (ho : r.op = .read) (hp : r.path = .plain) :
    sendOut v r l1 release s =
      (let copy := if l1 then cachedCopy s v r else none
       let u := if l1 then countL1 r.core copy.isSome s else s
       match copy with
       | some d =>
         if lineBusy u r.core r.ctx (r.va.toNat / 128) then post r release u
         else u.send (.loadReturn r.core r.ctx r.id (extend r.size r.sx d))
       | none => post r release u) := by
  unfold sendOut
  rw [ho, hp]
  cases l1 <;> cases cachedCopy s v r <;> rfl

/-- A read of the constant cache, or of an invariant line: a copy answers it, else it is sent (R187, R188). -/
theorem sendOut_copy {v : Core} {r : Req} {release : Bool} {s : State} (ho : r.op = .read) (hp : r.path ≠ .plain) :
    sendOut v r true release s =
      (let copy := cachedCopy s v r
       let u := if r.path = .constant then s else countL1 r.core copy.isSome s
       match copy with
       | some d => u.send (.loadReturn r.core r.ctx r.id (extend r.size r.sx d))
       | none => post r release u) := by
  unfold sendOut
  rw [ho]
  cases h : r.path
  · exact absurd h hp
  · cases cachedCopy s v r <;> rfl
  · cases cachedCopy s v r <;> rfl

/-- An access that a rule of its address stops: nothing of it has come about. -/
theorem sendAccess_stop {va : VA} {ss : BitVec 3} {q : Access} {code : Nat} (s : State) (h : accessStop va q = some code) :
    sendAccess va ss q s = .error (.trap { code := code, va := va }) := by
  unfold sendAccess
  rw [h]
  rfl

/-- An access that goes ahead: `t` is the state after its check. -/
theorem sendAccess_ok {va : VA} {ss : BitVec 3} {q : Access} {tgt : Target} {s t : State} (h : accessStop va q = none)
    (hf : q.kind = .fullEmpty → s.feRoom) (hc : check va q.size (reqNeed q.op) s = .ok (tgt, t)) (hd : t.destUsable q.dest)
    (hs : t.slotRoom ss) (hl : q.dest = .ldq → t.me.ldq.length < 16) :
    sendAccess va ss q s = .ok ((),
      (sendOut t.mine (accessRequest t va q tgt (if admitsL1 tgt va then q.path else .plain) t.hintedNt) (admitsL1 tgt va) q.release
        (if q.dest = .ldq then (t.joined ss q.kind q.hold q.dest).reserved t.nextId else t.joined ss q.kind q.hold q.dest)).passed) := by
  unfold sendAccess
  rw [h]
  show (feWaits q.kind >>= _) s = _
  rw [M.bind_ok (feWaits_ok hf), M.bind_ok hc, M.bind_ok (destAlive_ok hd), M.bind_ok (hintNt_apply t), M.bind_ok (M.get_apply t), M.bind_ok (joinPend_ok _ _ _ hs)]
  by_cases hd : q.dest = .ldq
  · simp only [if_pos hd]
    rw [M.bind_ok (reserveLdq_ok t.nextId (by simpa using hl hd))]
    rfl
  · simp only [if_neg hd]
    rfl

end Sys2Proof.Machine
end

