-- ==== Sys2Proof/Laws/Events.lean ====
section
/-! SUPPORT. What the operations that events share can do: a request of the host in its turn or held (R392), a turn of a follow group
(R19, R373), and a stream that goes on past a delay slot (R78). -/

namespace Sys2Proof.Machine

/-! ## Requests of the host (R392) -/

/-- In its turn, and with nothing that keeps it, a request is performed. -/
theorem inTurn_performs {busy : State → Bool} {act : State → State} {s u : State} (h : s.hasTurn u) (b : busy s = false) :
    inTurn busy act s = act u := by
  obtain ⟨w, rfl⟩ := h
  simp [inTurn, w, b]

/-- What keeps a request holds it. -/
theorem inTurn_busy {busy : State → Bool} {act : State → State} {s : State} (b : busy s = true) : inTurn busy act s = s.holdsRequest := by
  simp [inTurn, b, State.holdsRequest]

/-- A request behind one that is held is held too. -/
theorem inTurn_behind {busy : State → Bool} {act : State → State} {s : State} (w : mustWait s.plinth.held s.ev = true) :
    inTurn busy act s = s.holdsRequest := by
  simp [inTurn, w, State.holdsRequest]

/-! ## Follow groups (R19, R117, R373) -/

/-- A group that gang-stop may halt as a whole begins no word. -/
theorem groupTurn_halts {c : Nat} {t : Stream} {s : State} (h : halting s c = true) (m : groupMayHalt s c = true) :
    groupTurn c t s = s := by
  simp [groupTurn, h, m]

/-! ## Past a delay slot (R78, R112) -/

/-- A stream that stands past no slot stays. -/
theorem afterSlot_seq {c k : Nat} {t : Stream} {s : State} (h : ((s.ctx c k).stream t).ctl = .seq) : afterSlot c k t s = some s := by
  simp [afterSlot, h]

/-- A stream that has no outcome yet waits. -/
theorem redirect_waits {c k : Nat} {t : Stream} {b : Branch} {s : State} (h : (s.ctx c k).outcome t b = none) : redirect c k t b s = none := by
  simp [redirect, h]

end Sys2Proof.Machine
end

