-- ==== Sys2Proof/Laws/PerInstr.lean ====
section
/-! SUPPORT. The family F, one lemma per instruction: the decoder reads from the word that the encoder writes for a well-formed
instruction that instruction, with every operand; and every instruction has a word of the core or of a queue program, or is an event
that a message carries (R67 to R75, R386). -/

namespace Sys2Proof.Laws

/-- What holds of an instruction as syntax. -/
def F.Statement (i : Instr) : Prop :=
  i.wellFormed = true →
    (∀ w, encode i = some w → decodeWord w = some i) ∧ (∀ w, encodeQueue i = some w → decodeQueueWord w = some i) ∧
    ((∃ w, encode i = some w) ∨ (∃ w, encodeQueue i = some w) ∨ ∃ m : Msg, m.instr = some i)

/-- A field is the value that its bits spell. -/
theorem fld_eq {k : Nat} (n lo : Nat) (x : BitVec k) (h : n / 2 ^ lo % 2 ^ k = x.toNat) : fld n lo k = x := by
  apply BitVec.eq_of_toNat_eq
  simpa [fld] using h

/-- A word put together field by field. -/
theorem pack_cons (p f k : Nat) (l : List (Nat × Nat)) : pack p ((f, k) :: l) = pack (p + f * 2 ^ k) l := rfl
theorem pack_nil (p : Nat) : pack p [] = p := rfl

/-- A word of the core whose row is read back. -/
theorem ofCore {i : Instr} (n : Nat) (he : encodeNat i = some n) (hn : n < 2 ^ 32) (hq : encodeQueueNat i = none)
    (hd : i.wellFormed = true → decodeRow n = some i) : F.Statement i := by
  intro h
  refine ⟨fun w hw => ?_, fun w hw => ?_, .inl ⟨BitVec.ofNat 32 n, by simp only [encode, he, Option.map_some]⟩⟩
  · simp only [encode, he, Option.map_some, Option.some.injEq] at hw
    subst hw
    simp only [decodeWord, decodeChecked, BitVec.toNat_ofNat, Nat.mod_eq_of_lt hn, hd h, h, if_true]
  · simp only [encodeQueue, hq, Option.map_none, reduceCtorEq] at hw

/-- A word of a queue program whose row is read back. -/
theorem ofQueue {i : Instr} (n : Nat) (he : encodeQueueNat i = some n) (hn : n < 2 ^ 64) (hq : encodeNat i = none)
    (hd : i.wellFormed = true → decodeQueueRow n = some i) : F.Statement i := by
  intro h
  refine ⟨fun w hw => ?_, fun w hw => ?_, .inr (.inl ⟨BitVec.ofNat 64 n, by simp only [encodeQueue, he, Option.map_some]⟩)⟩
  · simp only [encode, hq, Option.map_none, reduceCtorEq] at hw
  · simp only [encodeQueue, he, Option.map_some, Option.some.injEq] at hw
    subst hw
    simp only [decodeQueueWord, BitVec.toNat_ofNat, Nat.mod_eq_of_lt hn, hd h, h, if_true]

/-- A request, an inbox entry and a line tag, for the messages that carry one. -/
def noReq : Req :=
  { core := 0, ctx := 0, id := 0, op := .read, asid := 0, gid := 0, va := 0, size := 8, x := 0, y := 0, sx := false, dest := .none,
    path := .plain, nt := false }
def noEntry : InboxEntry := { kind := 0, port := 0, gid := 0, src := 0, sdie := 0, payload := [], ctx := 0, id := 0 }
def noLine : LineTag := { phys := false, line := 0, asid := 0, key := 0 }

/-- A word without operands. -/
theorem closed {i : Instr} {w : Word} (he : encode i = some w) (hq : encodeQueueNat i = none) (hd : decodeWord w = some i) :
    F.Statement i := fun _ =>
  ⟨fun v hv => by rw [he, Option.some.injEq] at hv; rw [← hv, hd],
   fun v hv => by simp only [encodeQueue, hq, Option.map_none, reduceCtorEq] at hv, .inl ⟨w, he⟩⟩

/-- An event has no word; a message carries it. -/
theorem ofEvent {i : Instr} {m : Msg} (hm : m.instr = some i) (he : encodeNat i = none) (hq : encodeQueueNat i = none) :
    F.Statement i := fun _ =>
  ⟨fun v hv => by simp only [encode, he, Option.map_none, reduceCtorEq] at hv,
   fun v hv => by simp only [encodeQueue, hq, Option.map_none, reduceCtorEq] at hv, .inr (.inr ⟨m, hm⟩)⟩

set_option linter.unusedSimpArgs false
set_option maxRecDepth 4000

theorem F.add (d a b) : F.Statement (.add d a b) := by
  have lt_d := d.isLt; have lt_a := a.isLt; have lt_b := b.isLt
  obtain ⟨N, hN⟩ : ∃ N, N = 0x00000001 + d.toNat * 2 ^ 20 + a.toNat * 2 ^ 14 + b.toNat * 2 ^ 8 := ⟨_, rfl⟩
  have hp : pack 0x00000001 [(d.toNat, 20), (a.toNat, 14), (b.toNat, 8)] = N := by rw [hN, pack_cons, pack_cons, pack_cons, pack_nil]
  refine ofCore N (by rw [← hp]; rfl) (by omega) rfl fun wf => ?_
  have kM : bits N 26 6 = 0 := by unfold bits; omega
  have kF : bits N 0 8 = 1 := by unfold bits; omega
  simp only [decodeRow, kM, decodeMajor00, kF, and_self, false_and, Nat.reduceEqDiff, Nat.one_ne_zero, ↓reduceIte, fld_eq N 20 d (by omega), fld_eq N 14 a (by omega), fld_eq N 8 b (by omega)]

theorem F.sub (d a b) : F.Statement (.sub d a b) := by
  have lt_d := d.isLt; have lt_a := a.isLt; have lt_b := b.isLt
  obtain ⟨N, hN⟩ : ∃ N, N = 0x00000002 + d.toNat * 2 ^ 20 + a.toNat * 2 ^ 14 + b.toNat * 2 ^ 8 := ⟨_, rfl⟩
  have hp : pack 0x00000002 [(d.toNat, 20), (a.toNat, 14), (b.toNat, 8)] = N := by rw [hN, pack_cons, pack_cons, pack_cons, pack_nil]
  refine ofCore N (by rw [← hp]; rfl) (by omega) rfl fun wf => ?_
  have kM : bits N 26 6 = 0 := by unfold bits; omega
  have kF : bits N 0 8 = 2 := by unfold bits; omega
  simp only [decodeRow, kM, decodeMajor00, kF, and_self, false_and, Nat.reduceEqDiff, Nat.one_ne_zero, ↓reduceIte, fld_eq N 20 d (by omega), fld_eq N 14 a (by omega), fld_eq N 8 b (by omega)]

theorem F.mul (d a b) : F.Statement (.mul d a b) := by
  have lt_d := d.isLt; have lt_a := a.isLt; have lt_b := b.isLt
  obtain ⟨N, hN⟩ : ∃ N, N = 0x00000003 + d.toNat * 2 ^ 20 + a.toNat * 2 ^ 14 + b.toNat * 2 ^ 8 := ⟨_, rfl⟩
  have hp : pack 0x00000003 [(d.toNat, 20), (a.toNat, 14), (b.toNat, 8)] = N := by rw [hN, pack_cons, pack_cons, pack_cons, pack_nil]
  refine ofCore N (by rw [← hp]; rfl) (by omega) rfl fun wf => ?_
  have kM : bits N 26 6 = 0 := by unfold bits; omega
  have kF : bits N 0 8 = 3 := by unfold bits; omega
  simp only [decodeRow, kM, decodeMajor00, kF, and_self, false_and, Nat.reduceEqDiff, Nat.one_ne_zero, ↓reduceIte, fld_eq N 20 d (by omega), fld_eq N 14 a (by omega), fld_eq N 8 b (by omega)]

theorem F.mulh (d a b) : F.Statement (.mulh d a b) := by
  have lt_d := d.isLt; have lt_a := a.isLt; have lt_b := b.isLt
  obtain ⟨N, hN⟩ : ∃ N, N = 0x00000004 + d.toNat * 2 ^ 20 + a.toNat * 2 ^ 14 + b.toNat * 2 ^ 8 := ⟨_, rfl⟩
  have hp : pack 0x00000004 [(d.toNat, 20), (a.toNat, 14), (b.toNat, 8)] = N := by rw [hN, pack_cons, pack_cons, pack_cons, pack_nil]
  refine ofCore N (by rw [← hp]; rfl) (by omega) rfl fun wf => ?_
  have kM : bits N 26 6 = 0 := by unfold bits; omega
  have kF : bits N 0 8 = 4 := by unfold bits; omega
  simp only [decodeRow, kM, decodeMajor00, kF, and_self, false_and, Nat.reduceEqDiff, Nat.one_ne_zero, ↓reduceIte, fld_eq N 20 d (by omega), fld_eq N 14 a (by omega), fld_eq N 8 b (by omega)]

theorem F.mulhn (d a b) : F.Statement (.mulhn d a b) := by
  have lt_d := d.isLt; have lt_a := a.isLt; have lt_b := b.isLt
  obtain ⟨N, hN⟩ : ∃ N, N = 0x00000005 + d.toNat * 2 ^ 20 + a.toNat * 2 ^ 14 + b.toNat * 2 ^ 8 := ⟨_, rfl⟩
  have hp : pack 0x00000005 [(d.toNat, 20), (a.toNat, 14), (b.toNat, 8)] = N := by rw [hN, pack_cons, pack_cons, pack_cons, pack_nil]
  refine ofCore N (by rw [← hp]; rfl) (by omega) rfl fun wf => ?_
  have kM : bits N 26 6 = 0 := by unfold bits; omega
  have kF : bits N 0 8 = 5 := by unfold bits; omega
  simp only [decodeRow, kM, decodeMajor00, kF, and_self, false_and, Nat.reduceEqDiff, Nat.one_ne_zero, ↓reduceIte, fld_eq N 20 d (by omega), fld_eq N 14 a (by omega), fld_eq N 8 b (by omega)]

theorem F.divs (d a b) : F.Statement (.divs d a b) := by
  have lt_d := d.isLt; have lt_a := a.isLt; have lt_b := b.isLt
  obtain ⟨N, hN⟩ : ∃ N, N = 0x00000006 + d.toNat * 2 ^ 20 + a.toNat * 2 ^ 14 + b.toNat * 2 ^ 8 := ⟨_, rfl⟩
  have hp : pack 0x00000006 [(d.toNat, 20), (a.toNat, 14), (b.toNat, 8)] = N := by rw [hN, pack_cons, pack_cons, pack_cons, pack_nil]
  refine ofCore N (by rw [← hp]; rfl) (by omega) rfl fun wf => ?_
  have kM : bits N 26 6 = 0 := by unfold bits; omega
  have kF : bits N 0 8 = 6 := by unfold bits; omega
  simp only [decodeRow, kM, decodeMajor00, kF, and_self, false_and, Nat.reduceEqDiff, Nat.one_ne_zero, ↓reduceIte, fld_eq N 20 d (by omega), fld_eq N 14 a (by omega), fld_eq N 8 b (by omega)]

theorem F.divn (d a b) : F.Statement (.divn d a b) := by
  have lt_d := d.isLt; have lt_a := a.isLt; have lt_b := b.isLt
  obtain ⟨N, hN⟩ : ∃ N, N = 0x00000007 + d.toNat * 2 ^ 20 + a.toNat * 2 ^ 14 + b.toNat * 2 ^ 8 := ⟨_, rfl⟩
  have hp : pack 0x00000007 [(d.toNat, 20), (a.toNat, 14), (b.toNat, 8)] = N := by rw [hN, pack_cons, pack_cons, pack_cons, pack_nil]
  refine ofCore N (by rw [← hp]; rfl) (by omega) rfl fun wf => ?_
  have kM : bits N 26 6 = 0 := by unfold bits; omega
  have kF : bits N 0 8 = 7 := by unfold bits; omega
  simp only [decodeRow, kM, decodeMajor00, kF, and_self, false_and, Nat.reduceEqDiff, Nat.one_ne_zero, ↓reduceIte, fld_eq N 20 d (by omega), fld_eq N 14 a (by omega), fld_eq N 8 b (by omega)]

theorem F.rems (d a b) : F.Statement (.rems d a b) := by
  have lt_d := d.isLt; have lt_a := a.isLt; have lt_b := b.isLt
  obtain ⟨N, hN⟩ : ∃ N, N = 0x00000008 + d.toNat * 2 ^ 20 + a.toNat * 2 ^ 14 + b.toNat * 2 ^ 8 := ⟨_, rfl⟩
  have hp : pack 0x00000008 [(d.toNat, 20), (a.toNat, 14), (b.toNat, 8)] = N := by rw [hN, pack_cons, pack_cons, pack_cons, pack_nil]
  refine ofCore N (by rw [← hp]; rfl) (by omega) rfl fun wf => ?_
  have kM : bits N 26 6 = 0 := by unfold bits; omega
  have kF : bits N 0 8 = 8 := by unfold bits; omega
  simp only [decodeRow, kM, decodeMajor00, kF, and_self, false_and, Nat.reduceEqDiff, Nat.one_ne_zero, ↓reduceIte, fld_eq N 20 d (by omega), fld_eq N 14 a (by omega), fld_eq N 8 b (by omega)]

theorem F.remn (d a b) : F.Statement (.remn d a b) := by
  have lt_d := d.isLt; have lt_a := a.isLt; have lt_b := b.isLt
  obtain ⟨N, hN⟩ : ∃ N, N = 0x00000009 + d.toNat * 2 ^ 20 + a.toNat * 2 ^ 14 + b.toNat * 2 ^ 8 := ⟨_, rfl⟩
  have hp : pack 0x00000009 [(d.toNat, 20), (a.toNat, 14), (b.toNat, 8)] = N := by rw [hN, pack_cons, pack_cons, pack_cons, pack_nil]
  refine ofCore N (by rw [← hp]; rfl) (by omega) rfl fun wf => ?_
  have kM : bits N 26 6 = 0 := by unfold bits; omega
  have kF : bits N 0 8 = 9 := by unfold bits; omega
  simp only [decodeRow, kM, decodeMajor00, kF, and_self, false_and, Nat.reduceEqDiff, Nat.one_ne_zero, ↓reduceIte, fld_eq N 20 d (by omega), fld_eq N 14 a (by omega), fld_eq N 8 b (by omega)]

theorem F.andd (d a b) : F.Statement (.andd d a b) := by
  have lt_d := d.isLt; have lt_a := a.isLt; have lt_b := b.isLt
  obtain ⟨N, hN⟩ : ∃ N, N = 0x0000000A + d.toNat * 2 ^ 20 + a.toNat * 2 ^ 14 + b.toNat * 2 ^ 8 := ⟨_, rfl⟩
  have hp : pack 0x0000000A [(d.toNat, 20), (a.toNat, 14), (b.toNat, 8)] = N := by rw [hN, pack_cons, pack_cons, pack_cons, pack_nil]
  refine ofCore N (by rw [← hp]; rfl) (by omega) rfl fun wf => ?_
  have kM : bits N 26 6 = 0 := by unfold bits; omega
  have kF : bits N 0 8 = 10 := by unfold bits; omega
  simp only [decodeRow, kM, decodeMajor00, kF, and_self, false_and, Nat.reduceEqDiff, Nat.one_ne_zero, ↓reduceIte, fld_eq N 20 d (by omega), fld_eq N 14 a (by omega), fld_eq N 8 b (by omega)]

theorem F.orr (d a b) : F.Statement (.orr d a b) := by
  have lt_d := d.isLt; have lt_a := a.isLt; have lt_b := b.isLt
  obtain ⟨N, hN⟩ : ∃ N, N = 0x0000000B + d.toNat * 2 ^ 20 + a.toNat * 2 ^ 14 + b.toNat * 2 ^ 8 := ⟨_, rfl⟩
  have hp : pack 0x0000000B [(d.toNat, 20), (a.toNat, 14), (b.toNat, 8)] = N := by rw [hN, pack_cons, pack_cons, pack_cons, pack_nil]
  refine ofCore N (by rw [← hp]; rfl) (by omega) rfl fun wf => ?_
  have kM : bits N 26 6 = 0 := by unfold bits; omega
  have kF : bits N 0 8 = 11 := by unfold bits; omega
  simp only [decodeRow, kM, decodeMajor00, kF, and_self, false_and, Nat.reduceEqDiff, Nat.one_ne_zero, ↓reduceIte, fld_eq N 20 d (by omega), fld_eq N 14 a (by omega), fld_eq N 8 b (by omega)]

theorem F.xorr (d a b) : F.Statement (.xorr d a b) := by
  have lt_d := d.isLt; have lt_a := a.isLt; have lt_b := b.isLt
  obtain ⟨N, hN⟩ : ∃ N, N = 0x0000000C + d.toNat * 2 ^ 20 + a.toNat * 2 ^ 14 + b.toNat * 2 ^ 8 := ⟨_, rfl⟩
  have hp : pack 0x0000000C [(d.toNat, 20), (a.toNat, 14), (b.toNat, 8)] = N := by rw [hN, pack_cons, pack_cons, pack_cons, pack_nil]
  refine ofCore N (by rw [← hp]; rfl) (by omega) rfl fun wf => ?_
  have kM : bits N 26 6 = 0 := by unfold bits; omega
  have kF : bits N 0 8 = 12 := by unfold bits; omega
  simp only [decodeRow, kM, decodeMajor00, kF, and_self, false_and, Nat.reduceEqDiff, Nat.one_ne_zero, ↓reduceIte, fld_eq N 20 d (by omega), fld_eq N 14 a (by omega), fld_eq N 8 b (by omega)]

theorem F.andn (d a b) : F.Statement (.andn d a b) := by
  have lt_d := d.isLt; have lt_a := a.isLt; have lt_b := b.isLt
  obtain ⟨N, hN⟩ : ∃ N, N = 0x0000000D + d.toNat * 2 ^ 20 + a.toNat * 2 ^ 14 + b.toNat * 2 ^ 8 := ⟨_, rfl⟩
  have hp : pack 0x0000000D [(d.toNat, 20), (a.toNat, 14), (b.toNat, 8)] = N := by rw [hN, pack_cons, pack_cons, pack_cons, pack_nil]
  refine ofCore N (by rw [← hp]; rfl) (by omega) rfl fun wf => ?_
  have kM : bits N 26 6 = 0 := by unfold bits; omega
  have kF : bits N 0 8 = 13 := by unfold bits; omega
  simp only [decodeRow, kM, decodeMajor00, kF, and_self, false_and, Nat.reduceEqDiff, Nat.one_ne_zero, ↓reduceIte, fld_eq N 20 d (by omega), fld_eq N 14 a (by omega), fld_eq N 8 b (by omega)]

theorem F.shl (d a b) : F.Statement (.shl d a b) := by
  have lt_d := d.isLt; have lt_a := a.isLt; have lt_b := b.isLt
  obtain ⟨N, hN⟩ : ∃ N, N = 0x0000000E + d.toNat * 2 ^ 20 + a.toNat * 2 ^ 14 + b.toNat * 2 ^ 8 := ⟨_, rfl⟩
  have hp : pack 0x0000000E [(d.toNat, 20), (a.toNat, 14), (b.toNat, 8)] = N := by rw [hN, pack_cons, pack_cons, pack_cons, pack_nil]
  refine ofCore N (by rw [← hp]; rfl) (by omega) rfl fun wf => ?_
  have kM : bits N 26 6 = 0 := by unfold bits; omega
  have kF : bits N 0 8 = 14 := by unfold bits; omega
  simp only [decodeRow, kM, decodeMajor00, kF, and_self, false_and, Nat.reduceEqDiff, Nat.one_ne_zero, ↓reduceIte, fld_eq N 20 d (by omega), fld_eq N 14 a (by omega), fld_eq N 8 b (by omega)]

theorem F.shr (d a b) : F.Statement (.shr d a b) := by
  have lt_d := d.isLt; have lt_a := a.isLt; have lt_b := b.isLt
  obtain ⟨N, hN⟩ : ∃ N, N = 0x0000000F + d.toNat * 2 ^ 20 + a.toNat * 2 ^ 14 + b.toNat * 2 ^ 8 := ⟨_, rfl⟩
  have hp : pack 0x0000000F [(d.toNat, 20), (a.toNat, 14), (b.toNat, 8)] = N := by rw [hN, pack_cons, pack_cons, pack_cons, pack_nil]
  refine ofCore N (by rw [← hp]; rfl) (by omega) rfl fun wf => ?_
  have kM : bits N 26 6 = 0 := by unfold bits; omega
  have kF : bits N 0 8 = 15 := by unfold bits; omega
  simp only [decodeRow, kM, decodeMajor00, kF, and_self, false_and, Nat.reduceEqDiff, Nat.one_ne_zero, ↓reduceIte, fld_eq N 20 d (by omega), fld_eq N 14 a (by omega), fld_eq N 8 b (by omega)]

theorem F.sha (d a b) : F.Statement (.sha d a b) := by
  have lt_d := d.isLt; have lt_a := a.isLt; have lt_b := b.isLt
  obtain ⟨N, hN⟩ : ∃ N, N = 0x00000010 + d.toNat * 2 ^ 20 + a.toNat * 2 ^ 14 + b.toNat * 2 ^ 8 := ⟨_, rfl⟩
  have hp : pack 0x00000010 [(d.toNat, 20), (a.toNat, 14), (b.toNat, 8)] = N := by rw [hN, pack_cons, pack_cons, pack_cons, pack_nil]
  refine ofCore N (by rw [← hp]; rfl) (by omega) rfl fun wf => ?_
  have kM : bits N 26 6 = 0 := by unfold bits; omega
  have kF : bits N 0 8 = 16 := by unfold bits; omega
  simp only [decodeRow, kM, decodeMajor00, kF, and_self, false_and, Nat.reduceEqDiff, Nat.one_ne_zero, ↓reduceIte, fld_eq N 20 d (by omega), fld_eq N 14 a (by omega), fld_eq N 8 b (by omega)]

theorem F.rot (d a b) : F.Statement (.rot d a b) := by
  have lt_d := d.isLt; have lt_a := a.isLt; have lt_b := b.isLt
  obtain ⟨N, hN⟩ : ∃ N, N = 0x00000011 + d.toNat * 2 ^ 20 + a.toNat * 2 ^ 14 + b.toNat * 2 ^ 8 := ⟨_, rfl⟩
  have hp : pack 0x00000011 [(d.toNat, 20), (a.toNat, 14), (b.toNat, 8)] = N := by rw [hN, pack_cons, pack_cons, pack_cons, pack_nil]
  refine ofCore N (by rw [← hp]; rfl) (by omega) rfl fun wf => ?_
  have kM : bits N 26 6 = 0 := by unfold bits; omega
  have kF : bits N 0 8 = 17 := by unfold bits; omega
  simp only [decodeRow, kM, decodeMajor00, kF, and_self, false_and, Nat.reduceEqDiff, Nat.one_ne_zero, ↓reduceIte, fld_eq N 20 d (by omega), fld_eq N 14 a (by omega), fld_eq N 8 b (by omega)]

theorem F.clz (d a) : F.Statement (.clz d a) := by
  have lt_d := d.isLt; have lt_a := a.isLt
  obtain ⟨N, hN⟩ : ∃ N, N = 0x00000012 + d.toNat * 2 ^ 20 + a.toNat * 2 ^ 14 := ⟨_, rfl⟩
  have hp : pack 0x00000012 [(d.toNat, 20), (a.toNat, 14)] = N := by rw [hN, pack_cons, pack_cons, pack_nil]
  refine ofCore N (by rw [← hp]; rfl) (by omega) rfl fun wf => ?_
  have kM : bits N 26 6 = 0 := by unfold bits; omega
  have kF : bits N 0 8 = 18 := by unfold bits; omega
  have kC1 : bits N 8 6 = 0 := by unfold bits; omega
  simp only [decodeRow, kM, decodeMajor00, kF, kC1, and_self, false_and, Nat.reduceEqDiff, Nat.one_ne_zero, ↓reduceIte, fld_eq N 20 d (by omega), fld_eq N 14 a (by omega)]

theorem F.popc (d a) : F.Statement (.popc d a) := by
  have lt_d := d.isLt; have lt_a := a.isLt
  obtain ⟨N, hN⟩ : ∃ N, N = 0x00000013 + d.toNat * 2 ^ 20 + a.toNat * 2 ^ 14 := ⟨_, rfl⟩
  have hp : pack 0x00000013 [(d.toNat, 20), (a.toNat, 14)] = N := by rw [hN, pack_cons, pack_cons, pack_nil]
  refine ofCore N (by rw [← hp]; rfl) (by omega) rfl fun wf => ?_
  have kM : bits N 26 6 = 0 := by unfold bits; omega
  have kF : bits N 0 8 = 19 := by unfold bits; omega
  have kC1 : bits N 8 6 = 0 := by unfold bits; omega
  simp only [decodeRow, kM, decodeMajor00, kF, kC1, and_self, false_and, Nat.reduceEqDiff, Nat.one_ne_zero, ↓reduceIte, fld_eq N 20 d (by omega), fld_eq N 14 a (by omega)]

theorem F.mins (d a b) : F.Statement (.mins d a b) := by
  have lt_d := d.isLt; have lt_a := a.isLt; have lt_b := b.isLt
  obtain ⟨N, hN⟩ : ∃ N, N = 0x00000014 + d.toNat * 2 ^ 20 + a.toNat * 2 ^ 14 + b.toNat * 2 ^ 8 := ⟨_, rfl⟩
  have hp : pack 0x00000014 [(d.toNat, 20), (a.toNat, 14), (b.toNat, 8)] = N := by rw [hN, pack_cons, pack_cons, pack_cons, pack_nil]
  refine ofCore N (by rw [← hp]; rfl) (by omega) rfl fun wf => ?_
  have kM : bits N 26 6 = 0 := by unfold bits; omega
  have kF : bits N 0 8 = 20 := by unfold bits; omega
  simp only [decodeRow, kM, decodeMajor00, kF, and_self, false_and, Nat.reduceEqDiff, Nat.one_ne_zero, ↓reduceIte, fld_eq N 20 d (by omega), fld_eq N 14 a (by omega), fld_eq N 8 b (by omega)]

theorem F.maxs (d a b) : F.Statement (.maxs d a b) := by
  have lt_d := d.isLt; have lt_a := a.isLt; have lt_b := b.isLt
  obtain ⟨N, hN⟩ : ∃ N, N = 0x00000015 + d.toNat * 2 ^ 20 + a.toNat * 2 ^ 14 + b.toNat * 2 ^ 8 := ⟨_, rfl⟩
  have hp : pack 0x00000015 [(d.toNat, 20), (a.toNat, 14), (b.toNat, 8)] = N := by rw [hN, pack_cons, pack_cons, pack_cons, pack_nil]
  refine ofCore N (by rw [← hp]; rfl) (by omega) rfl fun wf => ?_
  have kM : bits N 26 6 = 0 := by unfold bits; omega
  have kF : bits N 0 8 = 21 := by unfold bits; omega
  simp only [decodeRow, kM, decodeMajor00, kF, and_self, false_and, Nat.reduceEqDiff, Nat.one_ne_zero, ↓reduceIte, fld_eq N 20 d (by omega), fld_eq N 14 a (by omega), fld_eq N 8 b (by omega)]

theorem F.minn (d a b) : F.Statement (.minn d a b) := by
  have lt_d := d.isLt; have lt_a := a.isLt; have lt_b := b.isLt
  obtain ⟨N, hN⟩ : ∃ N, N = 0x00000016 + d.toNat * 2 ^ 20 + a.toNat * 2 ^ 14 + b.toNat * 2 ^ 8 := ⟨_, rfl⟩
  have hp : pack 0x00000016 [(d.toNat, 20), (a.toNat, 14), (b.toNat, 8)] = N := by rw [hN, pack_cons, pack_cons, pack_cons, pack_nil]
  refine ofCore N (by rw [← hp]; rfl) (by omega) rfl fun wf => ?_
  have kM : bits N 26 6 = 0 := by unfold bits; omega
  have kF : bits N 0 8 = 22 := by unfold bits; omega
  simp only [decodeRow, kM, decodeMajor00, kF, and_self, false_and, Nat.reduceEqDiff, Nat.one_ne_zero, ↓reduceIte, fld_eq N 20 d (by omega), fld_eq N 14 a (by omega), fld_eq N 8 b (by omega)]

theorem F.maxn (d a b) : F.Statement (.maxn d a b) := by
  have lt_d := d.isLt; have lt_a := a.isLt; have lt_b := b.isLt
  obtain ⟨N, hN⟩ : ∃ N, N = 0x00000017 + d.toNat * 2 ^ 20 + a.toNat * 2 ^ 14 + b.toNat * 2 ^ 8 := ⟨_, rfl⟩
  have hp : pack 0x00000017 [(d.toNat, 20), (a.toNat, 14), (b.toNat, 8)] = N := by rw [hN, pack_cons, pack_cons, pack_cons, pack_nil]
  refine ofCore N (by rw [← hp]; rfl) (by omega) rfl fun wf => ?_
  have kM : bits N 26 6 = 0 := by unfold bits; omega
  have kF : bits N 0 8 = 23 := by unfold bits; omega
  simp only [decodeRow, kM, decodeMajor00, kF, and_self, false_and, Nat.reduceEqDiff, Nat.one_ne_zero, ↓reduceIte, fld_eq N 20 d (by omega), fld_eq N 14 a (by omega), fld_eq N 8 b (by omega)]

theorem F.cmpeq (d a b) : F.Statement (.cmpeq d a b) := by
  have lt_d := d.isLt; have lt_a := a.isLt; have lt_b := b.isLt
  obtain ⟨N, hN⟩ : ∃ N, N = 0x00000018 + d.toNat * 2 ^ 20 + a.toNat * 2 ^ 14 + b.toNat * 2 ^ 8 := ⟨_, rfl⟩
  have hp : pack 0x00000018 [(d.toNat, 20), (a.toNat, 14), (b.toNat, 8)] = N := by rw [hN, pack_cons, pack_cons, pack_cons, pack_nil]
  refine ofCore N (by rw [← hp]; rfl) (by omega) rfl fun wf => ?_
  have kM : bits N 26 6 = 0 := by unfold bits; omega
  have kF : bits N 0 8 = 24 := by unfold bits; omega
  simp only [decodeRow, kM, decodeMajor00, kF, and_self, false_and, Nat.reduceEqDiff, Nat.one_ne_zero, ↓reduceIte, fld_eq N 20 d (by omega), fld_eq N 14 a (by omega), fld_eq N 8 b (by omega)]

theorem F.cmplt (d a b) : F.Statement (.cmplt d a b) := by
  have lt_d := d.isLt; have lt_a := a.isLt; have lt_b := b.isLt
  obtain ⟨N, hN⟩ : ∃ N, N = 0x00000019 + d.toNat * 2 ^ 20 + a.toNat * 2 ^ 14 + b.toNat * 2 ^ 8 := ⟨_, rfl⟩
  have hp : pack 0x00000019 [(d.toNat, 20), (a.toNat, 14), (b.toNat, 8)] = N := by rw [hN, pack_cons, pack_cons, pack_cons, pack_nil]
  refine ofCore N (by rw [← hp]; rfl) (by omega) rfl fun wf => ?_
  have kM : bits N 26 6 = 0 := by unfold bits; omega
  have kF : bits N 0 8 = 25 := by unfold bits; omega
  simp only [decodeRow, kM, decodeMajor00, kF, and_self, false_and, Nat.reduceEqDiff, Nat.one_ne_zero, ↓reduceIte, fld_eq N 20 d (by omega), fld_eq N 14 a (by omega), fld_eq N 8 b (by omega)]

theorem F.cmpltn (d a b) : F.Statement (.cmpltn d a b) := by
  have lt_d := d.isLt; have lt_a := a.isLt; have lt_b := b.isLt
  obtain ⟨N, hN⟩ : ∃ N, N = 0x0000001A + d.toNat * 2 ^ 20 + a.toNat * 2 ^ 14 + b.toNat * 2 ^ 8 := ⟨_, rfl⟩
  have hp : pack 0x0000001A [(d.toNat, 20), (a.toNat, 14), (b.toNat, 8)] = N := by rw [hN, pack_cons, pack_cons, pack_cons, pack_nil]
  refine ofCore N (by rw [← hp]; rfl) (by omega) rfl fun wf => ?_
  have kM : bits N 26 6 = 0 := by unfold bits; omega
  have kF : bits N 0 8 = 26 := by unfold bits; omega
  simp only [decodeRow, kM, decodeMajor00, kF, and_self, false_and, Nat.reduceEqDiff, Nat.one_ne_zero, ↓reduceIte, fld_eq N 20 d (by omega), fld_eq N 14 a (by omega), fld_eq N 8 b (by omega)]

theorem F.cmple (d a b) : F.Statement (.cmple d a b) := by
  have lt_d := d.isLt; have lt_a := a.isLt; have lt_b := b.isLt
  obtain ⟨N, hN⟩ : ∃ N, N = 0x0000001B + d.toNat * 2 ^ 20 + a.toNat * 2 ^ 14 + b.toNat * 2 ^ 8 := ⟨_, rfl⟩
  have hp : pack 0x0000001B [(d.toNat, 20), (a.toNat, 14), (b.toNat, 8)] = N := by rw [hN, pack_cons, pack_cons, pack_cons, pack_nil]
  refine ofCore N (by rw [← hp]; rfl) (by omega) rfl fun wf => ?_
  have kM : bits N 26 6 = 0 := by unfold bits; omega
  have kF : bits N 0 8 = 27 := by unfold bits; omega
  simp only [decodeRow, kM, decodeMajor00, kF, and_self, false_and, Nat.reduceEqDiff, Nat.one_ne_zero, ↓reduceIte, fld_eq N 20 d (by omega), fld_eq N 14 a (by omega), fld_eq N 8 b (by omega)]

theorem F.sel (d a b) : F.Statement (.sel d a b) := by
  have lt_d := d.isLt; have lt_a := a.isLt; have lt_b := b.isLt
  obtain ⟨N, hN⟩ : ∃ N, N = 0x0000001C + d.toNat * 2 ^ 20 + a.toNat * 2 ^ 14 + b.toNat * 2 ^ 8 := ⟨_, rfl⟩
  have hp : pack 0x0000001C [(d.toNat, 20), (a.toNat, 14), (b.toNat, 8)] = N := by rw [hN, pack_cons, pack_cons, pack_cons, pack_nil]
  refine ofCore N (by rw [← hp]; rfl) (by omega) rfl fun wf => ?_
  have kM : bits N 26 6 = 0 := by unfold bits; omega
  have kF : bits N 0 8 = 28 := by unfold bits; omega
  simp only [decodeRow, kM, decodeMajor00, kF, and_self, false_and, Nat.reduceEqDiff, Nat.one_ne_zero, ↓reduceIte, fld_eq N 20 d (by omega), fld_eq N 14 a (by omega), fld_eq N 8 b (by omega)]

theorem F.addSats (d a b) : F.Statement (.addSats d a b) := by
  have lt_d := d.isLt; have lt_a := a.isLt; have lt_b := b.isLt
  obtain ⟨N, hN⟩ : ∃ N, N = 0x00000021 + d.toNat * 2 ^ 20 + a.toNat * 2 ^ 14 + b.toNat * 2 ^ 8 := ⟨_, rfl⟩
  have hp : pack 0x00000021 [(d.toNat, 20), (a.toNat, 14), (b.toNat, 8)] = N := by rw [hN, pack_cons, pack_cons, pack_cons, pack_nil]
  refine ofCore N (by rw [← hp]; rfl) (by omega) rfl fun wf => ?_
  have kM : bits N 26 6 = 0 := by unfold bits; omega
  have kF : bits N 0 8 = 33 := by unfold bits; omega
  simp only [decodeRow, kM, decodeMajor00, kF, and_self, false_and, Nat.reduceEqDiff, Nat.one_ne_zero, ↓reduceIte, fld_eq N 20 d (by omega), fld_eq N 14 a (by omega), fld_eq N 8 b (by omega)]

theorem F.addSatn (d a b) : F.Statement (.addSatn d a b) := by
  have lt_d := d.isLt; have lt_a := a.isLt; have lt_b := b.isLt
  obtain ⟨N, hN⟩ : ∃ N, N = 0x00000022 + d.toNat * 2 ^ 20 + a.toNat * 2 ^ 14 + b.toNat * 2 ^ 8 := ⟨_, rfl⟩
  have hp : pack 0x00000022 [(d.toNat, 20), (a.toNat, 14), (b.toNat, 8)] = N := by rw [hN, pack_cons, pack_cons, pack_cons, pack_nil]
  refine ofCore N (by rw [← hp]; rfl) (by omega) rfl fun wf => ?_
  have kM : bits N 26 6 = 0 := by unfold bits; omega
  have kF : bits N 0 8 = 34 := by unfold bits; omega
  simp only [decodeRow, kM, decodeMajor00, kF, and_self, false_and, Nat.reduceEqDiff, Nat.one_ne_zero, ↓reduceIte, fld_eq N 20 d (by omega), fld_eq N 14 a (by omega), fld_eq N 8 b (by omega)]

theorem F.subSats (d a b) : F.Statement (.subSats d a b) := by
  have lt_d := d.isLt; have lt_a := a.isLt; have lt_b := b.isLt
  obtain ⟨N, hN⟩ : ∃ N, N = 0x00000023 + d.toNat * 2 ^ 20 + a.toNat * 2 ^ 14 + b.toNat * 2 ^ 8 := ⟨_, rfl⟩
  have hp : pack 0x00000023 [(d.toNat, 20), (a.toNat, 14), (b.toNat, 8)] = N := by rw [hN, pack_cons, pack_cons, pack_cons, pack_nil]
  refine ofCore N (by rw [← hp]; rfl) (by omega) rfl fun wf => ?_
  have kM : bits N 26 6 = 0 := by unfold bits; omega
  have kF : bits N 0 8 = 35 := by unfold bits; omega
  simp only [decodeRow, kM, decodeMajor00, kF, and_self, false_and, Nat.reduceEqDiff, Nat.one_ne_zero, ↓reduceIte, fld_eq N 20 d (by omega), fld_eq N 14 a (by omega), fld_eq N 8 b (by omega)]

theorem F.subSatn (d a b) : F.Statement (.subSatn d a b) := by
  have lt_d := d.isLt; have lt_a := a.isLt; have lt_b := b.isLt
  obtain ⟨N, hN⟩ : ∃ N, N = 0x00000024 + d.toNat * 2 ^ 20 + a.toNat * 2 ^ 14 + b.toNat * 2 ^ 8 := ⟨_, rfl⟩
  have hp : pack 0x00000024 [(d.toNat, 20), (a.toNat, 14), (b.toNat, 8)] = N := by rw [hN, pack_cons, pack_cons, pack_cons, pack_nil]
  refine ofCore N (by rw [← hp]; rfl) (by omega) rfl fun wf => ?_
  have kM : bits N 26 6 = 0 := by unfold bits; omega
  have kF : bits N 0 8 = 36 := by unfold bits; omega
  simp only [decodeRow, kM, decodeMajor00, kF, and_self, false_and, Nat.reduceEqDiff, Nat.one_ne_zero, ↓reduceIte, fld_eq N 20 d (by omega), fld_eq N 14 a (by omega), fld_eq N 8 b (by omega)]

theorem F.mulSats (d a b) : F.Statement (.mulSats d a b) := by
  have lt_d := d.isLt; have lt_a := a.isLt; have lt_b := b.isLt
  obtain ⟨N, hN⟩ : ∃ N, N = 0x00000025 + d.toNat * 2 ^ 20 + a.toNat * 2 ^ 14 + b.toNat * 2 ^ 8 := ⟨_, rfl⟩
  have hp : pack 0x00000025 [(d.toNat, 20), (a.toNat, 14), (b.toNat, 8)] = N := by rw [hN, pack_cons, pack_cons, pack_cons, pack_nil]
  refine ofCore N (by rw [← hp]; rfl) (by omega) rfl fun wf => ?_
  have kM : bits N 26 6 = 0 := by unfold bits; omega
  have kF : bits N 0 8 = 37 := by unfold bits; omega
  simp only [decodeRow, kM, decodeMajor00, kF, and_self, false_and, Nat.reduceEqDiff, Nat.one_ne_zero, ↓reduceIte, fld_eq N 20 d (by omega), fld_eq N 14 a (by omega), fld_eq N 8 b (by omega)]

theorem F.mulSatn (d a b) : F.Statement (.mulSatn d a b) := by
  have lt_d := d.isLt; have lt_a := a.isLt; have lt_b := b.isLt
  obtain ⟨N, hN⟩ : ∃ N, N = 0x00000026 + d.toNat * 2 ^ 20 + a.toNat * 2 ^ 14 + b.toNat * 2 ^ 8 := ⟨_, rfl⟩
  have hp : pack 0x00000026 [(d.toNat, 20), (a.toNat, 14), (b.toNat, 8)] = N := by rw [hN, pack_cons, pack_cons, pack_cons, pack_nil]
  refine ofCore N (by rw [← hp]; rfl) (by omega) rfl fun wf => ?_
  have kM : bits N 26 6 = 0 := by unfold bits; omega
  have kF : bits N 0 8 = 38 := by unfold bits; omega
  simp only [decodeRow, kM, decodeMajor00, kF, and_self, false_and, Nat.reduceEqDiff, Nat.one_ne_zero, ↓reduceIte, fld_eq N 20 d (by omega), fld_eq N 14 a (by omega), fld_eq N 8 b (by omega)]

theorem F.addi (d a i) : F.Statement (.addi d a i) := by
  have lt_d := d.isLt; have lt_a := a.isLt; have lt_i := i.isLt
  obtain ⟨N, hN⟩ : ∃ N, N = 0x04000000 + d.toNat * 2 ^ 20 + a.toNat * 2 ^ 14 + i.toNat * 2 ^ 0 := ⟨_, rfl⟩
  have hp : pack 0x04000000 [(d.toNat, 20), (a.toNat, 14), (i.toNat, 0)] = N := by rw [hN, pack_cons, pack_cons, pack_cons, pack_nil]
  refine ofCore N (by rw [← hp]; rfl) (by omega) rfl fun wf => ?_
  have kM : bits N 26 6 = 1 := by unfold bits; omega
  simp only [decodeRow, kM, decodeMajor01, and_self, false_and, Nat.reduceEqDiff, Nat.one_ne_zero, ↓reduceIte, fld_eq N 20 d (by omega), fld_eq N 14 a (by omega), fld_eq N 0 i (by omega)]

theorem F.andi (d a i) : F.Statement (.andi d a i) := by
  have lt_d := d.isLt; have lt_a := a.isLt; have lt_i := i.isLt
  obtain ⟨N, hN⟩ : ∃ N, N = 0x08000000 + d.toNat * 2 ^ 20 + a.toNat * 2 ^ 14 + i.toNat * 2 ^ 0 := ⟨_, rfl⟩
  have hp : pack 0x08000000 [(d.toNat, 20), (a.toNat, 14), (i.toNat, 0)] = N := by rw [hN, pack_cons, pack_cons, pack_cons, pack_nil]
  refine ofCore N (by rw [← hp]; rfl) (by omega) rfl fun wf => ?_
  have kM : bits N 26 6 = 2 := by unfold bits; omega
  simp only [decodeRow, kM, decodeMajor02, and_self, false_and, Nat.reduceEqDiff, Nat.one_ne_zero, ↓reduceIte, fld_eq N 20 d (by omega), fld_eq N 14 a (by omega), fld_eq N 0 i (by omega)]

theorem F.ori (d a i) : F.Statement (.ori d a i) := by
  have lt_d := d.isLt; have lt_a := a.isLt; have lt_i := i.isLt
  obtain ⟨N, hN⟩ : ∃ N, N = 0x0C000000 + d.toNat * 2 ^ 20 + a.toNat * 2 ^ 14 + i.toNat * 2 ^ 0 := ⟨_, rfl⟩
  have hp : pack 0x0C000000 [(d.toNat, 20), (a.toNat, 14), (i.toNat, 0)] = N := by rw [hN, pack_cons, pack_cons, pack_cons, pack_nil]
  refine ofCore N (by rw [← hp]; rfl) (by omega) rfl fun wf => ?_
  have kM : bits N 26 6 = 3 := by unfold bits; omega
  simp only [decodeRow, kM, decodeMajor03, and_self, false_and, Nat.reduceEqDiff, Nat.one_ne_zero, ↓reduceIte, fld_eq N 20 d (by omega), fld_eq N 14 a (by omega), fld_eq N 0 i (by omega)]

theorem F.xori (d a i) : F.Statement (.xori d a i) := by
  have lt_d := d.isLt; have lt_a := a.isLt; have lt_i := i.isLt
  obtain ⟨N, hN⟩ : ∃ N, N = 0x10000000 + d.toNat * 2 ^ 20 + a.toNat * 2 ^ 14 + i.toNat * 2 ^ 0 := ⟨_, rfl⟩
  have hp : pack 0x10000000 [(d.toNat, 20), (a.toNat, 14), (i.toNat, 0)] = N := by rw [hN, pack_cons, pack_cons, pack_cons, pack_nil]
  refine ofCore N (by rw [← hp]; rfl) (by omega) rfl fun wf => ?_
  have kM : bits N 26 6 = 4 := by unfold bits; omega
  simp only [decodeRow, kM, decodeMajor04, and_self, false_and, Nat.reduceEqDiff, Nat.one_ne_zero, ↓reduceIte, fld_eq N 20 d (by omega), fld_eq N 14 a (by omega), fld_eq N 0 i (by omega)]

theorem F.shli (d a n) : F.Statement (.shli d a n) := by
  have lt_d := d.isLt; have lt_a := a.isLt; have lt_n := n.isLt
  obtain ⟨N, hN⟩ : ∃ N, N = 0x14000000 + d.toNat * 2 ^ 20 + a.toNat * 2 ^ 14 + n.toNat * 2 ^ 0 := ⟨_, rfl⟩
  have hp : pack 0x14000000 [(d.toNat, 20), (a.toNat, 14), (n.toNat, 0)] = N := by rw [hN, pack_cons, pack_cons, pack_cons, pack_nil]
  refine ofCore N (by rw [← hp]; rfl) (by omega) rfl fun wf => ?_
  have kM : bits N 26 6 = 5 := by unfold bits; omega
  have kF : bits N 6 2 = 0 := by unfold bits; omega
  have kC1 : bits N 8 6 = 0 := by unfold bits; omega
  simp only [decodeRow, kM, decodeMajor05, kF, kC1, and_self, false_and, Nat.reduceEqDiff, Nat.one_ne_zero, ↓reduceIte, fld_eq N 20 d (by omega), fld_eq N 14 a (by omega), fld_eq N 0 n (by omega)]

theorem F.shri (d a n) : F.Statement (.shri d a n) := by
  have lt_d := d.isLt; have lt_a := a.isLt; have lt_n := n.isLt
  obtain ⟨N, hN⟩ : ∃ N, N = 0x14000040 + d.toNat * 2 ^ 20 + a.toNat * 2 ^ 14 + n.toNat * 2 ^ 0 := ⟨_, rfl⟩
  have hp : pack 0x14000040 [(d.toNat, 20), (a.toNat, 14), (n.toNat, 0)] = N := by rw [hN, pack_cons, pack_cons, pack_cons, pack_nil]
  refine ofCore N (by rw [← hp]; rfl) (by omega) rfl fun wf => ?_
  have kM : bits N 26 6 = 5 := by unfold bits; omega
  have kF : bits N 6 2 = 1 := by unfold bits; omega
  have kC1 : bits N 8 6 = 0 := by unfold bits; omega
  simp only [decodeRow, kM, decodeMajor05, kF, kC1, and_self, false_and, Nat.reduceEqDiff, Nat.one_ne_zero, ↓reduceIte, fld_eq N 20 d (by omega), fld_eq N 14 a (by omega), fld_eq N 0 n (by omega)]

theorem F.shai (d a n) : F.Statement (.shai d a n) := by
  have lt_d := d.isLt; have lt_a := a.isLt; have lt_n := n.isLt
  obtain ⟨N, hN⟩ : ∃ N, N = 0x14000080 + d.toNat * 2 ^ 20 + a.toNat * 2 ^ 14 + n.toNat * 2 ^ 0 := ⟨_, rfl⟩
  have hp : pack 0x14000080 [(d.toNat, 20), (a.toNat, 14), (n.toNat, 0)] = N := by rw [hN, pack_cons, pack_cons, pack_cons, pack_nil]
  refine ofCore N (by rw [← hp]; rfl) (by omega) rfl fun wf => ?_
  have kM : bits N 26 6 = 5 := by unfold bits; omega
  have kF : bits N 6 2 = 2 := by unfold bits; omega
  have kC1 : bits N 8 6 = 0 := by unfold bits; omega
  simp only [decodeRow, kM, decodeMajor05, kF, kC1, and_self, false_and, Nat.reduceEqDiff, Nat.one_ne_zero, ↓reduceIte, fld_eq N 20 d (by omega), fld_eq N 14 a (by omega), fld_eq N 0 n (by omega)]

theorem F.movi (d i) : F.Statement (.movi d i) := by
  have lt_d := d.isLt; have lt_i := i.isLt
  obtain ⟨N, hN⟩ : ∃ N, N = 0x18000000 + d.toNat * 2 ^ 20 + i.toNat * 2 ^ 0 := ⟨_, rfl⟩
  have hp : pack 0x18000000 [(d.toNat, 20), (i.toNat, 0)] = N := by rw [hN, pack_cons, pack_cons, pack_nil]
  refine ofCore N (by rw [← hp]; rfl) (by omega) rfl fun wf => ?_
  have kM : bits N 26 6 = 6 := by unfold bits; omega
  have kC1 : bits N 14 6 = 0 := by unfold bits; omega
  simp only [decodeRow, kM, decodeMajor06, kC1, and_self, false_and, Nat.reduceEqDiff, Nat.one_ne_zero, ↓reduceIte, fld_eq N 20 d (by omega), fld_eq N 0 i (by omega)]

theorem F.ext (d a l p) : F.Statement (.ext d a l p) := by
  have lt_d := d.isLt; have lt_a := a.isLt; have lt_l := l.isLt; have lt_p := p.isLt
  obtain ⟨N, hN⟩ : ∃ N, N = 0x1C000000 + d.toNat * 2 ^ 20 + a.toNat * 2 ^ 14 + l.toNat * 2 ^ 6 + p.toNat * 2 ^ 0 := ⟨_, rfl⟩
  have hp : pack 0x1C000000 [(d.toNat, 20), (a.toNat, 14), (l.toNat, 6), (p.toNat, 0)] = N := by rw [hN, pack_cons, pack_cons, pack_cons, pack_cons, pack_nil]
  refine ofCore N (by rw [← hp]; rfl) (by omega) rfl fun wf => ?_
  have kM : bits N 26 6 = 7 := by unfold bits; omega
  have kF : bits N 12 2 = 0 := by unfold bits; omega
  simp only [decodeRow, kM, decodeMajor07, kF, and_self, false_and, Nat.reduceEqDiff, Nat.one_ne_zero, ↓reduceIte, fld_eq N 20 d (by omega), fld_eq N 14 a (by omega), fld_eq N 6 l (by omega), fld_eq N 0 p (by omega)]

theorem F.extS (d a l p) : F.Statement (.extS d a l p) := by
  have lt_d := d.isLt; have lt_a := a.isLt; have lt_l := l.isLt; have lt_p := p.isLt
  obtain ⟨N, hN⟩ : ∃ N, N = 0x1C001000 + d.toNat * 2 ^ 20 + a.toNat * 2 ^ 14 + l.toNat * 2 ^ 6 + p.toNat * 2 ^ 0 := ⟨_, rfl⟩
  have hp : pack 0x1C001000 [(d.toNat, 20), (a.toNat, 14), (l.toNat, 6), (p.toNat, 0)] = N := by rw [hN, pack_cons, pack_cons, pack_cons, pack_cons, pack_nil]
  refine ofCore N (by rw [← hp]; rfl) (by omega) rfl fun wf => ?_
  have kM : bits N 26 6 = 7 := by unfold bits; omega
  have kF : bits N 12 2 = 1 := by unfold bits; omega
  simp only [decodeRow, kM, decodeMajor07, kF, and_self, false_and, Nat.reduceEqDiff, Nat.one_ne_zero, ↓reduceIte, fld_eq N 20 d (by omega), fld_eq N 14 a (by omega), fld_eq N 6 l (by omega), fld_eq N 0 p (by omega)]

theorem F.ins (d a l p) : F.Statement (.ins d a l p) := by
  have lt_d := d.isLt; have lt_a := a.isLt; have lt_l := l.isLt; have lt_p := p.isLt
  obtain ⟨N, hN⟩ : ∃ N, N = 0x1C002000 + d.toNat * 2 ^ 20 + a.toNat * 2 ^ 14 + l.toNat * 2 ^ 6 + p.toNat * 2 ^ 0 := ⟨_, rfl⟩
  have hp : pack 0x1C002000 [(d.toNat, 20), (a.toNat, 14), (l.toNat, 6), (p.toNat, 0)] = N := by rw [hN, pack_cons, pack_cons, pack_cons, pack_cons, pack_nil]
  refine ofCore N (by rw [← hp]; rfl) (by omega) rfl fun wf => ?_
  have kM : bits N 26 6 = 7 := by unfold bits; omega
  have kF : bits N 12 2 = 2 := by unfold bits; omega
  simp only [decodeRow, kM, decodeMajor07, kF, and_self, false_and, Nat.reduceEqDiff, Nat.one_ne_zero, ↓reduceIte, fld_eq N 20 d (by omega), fld_eq N 14 a (by omega), fld_eq N 6 l (by omega), fld_eq N 0 p (by omega)]

theorem F.fadd (d a b f) : F.Statement (.fadd d a b f) := by
  have lt_d := d.isLt; have lt_a := a.isLt; have lt_b := b.isLt; have lt_f := f.isLt
  obtain ⟨N, hN⟩ : ∃ N, N = 0x20000010 + d.toNat * 2 ^ 20 + a.toNat * 2 ^ 14 + b.toNat * 2 ^ 8 + f.toNat * 2 ^ 0 := ⟨_, rfl⟩
  have hp : pack 0x20000010 [(d.toNat, 20), (a.toNat, 14), (b.toNat, 8), (f.toNat, 0)] = N := by rw [hN, pack_cons, pack_cons, pack_cons, pack_cons, pack_nil]
  refine ofCore N (by rw [← hp]; rfl) (by omega) rfl fun wf => ?_
  have kM : bits N 26 6 = 8 := by unfold bits; omega
  have kF : bits N 4 4 = 1 := by unfold bits; omega
  simp only [decodeRow, kM, decodeMajor08, kF, and_self, false_and, Nat.reduceEqDiff, Nat.one_ne_zero, ↓reduceIte, fld_eq N 20 d (by omega), fld_eq N 14 a (by omega), fld_eq N 8 b (by omega), fld_eq N 0 f (by omega)]

theorem F.fsub (d a b f) : F.Statement (.fsub d a b f) := by
  have lt_d := d.isLt; have lt_a := a.isLt; have lt_b := b.isLt; have lt_f := f.isLt
  obtain ⟨N, hN⟩ : ∃ N, N = 0x20000020 + d.toNat * 2 ^ 20 + a.toNat * 2 ^ 14 + b.toNat * 2 ^ 8 + f.toNat * 2 ^ 0 := ⟨_, rfl⟩
  have hp : pack 0x20000020 [(d.toNat, 20), (a.toNat, 14), (b.toNat, 8), (f.toNat, 0)] = N := by rw [hN, pack_cons, pack_cons, pack_cons, pack_cons, pack_nil]
  refine ofCore N (by rw [← hp]; rfl) (by omega) rfl fun wf => ?_
  have kM : bits N 26 6 = 8 := by unfold bits; omega
  have kF : bits N 4 4 = 2 := by unfold bits; omega
  simp only [decodeRow, kM, decodeMajor08, kF, and_self, false_and, Nat.reduceEqDiff, Nat.one_ne_zero, ↓reduceIte, fld_eq N 20 d (by omega), fld_eq N 14 a (by omega), fld_eq N 8 b (by omega), fld_eq N 0 f (by omega)]

theorem F.fmul (d a b f) : F.Statement (.fmul d a b f) := by
  have lt_d := d.isLt; have lt_a := a.isLt; have lt_b := b.isLt; have lt_f := f.isLt
  obtain ⟨N, hN⟩ : ∃ N, N = 0x20000030 + d.toNat * 2 ^ 20 + a.toNat * 2 ^ 14 + b.toNat * 2 ^ 8 + f.toNat * 2 ^ 0 := ⟨_, rfl⟩
  have hp : pack 0x20000030 [(d.toNat, 20), (a.toNat, 14), (b.toNat, 8), (f.toNat, 0)] = N := by rw [hN, pack_cons, pack_cons, pack_cons, pack_cons, pack_nil]
  refine ofCore N (by rw [← hp]; rfl) (by omega) rfl fun wf => ?_
  have kM : bits N 26 6 = 8 := by unfold bits; omega
  have kF : bits N 4 4 = 3 := by unfold bits; omega
  simp only [decodeRow, kM, decodeMajor08, kF, and_self, false_and, Nat.reduceEqDiff, Nat.one_ne_zero, ↓reduceIte, fld_eq N 20 d (by omega), fld_eq N 14 a (by omega), fld_eq N 8 b (by omega), fld_eq N 0 f (by omega)]

theorem F.ffma (d a b f) : F.Statement (.ffma d a b f) := by
  have lt_d := d.isLt; have lt_a := a.isLt; have lt_b := b.isLt; have lt_f := f.isLt
  obtain ⟨N, hN⟩ : ∃ N, N = 0x20000040 + d.toNat * 2 ^ 20 + a.toNat * 2 ^ 14 + b.toNat * 2 ^ 8 + f.toNat * 2 ^ 0 := ⟨_, rfl⟩
  have hp : pack 0x20000040 [(d.toNat, 20), (a.toNat, 14), (b.toNat, 8), (f.toNat, 0)] = N := by rw [hN, pack_cons, pack_cons, pack_cons, pack_cons, pack_nil]
  refine ofCore N (by rw [← hp]; rfl) (by omega) rfl fun wf => ?_
  have kM : bits N 26 6 = 8 := by unfold bits; omega
  have kF : bits N 4 4 = 4 := by unfold bits; omega
  simp only [decodeRow, kM, decodeMajor08, kF, and_self, false_and, Nat.reduceEqDiff, Nat.one_ne_zero, ↓reduceIte, fld_eq N 20 d (by omega), fld_eq N 14 a (by omega), fld_eq N 8 b (by omega), fld_eq N 0 f (by omega)]

theorem F.fmin (d a b f) : F.Statement (.fmin d a b f) := by
  have lt_d := d.isLt; have lt_a := a.isLt; have lt_b := b.isLt; have lt_f := f.isLt
  obtain ⟨N, hN⟩ : ∃ N, N = 0x20000050 + d.toNat * 2 ^ 20 + a.toNat * 2 ^ 14 + b.toNat * 2 ^ 8 + f.toNat * 2 ^ 0 := ⟨_, rfl⟩
  have hp : pack 0x20000050 [(d.toNat, 20), (a.toNat, 14), (b.toNat, 8), (f.toNat, 0)] = N := by rw [hN, pack_cons, pack_cons, pack_cons, pack_cons, pack_nil]
  refine ofCore N (by rw [← hp]; rfl) (by omega) rfl fun wf => ?_
  have kM : bits N 26 6 = 8 := by unfold bits; omega
  have kF : bits N 4 4 = 5 := by unfold bits; omega
  simp only [decodeRow, kM, decodeMajor08, kF, and_self, false_and, Nat.reduceEqDiff, Nat.one_ne_zero, ↓reduceIte, fld_eq N 20 d (by omega), fld_eq N 14 a (by omega), fld_eq N 8 b (by omega), fld_eq N 0 f (by omega)]

theorem F.fmax (d a b f) : F.Statement (.fmax d a b f) := by
  have lt_d := d.isLt; have lt_a := a.isLt; have lt_b := b.isLt; have lt_f := f.isLt
  obtain ⟨N, hN⟩ : ∃ N, N = 0x20000060 + d.toNat * 2 ^ 20 + a.toNat * 2 ^ 14 + b.toNat * 2 ^ 8 + f.toNat * 2 ^ 0 := ⟨_, rfl⟩
  have hp : pack 0x20000060 [(d.toNat, 20), (a.toNat, 14), (b.toNat, 8), (f.toNat, 0)] = N := by rw [hN, pack_cons, pack_cons, pack_cons, pack_cons, pack_nil]
  refine ofCore N (by rw [← hp]; rfl) (by omega) rfl fun wf => ?_
  have kM : bits N 26 6 = 8 := by unfold bits; omega
  have kF : bits N 4 4 = 6 := by unfold bits; omega
  simp only [decodeRow, kM, decodeMajor08, kF, and_self, false_and, Nat.reduceEqDiff, Nat.one_ne_zero, ↓reduceIte, fld_eq N 20 d (by omega), fld_eq N 14 a (by omega), fld_eq N 8 b (by omega), fld_eq N 0 f (by omega)]

theorem F.fcmp (d a b f) : F.Statement (.fcmp d a b f) := by
  have lt_d := d.isLt; have lt_a := a.isLt; have lt_b := b.isLt; have lt_f := f.isLt
  obtain ⟨N, hN⟩ : ∃ N, N = 0x20000070 + d.toNat * 2 ^ 20 + a.toNat * 2 ^ 14 + b.toNat * 2 ^ 8 + f.toNat * 2 ^ 0 := ⟨_, rfl⟩
  have hp : pack 0x20000070 [(d.toNat, 20), (a.toNat, 14), (b.toNat, 8), (f.toNat, 0)] = N := by rw [hN, pack_cons, pack_cons, pack_cons, pack_cons, pack_nil]
  refine ofCore N (by rw [← hp]; rfl) (by omega) rfl fun wf => ?_
  have kM : bits N 26 6 = 8 := by unfold bits; omega
  have kF : bits N 4 4 = 7 := by unfold bits; omega
  simp only [decodeRow, kM, decodeMajor08, kF, and_self, false_and, Nat.reduceEqDiff, Nat.one_ne_zero, ↓reduceIte, fld_eq N 20 d (by omega), fld_eq N 14 a (by omega), fld_eq N 8 b (by omega), fld_eq N 0 f (by omega)]

theorem F.fcvt (d a s z u t) : F.Statement (.fcvt d a s z u t) := by
  have lt_d := d.isLt; have lt_a := a.isLt; have lt_s := s.isLt; have lt_z := z.isLt; have lt_u := u.isLt; have lt_t := t.isLt
  obtain ⟨N, hN⟩ : ∃ N, N = 0x20000080 + d.toNat * 2 ^ 20 + a.toNat * 2 ^ 14 + s.toNat * 2 ^ 10 + z.toNat * 2 ^ 9 + u.toNat * 2 ^ 8 + t.toNat * 2 ^ 0 := ⟨_, rfl⟩
  have hp : pack 0x20000080 [(d.toNat, 20), (a.toNat, 14), (s.toNat, 10), (z.toNat, 9), (u.toNat, 8), (t.toNat, 0)] = N := by rw [hN, pack_cons, pack_cons, pack_cons, pack_cons, pack_cons, pack_cons, pack_nil]
  refine ofCore N (by rw [← hp]; rfl) (by omega) rfl fun wf => ?_
  have kM : bits N 26 6 = 8 := by unfold bits; omega
  have kF : bits N 4 4 = 8 := by unfold bits; omega
  simp only [decodeRow, kM, decodeMajor08, kF, and_self, false_and, Nat.reduceEqDiff, Nat.one_ne_zero, ↓reduceIte, fld_eq N 20 d (by omega), fld_eq N 14 a (by omega), fld_eq N 10 s (by omega), fld_eq N 9 z (by omega), fld_eq N 8 u (by omega), fld_eq N 0 t (by omega)]

theorem F.fabs (d a f) : F.Statement (.fabs d a f) := by
  have lt_d := d.isLt; have lt_a := a.isLt; have lt_f := f.isLt
  obtain ⟨N, hN⟩ : ∃ N, N = 0x20000090 + d.toNat * 2 ^ 20 + a.toNat * 2 ^ 14 + f.toNat * 2 ^ 0 := ⟨_, rfl⟩
  have hp : pack 0x20000090 [(d.toNat, 20), (a.toNat, 14), (f.toNat, 0)] = N := by rw [hN, pack_cons, pack_cons, pack_cons, pack_nil]
  refine ofCore N (by rw [← hp]; rfl) (by omega) rfl fun wf => ?_
  have kM : bits N 26 6 = 8 := by unfold bits; omega
  have kF : bits N 4 4 = 9 := by unfold bits; omega
  have kC1 : bits N 8 6 = 0 := by unfold bits; omega
  simp only [decodeRow, kM, decodeMajor08, kF, kC1, and_self, false_and, Nat.reduceEqDiff, Nat.one_ne_zero, ↓reduceIte, fld_eq N 20 d (by omega), fld_eq N 14 a (by omega), fld_eq N 0 f (by omega)]

theorem F.fneg (d a f) : F.Statement (.fneg d a f) := by
  have lt_d := d.isLt; have lt_a := a.isLt; have lt_f := f.isLt
  obtain ⟨N, hN⟩ : ∃ N, N = 0x200000A0 + d.toNat * 2 ^ 20 + a.toNat * 2 ^ 14 + f.toNat * 2 ^ 0 := ⟨_, rfl⟩
  have hp : pack 0x200000A0 [(d.toNat, 20), (a.toNat, 14), (f.toNat, 0)] = N := by rw [hN, pack_cons, pack_cons, pack_cons, pack_nil]
  refine ofCore N (by rw [← hp]; rfl) (by omega) rfl fun wf => ?_
  have kM : bits N 26 6 = 8 := by unfold bits; omega
  have kF : bits N 4 4 = 10 := by unfold bits; omega
  have kC1 : bits N 8 6 = 0 := by unfold bits; omega
  simp only [decodeRow, kM, decodeMajor08, kF, kC1, and_self, false_and, Nat.reduceEqDiff, Nat.one_ne_zero, ↓reduceIte, fld_eq N 20 d (by omega), fld_eq N 14 a (by omega), fld_eq N 0 f (by omega)]

theorem F.rdcyc (d) : F.Statement (.rdcyc d) := by
  have lt_d := d.isLt
  obtain ⟨N, hN⟩ : ∃ N, N = 0x24000001 + d.toNat * 2 ^ 20 := ⟨_, rfl⟩
  have hp : pack 0x24000001 [(d.toNat, 20)] = N := by rw [hN, pack_cons, pack_nil]
  refine ofCore N (by rw [← hp]; rfl) (by omega) rfl fun wf => ?_
  have kM : bits N 26 6 = 9 := by unfold bits; omega
  have kF : bits N 0 8 = 1 := by unfold bits; omega
  have kC1 : bits N 8 12 = 0 := by unfold bits; omega
  simp only [decodeRow, kM, decodeMajor09, kF, kC1, and_self, false_and, Nat.reduceEqDiff, Nat.one_ne_zero, ↓reduceIte, fld_eq N 20 d (by omega)]

theorem F.rdperf (d a) : F.Statement (.rdperf d a) := by
  have lt_d := d.isLt; have lt_a := a.isLt
  obtain ⟨N, hN⟩ : ∃ N, N = 0x24000002 + d.toNat * 2 ^ 20 + a.toNat * 2 ^ 14 := ⟨_, rfl⟩
  have hp : pack 0x24000002 [(d.toNat, 20), (a.toNat, 14)] = N := by rw [hN, pack_cons, pack_cons, pack_nil]
  refine ofCore N (by rw [← hp]; rfl) (by omega) rfl fun wf => ?_
  have kM : bits N 26 6 = 9 := by unfold bits; omega
  have kF : bits N 0 8 = 2 := by unfold bits; omega
  have kC1 : bits N 8 6 = 0 := by unfold bits; omega
  simp only [decodeRow, kM, decodeMajor09, kF, kC1, and_self, false_and, Nat.reduceEqDiff, Nat.one_ne_zero, ↓reduceIte, fld_eq N 20 d (by omega), fld_eq N 14 a (by omega)]

theorem F.vadd (d a b s l) : F.Statement (.vadd d a b s l) := by
  have lt_d := d.isLt; have lt_a := a.isLt; have lt_b := b.isLt; have lt_s := s.isLt; have lt_l := l.isLt
  obtain ⟨N, hN⟩ : ∃ N, N = 0x40000001 + d.toNat * 2 ^ 22 + a.toNat * 2 ^ 18 + b.toNat * 2 ^ 14 + s.toNat * 2 ^ 13 + l.toNat * 2 ^ 5 := ⟨_, rfl⟩
  have hp : pack 0x40000001 [(d.toNat, 22), (a.toNat, 18), (b.toNat, 14), (s.toNat, 13), (l.toNat, 5)] = N := by rw [hN, pack_cons, pack_cons, pack_cons, pack_cons, pack_cons, pack_nil]
  refine ofCore N (by rw [← hp]; rfl) (by omega) rfl fun wf => ?_
  have kM : bits N 26 6 = 16 := by unfold bits; omega
  have kF : bits N 0 5 = 1 := by unfold bits; omega
  have kC1 : bits N 8 5 = 0 := by unfold bits; omega
  simp only [decodeRow, kM, decodeMajor10, kF, kC1, and_self, false_and, Nat.reduceEqDiff, Nat.one_ne_zero, ↓reduceIte, fld_eq N 22 d (by omega), fld_eq N 18 a (by omega), fld_eq N 14 b (by omega), fld_eq N 13 s (by omega), fld_eq N 5 l (by omega)]

theorem F.vsub (d a b s l) : F.Statement (.vsub d a b s l) := by
  have lt_d := d.isLt; have lt_a := a.isLt; have lt_b := b.isLt; have lt_s := s.isLt; have lt_l := l.isLt
  obtain ⟨N, hN⟩ : ∃ N, N = 0x40000002 + d.toNat * 2 ^ 22 + a.toNat * 2 ^ 18 + b.toNat * 2 ^ 14 + s.toNat * 2 ^ 13 + l.toNat * 2 ^ 5 := ⟨_, rfl⟩
  have hp : pack 0x40000002 [(d.toNat, 22), (a.toNat, 18), (b.toNat, 14), (s.toNat, 13), (l.toNat, 5)] = N := by rw [hN, pack_cons, pack_cons, pack_cons, pack_cons, pack_cons, pack_nil]
  refine ofCore N (by rw [← hp]; rfl) (by omega) rfl fun wf => ?_
  have kM : bits N 26 6 = 16 := by unfold bits; omega
  have kF : bits N 0 5 = 2 := by unfold bits; omega
  have kC1 : bits N 8 5 = 0 := by unfold bits; omega
  simp only [decodeRow, kM, decodeMajor10, kF, kC1, and_self, false_and, Nat.reduceEqDiff, Nat.one_ne_zero, ↓reduceIte, fld_eq N 22 d (by omega), fld_eq N 18 a (by omega), fld_eq N 14 b (by omega), fld_eq N 13 s (by omega), fld_eq N 5 l (by omega)]

theorem F.vmul (d a b s l) : F.Statement (.vmul d a b s l) := by
  have lt_d := d.isLt; have lt_a := a.isLt; have lt_b := b.isLt; have lt_s := s.isLt; have lt_l := l.isLt
  obtain ⟨N, hN⟩ : ∃ N, N = 0x40000003 + d.toNat * 2 ^ 22 + a.toNat * 2 ^ 18 + b.toNat * 2 ^ 14 + s.toNat * 2 ^ 13 + l.toNat * 2 ^ 5 := ⟨_, rfl⟩
  have hp : pack 0x40000003 [(d.toNat, 22), (a.toNat, 18), (b.toNat, 14), (s.toNat, 13), (l.toNat, 5)] = N := by rw [hN, pack_cons, pack_cons, pack_cons, pack_cons, pack_cons, pack_nil]
  refine ofCore N (by rw [← hp]; rfl) (by omega) rfl fun wf => ?_
  have kM : bits N 26 6 = 16 := by unfold bits; omega
  have kF : bits N 0 5 = 3 := by unfold bits; omega
  have kC1 : bits N 8 5 = 0 := by unfold bits; omega
  simp only [decodeRow, kM, decodeMajor10, kF, kC1, and_self, false_and, Nat.reduceEqDiff, Nat.one_ne_zero, ↓reduceIte, fld_eq N 22 d (by omega), fld_eq N 18 a (by omega), fld_eq N 14 b (by omega), fld_eq N 13 s (by omega), fld_eq N 5 l (by omega)]

theorem F.vfma (d a b l) : F.Statement (.vfma d a b l) := by
  have lt_d := d.isLt; have lt_a := a.isLt; have lt_b := b.isLt; have lt_l := l.isLt
  obtain ⟨N, hN⟩ : ∃ N, N = 0x40000004 + d.toNat * 2 ^ 22 + a.toNat * 2 ^ 18 + b.toNat * 2 ^ 14 + l.toNat * 2 ^ 5 := ⟨_, rfl⟩
  have hp : pack 0x40000004 [(d.toNat, 22), (a.toNat, 18), (b.toNat, 14), (l.toNat, 5)] = N := by rw [hN, pack_cons, pack_cons, pack_cons, pack_cons, pack_nil]
  refine ofCore N (by rw [← hp]; rfl) (by omega) rfl fun wf => ?_
  have kM : bits N 26 6 = 16 := by unfold bits; omega
  have kF : bits N 0 5 = 4 := by unfold bits; omega
  have kC1 : bits N 8 6 = 0 := by unfold bits; omega
  simp only [decodeRow, kM, decodeMajor10, kF, kC1, and_self, false_and, Nat.reduceEqDiff, Nat.one_ne_zero, ↓reduceIte, fld_eq N 22 d (by omega), fld_eq N 18 a (by omega), fld_eq N 14 b (by omega), fld_eq N 5 l (by omega)]

theorem F.vmax (d a b l) : F.Statement (.vmax d a b l) := by
  have lt_d := d.isLt; have lt_a := a.isLt; have lt_b := b.isLt; have lt_l := l.isLt
  obtain ⟨N, hN⟩ : ∃ N, N = 0x40000005 + d.toNat * 2 ^ 22 + a.toNat * 2 ^ 18 + b.toNat * 2 ^ 14 + l.toNat * 2 ^ 5 := ⟨_, rfl⟩
  have hp : pack 0x40000005 [(d.toNat, 22), (a.toNat, 18), (b.toNat, 14), (l.toNat, 5)] = N := by rw [hN, pack_cons, pack_cons, pack_cons, pack_cons, pack_nil]
  refine ofCore N (by rw [← hp]; rfl) (by omega) rfl fun wf => ?_
  have kM : bits N 26 6 = 16 := by unfold bits; omega
  have kF : bits N 0 5 = 5 := by unfold bits; omega
  have kC1 : bits N 8 6 = 0 := by unfold bits; omega
  simp only [decodeRow, kM, decodeMajor10, kF, kC1, and_self, false_and, Nat.reduceEqDiff, Nat.one_ne_zero, ↓reduceIte, fld_eq N 22 d (by omega), fld_eq N 18 a (by omega), fld_eq N 14 b (by omega), fld_eq N 5 l (by omega)]

theorem F.vmin (d a b l) : F.Statement (.vmin d a b l) := by
  have lt_d := d.isLt; have lt_a := a.isLt; have lt_b := b.isLt; have lt_l := l.isLt
  obtain ⟨N, hN⟩ : ∃ N, N = 0x40000006 + d.toNat * 2 ^ 22 + a.toNat * 2 ^ 18 + b.toNat * 2 ^ 14 + l.toNat * 2 ^ 5 := ⟨_, rfl⟩
  have hp : pack 0x40000006 [(d.toNat, 22), (a.toNat, 18), (b.toNat, 14), (l.toNat, 5)] = N := by rw [hN, pack_cons, pack_cons, pack_cons, pack_cons, pack_nil]
  refine ofCore N (by rw [← hp]; rfl) (by omega) rfl fun wf => ?_
  have kM : bits N 26 6 = 16 := by unfold bits; omega
  have kF : bits N 0 5 = 6 := by unfold bits; omega
  have kC1 : bits N 8 6 = 0 := by unfold bits; omega
  simp only [decodeRow, kM, decodeMajor10, kF, kC1, and_self, false_and, Nat.reduceEqDiff, Nat.one_ne_zero, ↓reduceIte, fld_eq N 22 d (by omega), fld_eq N 18 a (by omega), fld_eq N 14 b (by omega), fld_eq N 5 l (by omega)]

theorem F.vexp2 (d a l) : F.Statement (.vexp2 d a l) := by
  have lt_d := d.isLt; have lt_a := a.isLt; have lt_l := l.isLt
  obtain ⟨N, hN⟩ : ∃ N, N = 0x40000007 + d.toNat * 2 ^ 22 + a.toNat * 2 ^ 18 + l.toNat * 2 ^ 5 := ⟨_, rfl⟩
  have hp : pack 0x40000007 [(d.toNat, 22), (a.toNat, 18), (l.toNat, 5)] = N := by rw [hN, pack_cons, pack_cons, pack_cons, pack_nil]
  refine ofCore N (by rw [← hp]; rfl) (by omega) rfl fun wf => ?_
  have kM : bits N 26 6 = 16 := by unfold bits; omega
  have kF : bits N 0 5 = 7 := by unfold bits; omega
  have kC1 : bits N 8 10 = 0 := by unfold bits; omega
  simp only [decodeRow, kM, decodeMajor10, kF, kC1, and_self, false_and, Nat.reduceEqDiff, Nat.one_ne_zero, ↓reduceIte, fld_eq N 22 d (by omega), fld_eq N 18 a (by omega), fld_eq N 5 l (by omega)]

theorem F.vrcp (d a l) : F.Statement (.vrcp d a l) := by
  have lt_d := d.isLt; have lt_a := a.isLt; have lt_l := l.isLt
  obtain ⟨N, hN⟩ : ∃ N, N = 0x40000008 + d.toNat * 2 ^ 22 + a.toNat * 2 ^ 18 + l.toNat * 2 ^ 5 := ⟨_, rfl⟩
  have hp : pack 0x40000008 [(d.toNat, 22), (a.toNat, 18), (l.toNat, 5)] = N := by rw [hN, pack_cons, pack_cons, pack_cons, pack_nil]
  refine ofCore N (by rw [← hp]; rfl) (by omega) rfl fun wf => ?_
  have kM : bits N 26 6 = 16 := by unfold bits; omega
  have kF : bits N 0 5 = 8 := by unfold bits; omega
  have kC1 : bits N 8 10 = 0 := by unfold bits; omega
  simp only [decodeRow, kM, decodeMajor10, kF, kC1, and_self, false_and, Nat.reduceEqDiff, Nat.one_ne_zero, ↓reduceIte, fld_eq N 22 d (by omega), fld_eq N 18 a (by omega), fld_eq N 5 l (by omega)]

theorem F.vrsq (d a l) : F.Statement (.vrsq d a l) := by
  have lt_d := d.isLt; have lt_a := a.isLt; have lt_l := l.isLt
  obtain ⟨N, hN⟩ : ∃ N, N = 0x40000009 + d.toNat * 2 ^ 22 + a.toNat * 2 ^ 18 + l.toNat * 2 ^ 5 := ⟨_, rfl⟩
  have hp : pack 0x40000009 [(d.toNat, 22), (a.toNat, 18), (l.toNat, 5)] = N := by rw [hN, pack_cons, pack_cons, pack_cons, pack_nil]
  refine ofCore N (by rw [← hp]; rfl) (by omega) rfl fun wf => ?_
  have kM : bits N 26 6 = 16 := by unfold bits; omega
  have kF : bits N 0 5 = 9 := by unfold bits; omega
  have kC1 : bits N 8 10 = 0 := by unfold bits; omega
  simp only [decodeRow, kM, decodeMajor10, kF, kC1, and_self, false_and, Nat.reduceEqDiff, Nat.one_ne_zero, ↓reduceIte, fld_eq N 22 d (by omega), fld_eq N 18 a (by omega), fld_eq N 5 l (by omega)]

theorem F.vredAdd (a x l) : F.Statement (.vredAdd a x l) := by
  have lt_a := a.isLt; have lt_x := x.isLt; have lt_l := l.isLt
  obtain ⟨N, hN⟩ : ∃ N, N = 0x4000000A + a.toNat * 2 ^ 18 + x.toNat * 2 ^ 8 + l.toNat * 2 ^ 5 := ⟨_, rfl⟩
  have hp : pack 0x4000000A [(a.toNat, 18), (x.toNat, 8), (l.toNat, 5)] = N := by rw [hN, pack_cons, pack_cons, pack_cons, pack_nil]
  refine ofCore N (by rw [← hp]; rfl) (by omega) rfl fun wf => ?_
  have kM : bits N 26 6 = 16 := by unfold bits; omega
  have kF : bits N 0 5 = 10 := by unfold bits; omega
  have kC1 : bits N 14 4 = 0 := by unfold bits; omega
  have kC2 : bits N 22 4 = 0 := by unfold bits; omega
  simp only [decodeRow, kM, decodeMajor10, kF, kC1, kC2, and_self, false_and, Nat.reduceEqDiff, Nat.one_ne_zero, ↓reduceIte, fld_eq N 18 a (by omega), fld_eq N 8 x (by omega), fld_eq N 5 l (by omega)]

theorem F.vredMax (a x l) : F.Statement (.vredMax a x l) := by
  have lt_a := a.isLt; have lt_x := x.isLt; have lt_l := l.isLt
  obtain ⟨N, hN⟩ : ∃ N, N = 0x4000400A + a.toNat * 2 ^ 18 + x.toNat * 2 ^ 8 + l.toNat * 2 ^ 5 := ⟨_, rfl⟩
  have hp : pack 0x4000400A [(a.toNat, 18), (x.toNat, 8), (l.toNat, 5)] = N := by rw [hN, pack_cons, pack_cons, pack_cons, pack_nil]
  refine ofCore N (by rw [← hp]; rfl) (by omega) rfl fun wf => ?_
  have kM : bits N 26 6 = 16 := by unfold bits; omega
  have kF : bits N 0 5 = 10 := by unfold bits; omega
  have kC1 : ¬(bits N 14 4 = 0) := by unfold bits; omega
  have kC2 : bits N 14 4 = 1 := by unfold bits; omega
  have kC3 : bits N 22 4 = 0 := by unfold bits; omega
  simp only [decodeRow, kM, decodeMajor10, kF, kC1, kC2, kC3, and_self, false_and, Nat.reduceEqDiff, Nat.one_ne_zero, ↓reduceIte, fld_eq N 18 a (by omega), fld_eq N 8 x (by omega), fld_eq N 5 l (by omega)]

theorem F.vredMin (a x l) : F.Statement (.vredMin a x l) := by
  have lt_a := a.isLt; have lt_x := x.isLt; have lt_l := l.isLt
  obtain ⟨N, hN⟩ : ∃ N, N = 0x4000800A + a.toNat * 2 ^ 18 + x.toNat * 2 ^ 8 + l.toNat * 2 ^ 5 := ⟨_, rfl⟩
  have hp : pack 0x4000800A [(a.toNat, 18), (x.toNat, 8), (l.toNat, 5)] = N := by rw [hN, pack_cons, pack_cons, pack_cons, pack_nil]
  refine ofCore N (by rw [← hp]; rfl) (by omega) rfl fun wf => ?_
  have kM : bits N 26 6 = 16 := by unfold bits; omega
  have kF : bits N 0 5 = 10 := by unfold bits; omega
  have kC1 : ¬(bits N 14 4 = 0) := by unfold bits; omega
  have kC2 : ¬(bits N 14 4 = 1) := by unfold bits; omega
  have kC3 : bits N 14 4 = 2 := by unfold bits; omega
  have kC4 : bits N 22 4 = 0 := by unfold bits; omega
  simp only [decodeRow, kM, decodeMajor10, kF, kC1, kC2, kC3, kC4, and_self, false_and, Nat.reduceEqDiff, Nat.one_ne_zero, ↓reduceIte, fld_eq N 18 a (by omega), fld_eq N 8 x (by omega), fld_eq N 5 l (by omega)]

theorem F.vcvt (d a u z t l) : F.Statement (.vcvt d a u z t l) := by
  have lt_d := d.isLt; have lt_a := a.isLt; have lt_u := u.isLt; have lt_z := z.isLt; have lt_t := t.isLt; have lt_l := l.isLt
  obtain ⟨N, hN⟩ : ∃ N, N = 0x4000000B + d.toNat * 2 ^ 22 + a.toNat * 2 ^ 18 + u.toNat * 2 ^ 13 + z.toNat * 2 ^ 12 + t.toNat * 2 ^ 8 + l.toNat * 2 ^ 5 := ⟨_, rfl⟩
  have hp : pack 0x4000000B [(d.toNat, 22), (a.toNat, 18), (u.toNat, 13), (z.toNat, 12), (t.toNat, 8), (l.toNat, 5)] = N := by rw [hN, pack_cons, pack_cons, pack_cons, pack_cons, pack_cons, pack_cons, pack_nil]
  refine ofCore N (by rw [← hp]; rfl) (by omega) rfl fun wf => ?_
  have kM : bits N 26 6 = 16 := by unfold bits; omega
  have kF : bits N 0 5 = 11 := by unfold bits; omega
  have kC1 : bits N 14 4 = 0 := by unfold bits; omega
  simp only [decodeRow, kM, decodeMajor10, kF, kC1, and_self, false_and, Nat.reduceEqDiff, Nat.one_ne_zero, ↓reduceIte, fld_eq N 22 d (by omega), fld_eq N 18 a (by omega), fld_eq N 13 u (by omega), fld_eq N 12 z (by omega), fld_eq N 8 t (by omega), fld_eq N 5 l (by omega)]

theorem F.vpack (d a b u z t l) : F.Statement (.vpack d a b u z t l) := by
  have lt_d := d.isLt; have lt_a := a.isLt; have lt_b := b.isLt; have lt_u := u.isLt; have lt_z := z.isLt; have lt_t := t.isLt; have lt_l := l.isLt
  obtain ⟨N, hN⟩ : ∃ N, N = 0x4000000C + d.toNat * 2 ^ 22 + a.toNat * 2 ^ 18 + b.toNat * 2 ^ 14 + u.toNat * 2 ^ 13 + z.toNat * 2 ^ 12 + t.toNat * 2 ^ 8 + l.toNat * 2 ^ 5 := ⟨_, rfl⟩
  have hp : pack 0x4000000C [(d.toNat, 22), (a.toNat, 18), (b.toNat, 14), (u.toNat, 13), (z.toNat, 12), (t.toNat, 8), (l.toNat, 5)] = N := by rw [hN, pack_cons, pack_cons, pack_cons, pack_cons, pack_cons, pack_cons, pack_cons, pack_nil]
  refine ofCore N (by rw [← hp]; rfl) (by omega) rfl fun wf => ?_
  have kM : bits N 26 6 = 16 := by unfold bits; omega
  have kF : bits N 0 5 = 12 := by unfold bits; omega
  simp only [decodeRow, kM, decodeMajor10, kF, and_self, false_and, Nat.reduceEqDiff, Nat.one_ne_zero, ↓reduceIte, fld_eq N 22 d (by omega), fld_eq N 18 a (by omega), fld_eq N 14 b (by omega), fld_eq N 13 u (by omega), fld_eq N 12 z (by omega), fld_eq N 8 t (by omega), fld_eq N 5 l (by omega)]

theorem F.vunpk (d a u z t l) : F.Statement (.vunpk d a u z t l) := by
  have lt_d := d.isLt; have lt_a := a.isLt; have lt_u := u.isLt; have lt_z := z.isLt; have lt_t := t.isLt; have lt_l := l.isLt
  obtain ⟨N, hN⟩ : ∃ N, N = 0x4000000D + d.toNat * 2 ^ 22 + a.toNat * 2 ^ 18 + u.toNat * 2 ^ 13 + z.toNat * 2 ^ 12 + t.toNat * 2 ^ 8 + l.toNat * 2 ^ 5 := ⟨_, rfl⟩
  have hp : pack 0x4000000D [(d.toNat, 22), (a.toNat, 18), (u.toNat, 13), (z.toNat, 12), (t.toNat, 8), (l.toNat, 5)] = N := by rw [hN, pack_cons, pack_cons, pack_cons, pack_cons, pack_cons, pack_cons, pack_nil]
  refine ofCore N (by rw [← hp]; rfl) (by omega) rfl fun wf => ?_
  have kM : bits N 26 6 = 16 := by unfold bits; omega
  have kF : bits N 0 5 = 13 := by unfold bits; omega
  have kC1 : bits N 14 4 = 0 := by unfold bits; omega
  simp only [decodeRow, kM, decodeMajor10, kF, kC1, and_self, false_and, Nat.reduceEqDiff, Nat.one_ne_zero, ↓reduceIte, fld_eq N 22 d (by omega), fld_eq N 18 a (by omega), fld_eq N 13 u (by omega), fld_eq N 12 z (by omega), fld_eq N 8 t (by omega), fld_eq N 5 l (by omega)]

theorem F.vsel (d a b m l) : F.Statement (.vsel d a b m l) := by
  have lt_d := d.isLt; have lt_a := a.isLt; have lt_b := b.isLt; have lt_m := m.isLt; have lt_l := l.isLt
  obtain ⟨N, hN⟩ : ∃ N, N = 0x4000000E + d.toNat * 2 ^ 22 + a.toNat * 2 ^ 18 + b.toNat * 2 ^ 14 + m.toNat * 2 ^ 8 + l.toNat * 2 ^ 5 := ⟨_, rfl⟩
  have hp : pack 0x4000000E [(d.toNat, 22), (a.toNat, 18), (b.toNat, 14), (m.toNat, 8), (l.toNat, 5)] = N := by rw [hN, pack_cons, pack_cons, pack_cons, pack_cons, pack_cons, pack_nil]
  refine ofCore N (by rw [← hp]; rfl) (by omega) rfl fun wf => ?_
  have kM : bits N 26 6 = 16 := by unfold bits; omega
  have kF : bits N 0 5 = 14 := by unfold bits; omega
  have kC1 : bits N 12 2 = 0 := by unfold bits; omega
  simp only [decodeRow, kM, decodeMajor10, kF, kC1, and_self, false_and, Nat.reduceEqDiff, Nat.one_ne_zero, ↓reduceIte, fld_eq N 22 d (by omega), fld_eq N 18 a (by omega), fld_eq N 14 b (by omega), fld_eq N 8 m (by omega), fld_eq N 5 l (by omega)]

theorem F.vshf (d a b l) : F.Statement (.vshf d a b l) := by
  have lt_d := d.isLt; have lt_a := a.isLt; have lt_b := b.isLt; have lt_l := l.isLt
  obtain ⟨N, hN⟩ : ∃ N, N = 0x4000000F + d.toNat * 2 ^ 22 + a.toNat * 2 ^ 18 + b.toNat * 2 ^ 14 + l.toNat * 2 ^ 5 := ⟨_, rfl⟩
  have hp : pack 0x4000000F [(d.toNat, 22), (a.toNat, 18), (b.toNat, 14), (l.toNat, 5)] = N := by rw [hN, pack_cons, pack_cons, pack_cons, pack_cons, pack_nil]
  refine ofCore N (by rw [← hp]; rfl) (by omega) rfl fun wf => ?_
  have kM : bits N 26 6 = 16 := by unfold bits; omega
  have kF : bits N 0 5 = 15 := by unfold bits; omega
  have kC1 : bits N 8 6 = 0 := by unfold bits; omega
  simp only [decodeRow, kM, decodeMajor10, kF, kC1, and_self, false_and, Nat.reduceEqDiff, Nat.one_ne_zero, ↓reduceIte, fld_eq N 22 d (by omega), fld_eq N 18 a (by omega), fld_eq N 14 b (by omega), fld_eq N 5 l (by omega)]

theorem F.vbcast (d x l) : F.Statement (.vbcast d x l) := by
  have lt_d := d.isLt; have lt_x := x.isLt; have lt_l := l.isLt
  obtain ⟨N, hN⟩ : ∃ N, N = 0x40000010 + d.toNat * 2 ^ 22 + x.toNat * 2 ^ 8 + l.toNat * 2 ^ 5 := ⟨_, rfl⟩
  have hp : pack 0x40000010 [(d.toNat, 22), (x.toNat, 8), (l.toNat, 5)] = N := by rw [hN, pack_cons, pack_cons, pack_cons, pack_nil]
  refine ofCore N (by rw [← hp]; rfl) (by omega) rfl fun wf => ?_
  have kM : bits N 26 6 = 16 := by unfold bits; omega
  have kF : bits N 0 5 = 16 := by unfold bits; omega
  have kC1 : bits N 14 8 = 0 := by unfold bits; omega
  simp only [decodeRow, kM, decodeMajor10, kF, kC1, and_self, false_and, Nat.reduceEqDiff, Nat.one_ne_zero, ↓reduceIte, fld_eq N 22 d (by omega), fld_eq N 8 x (by omega), fld_eq N 5 l (by omega)]

theorem F.vcmp (d a b c l) : F.Statement (.vcmp d a b c l) := by
  have lt_d := d.isLt; have lt_a := a.isLt; have lt_b := b.isLt; have lt_c := c.isLt; have lt_l := l.isLt
  obtain ⟨N, hN⟩ : ∃ N, N = 0x40000011 + d.toNat * 2 ^ 22 + a.toNat * 2 ^ 18 + b.toNat * 2 ^ 14 + c.toNat * 2 ^ 8 + l.toNat * 2 ^ 5 := ⟨_, rfl⟩
  have hp : pack 0x40000011 [(d.toNat, 22), (a.toNat, 18), (b.toNat, 14), (c.toNat, 8), (l.toNat, 5)] = N := by rw [hN, pack_cons, pack_cons, pack_cons, pack_cons, pack_cons, pack_nil]
  refine ofCore N (by rw [← hp]; rfl) (by omega) rfl fun wf => ?_
  have kM : bits N 26 6 = 16 := by unfold bits; omega
  have kF : bits N 0 5 = 17 := by unfold bits; omega
  have kC1 : bits N 10 4 = 0 := by unfold bits; omega
  simp only [decodeRow, kM, decodeMajor10, kF, kC1, and_self, false_and, Nat.reduceEqDiff, Nat.one_ne_zero, ↓reduceIte, fld_eq N 22 d (by omega), fld_eq N 18 a (by omega), fld_eq N 14 b (by omega), fld_eq N 8 c (by omega), fld_eq N 5 l (by omega)]

theorem F.mms (c a b t m s) : F.Statement (.mms c a b t m s) := by
  have lt_c := c.isLt; have lt_a := a.isLt; have lt_b := b.isLt; have lt_t := t.isLt; have lt_m := m.isLt; have lt_s := s.isLt
  obtain ⟨N, hN⟩ : ∃ N, N = 0x44000000 + c.toNat * 2 ^ 24 + a.toNat * 2 ^ 18 + b.toNat * 2 ^ 12 + t.toNat * 2 ^ 11 + m.toNat * 2 ^ 8 + s.toNat * 2 ^ 0 := ⟨_, rfl⟩
  have hp : pack 0x44000000 [(c.toNat, 24), (a.toNat, 18), (b.toNat, 12), (t.toNat, 11), (m.toNat, 8), (s.toNat, 0)] = N := by rw [hN, pack_cons, pack_cons, pack_cons, pack_cons, pack_cons, pack_cons, pack_nil]
  refine ofCore N (by rw [← hp]; rfl) (by omega) rfl fun wf => ?_
  have kM : bits N 26 6 = 17 := by unfold bits; omega
  have kF : bits N 10 1 = 0 := by unfold bits; omega
  have kC1 : bits N 3 5 = 0 := by unfold bits; omega
  simp only [decodeRow, kM, decodeMajor11, kF, kC1, and_self, false_and, Nat.reduceEqDiff, Nat.one_ne_zero, ↓reduceIte, fld_eq N 24 c (by omega), fld_eq N 18 a (by omega), fld_eq N 12 b (by omega), fld_eq N 11 t (by omega), fld_eq N 8 m (by omega), fld_eq N 0 s (by omega)]

theorem F.mmss (c a b t m s) : F.Statement (.mmss c a b t m s) := by
  have lt_c := c.isLt; have lt_a := a.isLt; have lt_b := b.isLt; have lt_t := t.isLt; have lt_m := m.isLt; have lt_s := s.isLt
  obtain ⟨N, hN⟩ : ∃ N, N = 0x44000400 + c.toNat * 2 ^ 24 + a.toNat * 2 ^ 18 + b.toNat * 2 ^ 12 + t.toNat * 2 ^ 11 + m.toNat * 2 ^ 8 + s.toNat * 2 ^ 0 := ⟨_, rfl⟩
  have hp : pack 0x44000400 [(c.toNat, 24), (a.toNat, 18), (b.toNat, 12), (t.toNat, 11), (m.toNat, 8), (s.toNat, 0)] = N := by rw [hN, pack_cons, pack_cons, pack_cons, pack_cons, pack_cons, pack_cons, pack_nil]
  refine ofCore N (by rw [← hp]; rfl) (by omega) rfl fun wf => ?_
  have kM : bits N 26 6 = 17 := by unfold bits; omega
  have kF : bits N 10 1 = 1 := by unfold bits; omega
  have kC1 : bits N 3 5 = 0 := by unfold bits; omega
  simp only [decodeRow, kM, decodeMajor11, kF, kC1, and_self, false_and, Nat.reduceEqDiff, Nat.one_ne_zero, ↓reduceIte, fld_eq N 24 c (by omega), fld_eq N 18 a (by omega), fld_eq N 12 b (by omega), fld_eq N 11 t (by omega), fld_eq N 8 m (by omega), fld_eq N 0 s (by omega)]

theorem F.ldstat (b t) : F.Statement (.ldstat b t) := by
  have lt_b := b.isLt; have lt_t := t.isLt
  obtain ⟨N, hN⟩ : ∃ N, N = 0x48000000 + b.toNat * 2 ^ 12 + t.toNat * 2 ^ 11 := ⟨_, rfl⟩
  have hp : pack 0x48000000 [(b.toNat, 12), (t.toNat, 11)] = N := by rw [hN, pack_cons, pack_cons, pack_nil]
  refine ofCore N (by rw [← hp]; rfl) (by omega) rfl fun wf => ?_
  have kM : bits N 26 6 = 18 := by unfold bits; omega
  have kC1 : bits N 0 11 = 0 := by unfold bits; omega
  have kC2 : bits N 18 8 = 0 := by unfold bits; omega
  simp only [decodeRow, kM, decodeMajor12, kC1, kC2, and_self, false_and, Nat.reduceEqDiff, Nat.one_ne_zero, ↓reduceIte, fld_eq N 12 b (by omega), fld_eq N 11 t (by omega)]

theorem F.tidset (t) : F.Statement (.tidset t) := by
  have lt_t := t.isLt
  obtain ⟨N, hN⟩ : ∃ N, N = 0x4C000001 + t.toNat * 2 ^ 20 := ⟨_, rfl⟩
  have hp : pack 0x4C000001 [(t.toNat, 20)] = N := by rw [hN, pack_cons, pack_nil]
  refine ofCore N (by rw [← hp]; rfl) (by omega) rfl fun wf => ?_
  have kM : bits N 26 6 = 19 := by unfold bits; omega
  have kF : bits N 0 8 = 1 := by unfold bits; omega
  have kC1 : bits N 8 12 = 0 := by unfold bits; omega
  simp only [decodeRow, kM, decodeMajor13, kF, kC1, and_self, false_and, Nat.reduceEqDiff, Nat.one_ne_zero, ↓reduceIte, fld_eq N 20 t (by omega)]

theorem F.tidget (d t n) : F.Statement (.tidget d t n) := by
  have lt_d := d.isLt; have lt_t := t.isLt; have lt_n := n.isLt
  obtain ⟨N, hN⟩ : ∃ N, N = 0x4C000002 + d.toNat * 2 ^ 20 + t.toNat * 2 ^ 14 + n.toNat * 2 ^ 8 := ⟨_, rfl⟩
  have hp : pack 0x4C000002 [(d.toNat, 20), (t.toNat, 14), (n.toNat, 8)] = N := by rw [hN, pack_cons, pack_cons, pack_cons, pack_nil]
  refine ofCore N (by rw [← hp]; rfl) (by omega) rfl fun wf => ?_
  have kM : bits N 26 6 = 19 := by unfold bits; omega
  have kF : bits N 0 8 = 2 := by unfold bits; omega
  have kC1 : bits N 10 4 = 0 := by unfold bits; omega
  simp only [decodeRow, kM, decodeMajor13, kF, kC1, and_self, false_and, Nat.reduceEqDiff, Nat.one_ne_zero, ↓reduceIte, fld_eq N 20 d (by omega), fld_eq N 14 t (by omega), fld_eq N 8 n (by omega)]

theorem F.swapstat (s) : F.Statement (.swapstat s) := by
  have lt_s := s.isLt
  obtain ⟨N, hN⟩ : ∃ N, N = 0x4C000003 + s.toNat * 2 ^ 8 := ⟨_, rfl⟩
  have hp : pack 0x4C000003 [(s.toNat, 8)] = N := by rw [hN, pack_cons, pack_nil]
  refine ofCore N (by rw [← hp]; rfl) (by omega) rfl fun wf => ?_
  have kM : bits N 26 6 = 19 := by unfold bits; omega
  have kF : bits N 0 8 = 3 := by unfold bits; omega
  have kC1 : bits N 11 15 = 0 := by unfold bits; omega
  simp only [decodeRow, kM, decodeMajor13, kF, kC1, and_self, false_and, Nat.reduceEqDiff, Nat.one_ne_zero, ↓reduceIte, fld_eq N 8 s (by omega)]

theorem F.accz (c m s) : F.Statement (.accz c m s) := by
  have lt_c := c.isLt; have lt_m := m.isLt; have lt_s := s.isLt
  obtain ⟨N, hN⟩ : ∃ N, N = 0x4C000004 + c.toNat * 2 ^ 20 + m.toNat * 2 ^ 11 + s.toNat * 2 ^ 8 := ⟨_, rfl⟩
  have hp : pack 0x4C000004 [(c.toNat, 20), (m.toNat, 11), (s.toNat, 8)] = N := by rw [hN, pack_cons, pack_cons, pack_cons, pack_nil]
  refine ofCore N (by rw [← hp]; rfl) (by omega) rfl fun wf => ?_
  have kM : bits N 26 6 = 19 := by unfold bits; omega
  have kZ : m.toNat ≠ 3 := by
    intro e; have e : m = 3#2 := BitVec.eq_of_toNat_eq e; subst e; change ((3#2 != 3) && ((3#2 != 2) || c.toNat % 2 == 0)) = true at wf; simp at wf
  have kF : bits N 0 8 = 4 := by unfold bits; omega
  have kC1 : ¬(bits N 11 15 = 3) := by unfold bits; omega
  have kC2 : bits N 13 7 = 0 := by unfold bits; omega
  have kC3 : bits N 22 4 = 0 := by unfold bits; omega
  simp only [decodeRow, kM, decodeMajor13, kF, kC1, kC2, kC3, and_self, false_and, Nat.reduceEqDiff, Nat.one_ne_zero, ↓reduceIte, fld_eq N 20 c (by omega), fld_eq N 11 m (by omega), fld_eq N 8 s (by omega)]

theorem F.acczMark (s) : F.Statement (.acczMark s) := by
  have lt_s := s.isLt
  obtain ⟨N, hN⟩ : ∃ N, N = 0x4C001804 + s.toNat * 2 ^ 8 := ⟨_, rfl⟩
  have hp : pack 0x4C001804 [(s.toNat, 8)] = N := by rw [hN, pack_cons, pack_nil]
  refine ofCore N (by rw [← hp]; rfl) (by omega) rfl fun wf => ?_
  have kM : bits N 26 6 = 19 := by unfold bits; omega
  have kF : bits N 0 8 = 4 := by unfold bits; omega
  have kC1 : bits N 11 15 = 3 := by unfold bits; omega
  simp only [decodeRow, kM, decodeMajor13, kF, kC1, and_self, false_and, Nat.reduceEqDiff, Nat.one_ne_zero, ↓reduceIte, fld_eq N 8 s (by omega)]

theorem F.accld (c t s) : F.Statement (.accld c t s) := by
  have lt_c := c.isLt; have lt_t := t.isLt; have lt_s := s.isLt
  obtain ⟨N, hN⟩ : ∃ N, N = 0x4C000005 + c.toNat * 2 ^ 20 + t.toNat * 2 ^ 14 + s.toNat * 2 ^ 8 := ⟨_, rfl⟩
  have hp : pack 0x4C000005 [(c.toNat, 20), (t.toNat, 14), (s.toNat, 8)] = N := by rw [hN, pack_cons, pack_cons, pack_cons, pack_nil]
  refine ofCore N (by rw [← hp]; rfl) (by omega) rfl fun wf => ?_
  have kM : bits N 26 6 = 19 := by unfold bits; omega
  have kF : bits N 0 8 = 5 := by unfold bits; omega
  have kC1 : bits N 11 3 = 0 := by unfold bits; omega
  have kC2 : bits N 22 4 = 0 := by unfold bits; omega
  simp only [decodeRow, kM, decodeMajor13, kF, kC1, kC2, and_self, false_and, Nat.reduceEqDiff, Nat.one_ne_zero, ↓reduceIte, fld_eq N 20 c (by omega), fld_eq N 14 t (by omega), fld_eq N 8 s (by omega)]

theorem F.accst (t c s) : F.Statement (.accst t c s) := by
  have lt_t := t.isLt; have lt_c := c.isLt; have lt_s := s.isLt
  obtain ⟨N, hN⟩ : ∃ N, N = 0x4C000006 + t.toNat * 2 ^ 20 + c.toNat * 2 ^ 14 + s.toNat * 2 ^ 8 := ⟨_, rfl⟩
  have hp : pack 0x4C000006 [(t.toNat, 20), (c.toNat, 14), (s.toNat, 8)] = N := by rw [hN, pack_cons, pack_cons, pack_cons, pack_nil]
  refine ofCore N (by rw [← hp]; rfl) (by omega) rfl fun wf => ?_
  have kM : bits N 26 6 = 19 := by unfold bits; omega
  have kF : bits N 0 8 = 6 := by unfold bits; omega
  have kC1 : bits N 11 3 = 0 := by unfold bits; omega
  have kC2 : bits N 16 4 = 0 := by unfold bits; omega
  simp only [decodeRow, kM, decodeMajor13, kF, kC1, kC2, and_self, false_and, Nat.reduceEqDiff, Nat.one_ne_zero, ↓reduceIte, fld_eq N 20 t (by omega), fld_eq N 14 c (by omega), fld_eq N 8 s (by omega)]

theorem F.accadd (d e s) : F.Statement (.accadd d e s) := by
  have lt_d := d.isLt; have lt_e := e.isLt; have lt_s := s.isLt
  obtain ⟨N, hN⟩ : ∃ N, N = 0x4C000007 + d.toNat * 2 ^ 20 + e.toNat * 2 ^ 14 + s.toNat * 2 ^ 8 := ⟨_, rfl⟩
  have hp : pack 0x4C000007 [(d.toNat, 20), (e.toNat, 14), (s.toNat, 8)] = N := by rw [hN, pack_cons, pack_cons, pack_cons, pack_nil]
  refine ofCore N (by rw [← hp]; rfl) (by omega) rfl fun wf => ?_
  have kM : bits N 26 6 = 19 := by unfold bits; omega
  have kF : bits N 0 8 = 7 := by unfold bits; omega
  have kC1 : bits N 11 3 = 0 := by unfold bits; omega
  have kC2 : bits N 16 4 = 0 := by unfold bits; omega
  have kC3 : bits N 22 4 = 0 := by unfold bits; omega
  simp only [decodeRow, kM, decodeMajor13, kF, kC1, kC2, kC3, and_self, false_and, Nat.reduceEqDiff, Nat.one_ne_zero, ↓reduceIte, fld_eq N 20 d (by omega), fld_eq N 14 e (by omega), fld_eq N 8 s (by omega)]

theorem F.scalek (d a b) : F.Statement (.scalek d a b) := by
  have lt_d := d.isLt; have lt_a := a.isLt; have lt_b := b.isLt
  obtain ⟨N, hN⟩ : ∃ N, N = 0x4C000008 + d.toNat * 2 ^ 20 + a.toNat * 2 ^ 14 + b.toNat * 2 ^ 8 := ⟨_, rfl⟩
  have hp : pack 0x4C000008 [(d.toNat, 20), (a.toNat, 14), (b.toNat, 8)] = N := by rw [hN, pack_cons, pack_cons, pack_cons, pack_nil]
  refine ofCore N (by rw [← hp]; rfl) (by omega) rfl fun wf => ?_
  have kM : bits N 26 6 = 19 := by unfold bits; omega
  have kF : bits N 0 8 = 8 := by unfold bits; omega
  simp only [decodeRow, kM, decodeMajor13, kF, and_self, false_and, Nat.reduceEqDiff, Nat.one_ne_zero, ↓reduceIte, fld_eq N 20 d (by omega), fld_eq N 14 a (by omega), fld_eq N 8 b (by omega)]

theorem F.scalew (d) : F.Statement (.scalew d) := by
  have lt_d := d.isLt
  obtain ⟨N, hN⟩ : ∃ N, N = 0x4C000009 + d.toNat * 2 ^ 20 := ⟨_, rfl⟩
  have hp : pack 0x4C000009 [(d.toNat, 20)] = N := by rw [hN, pack_cons, pack_nil]
  refine ofCore N (by rw [← hp]; rfl) (by omega) rfl fun wf => ?_
  have kM : bits N 26 6 = 19 := by unfold bits; omega
  have kF : bits N 0 8 = 9 := by unfold bits; omega
  have kC1 : bits N 8 12 = 0 := by unfold bits; omega
  simp only [decodeRow, kM, decodeMajor13, kF, kC1, and_self, false_and, Nat.reduceEqDiff, Nat.one_ne_zero, ↓reduceIte, fld_eq N 20 d (by omega)]

theorem F.mcmd (s a b) : F.Statement (.mcmd s a b) := by
  have lt_s := s.isLt; have lt_a := a.isLt; have lt_b := b.isLt
  obtain ⟨N, hN⟩ : ∃ N, N = 0x4C00000A + s.toNat * 2 ^ 20 + a.toNat * 2 ^ 14 + b.toNat * 2 ^ 8 := ⟨_, rfl⟩
  have hp : pack 0x4C00000A [(s.toNat, 20), (a.toNat, 14), (b.toNat, 8)] = N := by rw [hN, pack_cons, pack_cons, pack_cons, pack_nil]
  refine ofCore N (by rw [← hp]; rfl) (by omega) rfl fun wf => ?_
  have kM : bits N 26 6 = 19 := by unfold bits; omega
  have kF : bits N 0 8 = 10 := by unfold bits; omega
  have kC1 : bits N 23 3 = 0 := by unfold bits; omega
  simp only [decodeRow, kM, decodeMajor13, kF, kC1, and_self, false_and, Nat.reduceEqDiff, Nat.one_ne_zero, ↓reduceIte, fld_eq N 20 s (by omega), fld_eq N 14 a (by omega), fld_eq N 8 b (by omega)]

theorem F.mcap (d a) : F.Statement (.mcap d a) := by
  have lt_d := d.isLt; have lt_a := a.isLt
  obtain ⟨N, hN⟩ : ∃ N, N = 0x4C00000B + d.toNat * 2 ^ 20 + a.toNat * 2 ^ 14 := ⟨_, rfl⟩
  have hp : pack 0x4C00000B [(d.toNat, 20), (a.toNat, 14)] = N := by rw [hN, pack_cons, pack_cons, pack_nil]
  refine ofCore N (by rw [← hp]; rfl) (by omega) rfl fun wf => ?_
  have kM : bits N 26 6 = 19 := by unfold bits; omega
  have kF : bits N 0 8 = 11 := by unfold bits; omega
  have kC1 : bits N 8 6 = 0 := by unfold bits; omega
  simp only [decodeRow, kM, decodeMajor13, kF, kC1, and_self, false_and, Nat.reduceEqDiff, Nat.one_ne_zero, ↓reduceIte, fld_eq N 20 d (by omega), fld_eq N 14 a (by omega)]

theorem F.tcvt (d a z r s) : F.Statement (.tcvt d a z r s) := by
  have lt_d := d.isLt; have lt_a := a.isLt; have lt_z := z.isLt; have lt_r := r.isLt; have lt_s := s.isLt
  obtain ⟨N, hN⟩ : ∃ N, N = 0x4C00000C + d.toNat * 2 ^ 20 + a.toNat * 2 ^ 14 + z.toNat * 2 ^ 12 + r.toNat * 2 ^ 11 + s.toNat * 2 ^ 8 := ⟨_, rfl⟩
  have hp : pack 0x4C00000C [(d.toNat, 20), (a.toNat, 14), (z.toNat, 12), (r.toNat, 11), (s.toNat, 8)] = N := by rw [hN, pack_cons, pack_cons, pack_cons, pack_cons, pack_cons, pack_nil]
  refine ofCore N (by rw [← hp]; rfl) (by omega) rfl fun wf => ?_
  have kM : bits N 26 6 = 19 := by unfold bits; omega
  have kF : bits N 0 8 = 12 := by unfold bits; omega
  have kC1 : bits N 13 1 = 0 := by unfold bits; omega
  simp only [decodeRow, kM, decodeMajor13, kF, kC1, and_self, false_and, Nat.reduceEqDiff, Nat.one_ne_zero, ↓reduceIte, fld_eq N 20 d (by omega), fld_eq N 14 a (by omega), fld_eq N 12 z (by omega), fld_eq N 11 r (by omega), fld_eq N 8 s (by omega)]

theorem F.tcopy (d a r s) : F.Statement (.tcopy d a r s) := by
  have lt_d := d.isLt; have lt_a := a.isLt; have lt_r := r.isLt; have lt_s := s.isLt
  obtain ⟨N, hN⟩ : ∃ N, N = 0x4C00000D + d.toNat * 2 ^ 20 + a.toNat * 2 ^ 14 + r.toNat * 2 ^ 11 + s.toNat * 2 ^ 8 := ⟨_, rfl⟩
  have hp : pack 0x4C00000D [(d.toNat, 20), (a.toNat, 14), (r.toNat, 11), (s.toNat, 8)] = N := by rw [hN, pack_cons, pack_cons, pack_cons, pack_cons, pack_nil]
  refine ofCore N (by rw [← hp]; rfl) (by omega) rfl fun wf => ?_
  have kM : bits N 26 6 = 19 := by unfold bits; omega
  have kF : bits N 0 8 = 13 := by unfold bits; omega
  have kC1 : bits N 12 2 = 0 := by unfold bits; omega
  simp only [decodeRow, kM, decodeMajor13, kF, kC1, and_self, false_and, Nat.reduceEqDiff, Nat.one_ne_zero, ↓reduceIte, fld_eq N 20 d (by omega), fld_eq N 14 a (by omega), fld_eq N 11 r (by omega), fld_eq N 8 s (by omega)]

theorem F.permit (d a) : F.Statement (.permit d a) := by
  have lt_d := d.isLt; have lt_a := a.isLt
  obtain ⟨N, hN⟩ : ∃ N, N = 0x4C00000E + d.toNat * 2 ^ 20 + a.toNat * 2 ^ 14 := ⟨_, rfl⟩
  have hp : pack 0x4C00000E [(d.toNat, 20), (a.toNat, 14)] = N := by rw [hN, pack_cons, pack_cons, pack_nil]
  refine ofCore N (by rw [← hp]; rfl) (by omega) rfl fun wf => ?_
  have kM : bits N 26 6 = 19 := by unfold bits; omega
  have kF : bits N 0 8 = 14 := by unfold bits; omega
  have kC1 : bits N 8 6 = 0 := by unfold bits; omega
  simp only [decodeRow, kM, decodeMajor13, kF, kC1, and_self, false_and, Nat.reduceEqDiff, Nat.one_ne_zero, ↓reduceIte, fld_eq N 20 d (by omega), fld_eq N 14 a (by omega)]

theorem F.permrel (d a) : F.Statement (.permrel d a) := by
  have lt_d := d.isLt; have lt_a := a.isLt
  obtain ⟨N, hN⟩ : ∃ N, N = 0x4C00000F + d.toNat * 2 ^ 20 + a.toNat * 2 ^ 14 := ⟨_, rfl⟩
  have hp : pack 0x4C00000F [(d.toNat, 20), (a.toNat, 14)] = N := by rw [hN, pack_cons, pack_cons, pack_nil]
  refine ofCore N (by rw [← hp]; rfl) (by omega) rfl fun wf => ?_
  have kM : bits N 26 6 = 19 := by unfold bits; omega
  have kF : bits N 0 8 = 15 := by unfold bits; omega
  have kC1 : bits N 8 6 = 0 := by unfold bits; omega
  simp only [decodeRow, kM, decodeMajor13, kF, kC1, and_self, false_and, Nat.reduceEqDiff, Nat.one_ne_zero, ↓reduceIte, fld_eq N 20 d (by omega), fld_eq N 14 a (by omega)]

theorem F.aadd (d a b) : F.Statement (.aadd d a b) := by
  have lt_d := d.isLt; have lt_a := a.isLt; have lt_b := b.isLt
  obtain ⟨N, hN⟩ : ∃ N, N = 0x80000001 + d.toNat * 2 ^ 20 + a.toNat * 2 ^ 14 + b.toNat * 2 ^ 8 := ⟨_, rfl⟩
  have hp : pack 0x80000001 [(d.toNat, 20), (a.toNat, 14), (b.toNat, 8)] = N := by rw [hN, pack_cons, pack_cons, pack_cons, pack_nil]
  refine ofCore N (by rw [← hp]; rfl) (by omega) rfl fun wf => ?_
  have kM : bits N 26 6 = 32 := by unfold bits; omega
  have kF : bits N 0 8 = 1 := by unfold bits; omega
  have kC1 : bits N 12 2 = 0 := by unfold bits; omega
  have kC2 : bits N 18 2 = 0 := by unfold bits; omega
  have kC3 : bits N 24 2 = 0 := by unfold bits; omega
  simp only [decodeRow, kM, decodeMajor20, kF, kC1, kC2, kC3, and_self, false_and, Nat.reduceEqDiff, Nat.one_ne_zero, ↓reduceIte, fld_eq N 20 d (by omega), fld_eq N 14 a (by omega), fld_eq N 8 b (by omega)]

theorem F.asub (d a b) : F.Statement (.asub d a b) := by
  have lt_d := d.isLt; have lt_a := a.isLt; have lt_b := b.isLt
  obtain ⟨N, hN⟩ : ∃ N, N = 0x80000002 + d.toNat * 2 ^ 20 + a.toNat * 2 ^ 14 + b.toNat * 2 ^ 8 := ⟨_, rfl⟩
  have hp : pack 0x80000002 [(d.toNat, 20), (a.toNat, 14), (b.toNat, 8)] = N := by rw [hN, pack_cons, pack_cons, pack_cons, pack_nil]
  refine ofCore N (by rw [← hp]; rfl) (by omega) rfl fun wf => ?_
  have kM : bits N 26 6 = 32 := by unfold bits; omega
  have kF : bits N 0 8 = 2 := by unfold bits; omega
  have kC1 : bits N 12 2 = 0 := by unfold bits; omega
  have kC2 : bits N 18 2 = 0 := by unfold bits; omega
  have kC3 : bits N 24 2 = 0 := by unfold bits; omega
  simp only [decodeRow, kM, decodeMajor20, kF, kC1, kC2, kC3, and_self, false_and, Nat.reduceEqDiff, Nat.one_ne_zero, ↓reduceIte, fld_eq N 20 d (by omega), fld_eq N 14 a (by omega), fld_eq N 8 b (by omega)]

theorem F.amov (d a) : F.Statement (.amov d a) := by
  have lt_d := d.isLt; have lt_a := a.isLt
  obtain ⟨N, hN⟩ : ∃ N, N = 0x80000003 + d.toNat * 2 ^ 20 + a.toNat * 2 ^ 14 := ⟨_, rfl⟩
  have hp : pack 0x80000003 [(d.toNat, 20), (a.toNat, 14)] = N := by rw [hN, pack_cons, pack_cons, pack_nil]
  refine ofCore N (by rw [← hp]; rfl) (by omega) rfl fun wf => ?_
  have kM : bits N 26 6 = 32 := by unfold bits; omega
  have kF : bits N 0 8 = 3 := by unfold bits; omega
  have kC1 : bits N 8 6 = 0 := by unfold bits; omega
  have kC2 : bits N 18 2 = 0 := by unfold bits; omega
  have kC3 : bits N 24 2 = 0 := by unfold bits; omega
  simp only [decodeRow, kM, decodeMajor20, kF, kC1, kC2, kC3, and_self, false_and, Nat.reduceEqDiff, Nat.one_ne_zero, ↓reduceIte, fld_eq N 20 d (by omega), fld_eq N 14 a (by omega)]

theorem F.acmpEq (d a b) : F.Statement (.acmpEq d a b) := by
  have lt_d := d.isLt; have lt_a := a.isLt; have lt_b := b.isLt
  obtain ⟨N, hN⟩ : ∃ N, N = 0x80000004 + d.toNat * 2 ^ 20 + a.toNat * 2 ^ 14 + b.toNat * 2 ^ 8 := ⟨_, rfl⟩
  have hp : pack 0x80000004 [(d.toNat, 20), (a.toNat, 14), (b.toNat, 8)] = N := by rw [hN, pack_cons, pack_cons, pack_cons, pack_nil]
  refine ofCore N (by rw [← hp]; rfl) (by omega) rfl fun wf => ?_
  have kM : bits N 26 6 = 32 := by unfold bits; omega
  have kF : bits N 0 8 = 4 := by unfold bits; omega
  have kC1 : bits N 12 2 = 0 := by unfold bits; omega
  have kC2 : bits N 18 2 = 0 := by unfold bits; omega
  have kC3 : bits N 24 2 = 0 := by unfold bits; omega
  simp only [decodeRow, kM, decodeMajor20, kF, kC1, kC2, kC3, and_self, false_and, Nat.reduceEqDiff, Nat.one_ne_zero, ↓reduceIte, fld_eq N 20 d (by omega), fld_eq N 14 a (by omega), fld_eq N 8 b (by omega)]

theorem F.acmpNe (d a b) : F.Statement (.acmpNe d a b) := by
  have lt_d := d.isLt; have lt_a := a.isLt; have lt_b := b.isLt
  obtain ⟨N, hN⟩ : ∃ N, N = 0x80000005 + d.toNat * 2 ^ 20 + a.toNat * 2 ^ 14 + b.toNat * 2 ^ 8 := ⟨_, rfl⟩
  have hp : pack 0x80000005 [(d.toNat, 20), (a.toNat, 14), (b.toNat, 8)] = N := by rw [hN, pack_cons, pack_cons, pack_cons, pack_nil]
  refine ofCore N (by rw [← hp]; rfl) (by omega) rfl fun wf => ?_
  have kM : bits N 26 6 = 32 := by unfold bits; omega
  have kF : bits N 0 8 = 5 := by unfold bits; omega
  have kC1 : bits N 12 2 = 0 := by unfold bits; omega
  have kC2 : bits N 18 2 = 0 := by unfold bits; omega
  have kC3 : bits N 24 2 = 0 := by unfold bits; omega
  simp only [decodeRow, kM, decodeMajor20, kF, kC1, kC2, kC3, and_self, false_and, Nat.reduceEqDiff, Nat.one_ne_zero, ↓reduceIte, fld_eq N 20 d (by omega), fld_eq N 14 a (by omega), fld_eq N 8 b (by omega)]

theorem F.acmpLt (d a b) : F.Statement (.acmpLt d a b) := by
  have lt_d := d.isLt; have lt_a := a.isLt; have lt_b := b.isLt
  obtain ⟨N, hN⟩ : ∃ N, N = 0x80000006 + d.toNat * 2 ^ 20 + a.toNat * 2 ^ 14 + b.toNat * 2 ^ 8 := ⟨_, rfl⟩
  have hp : pack 0x80000006 [(d.toNat, 20), (a.toNat, 14), (b.toNat, 8)] = N := by rw [hN, pack_cons, pack_cons, pack_cons, pack_nil]
  refine ofCore N (by rw [← hp]; rfl) (by omega) rfl fun wf => ?_
  have kM : bits N 26 6 = 32 := by unfold bits; omega
  have kF : bits N 0 8 = 6 := by unfold bits; omega
  have kC1 : bits N 12 2 = 0 := by unfold bits; omega
  have kC2 : bits N 18 2 = 0 := by unfold bits; omega
  have kC3 : bits N 24 2 = 0 := by unfold bits; omega
  simp only [decodeRow, kM, decodeMajor20, kF, kC1, kC2, kC3, and_self, false_and, Nat.reduceEqDiff, Nat.one_ne_zero, ↓reduceIte, fld_eq N 20 d (by omega), fld_eq N 14 a (by omega), fld_eq N 8 b (by omega)]

theorem F.acmpLe (d a b) : F.Statement (.acmpLe d a b) := by
  have lt_d := d.isLt; have lt_a := a.isLt; have lt_b := b.isLt
  obtain ⟨N, hN⟩ : ∃ N, N = 0x80000007 + d.toNat * 2 ^ 20 + a.toNat * 2 ^ 14 + b.toNat * 2 ^ 8 := ⟨_, rfl⟩
  have hp : pack 0x80000007 [(d.toNat, 20), (a.toNat, 14), (b.toNat, 8)] = N := by rw [hN, pack_cons, pack_cons, pack_cons, pack_nil]
  refine ofCore N (by rw [← hp]; rfl) (by omega) rfl fun wf => ?_
  have kM : bits N 26 6 = 32 := by unfold bits; omega
  have kF : bits N 0 8 = 7 := by unfold bits; omega
  have kC1 : bits N 12 2 = 0 := by unfold bits; omega
  have kC2 : bits N 18 2 = 0 := by unfold bits; omega
  have kC3 : bits N 24 2 = 0 := by unfold bits; omega
  simp only [decodeRow, kM, decodeMajor20, kF, kC1, kC2, kC3, and_self, false_and, Nat.reduceEqDiff, Nat.one_ne_zero, ↓reduceIte, fld_eq N 20 d (by omega), fld_eq N 14 a (by omega), fld_eq N 8 b (by omega)]

theorem F.amask (d a b) : F.Statement (.amask d a b) := by
  have lt_d := d.isLt; have lt_a := a.isLt; have lt_b := b.isLt
  obtain ⟨N, hN⟩ : ∃ N, N = 0x80000008 + d.toNat * 2 ^ 20 + a.toNat * 2 ^ 14 + b.toNat * 2 ^ 8 := ⟨_, rfl⟩
  have hp : pack 0x80000008 [(d.toNat, 20), (a.toNat, 14), (b.toNat, 8)] = N := by rw [hN, pack_cons, pack_cons, pack_cons, pack_nil]
  refine ofCore N (by rw [← hp]; rfl) (by omega) rfl fun wf => ?_
  have kM : bits N 26 6 = 32 := by unfold bits; omega
  have kF : bits N 0 8 = 8 := by unfold bits; omega
  have kC1 : bits N 12 2 = 0 := by unfold bits; omega
  have kC2 : bits N 18 2 = 0 := by unfold bits; omega
  have kC3 : bits N 24 2 = 0 := by unfold bits; omega
  simp only [decodeRow, kM, decodeMajor20, kF, kC1, kC2, kC3, and_self, false_and, Nat.reduceEqDiff, Nat.one_ne_zero, ↓reduceIte, fld_eq N 20 d (by omega), fld_eq N 14 a (by omega), fld_eq N 8 b (by omega)]

theorem F.aidx (d a b n) : F.Statement (.aidx d a b n) := by
  have lt_d := d.isLt; have lt_a := a.isLt; have lt_b := b.isLt; have lt_n := n.isLt
  obtain ⟨N, hN⟩ : ∃ N, N = 0x80000010 + d.toNat * 2 ^ 20 + a.toNat * 2 ^ 14 + b.toNat * 2 ^ 8 + n.toNat * 2 ^ 0 := ⟨_, rfl⟩
  have hp : pack 0x80000010 [(d.toNat, 20), (a.toNat, 14), (b.toNat, 8), (n.toNat, 0)] = N := by rw [hN, pack_cons, pack_cons, pack_cons, pack_cons, pack_nil]
  refine ofCore N (by rw [← hp]; rfl) (by omega) rfl fun wf => ?_
  have kM : bits N 26 6 = 32 := by unfold bits; omega
  have kC1 : bits N 18 2 = 0 := by unfold bits; omega
  have kC2 : bits N 24 2 = 0 := by unfold bits; omega
  have kF : bits N 0 8 = 16 ∨ bits N 0 8 = 17 ∨ bits N 0 8 = 18 ∨ bits N 0 8 = 19 ∨ bits N 0 8 = 20 ∨ bits N 0 8 = 21 ∨ bits N 0 8 = 22 ∨ bits N 0 8 = 23 := by unfold bits; omega
  rcases kF with kF | kF | kF | kF | kF | kF | kF | kF <;>
    simp only [decodeRow, kM, decodeMajor20, kF, kC1, kC2, and_self, false_and, Nat.reduceEqDiff, Nat.one_ne_zero, ↓reduceIte, fld_eq N 20 d (by omega), fld_eq N 14 a (by omega), fld_eq N 8 b (by omega), fld_eq N 0 n (by omega)]

theorem F.aaddi (d a i) : F.Statement (.aaddi d a i) := by
  have lt_d := d.isLt; have lt_a := a.isLt; have lt_i := i.isLt
  obtain ⟨N, hN⟩ : ∃ N, N = 0x84000000 + d.toNat * 2 ^ 20 + a.toNat * 2 ^ 14 + i.toNat * 2 ^ 0 := ⟨_, rfl⟩
  have hp : pack 0x84000000 [(d.toNat, 20), (a.toNat, 14), (i.toNat, 0)] = N := by rw [hN, pack_cons, pack_cons, pack_cons, pack_nil]
  refine ofCore N (by rw [← hp]; rfl) (by omega) rfl fun wf => ?_
  have kM : bits N 26 6 = 33 := by unfold bits; omega
  have kC1 : bits N 18 2 = 0 := by unfold bits; omega
  have kC2 : bits N 24 2 = 0 := by unfold bits; omega
  simp only [decodeRow, kM, decodeMajor21, kC1, kC2, and_self, false_and, Nat.reduceEqDiff, Nat.one_ne_zero, ↓reduceIte, fld_eq N 20 d (by omega), fld_eq N 14 a (by omega), fld_eq N 0 i (by omega)]

theorem F.ld (a s w z q o) : F.Statement (.ld a s w z q o) := by
  have lt_a := a.isLt; have lt_s := s.isLt; have lt_w := w.isLt; have lt_z := z.isLt; have lt_q := q.isLt; have lt_o := o.isLt
  obtain ⟨N, hN⟩ : ∃ N, N = 0x88000000 + a.toNat * 2 ^ 22 + s.toNat * 2 ^ 19 + w.toNat * 2 ^ 16 + z.toNat * 2 ^ 14 + q.toNat * 2 ^ 12 + o.toNat * 2 ^ 0 := ⟨_, rfl⟩
  have hp : pack 0x88000000 [(a.toNat, 22), (s.toNat, 19), (w.toNat, 16), (z.toNat, 14), (q.toNat, 12), (o.toNat, 0)] = N := by rw [hN, pack_cons, pack_cons, pack_cons, pack_cons, pack_cons, pack_cons, pack_nil]
  refine ofCore N (by rw [← hp]; rfl) (by omega) rfl fun wf => ?_
  have kM : bits N 26 6 = 34 := by unfold bits; omega
  have kC1 : bits N 13 1 = 0 := by unfold bits; omega
  simp only [decodeRow, kM, decodeMajor22, kC1, and_self, false_and, Nat.reduceEqDiff, Nat.one_ne_zero, ↓reduceIte, fld_eq N 22 a (by omega), fld_eq N 19 s (by omega), fld_eq N 16 w (by omega), fld_eq N 14 z (by omega), fld_eq N 12 q (by omega), fld_eq N 0 o (by omega)]

theorem F.st (a s w z o) : F.Statement (.st a s w z o) := by
  have lt_a := a.isLt; have lt_s := s.isLt; have lt_w := w.isLt; have lt_z := z.isLt; have lt_o := o.isLt
  obtain ⟨N, hN⟩ : ∃ N, N = 0x8C000000 + a.toNat * 2 ^ 22 + s.toNat * 2 ^ 19 + w.toNat * 2 ^ 16 + z.toNat * 2 ^ 14 + o.toNat * 2 ^ 0 := ⟨_, rfl⟩
  have hp : pack 0x8C000000 [(a.toNat, 22), (s.toNat, 19), (w.toNat, 16), (z.toNat, 14), (o.toNat, 0)] = N := by rw [hN, pack_cons, pack_cons, pack_cons, pack_cons, pack_cons, pack_nil]
  refine ofCore N (by rw [← hp]; rfl) (by omega) rfl fun wf => ?_
  have kM : bits N 26 6 = 35 := by unfold bits; omega
  have kC1 : bits N 12 2 = 0 := by unfold bits; omega
  simp only [decodeRow, kM, decodeMajor23, kC1, and_self, false_and, Nat.reduceEqDiff, Nat.one_ne_zero, ↓reduceIte, fld_eq N 22 a (by omega), fld_eq N 19 s (by omega), fld_eq N 16 w (by omega), fld_eq N 14 z (by omega), fld_eq N 0 o (by omega)]

theorem F.ldacq (a s w z q o) : F.Statement (.ldacq a s w z q o) := by
  have lt_a := a.isLt; have lt_s := s.isLt; have lt_w := w.isLt; have lt_z := z.isLt; have lt_q := q.isLt; have lt_o := o.isLt
  obtain ⟨N, hN⟩ : ∃ N, N = 0x90000000 + a.toNat * 2 ^ 22 + s.toNat * 2 ^ 19 + w.toNat * 2 ^ 16 + z.toNat * 2 ^ 14 + q.toNat * 2 ^ 12 + o.toNat * 2 ^ 0 := ⟨_, rfl⟩
  have hp : pack 0x90000000 [(a.toNat, 22), (s.toNat, 19), (w.toNat, 16), (z.toNat, 14), (q.toNat, 12), (o.toNat, 0)] = N := by rw [hN, pack_cons, pack_cons, pack_cons, pack_cons, pack_cons, pack_cons, pack_nil]
  refine ofCore N (by rw [← hp]; rfl) (by omega) rfl fun wf => ?_
  have kM : bits N 26 6 = 36 := by unfold bits; omega
  simp only [decodeRow, kM, decodeMajor24, and_self, false_and, Nat.reduceEqDiff, Nat.one_ne_zero, ↓reduceIte, fld_eq N 22 a (by omega), fld_eq N 19 s (by omega), fld_eq N 16 w (by omega), fld_eq N 14 z (by omega), fld_eq N 12 q (by omega), fld_eq N 0 o (by omega)]

theorem F.strel (a s w z q o) : F.Statement (.strel a s w z q o) := by
  have lt_a := a.isLt; have lt_s := s.isLt; have lt_w := w.isLt; have lt_z := z.isLt; have lt_q := q.isLt; have lt_o := o.isLt
  obtain ⟨N, hN⟩ : ∃ N, N = 0x94000000 + a.toNat * 2 ^ 22 + s.toNat * 2 ^ 19 + w.toNat * 2 ^ 16 + z.toNat * 2 ^ 14 + q.toNat * 2 ^ 12 + o.toNat * 2 ^ 0 := ⟨_, rfl⟩
  have hp : pack 0x94000000 [(a.toNat, 22), (s.toNat, 19), (w.toNat, 16), (z.toNat, 14), (q.toNat, 12), (o.toNat, 0)] = N := by rw [hN, pack_cons, pack_cons, pack_cons, pack_cons, pack_cons, pack_cons, pack_nil]
  refine ofCore N (by rw [← hp]; rfl) (by omega) rfl fun wf => ?_
  have kM : bits N 26 6 = 37 := by unfold bits; omega
  simp only [decodeRow, kM, decodeMajor25, and_self, false_and, Nat.reduceEqDiff, Nat.one_ne_zero, ↓reduceIte, fld_eq N 22 a (by omega), fld_eq N 19 s (by omega), fld_eq N 16 w (by omega), fld_eq N 14 z (by omega), fld_eq N 12 q (by omega), fld_eq N 0 o (by omega)]

theorem F.ldc (a s w z q o) : F.Statement (.ldc a s w z q o) := by
  have lt_a := a.isLt; have lt_s := s.isLt; have lt_w := w.isLt; have lt_z := z.isLt; have lt_q := q.isLt; have lt_o := o.isLt
  obtain ⟨N, hN⟩ : ∃ N, N = 0x98000000 + a.toNat * 2 ^ 22 + s.toNat * 2 ^ 19 + w.toNat * 2 ^ 16 + z.toNat * 2 ^ 14 + q.toNat * 2 ^ 12 + o.toNat * 2 ^ 0 := ⟨_, rfl⟩
  have hp : pack 0x98000000 [(a.toNat, 22), (s.toNat, 19), (w.toNat, 16), (z.toNat, 14), (q.toNat, 12), (o.toNat, 0)] = N := by rw [hN, pack_cons, pack_cons, pack_cons, pack_cons, pack_cons, pack_cons, pack_nil]
  refine ofCore N (by rw [← hp]; rfl) (by omega) rfl fun wf => ?_
  have kM : bits N 26 6 = 38 := by unfold bits; omega
  have kC1 : bits N 13 1 = 0 := by unfold bits; omega
  simp only [decodeRow, kM, decodeMajor26, kC1, and_self, false_and, Nat.reduceEqDiff, Nat.one_ne_zero, ↓reduceIte, fld_eq N 22 a (by omega), fld_eq N 19 s (by omega), fld_eq N 16 w (by omega), fld_eq N 14 z (by omega), fld_eq N 12 q (by omega), fld_eq N 0 o (by omega)]

theorem F.ldi (a s w z q o) : F.Statement (.ldi a s w z q o) := by
  have lt_a := a.isLt; have lt_s := s.isLt; have lt_w := w.isLt; have lt_z := z.isLt; have lt_q := q.isLt; have lt_o := o.isLt
  obtain ⟨N, hN⟩ : ∃ N, N = 0x9C000000 + a.toNat * 2 ^ 22 + s.toNat * 2 ^ 19 + w.toNat * 2 ^ 16 + z.toNat * 2 ^ 14 + q.toNat * 2 ^ 12 + o.toNat * 2 ^ 0 := ⟨_, rfl⟩
  have hp : pack 0x9C000000 [(a.toNat, 22), (s.toNat, 19), (w.toNat, 16), (z.toNat, 14), (q.toNat, 12), (o.toNat, 0)] = N := by rw [hN, pack_cons, pack_cons, pack_cons, pack_cons, pack_cons, pack_cons, pack_nil]
  refine ofCore N (by rw [← hp]; rfl) (by omega) rfl fun wf => ?_
  have kM : bits N 26 6 = 39 := by unfold bits; omega
  have kC1 : bits N 13 1 = 0 := by unfold bits; omega
  simp only [decodeRow, kM, decodeMajor27, kC1, and_self, false_and, Nat.reduceEqDiff, Nat.one_ne_zero, ↓reduceIte, fld_eq N 22 a (by omega), fld_eq N 19 s (by omega), fld_eq N 16 w (by omega), fld_eq N 14 z (by omega), fld_eq N 12 q (by omega), fld_eq N 0 o (by omega)]

theorem F.ldfe (a s w z q o) : F.Statement (.ldfe a s w z q o) := by
  have lt_a := a.isLt; have lt_s := s.isLt; have lt_w := w.isLt; have lt_z := z.isLt; have lt_q := q.isLt; have lt_o := o.isLt
  obtain ⟨N, hN⟩ : ∃ N, N = 0xA0000000 + a.toNat * 2 ^ 22 + s.toNat * 2 ^ 19 + w.toNat * 2 ^ 16 + z.toNat * 2 ^ 14 + q.toNat * 2 ^ 12 + o.toNat * 2 ^ 0 := ⟨_, rfl⟩
  have hp : pack 0xA0000000 [(a.toNat, 22), (s.toNat, 19), (w.toNat, 16), (z.toNat, 14), (q.toNat, 12), (o.toNat, 0)] = N := by rw [hN, pack_cons, pack_cons, pack_cons, pack_cons, pack_cons, pack_cons, pack_nil]
  refine ofCore N (by rw [← hp]; rfl) (by omega) rfl fun wf => ?_
  have kM : bits N 26 6 = 40 := by unfold bits; omega
  have kC1 : bits N 13 1 = 0 := by unfold bits; omega
  simp only [decodeRow, kM, decodeMajor28, kC1, and_self, false_and, Nat.reduceEqDiff, Nat.one_ne_zero, ↓reduceIte, fld_eq N 22 a (by omega), fld_eq N 19 s (by omega), fld_eq N 16 w (by omega), fld_eq N 14 z (by omega), fld_eq N 12 q (by omega), fld_eq N 0 o (by omega)]

theorem F.stfe (a s w z q o) : F.Statement (.stfe a s w z q o) := by
  have lt_a := a.isLt; have lt_s := s.isLt; have lt_w := w.isLt; have lt_z := z.isLt; have lt_q := q.isLt; have lt_o := o.isLt
  obtain ⟨N, hN⟩ : ∃ N, N = 0xA4000000 + a.toNat * 2 ^ 22 + s.toNat * 2 ^ 19 + w.toNat * 2 ^ 16 + z.toNat * 2 ^ 14 + q.toNat * 2 ^ 12 + o.toNat * 2 ^ 0 := ⟨_, rfl⟩
  have hp : pack 0xA4000000 [(a.toNat, 22), (s.toNat, 19), (w.toNat, 16), (z.toNat, 14), (q.toNat, 12), (o.toNat, 0)] = N := by rw [hN, pack_cons, pack_cons, pack_cons, pack_cons, pack_cons, pack_cons, pack_nil]
  refine ofCore N (by rw [← hp]; rfl) (by omega) rfl fun wf => ?_
  have kM : bits N 26 6 = 41 := by unfold bits; omega
  have kC1 : bits N 13 1 = 0 := by unfold bits; omega
  simp only [decodeRow, kM, decodeMajor29, kC1, and_self, false_and, Nat.reduceEqDiff, Nat.one_ne_zero, ↓reduceIte, fld_eq N 22 a (by omega), fld_eq N 19 s (by omega), fld_eq N 16 w (by omega), fld_eq N 14 z (by omega), fld_eq N 12 q (by omega), fld_eq N 0 o (by omega)]

theorem F.la (a s w t o) : F.Statement (.la a s w t o) := by
  have lt_a := a.isLt; have lt_s := s.isLt; have lt_w := w.isLt; have lt_t := t.isLt; have lt_o := o.isLt
  obtain ⟨N, hN⟩ : ∃ N, N = 0xA8000000 + a.toNat * 2 ^ 22 + s.toNat * 2 ^ 19 + w.toNat * 2 ^ 16 + t.toNat * 2 ^ 12 + o.toNat * 2 ^ 4 := ⟨_, rfl⟩
  have hp : pack 0xA8000000 [(a.toNat, 22), (s.toNat, 19), (w.toNat, 16), (t.toNat, 12), (o.toNat, 4)] = N := by rw [hN, pack_cons, pack_cons, pack_cons, pack_cons, pack_cons, pack_nil]
  refine ofCore N (by rw [← hp]; rfl) (by omega) rfl fun wf => ?_
  have kM : bits N 26 6 = 42 := by unfold bits; omega
  have kC1 : bits N 0 4 = 0 := by unfold bits; omega
  simp only [decodeRow, kM, decodeMajor2A, kC1, and_self, false_and, Nat.reduceEqDiff, Nat.one_ne_zero, ↓reduceIte, fld_eq N 22 a (by omega), fld_eq N 19 s (by omega), fld_eq N 16 w (by omega), fld_eq N 12 t (by omega), fld_eq N 4 o (by omega)]

theorem F.atadd (a s w z o) : F.Statement (.atadd a s w z o) := by
  have lt_a := a.isLt; have lt_s := s.isLt; have lt_w := w.isLt; have lt_z := z.isLt; have lt_o := o.isLt
  obtain ⟨N, hN⟩ : ∃ N, N = 0xAC008000 + a.toNat * 2 ^ 22 + s.toNat * 2 ^ 19 + w.toNat * 2 ^ 16 + z.toNat * 2 ^ 14 + o.toNat * 2 ^ 0 := ⟨_, rfl⟩
  have hp : pack 0xAC008000 [(a.toNat, 22), (s.toNat, 19), (w.toNat, 16), (z.toNat, 14), (o.toNat, 0)] = N := by rw [hN, pack_cons, pack_cons, pack_cons, pack_cons, pack_cons, pack_nil]
  refine ofCore N (by rw [← hp]; rfl) (by omega) rfl fun wf => ?_
  have kM : bits N 26 6 = 43 := by unfold bits; omega
  have kF : bits N 12 2 = 0 := by unfold bits; omega
  have kC1 : bits N 15 1 = 1 := by unfold bits; omega
  simp only [decodeRow, kM, decodeMajor2B, kF, kC1, and_self, false_and, Nat.reduceEqDiff, Nat.one_ne_zero, ↓reduceIte, fld_eq N 22 a (by omega), fld_eq N 19 s (by omega), fld_eq N 16 w (by omega), fld_eq N 14 z (by omega), fld_eq N 0 o (by omega)]

theorem F.atmin (a s w z o) : F.Statement (.atmin a s w z o) := by
  have lt_a := a.isLt; have lt_s := s.isLt; have lt_w := w.isLt; have lt_z := z.isLt; have lt_o := o.isLt
  obtain ⟨N, hN⟩ : ∃ N, N = 0xAC001000 + a.toNat * 2 ^ 22 + s.toNat * 2 ^ 19 + w.toNat * 2 ^ 16 + z.toNat * 2 ^ 14 + o.toNat * 2 ^ 0 := ⟨_, rfl⟩
  have hp : pack 0xAC001000 [(a.toNat, 22), (s.toNat, 19), (w.toNat, 16), (z.toNat, 14), (o.toNat, 0)] = N := by rw [hN, pack_cons, pack_cons, pack_cons, pack_cons, pack_cons, pack_nil]
  refine ofCore N (by rw [← hp]; rfl) (by omega) rfl fun wf => ?_
  have kM : bits N 26 6 = 43 := by unfold bits; omega
  have kF : bits N 12 2 = 1 := by unfold bits; omega
  simp only [decodeRow, kM, decodeMajor2B, kF, and_self, false_and, Nat.reduceEqDiff, Nat.one_ne_zero, ↓reduceIte, fld_eq N 22 a (by omega), fld_eq N 19 s (by omega), fld_eq N 16 w (by omega), fld_eq N 14 z (by omega), fld_eq N 0 o (by omega)]

theorem F.atmax (a s w z o) : F.Statement (.atmax a s w z o) := by
  have lt_a := a.isLt; have lt_s := s.isLt; have lt_w := w.isLt; have lt_z := z.isLt; have lt_o := o.isLt
  obtain ⟨N, hN⟩ : ∃ N, N = 0xAC002000 + a.toNat * 2 ^ 22 + s.toNat * 2 ^ 19 + w.toNat * 2 ^ 16 + z.toNat * 2 ^ 14 + o.toNat * 2 ^ 0 := ⟨_, rfl⟩
  have hp : pack 0xAC002000 [(a.toNat, 22), (s.toNat, 19), (w.toNat, 16), (z.toNat, 14), (o.toNat, 0)] = N := by rw [hN, pack_cons, pack_cons, pack_cons, pack_cons, pack_cons, pack_nil]
  refine ofCore N (by rw [← hp]; rfl) (by omega) rfl fun wf => ?_
  have kM : bits N 26 6 = 43 := by unfold bits; omega
  have kF : bits N 12 2 = 2 := by unfold bits; omega
  simp only [decodeRow, kM, decodeMajor2B, kF, and_self, false_and, Nat.reduceEqDiff, Nat.one_ne_zero, ↓reduceIte, fld_eq N 22 a (by omega), fld_eq N 19 s (by omega), fld_eq N 16 w (by omega), fld_eq N 14 z (by omega), fld_eq N 0 o (by omega)]

theorem F.atand (a s w z o) : F.Statement (.atand a s w z o) := by
  have lt_a := a.isLt; have lt_s := s.isLt; have lt_w := w.isLt; have lt_z := z.isLt; have lt_o := o.isLt
  obtain ⟨N, hN⟩ : ∃ N, N = 0xAC00B000 + a.toNat * 2 ^ 22 + s.toNat * 2 ^ 19 + w.toNat * 2 ^ 16 + z.toNat * 2 ^ 14 + o.toNat * 2 ^ 0 := ⟨_, rfl⟩
  have hp : pack 0xAC00B000 [(a.toNat, 22), (s.toNat, 19), (w.toNat, 16), (z.toNat, 14), (o.toNat, 0)] = N := by rw [hN, pack_cons, pack_cons, pack_cons, pack_cons, pack_cons, pack_nil]
  refine ofCore N (by rw [← hp]; rfl) (by omega) rfl fun wf => ?_
  have kM : bits N 26 6 = 43 := by unfold bits; omega
  have kF : bits N 12 2 = 3 := by unfold bits; omega
  have kC1 : bits N 15 1 = 1 := by unfold bits; omega
  simp only [decodeRow, kM, decodeMajor2B, kF, kC1, and_self, false_and, Nat.reduceEqDiff, Nat.one_ne_zero, ↓reduceIte, fld_eq N 22 a (by omega), fld_eq N 19 s (by omega), fld_eq N 16 w (by omega), fld_eq N 14 z (by omega), fld_eq N 0 o (by omega)]

theorem F.ator (a s w z o) : F.Statement (.ator a s w z o) := by
  have lt_a := a.isLt; have lt_s := s.isLt; have lt_w := w.isLt; have lt_z := z.isLt; have lt_o := o.isLt
  obtain ⟨N, hN⟩ : ∃ N, N = 0xB0008000 + a.toNat * 2 ^ 22 + s.toNat * 2 ^ 19 + w.toNat * 2 ^ 16 + z.toNat * 2 ^ 14 + o.toNat * 2 ^ 0 := ⟨_, rfl⟩
  have hp : pack 0xB0008000 [(a.toNat, 22), (s.toNat, 19), (w.toNat, 16), (z.toNat, 14), (o.toNat, 0)] = N := by rw [hN, pack_cons, pack_cons, pack_cons, pack_cons, pack_cons, pack_nil]
  refine ofCore N (by rw [← hp]; rfl) (by omega) rfl fun wf => ?_
  have kM : bits N 26 6 = 44 := by unfold bits; omega
  have kF : bits N 12 2 = 0 := by unfold bits; omega
  have kC1 : bits N 15 1 = 1 := by unfold bits; omega
  simp only [decodeRow, kM, decodeMajor2C, kF, kC1, and_self, false_and, Nat.reduceEqDiff, Nat.one_ne_zero, ↓reduceIte, fld_eq N 22 a (by omega), fld_eq N 19 s (by omega), fld_eq N 16 w (by omega), fld_eq N 14 z (by omega), fld_eq N 0 o (by omega)]

theorem F.atxor (a s w z o) : F.Statement (.atxor a s w z o) := by
  have lt_a := a.isLt; have lt_s := s.isLt; have lt_w := w.isLt; have lt_z := z.isLt; have lt_o := o.isLt
  obtain ⟨N, hN⟩ : ∃ N, N = 0xB0009000 + a.toNat * 2 ^ 22 + s.toNat * 2 ^ 19 + w.toNat * 2 ^ 16 + z.toNat * 2 ^ 14 + o.toNat * 2 ^ 0 := ⟨_, rfl⟩
  have hp : pack 0xB0009000 [(a.toNat, 22), (s.toNat, 19), (w.toNat, 16), (z.toNat, 14), (o.toNat, 0)] = N := by rw [hN, pack_cons, pack_cons, pack_cons, pack_cons, pack_cons, pack_nil]
  refine ofCore N (by rw [← hp]; rfl) (by omega) rfl fun wf => ?_
  have kM : bits N 26 6 = 44 := by unfold bits; omega
  have kF : bits N 12 2 = 1 := by unfold bits; omega
  have kC1 : bits N 15 1 = 1 := by unfold bits; omega
  simp only [decodeRow, kM, decodeMajor2C, kF, kC1, and_self, false_and, Nat.reduceEqDiff, Nat.one_ne_zero, ↓reduceIte, fld_eq N 22 a (by omega), fld_eq N 19 s (by omega), fld_eq N 16 w (by omega), fld_eq N 14 z (by omega), fld_eq N 0 o (by omega)]

theorem F.atswp (a s w z o) : F.Statement (.atswp a s w z o) := by
  have lt_a := a.isLt; have lt_s := s.isLt; have lt_w := w.isLt; have lt_z := z.isLt; have lt_o := o.isLt
  obtain ⟨N, hN⟩ : ∃ N, N = 0xB000A000 + a.toNat * 2 ^ 22 + s.toNat * 2 ^ 19 + w.toNat * 2 ^ 16 + z.toNat * 2 ^ 14 + o.toNat * 2 ^ 0 := ⟨_, rfl⟩
  have hp : pack 0xB000A000 [(a.toNat, 22), (s.toNat, 19), (w.toNat, 16), (z.toNat, 14), (o.toNat, 0)] = N := by rw [hN, pack_cons, pack_cons, pack_cons, pack_cons, pack_cons, pack_nil]
  refine ofCore N (by rw [← hp]; rfl) (by omega) rfl fun wf => ?_
  have kM : bits N 26 6 = 44 := by unfold bits; omega
  have kF : bits N 12 2 = 2 := by unfold bits; omega
  have kC1 : bits N 15 1 = 1 := by unfold bits; omega
  simp only [decodeRow, kM, decodeMajor2C, kF, kC1, and_self, false_and, Nat.reduceEqDiff, Nat.one_ne_zero, ↓reduceIte, fld_eq N 22 a (by omega), fld_eq N 19 s (by omega), fld_eq N 16 w (by omega), fld_eq N 14 z (by omega), fld_eq N 0 o (by omega)]

theorem F.atcas (a s w z o) : F.Statement (.atcas a s w z o) := by
  have lt_a := a.isLt; have lt_s := s.isLt; have lt_w := w.isLt; have lt_z := z.isLt; have lt_o := o.isLt
  obtain ⟨N, hN⟩ : ∃ N, N = 0xB000B000 + a.toNat * 2 ^ 22 + s.toNat * 2 ^ 19 + w.toNat * 2 ^ 16 + z.toNat * 2 ^ 14 + o.toNat * 2 ^ 0 := ⟨_, rfl⟩
  have hp : pack 0xB000B000 [(a.toNat, 22), (s.toNat, 19), (w.toNat, 16), (z.toNat, 14), (o.toNat, 0)] = N := by rw [hN, pack_cons, pack_cons, pack_cons, pack_cons, pack_cons, pack_nil]
  refine ofCore N (by rw [← hp]; rfl) (by omega) rfl fun wf => ?_
  have kM : bits N 26 6 = 44 := by unfold bits; omega
  have kF : bits N 12 2 = 3 := by unfold bits; omega
  have kC1 : bits N 15 1 = 1 := by unfold bits; omega
  simp only [decodeRow, kM, decodeMajor2C, kF, kC1, and_self, false_and, Nat.reduceEqDiff, Nat.one_ne_zero, ↓reduceIte, fld_eq N 22 a (by omega), fld_eq N 19 s (by omega), fld_eq N 16 w (by omega), fld_eq N 14 z (by omega), fld_eq N 0 o (by omega)]

theorem F.waita (a s w z o) : F.Statement (.waita a s w z o) := by
  have lt_a := a.isLt; have lt_s := s.isLt; have lt_w := w.isLt; have lt_z := z.isLt; have lt_o := o.isLt
  obtain ⟨N, hN⟩ : ∃ N, N = 0xB4008000 + a.toNat * 2 ^ 22 + s.toNat * 2 ^ 19 + w.toNat * 2 ^ 16 + z.toNat * 2 ^ 14 + o.toNat * 2 ^ 0 := ⟨_, rfl⟩
  have hp : pack 0xB4008000 [(a.toNat, 22), (s.toNat, 19), (w.toNat, 16), (z.toNat, 14), (o.toNat, 0)] = N := by rw [hN, pack_cons, pack_cons, pack_cons, pack_cons, pack_cons, pack_nil]
  refine ofCore N (by rw [← hp]; rfl) (by omega) rfl fun wf => ?_
  have kM : bits N 26 6 = 45 := by unfold bits; omega
  have kC1 : bits N 12 2 = 0 := by unfold bits; omega
  have kC2 : bits N 15 1 = 1 := by unfold bits; omega
  simp only [decodeRow, kM, decodeMajor2D, kC1, kC2, and_self, false_and, Nat.reduceEqDiff, Nat.one_ne_zero, ↓reduceIte, fld_eq N 22 a (by omega), fld_eq N 19 s (by omega), fld_eq N 16 w (by omega), fld_eq N 14 z (by omega), fld_eq N 0 o (by omega)]

theorem F.pref (a s w o) : F.Statement (.pref a s w o) := by
  have lt_a := a.isLt; have lt_s := s.isLt; have lt_w := w.isLt; have lt_o := o.isLt
  obtain ⟨N, hN⟩ : ∃ N, N = 0xB8000000 + a.toNat * 2 ^ 22 + s.toNat * 2 ^ 19 + w.toNat * 2 ^ 16 + o.toNat * 2 ^ 0 := ⟨_, rfl⟩
  have hp : pack 0xB8000000 [(a.toNat, 22), (s.toNat, 19), (w.toNat, 16), (o.toNat, 0)] = N := by rw [hN, pack_cons, pack_cons, pack_cons, pack_cons, pack_nil]
  refine ofCore N (by rw [← hp]; rfl) (by omega) rfl fun wf => ?_
  have kM : bits N 26 6 = 46 := by unfold bits; omega
  have kF : bits N 12 4 = 0 := by unfold bits; omega
  simp only [decodeRow, kM, decodeMajor2E, kF, and_self, false_and, Nat.reduceEqDiff, Nat.one_ne_zero, ↓reduceIte, fld_eq N 22 a (by omega), fld_eq N 19 s (by omega), fld_eq N 16 w (by omega), fld_eq N 0 o (by omega)]

theorem F.cflush (a s w o) : F.Statement (.cflush a s w o) := by
  have lt_a := a.isLt; have lt_s := s.isLt; have lt_w := w.isLt; have lt_o := o.isLt
  obtain ⟨N, hN⟩ : ∃ N, N = 0xB8001000 + a.toNat * 2 ^ 22 + s.toNat * 2 ^ 19 + w.toNat * 2 ^ 16 + o.toNat * 2 ^ 0 := ⟨_, rfl⟩
  have hp : pack 0xB8001000 [(a.toNat, 22), (s.toNat, 19), (w.toNat, 16), (o.toNat, 0)] = N := by rw [hN, pack_cons, pack_cons, pack_cons, pack_cons, pack_nil]
  refine ofCore N (by rw [← hp]; rfl) (by omega) rfl fun wf => ?_
  have kM : bits N 26 6 = 46 := by unfold bits; omega
  have kF : bits N 12 4 = 1 := by unfold bits; omega
  simp only [decodeRow, kM, decodeMajor2E, kF, and_self, false_and, Nat.reduceEqDiff, Nat.one_ne_zero, ↓reduceIte, fld_eq N 22 a (by omega), fld_eq N 19 s (by omega), fld_eq N 16 w (by omega), fld_eq N 0 o (by omega)]

theorem F.cinv (a s w o) : F.Statement (.cinv a s w o) := by
  have lt_a := a.isLt; have lt_s := s.isLt; have lt_w := w.isLt; have lt_o := o.isLt
  obtain ⟨N, hN⟩ : ∃ N, N = 0xB8002000 + a.toNat * 2 ^ 22 + s.toNat * 2 ^ 19 + w.toNat * 2 ^ 16 + o.toNat * 2 ^ 0 := ⟨_, rfl⟩
  have hp : pack 0xB8002000 [(a.toNat, 22), (s.toNat, 19), (w.toNat, 16), (o.toNat, 0)] = N := by rw [hN, pack_cons, pack_cons, pack_cons, pack_cons, pack_nil]
  refine ofCore N (by rw [← hp]; rfl) (by omega) rfl fun wf => ?_
  have kM : bits N 26 6 = 46 := by unfold bits; omega
  have kF : bits N 12 4 = 2 := by unfold bits; omega
  simp only [decodeRow, kM, decodeMajor2E, kF, and_self, false_and, Nat.reduceEqDiff, Nat.one_ne_zero, ↓reduceIte, fld_eq N 22 a (by omega), fld_eq N 19 s (by omega), fld_eq N 16 w (by omega), fld_eq N 0 o (by omega)]

theorem F.cpin (a s w o) : F.Statement (.cpin a s w o) := by
  have lt_a := a.isLt; have lt_s := s.isLt; have lt_w := w.isLt; have lt_o := o.isLt
  obtain ⟨N, hN⟩ : ∃ N, N = 0xB8003000 + a.toNat * 2 ^ 22 + s.toNat * 2 ^ 19 + w.toNat * 2 ^ 16 + o.toNat * 2 ^ 0 := ⟨_, rfl⟩
  have hp : pack 0xB8003000 [(a.toNat, 22), (s.toNat, 19), (w.toNat, 16), (o.toNat, 0)] = N := by rw [hN, pack_cons, pack_cons, pack_cons, pack_cons, pack_nil]
  refine ofCore N (by rw [← hp]; rfl) (by omega) rfl fun wf => ?_
  have kM : bits N 26 6 = 46 := by unfold bits; omega
  have kF : bits N 12 4 = 3 := by unfold bits; omega
  simp only [decodeRow, kM, decodeMajor2E, kF, and_self, false_and, Nat.reduceEqDiff, Nat.one_ne_zero, ↓reduceIte, fld_eq N 22 a (by omega), fld_eq N 19 s (by omega), fld_eq N 16 w (by omega), fld_eq N 0 o (by omega)]

theorem F.cunpin (a s w o) : F.Statement (.cunpin a s w o) := by
  have lt_a := a.isLt; have lt_s := s.isLt; have lt_w := w.isLt; have lt_o := o.isLt
  obtain ⟨N, hN⟩ : ∃ N, N = 0xB8004000 + a.toNat * 2 ^ 22 + s.toNat * 2 ^ 19 + w.toNat * 2 ^ 16 + o.toNat * 2 ^ 0 := ⟨_, rfl⟩
  have hp : pack 0xB8004000 [(a.toNat, 22), (s.toNat, 19), (w.toNat, 16), (o.toNat, 0)] = N := by rw [hN, pack_cons, pack_cons, pack_cons, pack_cons, pack_nil]
  refine ofCore N (by rw [← hp]; rfl) (by omega) rfl fun wf => ?_
  have kM : bits N 26 6 = 46 := by unfold bits; omega
  have kF : bits N 12 4 = 4 := by unfold bits; omega
  simp only [decodeRow, kM, decodeMajor2E, kF, and_self, false_and, Nat.reduceEqDiff, Nat.one_ne_zero, ↓reduceIte, fld_eq N 22 a (by omega), fld_eq N 19 s (by omega), fld_eq N 16 w (by omega), fld_eq N 0 o (by omega)]

theorem F.fenceCore (s) : F.Statement (.fenceCore s) := by
  have lt_s := s.isLt
  obtain ⟨N, hN⟩ : ∃ N, N = 0xB8008000 + s.toNat * 2 ^ 19 := ⟨_, rfl⟩
  have hp : pack 0xB8008000 [(s.toNat, 19)] = N := by rw [hN, pack_cons, pack_nil]
  refine ofCore N (by rw [← hp]; rfl) (by omega) rfl fun wf => ?_
  have kM : bits N 26 6 = 46 := by unfold bits; omega
  have kF : bits N 12 4 = 8 := by unfold bits; omega
  have kC1 : bits N 0 12 = 0 := by unfold bits; omega
  have kC2 : bits N 16 3 = 0 := by unfold bits; omega
  have kC3 : bits N 22 4 = 0 := by unfold bits; omega
  simp only [decodeRow, kM, decodeMajor2E, kF, kC1, kC2, kC3, and_self, false_and, Nat.reduceEqDiff, Nat.one_ne_zero, ↓reduceIte, fld_eq N 19 s (by omega)]

theorem F.fenceTile (s) : F.Statement (.fenceTile s) := by
  have lt_s := s.isLt
  obtain ⟨N, hN⟩ : ∃ N, N = 0xB8009000 + s.toNat * 2 ^ 19 := ⟨_, rfl⟩
  have hp : pack 0xB8009000 [(s.toNat, 19)] = N := by rw [hN, pack_cons, pack_nil]
  refine ofCore N (by rw [← hp]; rfl) (by omega) rfl fun wf => ?_
  have kM : bits N 26 6 = 46 := by unfold bits; omega
  have kF : bits N 12 4 = 9 := by unfold bits; omega
  have kC1 : bits N 0 12 = 0 := by unfold bits; omega
  have kC2 : bits N 16 3 = 0 := by unfold bits; omega
  have kC3 : bits N 22 4 = 0 := by unfold bits; omega
  simp only [decodeRow, kM, decodeMajor2E, kF, kC1, kC2, kC3, and_self, false_and, Nat.reduceEqDiff, Nat.one_ne_zero, ↓reduceIte, fld_eq N 19 s (by omega)]

theorem F.fenceDie (s) : F.Statement (.fenceDie s) := by
  have lt_s := s.isLt
  obtain ⟨N, hN⟩ : ∃ N, N = 0xB800A000 + s.toNat * 2 ^ 19 := ⟨_, rfl⟩
  have hp : pack 0xB800A000 [(s.toNat, 19)] = N := by rw [hN, pack_cons, pack_nil]
  refine ofCore N (by rw [← hp]; rfl) (by omega) rfl fun wf => ?_
  have kM : bits N 26 6 = 46 := by unfold bits; omega
  have kF : bits N 12 4 = 10 := by unfold bits; omega
  have kC1 : bits N 0 12 = 0 := by unfold bits; omega
  have kC2 : bits N 16 3 = 0 := by unfold bits; omega
  have kC3 : bits N 22 4 = 0 := by unfold bits; omega
  simp only [decodeRow, kM, decodeMajor2E, kF, kC1, kC2, kC3, and_self, false_and, Nat.reduceEqDiff, Nat.one_ne_zero, ↓reduceIte, fld_eq N 19 s (by omega)]

theorem F.fenceModule (s) : F.Statement (.fenceModule s) := by
  have lt_s := s.isLt
  obtain ⟨N, hN⟩ : ∃ N, N = 0xB800B000 + s.toNat * 2 ^ 19 := ⟨_, rfl⟩
  have hp : pack 0xB800B000 [(s.toNat, 19)] = N := by rw [hN, pack_cons, pack_nil]
  refine ofCore N (by rw [← hp]; rfl) (by omega) rfl fun wf => ?_
  have kM : bits N 26 6 = 46 := by unfold bits; omega
  have kF : bits N 12 4 = 11 := by unfold bits; omega
  have kC1 : bits N 0 12 = 0 := by unfold bits; omega
  have kC2 : bits N 16 3 = 0 := by unfold bits; omega
  have kC3 : bits N 22 4 = 0 := by unfold bits; omega
  simp only [decodeRow, kM, decodeMajor2E, kF, kC1, kC2, kC3, and_self, false_and, Nat.reduceEqDiff, Nat.one_ne_zero, ↓reduceIte, fld_eq N 19 s (by omega)]

theorem F.fenceDomain (s) : F.Statement (.fenceDomain s) := by
  have lt_s := s.isLt
  obtain ⟨N, hN⟩ : ∃ N, N = 0xB800C000 + s.toNat * 2 ^ 19 := ⟨_, rfl⟩
  have hp : pack 0xB800C000 [(s.toNat, 19)] = N := by rw [hN, pack_cons, pack_nil]
  refine ofCore N (by rw [← hp]; rfl) (by omega) rfl fun wf => ?_
  have kM : bits N 26 6 = 46 := by unfold bits; omega
  have kF : bits N 12 4 = 12 := by unfold bits; omega
  have kC1 : bits N 0 12 = 0 := by unfold bits; omega
  have kC2 : bits N 16 3 = 0 := by unfold bits; omega
  have kC3 : bits N 22 4 = 0 := by unfold bits; omega
  simp only [decodeRow, kM, decodeMajor2E, kF, kC1, kC2, kC3, and_self, false_and, Nat.reduceEqDiff, Nat.one_ne_zero, ↓reduceIte, fld_eq N 19 s (by omega)]

theorem F.vld (a s w t o) : F.Statement (.vld a s w t o) := by
  have lt_a := a.isLt; have lt_s := s.isLt; have lt_w := w.isLt; have lt_t := t.isLt; have lt_o := o.isLt
  obtain ⟨N, hN⟩ : ∃ N, N = 0xBC000000 + a.toNat * 2 ^ 22 + s.toNat * 2 ^ 19 + w.toNat * 2 ^ 16 + t.toNat * 2 ^ 12 + o.toNat * 2 ^ 4 := ⟨_, rfl⟩
  have hp : pack 0xBC000000 [(a.toNat, 22), (s.toNat, 19), (w.toNat, 16), (t.toNat, 12), (o.toNat, 4)] = N := by rw [hN, pack_cons, pack_cons, pack_cons, pack_cons, pack_cons, pack_nil]
  refine ofCore N (by rw [← hp]; rfl) (by omega) rfl fun wf => ?_
  have kM : bits N 26 6 = 47 := by unfold bits; omega
  have kF : bits N 0 4 = 0 := by unfold bits; omega
  simp only [decodeRow, kM, decodeMajor2F, kF, and_self, false_and, Nat.reduceEqDiff, Nat.one_ne_zero, ↓reduceIte, fld_eq N 22 a (by omega), fld_eq N 19 s (by omega), fld_eq N 16 w (by omega), fld_eq N 12 t (by omega), fld_eq N 4 o (by omega)]

theorem F.vst (a s w t o) : F.Statement (.vst a s w t o) := by
  have lt_a := a.isLt; have lt_s := s.isLt; have lt_w := w.isLt; have lt_t := t.isLt; have lt_o := o.isLt
  obtain ⟨N, hN⟩ : ∃ N, N = 0xBC000004 + a.toNat * 2 ^ 22 + s.toNat * 2 ^ 19 + w.toNat * 2 ^ 16 + t.toNat * 2 ^ 12 + o.toNat * 2 ^ 4 := ⟨_, rfl⟩
  have hp : pack 0xBC000004 [(a.toNat, 22), (s.toNat, 19), (w.toNat, 16), (t.toNat, 12), (o.toNat, 4)] = N := by rw [hN, pack_cons, pack_cons, pack_cons, pack_cons, pack_cons, pack_nil]
  refine ofCore N (by rw [← hp]; rfl) (by omega) rfl fun wf => ?_
  have kM : bits N 26 6 = 47 := by unfold bits; omega
  have kF : bits N 0 4 = 4 := by unfold bits; omega
  simp only [decodeRow, kM, decodeMajor2F, kF, and_self, false_and, Nat.reduceEqDiff, Nat.one_ne_zero, ↓reduceIte, fld_eq N 22 a (by omega), fld_eq N 19 s (by omega), fld_eq N 16 w (by omega), fld_eq N 12 t (by omega), fld_eq N 4 o (by omega)]

theorem F.vstfe (a s w t o) : F.Statement (.vstfe a s w t o) := by
  have lt_a := a.isLt; have lt_s := s.isLt; have lt_w := w.isLt; have lt_t := t.isLt; have lt_o := o.isLt
  obtain ⟨N, hN⟩ : ∃ N, N = 0xBC000008 + a.toNat * 2 ^ 22 + s.toNat * 2 ^ 19 + w.toNat * 2 ^ 16 + t.toNat * 2 ^ 12 + o.toNat * 2 ^ 4 := ⟨_, rfl⟩
  have hp : pack 0xBC000008 [(a.toNat, 22), (s.toNat, 19), (w.toNat, 16), (t.toNat, 12), (o.toNat, 4)] = N := by rw [hN, pack_cons, pack_cons, pack_cons, pack_cons, pack_cons, pack_nil]
  refine ofCore N (by rw [← hp]; rfl) (by omega) rfl fun wf => ?_
  have kM : bits N 26 6 = 47 := by unfold bits; omega
  have kF : bits N 0 4 = 8 := by unfold bits; omega
  simp only [decodeRow, kM, decodeMajor2F, kF, and_self, false_and, Nat.reduceEqDiff, Nat.one_ne_zero, ↓reduceIte, fld_eq N 22 a (by omega), fld_eq N 19 s (by omega), fld_eq N 16 w (by omega), fld_eq N 12 t (by omega), fld_eq N 4 o (by omega)]

theorem F.asopReduceAdd (a s w o) : F.Statement (.asopReduceAdd a s w o) := by
  have lt_a := a.isLt; have lt_s := s.isLt; have lt_w := w.isLt; have lt_o := o.isLt
  obtain ⟨N, hN⟩ : ∃ N, N = 0xC0000000 + a.toNat * 2 ^ 22 + s.toNat * 2 ^ 19 + w.toNat * 2 ^ 16 + o.toNat * 2 ^ 0 := ⟨_, rfl⟩
  have hp : pack 0xC0000000 [(a.toNat, 22), (s.toNat, 19), (w.toNat, 16), (o.toNat, 0)] = N := by rw [hN, pack_cons, pack_cons, pack_cons, pack_cons, pack_nil]
  refine ofCore N (by rw [← hp]; rfl) (by omega) rfl fun wf => ?_
  have kM : bits N 26 6 = 48 := by unfold bits; omega
  have kF : bits N 12 4 = 0 := by unfold bits; omega
  simp only [decodeRow, kM, decodeMajor30, kF, and_self, false_and, Nat.reduceEqDiff, Nat.one_ne_zero, ↓reduceIte, fld_eq N 22 a (by omega), fld_eq N 19 s (by omega), fld_eq N 16 w (by omega), fld_eq N 0 o (by omega)]

theorem F.asopReduceMax (a s w o) : F.Statement (.asopReduceMax a s w o) := by
  have lt_a := a.isLt; have lt_s := s.isLt; have lt_w := w.isLt; have lt_o := o.isLt
  obtain ⟨N, hN⟩ : ∃ N, N = 0xC0001000 + a.toNat * 2 ^ 22 + s.toNat * 2 ^ 19 + w.toNat * 2 ^ 16 + o.toNat * 2 ^ 0 := ⟨_, rfl⟩
  have hp : pack 0xC0001000 [(a.toNat, 22), (s.toNat, 19), (w.toNat, 16), (o.toNat, 0)] = N := by rw [hN, pack_cons, pack_cons, pack_cons, pack_cons, pack_nil]
  refine ofCore N (by rw [← hp]; rfl) (by omega) rfl fun wf => ?_
  have kM : bits N 26 6 = 48 := by unfold bits; omega
  have kF : bits N 12 4 = 1 := by unfold bits; omega
  simp only [decodeRow, kM, decodeMajor30, kF, and_self, false_and, Nat.reduceEqDiff, Nat.one_ne_zero, ↓reduceIte, fld_eq N 22 a (by omega), fld_eq N 19 s (by omega), fld_eq N 16 w (by omega), fld_eq N 0 o (by omega)]

theorem F.asopAxpy (a s w o) : F.Statement (.asopAxpy a s w o) := by
  have lt_a := a.isLt; have lt_s := s.isLt; have lt_w := w.isLt; have lt_o := o.isLt
  obtain ⟨N, hN⟩ : ∃ N, N = 0xC0002000 + a.toNat * 2 ^ 22 + s.toNat * 2 ^ 19 + w.toNat * 2 ^ 16 + o.toNat * 2 ^ 0 := ⟨_, rfl⟩
  have hp : pack 0xC0002000 [(a.toNat, 22), (s.toNat, 19), (w.toNat, 16), (o.toNat, 0)] = N := by rw [hN, pack_cons, pack_cons, pack_cons, pack_cons, pack_nil]
  refine ofCore N (by rw [← hp]; rfl) (by omega) rfl fun wf => ?_
  have kM : bits N 26 6 = 48 := by unfold bits; omega
  have kF : bits N 12 4 = 2 := by unfold bits; omega
  simp only [decodeRow, kM, decodeMajor30, kF, and_self, false_and, Nat.reduceEqDiff, Nat.one_ne_zero, ↓reduceIte, fld_eq N 22 a (by omega), fld_eq N 19 s (by omega), fld_eq N 16 w (by omega), fld_eq N 0 o (by omega)]

theorem F.asopConvert (a s w o) : F.Statement (.asopConvert a s w o) := by
  have lt_a := a.isLt; have lt_s := s.isLt; have lt_w := w.isLt; have lt_o := o.isLt
  obtain ⟨N, hN⟩ : ∃ N, N = 0xC0003000 + a.toNat * 2 ^ 22 + s.toNat * 2 ^ 19 + w.toNat * 2 ^ 16 + o.toNat * 2 ^ 0 := ⟨_, rfl⟩
  have hp : pack 0xC0003000 [(a.toNat, 22), (s.toNat, 19), (w.toNat, 16), (o.toNat, 0)] = N := by rw [hN, pack_cons, pack_cons, pack_cons, pack_cons, pack_nil]
  refine ofCore N (by rw [← hp]; rfl) (by omega) rfl fun wf => ?_
  have kM : bits N 26 6 = 48 := by unfold bits; omega
  have kF : bits N 12 4 = 3 := by unfold bits; omega
  simp only [decodeRow, kM, decodeMajor30, kF, and_self, false_and, Nat.reduceEqDiff, Nat.one_ne_zero, ↓reduceIte, fld_eq N 22 a (by omega), fld_eq N 19 s (by omega), fld_eq N 16 w (by omega), fld_eq N 0 o (by omega)]

theorem F.asopScale (a s w o) : F.Statement (.asopScale a s w o) := by
  have lt_a := a.isLt; have lt_s := s.isLt; have lt_w := w.isLt; have lt_o := o.isLt
  obtain ⟨N, hN⟩ : ∃ N, N = 0xC0004000 + a.toNat * 2 ^ 22 + s.toNat * 2 ^ 19 + w.toNat * 2 ^ 16 + o.toNat * 2 ^ 0 := ⟨_, rfl⟩
  have hp : pack 0xC0004000 [(a.toNat, 22), (s.toNat, 19), (w.toNat, 16), (o.toNat, 0)] = N := by rw [hN, pack_cons, pack_cons, pack_cons, pack_cons, pack_nil]
  refine ofCore N (by rw [← hp]; rfl) (by omega) rfl fun wf => ?_
  have kM : bits N 26 6 = 48 := by unfold bits; omega
  have kF : bits N 12 4 = 4 := by unfold bits; omega
  simp only [decodeRow, kM, decodeMajor30, kF, and_self, false_and, Nat.reduceEqDiff, Nat.one_ne_zero, ↓reduceIte, fld_eq N 22 a (by omega), fld_eq N 19 s (by omega), fld_eq N 16 w (by omega), fld_eq N 0 o (by omega)]

theorem F.asopGather (a s w o) : F.Statement (.asopGather a s w o) := by
  have lt_a := a.isLt; have lt_s := s.isLt; have lt_w := w.isLt; have lt_o := o.isLt
  obtain ⟨N, hN⟩ : ∃ N, N = 0xC0005000 + a.toNat * 2 ^ 22 + s.toNat * 2 ^ 19 + w.toNat * 2 ^ 16 + o.toNat * 2 ^ 0 := ⟨_, rfl⟩
  have hp : pack 0xC0005000 [(a.toNat, 22), (s.toNat, 19), (w.toNat, 16), (o.toNat, 0)] = N := by rw [hN, pack_cons, pack_cons, pack_cons, pack_cons, pack_nil]
  refine ofCore N (by rw [← hp]; rfl) (by omega) rfl fun wf => ?_
  have kM : bits N 26 6 = 48 := by unfold bits; omega
  have kF : bits N 12 4 = 5 := by unfold bits; omega
  simp only [decodeRow, kM, decodeMajor30, kF, and_self, false_and, Nat.reduceEqDiff, Nat.one_ne_zero, ↓reduceIte, fld_eq N 22 a (by omega), fld_eq N 19 s (by omega), fld_eq N 16 w (by omega), fld_eq N 0 o (by omega)]

theorem F.asopScatterAdd (a s w o) : F.Statement (.asopScatterAdd a s w o) := by
  have lt_a := a.isLt; have lt_s := s.isLt; have lt_w := w.isLt; have lt_o := o.isLt
  obtain ⟨N, hN⟩ : ∃ N, N = 0xC0006000 + a.toNat * 2 ^ 22 + s.toNat * 2 ^ 19 + w.toNat * 2 ^ 16 + o.toNat * 2 ^ 0 := ⟨_, rfl⟩
  have hp : pack 0xC0006000 [(a.toNat, 22), (s.toNat, 19), (w.toNat, 16), (o.toNat, 0)] = N := by rw [hN, pack_cons, pack_cons, pack_cons, pack_cons, pack_nil]
  refine ofCore N (by rw [← hp]; rfl) (by omega) rfl fun wf => ?_
  have kM : bits N 26 6 = 48 := by unfold bits; omega
  have kF : bits N 12 4 = 6 := by unfold bits; omega
  simp only [decodeRow, kM, decodeMajor30, kF, and_self, false_and, Nat.reduceEqDiff, Nat.one_ne_zero, ↓reduceIte, fld_eq N 22 a (by omega), fld_eq N 19 s (by omega), fld_eq N 16 w (by omega), fld_eq N 0 o (by omega)]

theorem F.asopSmerge (a s w o) : F.Statement (.asopSmerge a s w o) := by
  have lt_a := a.isLt; have lt_s := s.isLt; have lt_w := w.isLt; have lt_o := o.isLt
  obtain ⟨N, hN⟩ : ∃ N, N = 0xC0007000 + a.toNat * 2 ^ 22 + s.toNat * 2 ^ 19 + w.toNat * 2 ^ 16 + o.toNat * 2 ^ 0 := ⟨_, rfl⟩
  have hp : pack 0xC0007000 [(a.toNat, 22), (s.toNat, 19), (w.toNat, 16), (o.toNat, 0)] = N := by rw [hN, pack_cons, pack_cons, pack_cons, pack_cons, pack_nil]
  refine ofCore N (by rw [← hp]; rfl) (by omega) rfl fun wf => ?_
  have kM : bits N 26 6 = 48 := by unfold bits; omega
  have kF : bits N 12 4 = 7 := by unfold bits; omega
  simp only [decodeRow, kM, decodeMajor30, kF, and_self, false_and, Nat.reduceEqDiff, Nat.one_ne_zero, ↓reduceIte, fld_eq N 22 a (by omega), fld_eq N 19 s (by omega), fld_eq N 16 w (by omega), fld_eq N 0 o (by omega)]

theorem F.jcsub (d a s) : F.Statement (.jcsub d a s) := by
  have lt_d := d.isLt; have lt_a := a.isLt; have lt_s := s.isLt
  obtain ⟨N, hN⟩ : ∃ N, N = 0xC4000001 + d.toNat * 2 ^ 20 + a.toNat * 2 ^ 14 + s.toNat * 2 ^ 5 := ⟨_, rfl⟩
  have hp : pack 0xC4000001 [(d.toNat, 20), (a.toNat, 14), (s.toNat, 5)] = N := by rw [hN, pack_cons, pack_cons, pack_cons, pack_nil]
  refine ofCore N (by rw [← hp]; rfl) (by omega) rfl fun wf => ?_
  have kM : bits N 26 6 = 49 := by unfold bits; omega
  have kF : bits N 0 5 = 1 := by unfold bits; omega
  have kC1 : bits N 8 6 = 0 := by unfold bits; omega
  have kC2 : bits N 18 2 = 0 := by unfold bits; omega
  simp only [decodeRow, kM, decodeMajor31, kF, kC1, kC2, and_self, false_and, Nat.reduceEqDiff, Nat.one_ne_zero, ↓reduceIte, fld_eq N 20 d (by omega), fld_eq N 14 a (by omega), fld_eq N 5 s (by omega)]

theorem F.jcwait (d a s) : F.Statement (.jcwait d a s) := by
  have lt_d := d.isLt; have lt_a := a.isLt; have lt_s := s.isLt
  obtain ⟨N, hN⟩ : ∃ N, N = 0xC4000002 + d.toNat * 2 ^ 20 + a.toNat * 2 ^ 14 + s.toNat * 2 ^ 5 := ⟨_, rfl⟩
  have hp : pack 0xC4000002 [(d.toNat, 20), (a.toNat, 14), (s.toNat, 5)] = N := by rw [hN, pack_cons, pack_cons, pack_cons, pack_nil]
  refine ofCore N (by rw [← hp]; rfl) (by omega) rfl fun wf => ?_
  have kM : bits N 26 6 = 49 := by unfold bits; omega
  have kF : bits N 0 5 = 2 := by unfold bits; omega
  have kC1 : bits N 8 6 = 0 := by unfold bits; omega
  simp only [decodeRow, kM, decodeMajor31, kF, kC1, and_self, false_and, Nat.reduceEqDiff, Nat.one_ne_zero, ↓reduceIte, fld_eq N 20 d (by omega), fld_eq N 14 a (by omega), fld_eq N 5 s (by omega)]

theorem F.segopen (d a b s) : F.Statement (.segopen d a b s) := by
  have lt_d := d.isLt; have lt_a := a.isLt; have lt_b := b.isLt; have lt_s := s.isLt
  obtain ⟨N, hN⟩ : ∃ N, N = 0xC4000003 + d.toNat * 2 ^ 20 + a.toNat * 2 ^ 14 + b.toNat * 2 ^ 8 + s.toNat * 2 ^ 5 := ⟨_, rfl⟩
  have hp : pack 0xC4000003 [(d.toNat, 20), (a.toNat, 14), (b.toNat, 8), (s.toNat, 5)] = N := by rw [hN, pack_cons, pack_cons, pack_cons, pack_cons, pack_nil]
  refine ofCore N (by rw [← hp]; rfl) (by omega) rfl fun wf => ?_
  have kM : bits N 26 6 = 49 := by unfold bits; omega
  have kF : bits N 0 5 = 3 := by unfold bits; omega
  have kC1 : bits N 18 2 = 0 := by unfold bits; omega
  simp only [decodeRow, kM, decodeMajor31, kF, kC1, and_self, false_and, Nat.reduceEqDiff, Nat.one_ne_zero, ↓reduceIte, fld_eq N 20 d (by omega), fld_eq N 14 a (by omega), fld_eq N 8 b (by omega), fld_eq N 5 s (by omega)]

theorem F.segput (c a b s) : F.Statement (.segput c a b s) := by
  have lt_c := c.isLt; have lt_a := a.isLt; have lt_b := b.isLt; have lt_s := s.isLt
  obtain ⟨N, hN⟩ : ∃ N, N = 0xC4000004 + c.toNat * 2 ^ 22 + a.toNat * 2 ^ 14 + b.toNat * 2 ^ 8 + s.toNat * 2 ^ 5 := ⟨_, rfl⟩
  have hp : pack 0xC4000004 [(c.toNat, 22), (a.toNat, 14), (b.toNat, 8), (s.toNat, 5)] = N := by rw [hN, pack_cons, pack_cons, pack_cons, pack_cons, pack_nil]
  refine ofCore N (by rw [← hp]; rfl) (by omega) rfl fun wf => ?_
  have kM : bits N 26 6 = 49 := by unfold bits; omega
  have kF : bits N 0 5 = 4 := by unfold bits; omega
  have kC1 : bits N 18 4 = 0 := by unfold bits; omega
  have kC2 : bits N 24 2 = 0 := by unfold bits; omega
  simp only [decodeRow, kM, decodeMajor31, kF, kC1, kC2, and_self, false_and, Nat.reduceEqDiff, Nat.one_ne_zero, ↓reduceIte, fld_eq N 22 c (by omega), fld_eq N 14 a (by omega), fld_eq N 8 b (by omega), fld_eq N 5 s (by omega)]

theorem F.segput2 (c a b s) : F.Statement (.segput2 c a b s) := by
  have lt_c := c.isLt; have lt_a := a.isLt; have lt_b := b.isLt; have lt_s := s.isLt
  obtain ⟨N, hN⟩ : ∃ N, N = 0xC4100004 + c.toNat * 2 ^ 22 + a.toNat * 2 ^ 14 + b.toNat * 2 ^ 8 + s.toNat * 2 ^ 5 := ⟨_, rfl⟩
  have hp : pack 0xC4100004 [(c.toNat, 22), (a.toNat, 14), (b.toNat, 8), (s.toNat, 5)] = N := by rw [hN, pack_cons, pack_cons, pack_cons, pack_cons, pack_nil]
  refine ofCore N (by rw [← hp]; rfl) (by omega) rfl fun wf => ?_
  have kM : bits N 26 6 = 49 := by unfold bits; omega
  have kF : bits N 0 5 = 4 := by unfold bits; omega
  have kC1 : ¬(bits N 18 4 = 0) := by unfold bits; omega
  have kC2 : bits N 18 4 = 4 := by unfold bits; omega
  have kC3 : bits N 24 2 = 0 := by unfold bits; omega
  simp only [decodeRow, kM, decodeMajor31, kF, kC1, kC2, kC3, and_self, false_and, Nat.reduceEqDiff, Nat.one_ne_zero, ↓reduceIte, fld_eq N 22 c (by omega), fld_eq N 14 a (by omega), fld_eq N 8 b (by omega), fld_eq N 5 s (by omega)]

theorem F.segputPfx (c a b s) : F.Statement (.segputPfx c a b s) := by
  have lt_c := c.isLt; have lt_a := a.isLt; have lt_b := b.isLt; have lt_s := s.isLt
  obtain ⟨N, hN⟩ : ∃ N, N = 0xC4200004 + c.toNat * 2 ^ 22 + a.toNat * 2 ^ 14 + b.toNat * 2 ^ 8 + s.toNat * 2 ^ 5 := ⟨_, rfl⟩
  have hp : pack 0xC4200004 [(c.toNat, 22), (a.toNat, 14), (b.toNat, 8), (s.toNat, 5)] = N := by rw [hN, pack_cons, pack_cons, pack_cons, pack_cons, pack_nil]
  refine ofCore N (by rw [← hp]; rfl) (by omega) rfl fun wf => ?_
  have kM : bits N 26 6 = 49 := by unfold bits; omega
  have kF : bits N 0 5 = 4 := by unfold bits; omega
  have kC1 : ¬(bits N 18 4 = 0) := by unfold bits; omega
  have kC2 : ¬(bits N 18 4 = 4) := by unfold bits; omega
  have kC3 : bits N 18 4 = 8 := by unfold bits; omega
  have kC4 : bits N 24 2 = 0 := by unfold bits; omega
  simp only [decodeRow, kM, decodeMajor31, kF, kC1, kC2, kC3, kC4, and_self, false_and, Nat.reduceEqDiff, Nat.one_ne_zero, ↓reduceIte, fld_eq N 22 c (by omega), fld_eq N 14 a (by omega), fld_eq N 8 b (by omega), fld_eq N 5 s (by omega)]

theorem F.segclose (d a c s) : F.Statement (.segclose d a c s) := by
  have lt_d := d.isLt; have lt_a := a.isLt; have lt_c := c.isLt; have lt_s := s.isLt
  obtain ⟨N, hN⟩ : ∃ N, N = 0xC4000005 + d.toNat * 2 ^ 20 + a.toNat * 2 ^ 14 + c.toNat * 2 ^ 8 + s.toNat * 2 ^ 5 := ⟨_, rfl⟩
  have hp : pack 0xC4000005 [(d.toNat, 20), (a.toNat, 14), (c.toNat, 8), (s.toNat, 5)] = N := by rw [hN, pack_cons, pack_cons, pack_cons, pack_cons, pack_nil]
  refine ofCore N (by rw [← hp]; rfl) (by omega) rfl fun wf => ?_
  have kM : bits N 26 6 = 49 := by unfold bits; omega
  have kF : bits N 0 5 = 5 := by unfold bits; omega
  have kC1 : bits N 10 4 = 0 := by unfold bits; omega
  have kC2 : bits N 18 2 = 0 := by unfold bits; omega
  simp only [decodeRow, kM, decodeMajor31, kF, kC1, kC2, and_self, false_and, Nat.reduceEqDiff, Nat.one_ne_zero, ↓reduceIte, fld_eq N 20 d (by omega), fld_eq N 14 a (by omega), fld_eq N 8 c (by omega), fld_eq N 5 s (by omega)]

theorem F.segcnt (d a c s) : F.Statement (.segcnt d a c s) := by
  have lt_d := d.isLt; have lt_a := a.isLt; have lt_c := c.isLt; have lt_s := s.isLt
  obtain ⟨N, hN⟩ : ∃ N, N = 0xC4000006 + d.toNat * 2 ^ 20 + a.toNat * 2 ^ 14 + c.toNat * 2 ^ 8 + s.toNat * 2 ^ 5 := ⟨_, rfl⟩
  have hp : pack 0xC4000006 [(d.toNat, 20), (a.toNat, 14), (c.toNat, 8), (s.toNat, 5)] = N := by rw [hN, pack_cons, pack_cons, pack_cons, pack_cons, pack_nil]
  refine ofCore N (by rw [← hp]; rfl) (by omega) rfl fun wf => ?_
  have kM : bits N 26 6 = 49 := by unfold bits; omega
  have kF : bits N 0 5 = 6 := by unfold bits; omega
  have kC1 : bits N 10 4 = 0 := by unfold bits; omega
  have kC2 : bits N 18 2 = 0 := by unfold bits; omega
  simp only [decodeRow, kM, decodeMajor31, kF, kC1, kC2, and_self, false_and, Nat.reduceEqDiff, Nat.one_ne_zero, ↓reduceIte, fld_eq N 20 d (by omega), fld_eq N 14 a (by omega), fld_eq N 8 c (by omega), fld_eq N 5 s (by omega)]

theorem F.ascfg (d a b s) : F.Statement (.ascfg d a b s) := by
  have lt_d := d.isLt; have lt_a := a.isLt; have lt_b := b.isLt; have lt_s := s.isLt
  obtain ⟨N, hN⟩ : ∃ N, N = 0xC4000007 + d.toNat * 2 ^ 20 + a.toNat * 2 ^ 14 + b.toNat * 2 ^ 8 + s.toNat * 2 ^ 5 := ⟨_, rfl⟩
  have hp : pack 0xC4000007 [(d.toNat, 20), (a.toNat, 14), (b.toNat, 8), (s.toNat, 5)] = N := by rw [hN, pack_cons, pack_cons, pack_cons, pack_cons, pack_nil]
  refine ofCore N (by rw [← hp]; rfl) (by omega) rfl fun wf => ?_
  have kM : bits N 26 6 = 49 := by unfold bits; omega
  have kF : bits N 0 5 = 7 := by unfold bits; omega
  have kC1 : bits N 18 2 = 0 := by unfold bits; omega
  simp only [decodeRow, kM, decodeMajor31, kF, kC1, and_self, false_and, Nat.reduceEqDiff, Nat.one_ne_zero, ↓reduceIte, fld_eq N 20 d (by omega), fld_eq N 14 a (by omega), fld_eq N 8 b (by omega), fld_eq N 5 s (by omega)]

theorem F.put (r p s n) : F.Statement (.put r p s n) := by
  have lt_r := r.isLt; have lt_p := p.isLt; have lt_s := s.isLt; have lt_n := n.isLt
  obtain ⟨N, hN⟩ : ∃ N, N = 0xC8000200 + r.toNat * 2 ^ 20 + p.toNat * 2 ^ 16 + s.toNat * 2 ^ 13 + n.toNat * 2 ^ 3 := ⟨_, rfl⟩
  have hp : pack 0xC8000200 [(r.toNat, 20), (p.toNat, 16), (s.toNat, 13), (n.toNat, 3)] = N := by rw [hN, pack_cons, pack_cons, pack_cons, pack_cons, pack_nil]
  refine ofCore N (by rw [← hp]; rfl) (by omega) rfl fun wf => ?_
  have kM : bits N 26 6 = 50 := by unfold bits; omega
  have kF : bits N 9 4 = 1 := by unfold bits; omega
  have kC1 : bits N 0 3 = 0 := by unfold bits; omega
  simp only [decodeRow, kM, decodeMajor32, kF, kC1, and_self, false_and, Nat.reduceEqDiff, Nat.one_ne_zero, ↓reduceIte, fld_eq N 20 r (by omega), fld_eq N 16 p (by omega), fld_eq N 13 s (by omega), fld_eq N 3 n (by omega)]

theorem F.get (r p s) : F.Statement (.get r p s) := by
  have lt_r := r.isLt; have lt_p := p.isLt; have lt_s := s.isLt
  obtain ⟨N, hN⟩ : ∃ N, N = 0xC8000400 + r.toNat * 2 ^ 20 + p.toNat * 2 ^ 16 + s.toNat * 2 ^ 13 := ⟨_, rfl⟩
  have hp : pack 0xC8000400 [(r.toNat, 20), (p.toNat, 16), (s.toNat, 13)] = N := by rw [hN, pack_cons, pack_cons, pack_cons, pack_nil]
  refine ofCore N (by rw [← hp]; rfl) (by omega) rfl fun wf => ?_
  have kM : bits N 26 6 = 50 := by unfold bits; omega
  have kF : bits N 9 4 = 2 := by unfold bits; omega
  have kC1 : bits N 0 9 = 0 := by unfold bits; omega
  simp only [decodeRow, kM, decodeMajor32, kF, kC1, and_self, false_and, Nat.reduceEqDiff, Nat.one_ne_zero, ↓reduceIte, fld_eq N 20 r (by omega), fld_eq N 16 p (by omega), fld_eq N 13 s (by omega)]

theorem F.offerPut (r p s n) : F.Statement (.offerPut r p s n) := by
  have lt_r := r.isLt; have lt_p := p.isLt; have lt_s := s.isLt; have lt_n := n.isLt
  obtain ⟨N, hN⟩ : ∃ N, N = 0xC8000600 + r.toNat * 2 ^ 20 + p.toNat * 2 ^ 16 + s.toNat * 2 ^ 13 + n.toNat * 2 ^ 3 := ⟨_, rfl⟩
  have hp : pack 0xC8000600 [(r.toNat, 20), (p.toNat, 16), (s.toNat, 13), (n.toNat, 3)] = N := by rw [hN, pack_cons, pack_cons, pack_cons, pack_cons, pack_nil]
  refine ofCore N (by rw [← hp]; rfl) (by omega) rfl fun wf => ?_
  have kM : bits N 26 6 = 50 := by unfold bits; omega
  have kF : bits N 9 4 = 3 := by unfold bits; omega
  have kC1 : bits N 0 3 = 0 := by unfold bits; omega
  simp only [decodeRow, kM, decodeMajor32, kF, kC1, and_self, false_and, Nat.reduceEqDiff, Nat.one_ne_zero, ↓reduceIte, fld_eq N 20 r (by omega), fld_eq N 16 p (by omega), fld_eq N 13 s (by omega), fld_eq N 3 n (by omega)]

theorem F.offerGet (p s) : F.Statement (.offerGet p s) := by
  have lt_p := p.isLt; have lt_s := s.isLt
  obtain ⟨N, hN⟩ : ∃ N, N = 0xC8000800 + p.toNat * 2 ^ 16 + s.toNat * 2 ^ 13 := ⟨_, rfl⟩
  have hp : pack 0xC8000800 [(p.toNat, 16), (s.toNat, 13)] = N := by rw [hN, pack_cons, pack_cons, pack_nil]
  refine ofCore N (by rw [← hp]; rfl) (by omega) rfl fun wf => ?_
  have kM : bits N 26 6 = 50 := by unfold bits; omega
  have kF : bits N 9 4 = 4 := by unfold bits; omega
  have kC1 : bits N 0 9 = 0 := by unfold bits; omega
  have kC2 : bits N 20 6 = 0 := by unfold bits; omega
  simp only [decodeRow, kM, decodeMajor32, kF, kC1, kC2, and_self, false_and, Nat.reduceEqDiff, Nat.one_ne_zero, ↓reduceIte, fld_eq N 16 p (by omega), fld_eq N 13 s (by omega)]

theorem F.poll (r p s) : F.Statement (.poll r p s) := by
  have lt_r := r.isLt; have lt_p := p.isLt; have lt_s := s.isLt
  obtain ⟨N, hN⟩ : ∃ N, N = 0xC8000A00 + r.toNat * 2 ^ 20 + p.toNat * 2 ^ 16 + s.toNat * 2 ^ 13 := ⟨_, rfl⟩
  have hp : pack 0xC8000A00 [(r.toNat, 20), (p.toNat, 16), (s.toNat, 13)] = N := by rw [hN, pack_cons, pack_cons, pack_cons, pack_nil]
  refine ofCore N (by rw [← hp]; rfl) (by omega) rfl fun wf => ?_
  have kM : bits N 26 6 = 50 := by unfold bits; omega
  have kF : bits N 9 4 = 5 := by unfold bits; omega
  have kC1 : bits N 0 9 = 0 := by unfold bits; omega
  simp only [decodeRow, kM, decodeMajor32, kF, kC1, and_self, false_and, Nat.reduceEqDiff, Nat.one_ne_zero, ↓reduceIte, fld_eq N 20 r (by omega), fld_eq N 16 p (by omega), fld_eq N 13 s (by omega)]

theorem F.retract (r p s) : F.Statement (.retract r p s) := by
  have lt_r := r.isLt; have lt_p := p.isLt; have lt_s := s.isLt
  obtain ⟨N, hN⟩ : ∃ N, N = 0xC8000C00 + r.toNat * 2 ^ 20 + p.toNat * 2 ^ 16 + s.toNat * 2 ^ 13 := ⟨_, rfl⟩
  have hp : pack 0xC8000C00 [(r.toNat, 20), (p.toNat, 16), (s.toNat, 13)] = N := by rw [hN, pack_cons, pack_cons, pack_cons, pack_nil]
  refine ofCore N (by rw [← hp]; rfl) (by omega) rfl fun wf => ?_
  have kM : bits N 26 6 = 50 := by unfold bits; omega
  have kF : bits N 9 4 = 6 := by unfold bits; omega
  have kC1 : bits N 0 9 = 0 := by unfold bits; omega
  simp only [decodeRow, kM, decodeMajor32, kF, kC1, and_self, false_and, Nat.reduceEqDiff, Nat.one_ne_zero, ↓reduceIte, fld_eq N 20 r (by omega), fld_eq N 16 p (by omega), fld_eq N 13 s (by omega)]

theorem F.conload (r s) : F.Statement (.conload r s) := by
  have lt_r := r.isLt; have lt_s := s.isLt
  obtain ⟨N, hN⟩ : ∃ N, N = 0xC8000E00 + r.toNat * 2 ^ 20 + s.toNat * 2 ^ 13 := ⟨_, rfl⟩
  have hp : pack 0xC8000E00 [(r.toNat, 20), (s.toNat, 13)] = N := by rw [hN, pack_cons, pack_cons, pack_nil]
  refine ofCore N (by rw [← hp]; rfl) (by omega) rfl fun wf => ?_
  have kM : bits N 26 6 = 50 := by unfold bits; omega
  have kF : bits N 9 4 = 7 := by unfold bits; omega
  have kC1 : bits N 0 9 = 0 := by unfold bits; omega
  have kC2 : bits N 16 4 = 0 := by unfold bits; omega
  have kC3 : bits N 24 2 = 0 := by unfold bits; omega
  simp only [decodeRow, kM, decodeMajor32, kF, kC1, kC2, kC3, and_self, false_and, Nat.reduceEqDiff, Nat.one_ne_zero, ↓reduceIte, fld_eq N 20 r (by omega), fld_eq N 13 s (by omega)]

theorem F.condrop (r s) : F.Statement (.condrop r s) := by
  have lt_r := r.isLt; have lt_s := s.isLt
  obtain ⟨N, hN⟩ : ∃ N, N = 0xC8001000 + r.toNat * 2 ^ 20 + s.toNat * 2 ^ 13 := ⟨_, rfl⟩
  have hp : pack 0xC8001000 [(r.toNat, 20), (s.toNat, 13)] = N := by rw [hN, pack_cons, pack_cons, pack_nil]
  refine ofCore N (by rw [← hp]; rfl) (by omega) rfl fun wf => ?_
  have kM : bits N 26 6 = 50 := by unfold bits; omega
  have kF : bits N 9 4 = 8 := by unfold bits; omega
  have kC1 : bits N 0 9 = 0 := by unfold bits; omega
  have kC2 : bits N 16 4 = 0 := by unfold bits; omega
  simp only [decodeRow, kM, decodeMajor32, kF, kC1, kC2, and_self, false_and, Nat.reduceEqDiff, Nat.one_ne_zero, ↓reduceIte, fld_eq N 20 r (by omega), fld_eq N 13 s (by omega)]

theorem F.constat (r s) : F.Statement (.constat r s) := by
  have lt_r := r.isLt; have lt_s := s.isLt
  obtain ⟨N, hN⟩ : ∃ N, N = 0xC8001200 + r.toNat * 2 ^ 20 + s.toNat * 2 ^ 13 := ⟨_, rfl⟩
  have hp : pack 0xC8001200 [(r.toNat, 20), (s.toNat, 13)] = N := by rw [hN, pack_cons, pack_cons, pack_nil]
  refine ofCore N (by rw [← hp]; rfl) (by omega) rfl fun wf => ?_
  have kM : bits N 26 6 = 50 := by unfold bits; omega
  have kF : bits N 9 4 = 9 := by unfold bits; omega
  have kC1 : bits N 0 9 = 0 := by unfold bits; omega
  have kC2 : bits N 16 4 = 0 := by unfold bits; omega
  simp only [decodeRow, kM, decodeMajor32, kF, kC1, kC2, and_self, false_and, Nat.reduceEqDiff, Nat.one_ne_zero, ↓reduceIte, fld_eq N 20 r (by omega), fld_eq N 13 s (by omega)]

theorem F.pbind (r p s) : F.Statement (.pbind r p s) := by
  have lt_r := r.isLt; have lt_p := p.isLt; have lt_s := s.isLt
  obtain ⟨N, hN⟩ : ∃ N, N = 0xC8001400 + r.toNat * 2 ^ 20 + p.toNat * 2 ^ 16 + s.toNat * 2 ^ 13 := ⟨_, rfl⟩
  have hp : pack 0xC8001400 [(r.toNat, 20), (p.toNat, 16), (s.toNat, 13)] = N := by rw [hN, pack_cons, pack_cons, pack_cons, pack_nil]
  refine ofCore N (by rw [← hp]; rfl) (by omega) rfl fun wf => ?_
  have kM : bits N 26 6 = 50 := by unfold bits; omega
  have kF : bits N 9 4 = 10 := by unfold bits; omega
  have kC1 : bits N 0 9 = 0 := by unfold bits; omega
  simp only [decodeRow, kM, decodeMajor32, kF, kC1, and_self, false_and, Nat.reduceEqDiff, Nat.one_ne_zero, ↓reduceIte, fld_eq N 20 r (by omega), fld_eq N 16 p (by omega), fld_eq N 13 s (by omega)]

theorem F.pgsub (d a s) : F.Statement (.pgsub d a s) := by
  have lt_d := d.isLt; have lt_a := a.isLt; have lt_s := s.isLt
  obtain ⟨N, hN⟩ : ∃ N, N = 0xCC000001 + d.toNat * 2 ^ 20 + a.toNat * 2 ^ 14 + s.toNat * 2 ^ 5 := ⟨_, rfl⟩
  have hp : pack 0xCC000001 [(d.toNat, 20), (a.toNat, 14), (s.toNat, 5)] = N := by rw [hN, pack_cons, pack_cons, pack_cons, pack_nil]
  refine ofCore N (by rw [← hp]; rfl) (by omega) rfl fun wf => ?_
  have kM : bits N 26 6 = 51 := by unfold bits; omega
  have kF : bits N 0 5 = 1 := by unfold bits; omega
  have kC1 : bits N 8 6 = 0 := by unfold bits; omega
  have kC2 : bits N 18 2 = 0 := by unfold bits; omega
  simp only [decodeRow, kM, decodeMajor33, kF, kC1, kC2, and_self, false_and, Nat.reduceEqDiff, Nat.one_ne_zero, ↓reduceIte, fld_eq N 20 d (by omega), fld_eq N 14 a (by omega), fld_eq N 5 s (by omega)]

theorem F.pgunsub (d a s) : F.Statement (.pgunsub d a s) := by
  have lt_d := d.isLt; have lt_a := a.isLt; have lt_s := s.isLt
  obtain ⟨N, hN⟩ : ∃ N, N = 0xCC000002 + d.toNat * 2 ^ 20 + a.toNat * 2 ^ 14 + s.toNat * 2 ^ 5 := ⟨_, rfl⟩
  have hp : pack 0xCC000002 [(d.toNat, 20), (a.toNat, 14), (s.toNat, 5)] = N := by rw [hN, pack_cons, pack_cons, pack_cons, pack_nil]
  refine ofCore N (by rw [← hp]; rfl) (by omega) rfl fun wf => ?_
  have kM : bits N 26 6 = 51 := by unfold bits; omega
  have kF : bits N 0 5 = 2 := by unfold bits; omega
  have kC1 : bits N 8 6 = 0 := by unfold bits; omega
  simp only [decodeRow, kM, decodeMajor33, kF, kC1, and_self, false_and, Nat.reduceEqDiff, Nat.one_ne_zero, ↓reduceIte, fld_eq N 20 d (by omega), fld_eq N 14 a (by omega), fld_eq N 5 s (by omega)]

theorem F.pgpass (d a s) : F.Statement (.pgpass d a s) := by
  have lt_d := d.isLt; have lt_a := a.isLt; have lt_s := s.isLt
  obtain ⟨N, hN⟩ : ∃ N, N = 0xCC000003 + d.toNat * 2 ^ 20 + a.toNat * 2 ^ 14 + s.toNat * 2 ^ 5 := ⟨_, rfl⟩
  have hp : pack 0xCC000003 [(d.toNat, 20), (a.toNat, 14), (s.toNat, 5)] = N := by rw [hN, pack_cons, pack_cons, pack_cons, pack_nil]
  refine ofCore N (by rw [← hp]; rfl) (by omega) rfl fun wf => ?_
  have kM : bits N 26 6 = 51 := by unfold bits; omega
  have kF : bits N 0 5 = 3 := by unfold bits; omega
  have kC1 : bits N 8 6 = 0 := by unfold bits; omega
  have kC2 : bits N 18 2 = 0 := by unfold bits; omega
  simp only [decodeRow, kM, decodeMajor33, kF, kC1, kC2, and_self, false_and, Nat.reduceEqDiff, Nat.one_ne_zero, ↓reduceIte, fld_eq N 20 d (by omega), fld_eq N 14 a (by omega), fld_eq N 5 s (by omega)]

theorem F.pgrecv (d a s) : F.Statement (.pgrecv d a s) := by
  have lt_d := d.isLt; have lt_a := a.isLt; have lt_s := s.isLt
  obtain ⟨N, hN⟩ : ∃ N, N = 0xCC000004 + d.toNat * 2 ^ 20 + a.toNat * 2 ^ 14 + s.toNat * 2 ^ 5 := ⟨_, rfl⟩
  have hp : pack 0xCC000004 [(d.toNat, 20), (a.toNat, 14), (s.toNat, 5)] = N := by rw [hN, pack_cons, pack_cons, pack_cons, pack_nil]
  refine ofCore N (by rw [← hp]; rfl) (by omega) rfl fun wf => ?_
  have kM : bits N 26 6 = 51 := by unfold bits; omega
  have kF : bits N 0 5 = 4 := by unfold bits; omega
  have kC1 : bits N 8 6 = 0 := by unfold bits; omega
  have kC2 : bits N 18 2 = 0 := by unfold bits; omega
  simp only [decodeRow, kM, decodeMajor33, kF, kC1, kC2, and_self, false_and, Nat.reduceEqDiff, Nat.one_ne_zero, ↓reduceIte, fld_eq N 20 d (by omega), fld_eq N 14 a (by omega), fld_eq N 5 s (by omega)]

theorem F.pgrecvFree (a s) : F.Statement (.pgrecvFree a s) := by
  have lt_a := a.isLt; have lt_s := s.isLt
  obtain ⟨N, hN⟩ : ∃ N, N = 0xCC000104 + a.toNat * 2 ^ 14 + s.toNat * 2 ^ 5 := ⟨_, rfl⟩
  have hp : pack 0xCC000104 [(a.toNat, 14), (s.toNat, 5)] = N := by rw [hN, pack_cons, pack_cons, pack_nil]
  refine ofCore N (by rw [← hp]; rfl) (by omega) rfl fun wf => ?_
  have kM : bits N 26 6 = 51 := by unfold bits; omega
  have kF : bits N 0 5 = 4 := by unfold bits; omega
  have kC1 : ¬(bits N 8 6 = 0) := by unfold bits; omega
  have kC2 : bits N 8 6 = 1 := by unfold bits; omega
  have kC3 : bits N 18 8 = 0 := by unfold bits; omega
  simp only [decodeRow, kM, decodeMajor33, kF, kC1, kC2, kC3, and_self, false_and, Nat.reduceEqDiff, Nat.one_ne_zero, ↓reduceIte, fld_eq N 14 a (by omega), fld_eq N 5 s (by omega)]

theorem F.mrgput (a b s) : F.Statement (.mrgput a b s) := by
  have lt_a := a.isLt; have lt_b := b.isLt; have lt_s := s.isLt
  obtain ⟨N, hN⟩ : ∃ N, N = 0xCC000005 + a.toNat * 2 ^ 14 + b.toNat * 2 ^ 8 + s.toNat * 2 ^ 5 := ⟨_, rfl⟩
  have hp : pack 0xCC000005 [(a.toNat, 14), (b.toNat, 8), (s.toNat, 5)] = N := by rw [hN, pack_cons, pack_cons, pack_cons, pack_nil]
  refine ofCore N (by rw [← hp]; rfl) (by omega) rfl fun wf => ?_
  have kM : bits N 26 6 = 51 := by unfold bits; omega
  have kF : bits N 0 5 = 5 := by unfold bits; omega
  have kC1 : bits N 18 8 = 0 := by unfold bits; omega
  simp only [decodeRow, kM, decodeMajor33, kF, kC1, and_self, false_and, Nat.reduceEqDiff, Nat.one_ne_zero, ↓reduceIte, fld_eq N 14 a (by omega), fld_eq N 8 b (by omega), fld_eq N 5 s (by omega)]

theorem F.mrgget (d a b s) : F.Statement (.mrgget d a b s) := by
  have lt_d := d.isLt; have lt_a := a.isLt; have lt_b := b.isLt; have lt_s := s.isLt
  obtain ⟨N, hN⟩ : ∃ N, N = 0xCC000006 + d.toNat * 2 ^ 20 + a.toNat * 2 ^ 14 + b.toNat * 2 ^ 8 + s.toNat * 2 ^ 5 := ⟨_, rfl⟩
  have hp : pack 0xCC000006 [(d.toNat, 20), (a.toNat, 14), (b.toNat, 8), (s.toNat, 5)] = N := by rw [hN, pack_cons, pack_cons, pack_cons, pack_cons, pack_nil]
  refine ofCore N (by rw [← hp]; rfl) (by omega) rfl fun wf => ?_
  have kM : bits N 26 6 = 51 := by unfold bits; omega
  have kF : bits N 0 5 = 6 := by unfold bits; omega
  have kC1 : bits N 18 2 = 0 := by unfold bits; omega
  simp only [decodeRow, kM, decodeMajor33, kF, kC1, and_self, false_and, Nat.reduceEqDiff, Nat.one_ne_zero, ↓reduceIte, fld_eq N 20 d (by omega), fld_eq N 14 a (by omega), fld_eq N 8 b (by omega), fld_eq N 5 s (by omega)]

theorem F.mrgcfg (d a b s) : F.Statement (.mrgcfg d a b s) := by
  have lt_d := d.isLt; have lt_a := a.isLt; have lt_b := b.isLt; have lt_s := s.isLt
  obtain ⟨N, hN⟩ : ∃ N, N = 0xCC000007 + d.toNat * 2 ^ 20 + a.toNat * 2 ^ 14 + b.toNat * 2 ^ 8 + s.toNat * 2 ^ 5 := ⟨_, rfl⟩
  have hp : pack 0xCC000007 [(d.toNat, 20), (a.toNat, 14), (b.toNat, 8), (s.toNat, 5)] = N := by rw [hN, pack_cons, pack_cons, pack_cons, pack_cons, pack_nil]
  refine ofCore N (by rw [← hp]; rfl) (by omega) rfl fun wf => ?_
  have kM : bits N 26 6 = 51 := by unfold bits; omega
  have kF : bits N 0 5 = 7 := by unfold bits; omega
  have kC1 : bits N 18 2 = 0 := by unfold bits; omega
  simp only [decodeRow, kM, decodeMajor33, kF, kC1, and_self, false_and, Nat.reduceEqDiff, Nat.one_ne_zero, ↓reduceIte, fld_eq N 20 d (by omega), fld_eq N 14 a (by omega), fld_eq N 8 b (by omega), fld_eq N 5 s (by omega)]

theorem F.sigdec (d a b s) : F.Statement (.sigdec d a b s) := by
  have lt_d := d.isLt; have lt_a := a.isLt; have lt_b := b.isLt; have lt_s := s.isLt
  obtain ⟨N, hN⟩ : ∃ N, N = 0xD0000001 + d.toNat * 2 ^ 20 + a.toNat * 2 ^ 14 + b.toNat * 2 ^ 8 + s.toNat * 2 ^ 5 := ⟨_, rfl⟩
  have hp : pack 0xD0000001 [(d.toNat, 20), (a.toNat, 14), (b.toNat, 8), (s.toNat, 5)] = N := by rw [hN, pack_cons, pack_cons, pack_cons, pack_cons, pack_nil]
  refine ofCore N (by rw [← hp]; rfl) (by omega) rfl fun wf => ?_
  have kM : bits N 26 6 = 52 := by unfold bits; omega
  have kF : bits N 0 5 = 1 := by unfold bits; omega
  have kC1 : bits N 18 2 = 0 := by unfold bits; omega
  simp only [decodeRow, kM, decodeMajor34, kF, kC1, and_self, false_and, Nat.reduceEqDiff, Nat.one_ne_zero, ↓reduceIte, fld_eq N 20 d (by omega), fld_eq N 14 a (by omega), fld_eq N 8 b (by omega), fld_eq N 5 s (by omega)]

theorem F.sigwait (d a b s) : F.Statement (.sigwait d a b s) := by
  have lt_d := d.isLt; have lt_a := a.isLt; have lt_b := b.isLt; have lt_s := s.isLt
  obtain ⟨N, hN⟩ : ∃ N, N = 0xD0000002 + d.toNat * 2 ^ 20 + a.toNat * 2 ^ 14 + b.toNat * 2 ^ 8 + s.toNat * 2 ^ 5 := ⟨_, rfl⟩
  have hp : pack 0xD0000002 [(d.toNat, 20), (a.toNat, 14), (b.toNat, 8), (s.toNat, 5)] = N := by rw [hN, pack_cons, pack_cons, pack_cons, pack_cons, pack_nil]
  refine ofCore N (by rw [← hp]; rfl) (by omega) rfl fun wf => ?_
  have kM : bits N 26 6 = 52 := by unfold bits; omega
  have kF : bits N 0 5 = 2 := by unfold bits; omega
  have kC1 : bits N 18 2 = 0 := by unfold bits; omega
  simp only [decodeRow, kM, decodeMajor34, kF, kC1, and_self, false_and, Nat.reduceEqDiff, Nat.one_ne_zero, ↓reduceIte, fld_eq N 20 d (by omega), fld_eq N 14 a (by omega), fld_eq N 8 b (by omega), fld_eq N 5 s (by omega)]

theorem F.dcinit (d a b s) : F.Statement (.dcinit d a b s) := by
  have lt_d := d.isLt; have lt_a := a.isLt; have lt_b := b.isLt; have lt_s := s.isLt
  obtain ⟨N, hN⟩ : ∃ N, N = 0xD0000003 + d.toNat * 2 ^ 20 + a.toNat * 2 ^ 14 + b.toNat * 2 ^ 8 + s.toNat * 2 ^ 5 := ⟨_, rfl⟩
  have hp : pack 0xD0000003 [(d.toNat, 20), (a.toNat, 14), (b.toNat, 8), (s.toNat, 5)] = N := by rw [hN, pack_cons, pack_cons, pack_cons, pack_cons, pack_nil]
  refine ofCore N (by rw [← hp]; rfl) (by omega) rfl fun wf => ?_
  have kM : bits N 26 6 = 52 := by unfold bits; omega
  have kF : bits N 0 5 = 3 := by unfold bits; omega
  simp only [decodeRow, kM, decodeMajor34, kF, and_self, false_and, Nat.reduceEqDiff, Nat.one_ne_zero, ↓reduceIte, fld_eq N 20 d (by omega), fld_eq N 14 a (by omega), fld_eq N 8 b (by omega), fld_eq N 5 s (by omega)]

theorem F.dcdec (d a b s) : F.Statement (.dcdec d a b s) := by
  have lt_d := d.isLt; have lt_a := a.isLt; have lt_b := b.isLt; have lt_s := s.isLt
  obtain ⟨N, hN⟩ : ∃ N, N = 0xD0000004 + d.toNat * 2 ^ 20 + a.toNat * 2 ^ 14 + b.toNat * 2 ^ 8 + s.toNat * 2 ^ 5 := ⟨_, rfl⟩
  have hp : pack 0xD0000004 [(d.toNat, 20), (a.toNat, 14), (b.toNat, 8), (s.toNat, 5)] = N := by rw [hN, pack_cons, pack_cons, pack_cons, pack_cons, pack_nil]
  refine ofCore N (by rw [← hp]; rfl) (by omega) rfl fun wf => ?_
  have kM : bits N 26 6 = 52 := by unfold bits; omega
  have kF : bits N 0 5 = 4 := by unfold bits; omega
  simp only [decodeRow, kM, decodeMajor34, kF, and_self, false_and, Nat.reduceEqDiff, Nat.one_ne_zero, ↓reduceIte, fld_eq N 20 d (by omega), fld_eq N 14 a (by omega), fld_eq N 8 b (by omega), fld_eq N 5 s (by omega)]

theorem F.rhopen (d a b s) : F.Statement (.rhopen d a b s) := by
  have lt_d := d.isLt; have lt_a := a.isLt; have lt_b := b.isLt; have lt_s := s.isLt
  obtain ⟨N, hN⟩ : ∃ N, N = 0xD4000001 + d.toNat * 2 ^ 20 + a.toNat * 2 ^ 14 + b.toNat * 2 ^ 8 + s.toNat * 2 ^ 5 := ⟨_, rfl⟩
  have hp : pack 0xD4000001 [(d.toNat, 20), (a.toNat, 14), (b.toNat, 8), (s.toNat, 5)] = N := by rw [hN, pack_cons, pack_cons, pack_cons, pack_cons, pack_nil]
  refine ofCore N (by rw [← hp]; rfl) (by omega) rfl fun wf => ?_
  have kM : bits N 26 6 = 53 := by unfold bits; omega
  have kF : bits N 0 5 = 1 := by unfold bits; omega
  have kC1 : bits N 18 2 = 0 := by unfold bits; omega
  simp only [decodeRow, kM, decodeMajor35, kF, kC1, and_self, false_and, Nat.reduceEqDiff, Nat.one_ne_zero, ↓reduceIte, fld_eq N 20 d (by omega), fld_eq N 14 a (by omega), fld_eq N 8 b (by omega), fld_eq N 5 s (by omega)]

theorem F.rhpri (a b s) : F.Statement (.rhpri a b s) := by
  have lt_a := a.isLt; have lt_b := b.isLt; have lt_s := s.isLt
  obtain ⟨N, hN⟩ : ∃ N, N = 0xD4000002 + a.toNat * 2 ^ 14 + b.toNat * 2 ^ 8 + s.toNat * 2 ^ 5 := ⟨_, rfl⟩
  have hp : pack 0xD4000002 [(a.toNat, 14), (b.toNat, 8), (s.toNat, 5)] = N := by rw [hN, pack_cons, pack_cons, pack_cons, pack_nil]
  refine ofCore N (by rw [← hp]; rfl) (by omega) rfl fun wf => ?_
  have kM : bits N 26 6 = 53 := by unfold bits; omega
  have kF : bits N 0 5 = 2 := by unfold bits; omega
  have kC1 : bits N 20 6 = 0 := by unfold bits; omega
  simp only [decodeRow, kM, decodeMajor35, kF, kC1, and_self, false_and, Nat.reduceEqDiff, Nat.one_ne_zero, ↓reduceIte, fld_eq N 14 a (by omega), fld_eq N 8 b (by omega), fld_eq N 5 s (by omega)]

theorem F.rhdemote (a s) : F.Statement (.rhdemote a s) := by
  have lt_a := a.isLt; have lt_s := s.isLt
  obtain ⟨N, hN⟩ : ∃ N, N = 0xD4000003 + a.toNat * 2 ^ 14 + s.toNat * 2 ^ 5 := ⟨_, rfl⟩
  have hp : pack 0xD4000003 [(a.toNat, 14), (s.toNat, 5)] = N := by rw [hN, pack_cons, pack_cons, pack_nil]
  refine ofCore N (by rw [← hp]; rfl) (by omega) rfl fun wf => ?_
  have kM : bits N 26 6 = 53 := by unfold bits; omega
  have kF : bits N 0 5 = 3 := by unfold bits; omega
  have kC1 : bits N 8 6 = 0 := by unfold bits; omega
  have kC2 : bits N 20 6 = 0 := by unfold bits; omega
  simp only [decodeRow, kM, decodeMajor35, kF, kC1, kC2, and_self, false_and, Nat.reduceEqDiff, Nat.one_ne_zero, ↓reduceIte, fld_eq N 14 a (by omega), fld_eq N 5 s (by omega)]

theorem F.rhevict (a s) : F.Statement (.rhevict a s) := by
  have lt_a := a.isLt; have lt_s := s.isLt
  obtain ⟨N, hN⟩ : ∃ N, N = 0xD4000004 + a.toNat * 2 ^ 14 + s.toNat * 2 ^ 5 := ⟨_, rfl⟩
  have hp : pack 0xD4000004 [(a.toNat, 14), (s.toNat, 5)] = N := by rw [hN, pack_cons, pack_cons, pack_nil]
  refine ofCore N (by rw [← hp]; rfl) (by omega) rfl fun wf => ?_
  have kM : bits N 26 6 = 53 := by unfold bits; omega
  have kF : bits N 0 5 = 4 := by unfold bits; omega
  have kC1 : bits N 8 6 = 0 := by unfold bits; omega
  have kC2 : bits N 20 6 = 0 := by unfold bits; omega
  simp only [decodeRow, kM, decodeMajor35, kF, kC1, kC2, and_self, false_and, Nat.reduceEqDiff, Nat.one_ne_zero, ↓reduceIte, fld_eq N 14 a (by omega), fld_eq N 5 s (by omega)]

theorem F.rhclose (a s) : F.Statement (.rhclose a s) := by
  have lt_a := a.isLt; have lt_s := s.isLt
  obtain ⟨N, hN⟩ : ∃ N, N = 0xD4000005 + a.toNat * 2 ^ 14 + s.toNat * 2 ^ 5 := ⟨_, rfl⟩
  have hp : pack 0xD4000005 [(a.toNat, 14), (s.toNat, 5)] = N := by rw [hN, pack_cons, pack_cons, pack_nil]
  refine ofCore N (by rw [← hp]; rfl) (by omega) rfl fun wf => ?_
  have kM : bits N 26 6 = 53 := by unfold bits; omega
  have kF : bits N 0 5 = 5 := by unfold bits; omega
  have kC1 : bits N 8 6 = 0 := by unfold bits; omega
  have kC2 : bits N 20 6 = 0 := by unfold bits; omega
  simp only [decodeRow, kM, decodeMajor35, kF, kC1, kC2, and_self, false_and, Nat.reduceEqDiff, Nat.one_ne_zero, ↓reduceIte, fld_eq N 14 a (by omega), fld_eq N 5 s (by omega)]

theorem F.bre (c d) : F.Statement (.bre c d) := by
  have lt_c := c.isLt; have lt_d := d.isLt
  obtain ⟨N, hN⟩ : ∃ N, N = 0xE0000000 + c.toNat * 2 ^ 20 + d.toNat * 2 ^ 0 := ⟨_, rfl⟩
  have hp : pack 0xE0000000 [(c.toNat, 20), (d.toNat, 0)] = N := by rw [hN, pack_cons, pack_cons, pack_nil]
  refine ofCore N (by rw [← hp]; rfl) (by omega) rfl fun wf => ?_
  have kM : bits N 26 6 = 56 := by unfold bits; omega
  simp only [decodeRow, kM, decodeMajor38, and_self, false_and, Nat.reduceEqDiff, Nat.one_ne_zero, ↓reduceIte, fld_eq N 20 c (by omega), fld_eq N 0 d (by omega)]

theorem F.beqz (c d) : F.Statement (.beqz c d) := by
  have lt_c := c.isLt; have lt_d := d.isLt
  obtain ⟨N, hN⟩ : ∃ N, N = 0xE4000000 + c.toNat * 2 ^ 20 + d.toNat * 2 ^ 0 := ⟨_, rfl⟩
  have hp : pack 0xE4000000 [(c.toNat, 20), (d.toNat, 0)] = N := by rw [hN, pack_cons, pack_cons, pack_nil]
  refine ofCore N (by rw [← hp]; rfl) (by omega) rfl fun wf => ?_
  have kM : bits N 26 6 = 57 := by unfold bits; omega
  simp only [decodeRow, kM, decodeMajor39, and_self, false_and, Nat.reduceEqDiff, Nat.one_ne_zero, ↓reduceIte, fld_eq N 20 c (by omega), fld_eq N 0 d (by omega)]

theorem F.bnez (c d) : F.Statement (.bnez c d) := by
  have lt_c := c.isLt; have lt_d := d.isLt
  obtain ⟨N, hN⟩ : ∃ N, N = 0xE8000000 + c.toNat * 2 ^ 20 + d.toNat * 2 ^ 0 := ⟨_, rfl⟩
  have hp : pack 0xE8000000 [(c.toNat, 20), (d.toNat, 0)] = N := by rw [hN, pack_cons, pack_cons, pack_nil]
  refine ofCore N (by rw [← hp]; rfl) (by omega) rfl fun wf => ?_
  have kM : bits N 26 6 = 58 := by unfold bits; omega
  simp only [decodeRow, kM, decodeMajor3A, and_self, false_and, Nat.reduceEqDiff, Nat.one_ne_zero, ↓reduceIte, fld_eq N 20 c (by omega), fld_eq N 0 d (by omega)]

theorem F.bra (a d) : F.Statement (.bra a d) := by
  have lt_a := a.isLt; have lt_d := d.isLt
  obtain ⟨N, hN⟩ : ∃ N, N = 0xEC000000 + a.toNat * 2 ^ 20 + d.toNat * 2 ^ 0 := ⟨_, rfl⟩
  have hp : pack 0xEC000000 [(a.toNat, 20), (d.toNat, 0)] = N := by rw [hN, pack_cons, pack_cons, pack_nil]
  refine ofCore N (by rw [← hp]; rfl) (by omega) rfl fun wf => ?_
  have kM : bits N 26 6 = 59 := by unfold bits; omega
  have kF : bits N 24 2 = 0 := by unfold bits; omega
  simp only [decodeRow, kM, decodeMajor3B, kF, and_self, false_and, Nat.reduceEqDiff, Nat.one_ne_zero, ↓reduceIte, fld_eq N 20 a (by omega), fld_eq N 0 d (by omega)]

theorem F.jmp (d) : F.Statement (.jmp d) := by
  have lt_d := d.isLt
  obtain ⟨N, hN⟩ : ∃ N, N = 0xED000000 + d.toNat * 2 ^ 0 := ⟨_, rfl⟩
  have hp : pack 0xED000000 [(d.toNat, 0)] = N := by rw [hN, pack_cons, pack_nil]
  refine ofCore N (by rw [← hp]; rfl) (by omega) rfl fun wf => ?_
  have kM : bits N 26 6 = 59 := by unfold bits; omega
  have kF : bits N 24 2 = 1 := by unfold bits; omega
  have kC1 : bits N 20 4 = 0 := by unfold bits; omega
  simp only [decodeRow, kM, decodeMajor3B, kF, kC1, and_self, false_and, Nat.reduceEqDiff, Nat.one_ne_zero, ↓reduceIte, fld_eq N 0 d (by omega)]

theorem F.call (d) : F.Statement (.call d) := by
  have lt_d := d.isLt
  obtain ⟨N, hN⟩ : ∃ N, N = 0xEE000000 + d.toNat * 2 ^ 0 := ⟨_, rfl⟩
  have hp : pack 0xEE000000 [(d.toNat, 0)] = N := by rw [hN, pack_cons, pack_nil]
  refine ofCore N (by rw [← hp]; rfl) (by omega) rfl fun wf => ?_
  have kM : bits N 26 6 = 59 := by unfold bits; omega
  have kF : bits N 24 2 = 2 := by unfold bits; omega
  have kC1 : bits N 20 4 = 0 := by unfold bits; omega
  simp only [decodeRow, kM, decodeMajor3B, kF, kC1, and_self, false_and, Nat.reduceEqDiff, Nat.one_ne_zero, ↓reduceIte, fld_eq N 0 d (by omega)]

theorem F.loop (a d) : F.Statement (.loop a d) := by
  have lt_a := a.isLt; have lt_d := d.isLt
  obtain ⟨N, hN⟩ : ∃ N, N = 0xEF000000 + a.toNat * 2 ^ 20 + d.toNat * 2 ^ 0 := ⟨_, rfl⟩
  have hp : pack 0xEF000000 [(a.toNat, 20), (d.toNat, 0)] = N := by rw [hN, pack_cons, pack_cons, pack_nil]
  refine ofCore N (by rw [← hp]; rfl) (by omega) rfl fun wf => ?_
  have kM : bits N 26 6 = 59 := by unfold bits; omega
  have kF : bits N 24 2 = 3 := by unfold bits; omega
  simp only [decodeRow, kM, decodeMajor3B, kF, and_self, false_and, Nat.reduceEqDiff, Nat.one_ne_zero, ↓reduceIte, fld_eq N 20 a (by omega), fld_eq N 0 d (by omega)]

theorem F.jmpi (a) : F.Statement (.jmpi a) := by
  have lt_a := a.isLt
  obtain ⟨N, hN⟩ : ∃ N, N = 0xF0000100 + a.toNat * 2 ^ 14 := ⟨_, rfl⟩
  have hp : pack 0xF0000100 [(a.toNat, 14)] = N := by rw [hN, pack_cons, pack_nil]
  refine ofCore N (by rw [← hp]; rfl) (by omega) rfl fun wf => ?_
  have kM : bits N 26 6 = 60 := by unfold bits; omega
  have kF : bits N 8 6 = 1 := by unfold bits; omega
  have kC1 : bits N 0 8 = 0 := by unfold bits; omega
  have kC2 : bits N 20 6 = 0 := by unfold bits; omega
  simp only [decodeRow, kM, decodeMajor3C, kF, kC1, kC2, and_self, false_and, Nat.reduceEqDiff, Nat.one_ne_zero, ↓reduceIte, fld_eq N 14 a (by omega)]

theorem F.follow (k) : F.Statement (.follow k) := by
  have lt_k := k.isLt
  obtain ⟨N, hN⟩ : ∃ N, N = 0xF0000300 + k.toNat * 2 ^ 0 := ⟨_, rfl⟩
  have hp : pack 0xF0000300 [(k.toNat, 0)] = N := by rw [hN, pack_cons, pack_nil]
  refine ofCore N (by rw [← hp]; rfl) (by omega) rfl fun wf => ?_
  have kM : bits N 26 6 = 60 := by unfold bits; omega
  have kF : bits N 8 6 = 3 := by unfold bits; omega
  have kC1 : bits N 14 12 = 0 := by unfold bits; omega
  simp only [decodeRow, kM, decodeMajor3C, kF, kC1, and_self, false_and, Nat.reduceEqDiff, Nat.one_ne_zero, ↓reduceIte, fld_eq N 0 k (by omega)]

theorem F.join (d a) : F.Statement (.join d a) := by
  have lt_d := d.isLt; have lt_a := a.isLt
  obtain ⟨N, hN⟩ : ∃ N, N = 0xF0000500 + d.toNat * 2 ^ 20 + a.toNat * 2 ^ 14 := ⟨_, rfl⟩
  have hp : pack 0xF0000500 [(d.toNat, 20), (a.toNat, 14)] = N := by rw [hN, pack_cons, pack_cons, pack_nil]
  refine ofCore N (by rw [← hp]; rfl) (by omega) rfl fun wf => ?_
  have kM : bits N 26 6 = 60 := by unfold bits; omega
  have kF : bits N 8 6 = 5 := by unfold bits; omega
  have kC1 : bits N 0 8 = 0 := by unfold bits; omega
  simp only [decodeRow, kM, decodeMajor3C, kF, kC1, and_self, false_and, Nat.reduceEqDiff, Nat.one_ne_zero, ↓reduceIte, fld_eq N 20 d (by omega), fld_eq N 14 a (by omega)]

theorem F.endc (a) : F.Statement (.endc a) := by
  have lt_a := a.isLt
  obtain ⟨N, hN⟩ : ∃ N, N = 0xF0000600 + a.toNat * 2 ^ 14 := ⟨_, rfl⟩
  have hp : pack 0xF0000600 [(a.toNat, 14)] = N := by rw [hN, pack_cons, pack_nil]
  refine ofCore N (by rw [← hp]; rfl) (by omega) rfl fun wf => ?_
  have kM : bits N 26 6 = 60 := by unfold bits; omega
  have kF : bits N 8 6 = 6 := by unfold bits; omega
  have kC1 : bits N 0 8 = 0 := by unfold bits; omega
  have kC2 : bits N 20 6 = 0 := by unfold bits; omega
  simp only [decodeRow, kM, decodeMajor3C, kF, kC1, kC2, and_self, false_and, Nat.reduceEqDiff, Nat.one_ne_zero, ↓reduceIte, fld_eq N 14 a (by omega)]

theorem F.rets (m d) : F.Statement (.rets m d) := by
  have lt_m := m.isLt; have lt_d := d.isLt
  obtain ⟨N, hN⟩ : ∃ N, N = 0xF0000700 + m.toNat * 2 ^ 20 + d.toNat * 2 ^ 14 := ⟨_, rfl⟩
  have hp : pack 0xF0000700 [(m.toNat, 20), (d.toNat, 14)] = N := by rw [hN, pack_cons, pack_cons, pack_nil]
  refine ofCore N (by rw [← hp]; rfl) (by omega) rfl fun wf => ?_
  have kM : bits N 26 6 = 60 := by unfold bits; omega
  have kF : bits N 8 6 = 7 := by unfold bits; omega
  have kC1 : bits N 0 8 = 0 := by unfold bits; omega
  simp only [decodeRow, kM, decodeMajor3C, kF, kC1, and_self, false_and, Nat.reduceEqDiff, Nat.one_ne_zero, ↓reduceIte, fld_eq N 20 m (by omega), fld_eq N 14 d (by omega)]

theorem F.rdsw (d i) : F.Statement (.rdsw d i) := by
  have lt_d := d.isLt; have lt_i := i.isLt
  obtain ⟨N, hN⟩ : ∃ N, N = 0xF0000900 + d.toNat * 2 ^ 20 + i.toNat * 2 ^ 0 := ⟨_, rfl⟩
  have hp : pack 0xF0000900 [(d.toNat, 20), (i.toNat, 0)] = N := by rw [hN, pack_cons, pack_cons, pack_nil]
  refine ofCore N (by rw [← hp]; rfl) (by omega) rfl fun wf => ?_
  have kM : bits N 26 6 = 60 := by unfold bits; omega
  have kF : bits N 8 6 = 9 := by unfold bits; omega
  have kC1 : bits N 6 2 = 0 := by unfold bits; omega
  have kC2 : bits N 14 6 = 0 := by unfold bits; omega
  simp only [decodeRow, kM, decodeMajor3C, kF, kC1, kC2, and_self, false_and, Nat.reduceEqDiff, Nat.one_ne_zero, ↓reduceIte, fld_eq N 20 d (by omega), fld_eq N 0 i (by omega)]

theorem F.wrsw (a i) : F.Statement (.wrsw a i) := by
  have lt_a := a.isLt; have lt_i := i.isLt
  obtain ⟨N, hN⟩ : ∃ N, N = 0xF0000A00 + a.toNat * 2 ^ 14 + i.toNat * 2 ^ 0 := ⟨_, rfl⟩
  have hp : pack 0xF0000A00 [(a.toNat, 14), (i.toNat, 0)] = N := by rw [hN, pack_cons, pack_cons, pack_nil]
  refine ofCore N (by rw [← hp]; rfl) (by omega) rfl fun wf => ?_
  have kM : bits N 26 6 = 60 := by unfold bits; omega
  have kF : bits N 8 6 = 10 := by unfold bits; omega
  have kC1 : bits N 6 2 = 0 := by unfold bits; omega
  have kC2 : bits N 20 6 = 0 := by unfold bits; omega
  simp only [decodeRow, kM, decodeMajor3C, kF, kC1, kC2, and_self, false_and, Nat.reduceEqDiff, Nat.one_ne_zero, ↓reduceIte, fld_eq N 14 a (by omega), fld_eq N 0 i (by omega)]

theorem F.tnsub (d a) : F.Statement (.tnsub d a) := by
  have lt_d := d.isLt; have lt_a := a.isLt
  obtain ⟨N, hN⟩ : ∃ N, N = 0xF0000B00 + d.toNat * 2 ^ 20 + a.toNat * 2 ^ 14 := ⟨_, rfl⟩
  have hp : pack 0xF0000B00 [(d.toNat, 20), (a.toNat, 14)] = N := by rw [hN, pack_cons, pack_cons, pack_nil]
  refine ofCore N (by rw [← hp]; rfl) (by omega) rfl fun wf => ?_
  have kM : bits N 26 6 = 60 := by unfold bits; omega
  have kF : bits N 8 6 = 11 := by unfold bits; omega
  have kC1 : bits N 0 8 = 0 := by unfold bits; omega
  have kC2 : bits N 18 2 = 0 := by unfold bits; omega
  simp only [decodeRow, kM, decodeMajor3C, kF, kC1, kC2, and_self, false_and, Nat.reduceEqDiff, Nat.one_ne_zero, ↓reduceIte, fld_eq N 20 d (by omega), fld_eq N 14 a (by omega)]

theorem F.tndone (d) : F.Statement (.tndone d) := by
  have lt_d := d.isLt
  obtain ⟨N, hN⟩ : ∃ N, N = 0xF0000C00 + d.toNat * 2 ^ 20 := ⟨_, rfl⟩
  have hp : pack 0xF0000C00 [(d.toNat, 20)] = N := by rw [hN, pack_cons, pack_nil]
  refine ofCore N (by rw [← hp]; rfl) (by omega) rfl fun wf => ?_
  have kM : bits N 26 6 = 60 := by unfold bits; omega
  have kF : bits N 8 6 = 12 := by unfold bits; omega
  have kC1 : bits N 0 8 = 0 := by unfold bits; omega
  have kC2 : bits N 14 6 = 0 := by unfold bits; omega
  simp only [decodeRow, kM, decodeMajor3C, kF, kC1, kC2, and_self, false_and, Nat.reduceEqDiff, Nat.one_ne_zero, ↓reduceIte, fld_eq N 20 d (by omega)]

theorem F.amsg (a) : F.Statement (.amsg a) := by
  have lt_a := a.isLt
  obtain ⟨N, hN⟩ : ∃ N, N = 0xF0000D00 + a.toNat * 2 ^ 14 := ⟨_, rfl⟩
  have hp : pack 0xF0000D00 [(a.toNat, 14)] = N := by rw [hN, pack_cons, pack_nil]
  refine ofCore N (by rw [← hp]; rfl) (by omega) rfl fun wf => ?_
  have kM : bits N 26 6 = 60 := by unfold bits; omega
  have kF : bits N 8 6 = 13 := by unfold bits; omega
  have kC1 : bits N 0 8 = 0 := by unfold bits; omega
  have kC2 : bits N 20 6 = 0 := by unfold bits; omega
  simp only [decodeRow, kM, decodeMajor3C, kF, kC1, kC2, and_self, false_and, Nat.reduceEqDiff, Nat.one_ne_zero, ↓reduceIte, fld_eq N 14 a (by omega)]

theorem F.inbx (d) : F.Statement (.inbx d) := by
  have lt_d := d.isLt
  obtain ⟨N, hN⟩ : ∃ N, N = 0xF0000E00 + d.toNat * 2 ^ 20 := ⟨_, rfl⟩
  have hp : pack 0xF0000E00 [(d.toNat, 20)] = N := by rw [hN, pack_cons, pack_nil]
  refine ofCore N (by rw [← hp]; rfl) (by omega) rfl fun wf => ?_
  have kM : bits N 26 6 = 60 := by unfold bits; omega
  have kF : bits N 8 6 = 14 := by unfold bits; omega
  have kC1 : bits N 0 8 = 0 := by unfold bits; omega
  have kC2 : bits N 14 6 = 0 := by unfold bits; omega
  simp only [decodeRow, kM, decodeMajor3C, kF, kC1, kC2, and_self, false_and, Nat.reduceEqDiff, Nat.one_ne_zero, ↓reduceIte, fld_eq N 20 d (by omega)]

theorem F.inbxWait (d) : F.Statement (.inbxWait d) := by
  have lt_d := d.isLt
  obtain ⟨N, hN⟩ : ∃ N, N = 0xF0000E01 + d.toNat * 2 ^ 20 := ⟨_, rfl⟩
  have hp : pack 0xF0000E01 [(d.toNat, 20)] = N := by rw [hN, pack_cons, pack_nil]
  refine ofCore N (by rw [← hp]; rfl) (by omega) rfl fun wf => ?_
  have kM : bits N 26 6 = 60 := by unfold bits; omega
  have kF : bits N 8 6 = 14 := by unfold bits; omega
  have kC1 : ¬(bits N 0 8 = 0) := by unfold bits; omega
  have kC2 : bits N 0 8 = 1 := by unfold bits; omega
  have kC3 : bits N 14 6 = 0 := by unfold bits; omega
  simp only [decodeRow, kM, decodeMajor3C, kF, kC1, kC2, kC3, and_self, false_and, Nat.reduceEqDiff, Nat.one_ne_zero, ↓reduceIte, fld_eq N 20 d (by omega)]

theorem F.fibsw (a) : F.Statement (.fibsw a) := by
  have lt_a := a.isLt
  obtain ⟨N, hN⟩ : ∃ N, N = 0xF0000F00 + a.toNat * 2 ^ 14 := ⟨_, rfl⟩
  have hp : pack 0xF0000F00 [(a.toNat, 14)] = N := by rw [hN, pack_cons, pack_nil]
  refine ofCore N (by rw [← hp]; rfl) (by omega) rfl fun wf => ?_
  have kM : bits N 26 6 = 60 := by unfold bits; omega
  have kF : bits N 8 6 = 15 := by unfold bits; omega
  have kC1 : bits N 0 8 = 0 := by unfold bits; omega
  have kC2 : bits N 18 8 = 0 := by unfold bits; omega
  simp only [decodeRow, kM, decodeMajor3C, kF, kC1, kC2, and_self, false_and, Nat.reduceEqDiff, Nat.one_ne_zero, ↓reduceIte, fld_eq N 14 a (by omega)]

theorem F.upret (a) : F.Statement (.upret a) := by
  have lt_a := a.isLt
  obtain ⟨N, hN⟩ : ∃ N, N = 0xF0001000 + a.toNat * 2 ^ 14 := ⟨_, rfl⟩
  have hp : pack 0xF0001000 [(a.toNat, 14)] = N := by rw [hN, pack_cons, pack_nil]
  refine ofCore N (by rw [← hp]; rfl) (by omega) rfl fun wf => ?_
  have kM : bits N 26 6 = 60 := by unfold bits; omega
  have kF : bits N 8 6 = 16 := by unfold bits; omega
  have kC1 : bits N 0 8 = 0 := by unfold bits; omega
  have kC2 : bits N 18 8 = 0 := by unfold bits; omega
  simp only [decodeRow, kM, decodeMajor3C, kF, kC1, kC2, and_self, false_and, Nat.reduceEqDiff, Nat.one_ne_zero, ↓reduceIte, fld_eq N 14 a (by omega)]

theorem F.sbwait (m) : F.Statement (.sbwait m) := by
  have lt_m := m.isLt
  obtain ⟨N, hN⟩ : ∃ N, N = 0xF0001200 + m.toNat * 2 ^ 0 := ⟨_, rfl⟩
  have hp : pack 0xF0001200 [(m.toNat, 0)] = N := by rw [hN, pack_cons, pack_nil]
  refine ofCore N (by rw [← hp]; rfl) (by omega) rfl fun wf => ?_
  have kM : bits N 26 6 = 60 := by unfold bits; omega
  have kF : bits N 8 6 = 18 := by unfold bits; omega
  have kC1 : bits N 7 1 = 0 := by unfold bits; omega
  have kC2 : bits N 14 12 = 0 := by unfold bits; omega
  simp only [decodeRow, kM, decodeMajor3C, kF, kC1, kC2, and_self, false_and, Nat.reduceEqDiff, Nat.one_ne_zero, ↓reduceIte, fld_eq N 0 m (by omega)]

theorem F.trap (k) : F.Statement (.trap k) := by
  have lt_k := k.isLt
  obtain ⟨N, hN⟩ : ∃ N, N = 0xF4000000 + k.toNat * 2 ^ 0 := ⟨_, rfl⟩
  have hp : pack 0xF4000000 [(k.toNat, 0)] = N := by rw [hN, pack_cons, pack_nil]
  refine ofCore N (by rw [← hp]; rfl) (by omega) rfl fun wf => ?_
  have kM : bits N 26 6 = 61 := by unfold bits; omega
  have kF : bits N 8 6 = 0 := by unfold bits; omega
  have kC1 : bits N 14 12 = 0 := by unfold bits; omega
  simp only [decodeRow, kM, decodeMajor3D, kF, kC1, and_self, false_and, Nat.reduceEqDiff, Nat.one_ne_zero, ↓reduceIte, fld_eq N 0 k (by omega)]

theorem F.svc (k) : F.Statement (.svc k) := by
  have lt_k := k.isLt
  obtain ⟨N, hN⟩ : ∃ N, N = 0xF4000200 + k.toNat * 2 ^ 0 := ⟨_, rfl⟩
  have hp : pack 0xF4000200 [(k.toNat, 0)] = N := by rw [hN, pack_cons, pack_nil]
  refine ofCore N (by rw [← hp]; rfl) (by omega) rfl fun wf => ?_
  have kM : bits N 26 6 = 61 := by unfold bits; omega
  have kF : bits N 8 6 = 2 := by unfold bits; omega
  have kC1 : bits N 14 12 = 0 := by unfold bits; omega
  simp only [decodeRow, kM, decodeMajor3D, kF, kC1, and_self, false_and, Nat.reduceEqDiff, Nat.one_ne_zero, ↓reduceIte, fld_eq N 0 k (by omega)]

theorem F.wrpriv (a) : F.Statement (.wrpriv a) := by
  have lt_a := a.isLt
  obtain ⟨N, hN⟩ : ∃ N, N = 0xF4000300 + a.toNat * 2 ^ 14 := ⟨_, rfl⟩
  have hp : pack 0xF4000300 [(a.toNat, 14)] = N := by rw [hN, pack_cons, pack_nil]
  refine ofCore N (by rw [← hp]; rfl) (by omega) rfl fun wf => ?_
  have kM : bits N 26 6 = 61 := by unfold bits; omega
  have kF : bits N 8 6 = 3 := by unfold bits; omega
  have kC1 : bits N 0 8 = 0 := by unfold bits; omega
  have kC2 : bits N 20 6 = 0 := by unfold bits; omega
  simp only [decodeRow, kM, decodeMajor3D, kF, kC1, kC2, and_self, false_and, Nat.reduceEqDiff, Nat.one_ne_zero, ↓reduceIte, fld_eq N 14 a (by omega)]

theorem F.xinvPage (d a) : F.Statement (.xinvPage d a) := by
  have lt_d := d.isLt; have lt_a := a.isLt
  obtain ⟨N, hN⟩ : ∃ N, N = 0xF4000400 + d.toNat * 2 ^ 20 + a.toNat * 2 ^ 14 := ⟨_, rfl⟩
  have hp : pack 0xF4000400 [(d.toNat, 20), (a.toNat, 14)] = N := by rw [hN, pack_cons, pack_cons, pack_nil]
  refine ofCore N (by rw [← hp]; rfl) (by omega) rfl fun wf => ?_
  have kM : bits N 26 6 = 61 := by unfold bits; omega
  have kF : bits N 8 6 = 4 := by unfold bits; omega
  have kC1 : bits N 0 8 = 0 := by unfold bits; omega
  have kC2 : bits N 24 2 = 0 := by unfold bits; omega
  simp only [decodeRow, kM, decodeMajor3D, kF, kC1, kC2, and_self, false_and, Nat.reduceEqDiff, Nat.one_ne_zero, ↓reduceIte, fld_eq N 20 d (by omega), fld_eq N 14 a (by omega)]

theorem F.xinvAsid (a) : F.Statement (.xinvAsid a) := by
  have lt_a := a.isLt
  obtain ⟨N, hN⟩ : ∃ N, N = 0xF4000401 + a.toNat * 2 ^ 14 := ⟨_, rfl⟩
  have hp : pack 0xF4000401 [(a.toNat, 14)] = N := by rw [hN, pack_cons, pack_nil]
  refine ofCore N (by rw [← hp]; rfl) (by omega) rfl fun wf => ?_
  have kM : bits N 26 6 = 61 := by unfold bits; omega
  have kF : bits N 8 6 = 4 := by unfold bits; omega
  have kC1 : ¬(bits N 0 8 = 0) := by unfold bits; omega
  have kC2 : bits N 0 8 = 1 := by unfold bits; omega
  have kC3 : bits N 20 6 = 0 := by unfold bits; omega
  simp only [decodeRow, kM, decodeMajor3D, kF, kC1, kC2, kC3, and_self, false_and, Nat.reduceEqDiff, Nat.one_ne_zero, ↓reduceIte, fld_eq N 14 a (by omega)]

theorem F.xinvFrame (a n) : F.Statement (.xinvFrame a n) := by
  have lt_a := a.isLt; have lt_n := n.isLt
  obtain ⟨N, hN⟩ : ∃ N, N = 0xF4000403 + a.toNat * 2 ^ 14 + n.toNat * 2 ^ 2 := ⟨_, rfl⟩
  have hp : pack 0xF4000403 [(a.toNat, 14), (n.toNat, 2)] = N := by rw [hN, pack_cons, pack_cons, pack_nil]
  refine ofCore N (by rw [← hp]; rfl) (by omega) rfl fun wf => ?_
  have kM : bits N 26 6 = 61 := by unfold bits; omega
  have kF : bits N 8 6 = 4 := by unfold bits; omega
  have kC1 : ¬(bits N 0 8 = 0) := by unfold bits; omega
  have kC2 : ¬(bits N 0 8 = 1) := by unfold bits; omega
  have kC3 : ¬(bits N 0 8 = 2) := by unfold bits; omega
  have kC4 : bits N 0 2 = 3 := by unfold bits; omega
  have kC5 : bits N 20 6 = 0 := by unfold bits; omega
  simp only [decodeRow, kM, decodeMajor3D, kF, kC1, kC2, kC3, kC4, kC5, and_self, false_and, Nat.reduceEqDiff, Nat.one_ne_zero, ↓reduceIte, fld_eq N 14 a (by omega), fld_eq N 2 n (by omega)]

theorem F.keysetRand (d a) : F.Statement (.keysetRand d a) := by
  have lt_d := d.isLt; have lt_a := a.isLt
  obtain ⟨N, hN⟩ : ∃ N, N = 0xF4000500 + d.toNat * 2 ^ 20 + a.toNat * 2 ^ 14 := ⟨_, rfl⟩
  have hp : pack 0xF4000500 [(d.toNat, 20), (a.toNat, 14)] = N := by rw [hN, pack_cons, pack_cons, pack_nil]
  refine ofCore N (by rw [← hp]; rfl) (by omega) rfl fun wf => ?_
  have kM : bits N 26 6 = 61 := by unfold bits; omega
  have kF : bits N 8 6 = 5 := by unfold bits; omega
  have kC1 : bits N 0 8 = 0 := by unfold bits; omega
  simp only [decodeRow, kM, decodeMajor3D, kF, kC1, and_self, false_and, Nat.reduceEqDiff, Nat.one_ne_zero, ↓reduceIte, fld_eq N 20 d (by omega), fld_eq N 14 a (by omega)]

theorem F.keysetLoad (d a m) : F.Statement (.keysetLoad d a m) := by
  have lt_d := d.isLt; have lt_a := a.isLt; have lt_m := m.isLt
  obtain ⟨N, hN⟩ : ∃ N, N = 0xF4000501 + d.toNat * 2 ^ 20 + a.toNat * 2 ^ 14 + m.toNat * 2 ^ 2 := ⟨_, rfl⟩
  have hp : pack 0xF4000501 [(d.toNat, 20), (a.toNat, 14), (m.toNat, 2)] = N := by rw [hN, pack_cons, pack_cons, pack_cons, pack_nil]
  refine ofCore N (by rw [← hp]; rfl) (by omega) rfl fun wf => ?_
  have kM : bits N 26 6 = 61 := by unfold bits; omega
  have kF : bits N 8 6 = 5 := by unfold bits; omega
  have kC1 : ¬(bits N 0 8 = 0) := by unfold bits; omega
  have kC2 : bits N 0 2 = 1 := by unfold bits; omega
  have kC3 : bits N 6 2 = 0 := by unfold bits; omega
  simp only [decodeRow, kM, decodeMajor3D, kF, kC1, kC2, kC3, and_self, false_and, Nat.reduceEqDiff, Nat.one_ne_zero, ↓reduceIte, fld_eq N 20 d (by omega), fld_eq N 14 a (by omega), fld_eq N 2 m (by omega)]

theorem F.keysetRetire (d a) : F.Statement (.keysetRetire d a) := by
  have lt_d := d.isLt; have lt_a := a.isLt
  obtain ⟨N, hN⟩ : ∃ N, N = 0xF4000502 + d.toNat * 2 ^ 20 + a.toNat * 2 ^ 14 := ⟨_, rfl⟩
  have hp : pack 0xF4000502 [(d.toNat, 20), (a.toNat, 14)] = N := by rw [hN, pack_cons, pack_cons, pack_nil]
  refine ofCore N (by rw [← hp]; rfl) (by omega) rfl fun wf => ?_
  have kM : bits N 26 6 = 61 := by unfold bits; omega
  have kF : bits N 8 6 = 5 := by unfold bits; omega
  have kC1 : ¬(bits N 0 8 = 0) := by unfold bits; omega
  have kC2 : ¬(bits N 0 2 = 1) := by unfold bits; omega
  have kC3 : bits N 0 8 = 2 := by unfold bits; omega
  simp only [decodeRow, kM, decodeMajor3D, kF, kC1, kC2, kC3, and_self, false_and, Nat.reduceEqDiff, Nat.one_ne_zero, ↓reduceIte, fld_eq N 20 d (by omega), fld_eq N 14 a (by omega)]

theorem F.pwrbOn (b) : F.Statement (.pwrbOn b) := by
  have lt_b := b.isLt
  obtain ⟨N, hN⟩ : ∃ N, N = 0xF4000600 + b.toNat * 2 ^ 0 := ⟨_, rfl⟩
  have hp : pack 0xF4000600 [(b.toNat, 0)] = N := by rw [hN, pack_cons, pack_nil]
  refine ofCore N (by rw [← hp]; rfl) (by omega) rfl fun wf => ?_
  have kM : bits N 26 6 = 61 := by unfold bits; omega
  have kF : bits N 8 6 = 6 := by unfold bits; omega
  have kC1 : bits N 4 4 = 0 := by unfold bits; omega
  have kC2 : bits N 14 12 = 0 := by unfold bits; omega
  simp only [decodeRow, kM, decodeMajor3D, kF, kC1, kC2, and_self, false_and, Nat.reduceEqDiff, Nat.one_ne_zero, ↓reduceIte, fld_eq N 0 b (by omega)]

theorem F.pwrbRtn (b) : F.Statement (.pwrbRtn b) := by
  have lt_b := b.isLt
  obtain ⟨N, hN⟩ : ∃ N, N = 0xF4000610 + b.toNat * 2 ^ 0 := ⟨_, rfl⟩
  have hp : pack 0xF4000610 [(b.toNat, 0)] = N := by rw [hN, pack_cons, pack_nil]
  refine ofCore N (by rw [← hp]; rfl) (by omega) rfl fun wf => ?_
  have kM : bits N 26 6 = 61 := by unfold bits; omega
  have kF : bits N 8 6 = 6 := by unfold bits; omega
  have kC1 : ¬(bits N 4 4 = 0) := by unfold bits; omega
  have kC2 : bits N 4 4 = 1 := by unfold bits; omega
  have kC3 : bits N 14 12 = 0 := by unfold bits; omega
  simp only [decodeRow, kM, decodeMajor3D, kF, kC1, kC2, kC3, and_self, false_and, Nat.reduceEqDiff, Nat.one_ne_zero, ↓reduceIte, fld_eq N 0 b (by omega)]

theorem F.pwrbSave (b) : F.Statement (.pwrbSave b) := by
  have lt_b := b.isLt
  obtain ⟨N, hN⟩ : ∃ N, N = 0xF4000620 + b.toNat * 2 ^ 0 := ⟨_, rfl⟩
  have hp : pack 0xF4000620 [(b.toNat, 0)] = N := by rw [hN, pack_cons, pack_nil]
  refine ofCore N (by rw [← hp]; rfl) (by omega) rfl fun wf => ?_
  have kM : bits N 26 6 = 61 := by unfold bits; omega
  have kF : bits N 8 6 = 6 := by unfold bits; omega
  have kC1 : ¬(bits N 4 4 = 0) := by unfold bits; omega
  have kC2 : ¬(bits N 4 4 = 1) := by unfold bits; omega
  have kC3 : bits N 4 4 = 2 := by unfold bits; omega
  have kC4 : bits N 14 12 = 0 := by unfold bits; omega
  simp only [decodeRow, kM, decodeMajor3D, kF, kC1, kC2, kC3, kC4, and_self, false_and, Nat.reduceEqDiff, Nat.one_ne_zero, ↓reduceIte, fld_eq N 0 b (by omega)]

theorem F.pwrbOff (b) : F.Statement (.pwrbOff b) := by
  have lt_b := b.isLt
  obtain ⟨N, hN⟩ : ∃ N, N = 0xF4000630 + b.toNat * 2 ^ 0 := ⟨_, rfl⟩
  have hp : pack 0xF4000630 [(b.toNat, 0)] = N := by rw [hN, pack_cons, pack_nil]
  refine ofCore N (by rw [← hp]; rfl) (by omega) rfl fun wf => ?_
  have kM : bits N 26 6 = 61 := by unfold bits; omega
  have kF : bits N 8 6 = 6 := by unfold bits; omega
  have kC1 : ¬(bits N 4 4 = 0) := by unfold bits; omega
  have kC2 : ¬(bits N 4 4 = 1) := by unfold bits; omega
  have kC3 : ¬(bits N 4 4 = 2) := by unfold bits; omega
  have kC4 : bits N 4 4 = 3 := by unfold bits; omega
  have kC5 : bits N 14 12 = 0 := by unfold bits; omega
  simp only [decodeRow, kM, decodeMajor3D, kF, kC1, kC2, kC3, kC4, kC5, and_self, false_and, Nat.reduceEqDiff, Nat.one_ne_zero, ↓reduceIte, fld_eq N 0 b (by omega)]

theorem F.attest (d a s) : F.Statement (.attest d a s) := by
  have lt_d := d.isLt; have lt_a := a.isLt; have lt_s := s.isLt
  obtain ⟨N, hN⟩ : ∃ N, N = 0xF4000800 + d.toNat * 2 ^ 20 + a.toNat * 2 ^ 14 + s.toNat * 2 ^ 0 := ⟨_, rfl⟩
  have hp : pack 0xF4000800 [(d.toNat, 20), (a.toNat, 14), (s.toNat, 0)] = N := by rw [hN, pack_cons, pack_cons, pack_cons, pack_nil]
  refine ofCore N (by rw [← hp]; rfl) (by omega) rfl fun wf => ?_
  have kM : bits N 26 6 = 61 := by unfold bits; omega
  have kF : bits N 8 6 = 8 := by unfold bits; omega
  have kC1 : bits N 3 5 = 0 := by unfold bits; omega
  have kC2 : bits N 18 2 = 0 := by unfold bits; omega
  simp only [decodeRow, kM, decodeMajor3D, kF, kC1, kC2, and_self, false_and, Nat.reduceEqDiff, Nat.one_ne_zero, ↓reduceIte, fld_eq N 20 d (by omega), fld_eq N 14 a (by omega), fld_eq N 0 s (by omega)]

theorem F.sparemap (d a) : F.Statement (.sparemap d a) := by
  have lt_d := d.isLt; have lt_a := a.isLt
  obtain ⟨N, hN⟩ : ∃ N, N = 0xF4000900 + d.toNat * 2 ^ 20 + a.toNat * 2 ^ 14 := ⟨_, rfl⟩
  have hp : pack 0xF4000900 [(d.toNat, 20), (a.toNat, 14)] = N := by rw [hN, pack_cons, pack_cons, pack_nil]
  refine ofCore N (by rw [← hp]; rfl) (by omega) rfl fun wf => ?_
  have kM : bits N 26 6 = 61 := by unfold bits; omega
  have kF : bits N 8 6 = 9 := by unfold bits; omega
  have kC1 : bits N 0 8 = 0 := by unfold bits; omega
  simp only [decodeRow, kM, decodeMajor3D, kF, kC1, and_self, false_and, Nat.reduceEqDiff, Nat.one_ne_zero, ↓reduceIte, fld_eq N 20 d (by omega), fld_eq N 14 a (by omega)]

theorem F.start (c d) : F.Statement (.start c d) := by
  have lt_c := c.isLt; have lt_d := d.isLt
  obtain ⟨N, hN⟩ : ∃ N, N = 0xF8000000 + c.toNat * 2 ^ 20 + d.toNat * 2 ^ 0 := ⟨_, rfl⟩
  have hp : pack 0xF8000000 [(c.toNat, 20), (d.toNat, 0)] = N := by rw [hN, pack_cons, pack_cons, pack_nil]
  refine ofCore N (by rw [← hp]; rfl) (by omega) rfl fun wf => ?_
  have kM : bits N 26 6 = 62 := by unfold bits; omega
  simp only [decodeRow, kM, decodeMajor3E, and_self, false_and, Nat.reduceEqDiff, Nat.one_ne_zero, ↓reduceIte, fld_eq N 20 c (by omega), fld_eq N 0 d (by omega)]

theorem F.hintPfx (p) : F.Statement (.hintPfx p) := by
  have lt_p := p.isLt
  obtain ⟨N, hN⟩ : ∃ N, N = 0xFC000000 + p.toNat * 2 ^ 0 := ⟨_, rfl⟩
  have hp : pack 0xFC000000 [(p.toNat, 0)] = N := by rw [hN, pack_cons, pack_nil]
  refine ofCore N (by rw [← hp]; rfl) (by omega) rfl fun wf => ?_
  have kM : bits N 26 6 = 63 := by unfold bits; omega
  have kF : bits N 22 4 = 0 := by unfold bits; omega
  simp only [decodeRow, kM, decodeMajor3F, kF, and_self, false_and, Nat.reduceEqDiff, Nat.one_ne_zero, ↓reduceIte, fld_eq N 0 p (by omega)]

theorem F.hintSched (n) : F.Statement (.hintSched n) := by
  have lt_n := n.isLt
  obtain ⟨N, hN⟩ : ∃ N, N = 0xFC400000 + n.toNat * 2 ^ 0 := ⟨_, rfl⟩
  have hp : pack 0xFC400000 [(n.toNat, 0)] = N := by rw [hN, pack_cons, pack_nil]
  refine ofCore N (by rw [← hp]; rfl) (by omega) rfl fun wf => ?_
  have kM : bits N 26 6 = 63 := by unfold bits; omega
  have kF : bits N 22 4 = 1 := by unfold bits; omega
  have kC1 : bits N 8 14 = 0 := by unfold bits; omega
  simp only [decodeRow, kM, decodeMajor3F, kF, kC1, and_self, false_and, Nat.reduceEqDiff, Nat.one_ne_zero, ↓reduceIte, fld_eq N 0 n (by omega)]

theorem F.hintMod (t n) : F.Statement (.hintMod t n) := by
  have lt_t := t.isLt; have lt_n := n.isLt
  obtain ⟨N, hN⟩ : ∃ N, N = 0xFC800000 + t.toNat * 2 ^ 1 + n.toNat * 2 ^ 0 := ⟨_, rfl⟩
  have hp : pack 0xFC800000 [(t.toNat, 1), (n.toNat, 0)] = N := by rw [hN, pack_cons, pack_cons, pack_nil]
  refine ofCore N (by rw [← hp]; rfl) (by omega) rfl fun wf => ?_
  have kM : bits N 26 6 = 63 := by unfold bits; omega
  have kF : bits N 22 4 = 2 := by unfold bits; omega
  have kC1 : bits N 6 16 = 0 := by unfold bits; omega
  simp only [decodeRow, kM, decodeMajor3F, kF, kC1, and_self, false_and, Nat.reduceEqDiff, Nat.one_ne_zero, ↓reduceIte, fld_eq N 1 t (by omega), fld_eq N 0 n (by omega)]

theorem F.hintPrio (l) : F.Statement (.hintPrio l) := by
  have lt_l := l.isLt
  obtain ⟨N, hN⟩ : ∃ N, N = 0xFCC00000 + l.toNat * 2 ^ 0 := ⟨_, rfl⟩
  have hp : pack 0xFCC00000 [(l.toNat, 0)] = N := by rw [hN, pack_cons, pack_nil]
  refine ofCore N (by rw [← hp]; rfl) (by omega) rfl fun wf => ?_
  have kM : bits N 26 6 = 63 := by unfold bits; omega
  have kF : bits N 22 4 = 3 := by unfold bits; omega
  have kC1 : bits N 3 19 = 0 := by unfold bits; omega
  simp only [decodeRow, kM, decodeMajor3F, kF, kC1, and_self, false_and, Nat.reduceEqDiff, Nat.one_ne_zero, ↓reduceIte, fld_eq N 0 l (by omega)]

theorem F.qmovi (d imm) : F.Statement (.qmovi d imm) := by
  have lt_d := d.isLt; have lt_imm := imm.isLt
  obtain ⟨N, hN⟩ : ∃ N, N = 1 + d.toNat * 2 ^ 8 + imm.toNat * 2 ^ 16 := ⟨_, rfl⟩
  have hp : pack 1 [(d.toNat, 8), (imm.toNat, 16)] = N := by rw [hN, pack_cons, pack_cons, pack_nil]
  refine ofQueue N (by rw [← hp]; rfl) (by omega) rfl fun _ => ?_
  have kF : bits N 0 8 = 1 := by unfold bits; omega
  have kC1 : bits N 12 4 = 0 := by unfold bits; omega
  simp only [decodeQueueRow, kF, kC1, and_self, false_and, Nat.reduceEqDiff, Nat.one_ne_zero, ↓reduceIte, fld_eq N 8 d (by omega), fld_eq N 16 imm (by omega)]

theorem F.qmov (d s) : F.Statement (.qmov d s) := by
  have lt_d := d.isLt; have lt_s := s.isLt
  obtain ⟨N, hN⟩ : ∃ N, N = 2 + d.toNat * 2 ^ 8 + s.toNat * 2 ^ 12 := ⟨_, rfl⟩
  have hp : pack 2 [(d.toNat, 8), (s.toNat, 12)] = N := by rw [hN, pack_cons, pack_cons, pack_nil]
  refine ofQueue N (by rw [← hp]; rfl) (by omega) rfl fun _ => ?_
  have kF : bits N 0 8 = 2 := by unfold bits; omega
  have kC1 : bits N 16 48 = 0 := by unfold bits; omega
  simp only [decodeQueueRow, kF, kC1, and_self, false_and, Nat.reduceEqDiff, Nat.one_ne_zero, ↓reduceIte, fld_eq N 8 d (by omega), fld_eq N 12 s (by omega)]

theorem F.qadd (d s) : F.Statement (.qadd d s) := by
  have lt_d := d.isLt; have lt_s := s.isLt
  obtain ⟨N, hN⟩ : ∃ N, N = 3 + d.toNat * 2 ^ 8 + s.toNat * 2 ^ 12 := ⟨_, rfl⟩
  have hp : pack 3 [(d.toNat, 8), (s.toNat, 12)] = N := by rw [hN, pack_cons, pack_cons, pack_nil]
  refine ofQueue N (by rw [← hp]; rfl) (by omega) rfl fun _ => ?_
  have kF : bits N 0 8 = 3 := by unfold bits; omega
  have kC1 : bits N 16 48 = 0 := by unfold bits; omega
  simp only [decodeQueueRow, kF, kC1, and_self, false_and, Nat.reduceEqDiff, Nat.one_ne_zero, ↓reduceIte, fld_eq N 8 d (by omega), fld_eq N 12 s (by omega)]

theorem F.qaddi (d imm) : F.Statement (.qaddi d imm) := by
  have lt_d := d.isLt; have lt_imm := imm.isLt
  obtain ⟨N, hN⟩ : ∃ N, N = 4 + d.toNat * 2 ^ 8 + imm.toNat * 2 ^ 16 := ⟨_, rfl⟩
  have hp : pack 4 [(d.toNat, 8), (imm.toNat, 16)] = N := by rw [hN, pack_cons, pack_cons, pack_nil]
  refine ofQueue N (by rw [← hp]; rfl) (by omega) rfl fun _ => ?_
  have kF : bits N 0 8 = 4 := by unfold bits; omega
  have kC1 : bits N 12 4 = 0 := by unfold bits; omega
  simp only [decodeQueueRow, kF, kC1, and_self, false_and, Nat.reduceEqDiff, Nat.one_ne_zero, ↓reduceIte, fld_eq N 8 d (by omega), fld_eq N 16 imm (by omega)]

theorem F.qand (d s) : F.Statement (.qand d s) := by
  have lt_d := d.isLt; have lt_s := s.isLt
  obtain ⟨N, hN⟩ : ∃ N, N = 5 + d.toNat * 2 ^ 8 + s.toNat * 2 ^ 12 := ⟨_, rfl⟩
  have hp : pack 5 [(d.toNat, 8), (s.toNat, 12)] = N := by rw [hN, pack_cons, pack_cons, pack_nil]
  refine ofQueue N (by rw [← hp]; rfl) (by omega) rfl fun _ => ?_
  have kF : bits N 0 8 = 5 := by unfold bits; omega
  have kC1 : bits N 16 48 = 0 := by unfold bits; omega
  simp only [decodeQueueRow, kF, kC1, and_self, false_and, Nat.reduceEqDiff, Nat.one_ne_zero, ↓reduceIte, fld_eq N 8 d (by omega), fld_eq N 12 s (by omega)]

theorem F.qshl (d n) : F.Statement (.qshl d n) := by
  have lt_d := d.isLt; have lt_n := n.isLt
  obtain ⟨N, hN⟩ : ∃ N, N = 6 + d.toNat * 2 ^ 8 + n.toNat * 2 ^ 16 := ⟨_, rfl⟩
  have hp : pack 6 [(d.toNat, 8), (n.toNat, 16)] = N := by rw [hN, pack_cons, pack_cons, pack_nil]
  refine ofQueue N (by rw [← hp]; rfl) (by omega) rfl fun _ => ?_
  have kF : bits N 0 8 = 6 := by unfold bits; omega
  have kC1 : bits N 12 4 = 0 := by unfold bits; omega
  have kC2 : bits N 22 42 = 0 := by unfold bits; omega
  simp only [decodeQueueRow, kF, kC1, kC2, and_self, false_and, Nat.reduceEqDiff, Nat.one_ne_zero, ↓reduceIte, fld_eq N 8 d (by omega), fld_eq N 16 n (by omega)]

theorem F.qshr (d n) : F.Statement (.qshr d n) := by
  have lt_d := d.isLt; have lt_n := n.isLt
  obtain ⟨N, hN⟩ : ∃ N, N = 7 + d.toNat * 2 ^ 8 + n.toNat * 2 ^ 16 := ⟨_, rfl⟩
  have hp : pack 7 [(d.toNat, 8), (n.toNat, 16)] = N := by rw [hN, pack_cons, pack_cons, pack_nil]
  refine ofQueue N (by rw [← hp]; rfl) (by omega) rfl fun _ => ?_
  have kF : bits N 0 8 = 7 := by unfold bits; omega
  have kC1 : bits N 12 4 = 0 := by unfold bits; omega
  have kC2 : bits N 22 42 = 0 := by unfold bits; omega
  simp only [decodeQueueRow, kF, kC1, kC2, and_self, false_and, Nat.reduceEqDiff, Nat.one_ne_zero, ↓reduceIte, fld_eq N 8 d (by omega), fld_eq N 16 n (by omega)]

theorem F.qld (d s w off) : F.Statement (.qld d s w off) := by
  have lt_d := d.isLt; have lt_s := s.isLt; have lt_w := w.isLt; have lt_off := off.isLt
  obtain ⟨N, hN⟩ : ∃ N, N = 8 + d.toNat * 2 ^ 8 + s.toNat * 2 ^ 12 + w.toNat * 2 ^ 32 + off.toNat * 2 ^ 16 := ⟨_, rfl⟩
  have hp : pack 8 [(d.toNat, 8), (s.toNat, 12), (w.toNat, 32), (off.toNat, 16)] = N := by rw [hN, pack_cons, pack_cons, pack_cons, pack_cons, pack_nil]
  refine ofQueue N (by rw [← hp]; rfl) (by omega) rfl fun _ => ?_
  have kF : bits N 0 8 = 8 := by unfold bits; omega
  have kC1 : bits N 34 30 = 0 := by unfold bits; omega
  simp only [decodeQueueRow, kF, kC1, and_self, false_and, Nat.reduceEqDiff, Nat.one_ne_zero, ↓reduceIte, fld_eq N 8 d (by omega), fld_eq N 12 s (by omega), fld_eq N 32 w (by omega), fld_eq N 16 off (by omega)]

theorem F.qst (d s w off) : F.Statement (.qst d s w off) := by
  have lt_d := d.isLt; have lt_s := s.isLt; have lt_w := w.isLt; have lt_off := off.isLt
  obtain ⟨N, hN⟩ : ∃ N, N = 9 + d.toNat * 2 ^ 8 + s.toNat * 2 ^ 12 + w.toNat * 2 ^ 32 + off.toNat * 2 ^ 16 := ⟨_, rfl⟩
  have hp : pack 9 [(d.toNat, 8), (s.toNat, 12), (w.toNat, 32), (off.toNat, 16)] = N := by rw [hN, pack_cons, pack_cons, pack_cons, pack_cons, pack_nil]
  refine ofQueue N (by rw [← hp]; rfl) (by omega) rfl fun _ => ?_
  have kF : bits N 0 8 = 9 := by unfold bits; omega
  have kC1 : bits N 34 30 = 0 := by unfold bits; omega
  simp only [decodeQueueRow, kF, kC1, and_self, false_and, Nat.reduceEqDiff, Nat.one_ne_zero, ↓reduceIte, fld_eq N 8 d (by omega), fld_eq N 12 s (by omega), fld_eq N 32 w (by omega), fld_eq N 16 off (by omega)]

theorem F.qbeq (d s disp bound) : F.Statement (.qbeq d s disp bound) := by
  have lt_d := d.isLt; have lt_s := s.isLt; have lt_disp := disp.isLt; have lt_bound := bound.isLt
  obtain ⟨N, hN⟩ : ∃ N, N = 10 + d.toNat * 2 ^ 8 + s.toNat * 2 ^ 12 + disp.toNat * 2 ^ 16 + bound.toNat * 2 ^ 32 := ⟨_, rfl⟩
  have hp : pack 10 [(d.toNat, 8), (s.toNat, 12), (disp.toNat, 16), (bound.toNat, 32)] = N := by rw [hN, pack_cons, pack_cons, pack_cons, pack_cons, pack_nil]
  refine ofQueue N (by rw [← hp]; rfl) (by omega) rfl fun _ => ?_
  have kF : bits N 0 8 = 10 := by unfold bits; omega
  have kC1 : bits N 48 16 = 0 := by unfold bits; omega
  simp only [decodeQueueRow, kF, kC1, and_self, false_and, Nat.reduceEqDiff, Nat.one_ne_zero, ↓reduceIte, fld_eq N 8 d (by omega), fld_eq N 12 s (by omega), fld_eq N 16 disp (by omega), fld_eq N 32 bound (by omega)]

theorem F.qbne (d s disp bound) : F.Statement (.qbne d s disp bound) := by
  have lt_d := d.isLt; have lt_s := s.isLt; have lt_disp := disp.isLt; have lt_bound := bound.isLt
  obtain ⟨N, hN⟩ : ∃ N, N = 11 + d.toNat * 2 ^ 8 + s.toNat * 2 ^ 12 + disp.toNat * 2 ^ 16 + bound.toNat * 2 ^ 32 := ⟨_, rfl⟩
  have hp : pack 11 [(d.toNat, 8), (s.toNat, 12), (disp.toNat, 16), (bound.toNat, 32)] = N := by rw [hN, pack_cons, pack_cons, pack_cons, pack_cons, pack_nil]
  refine ofQueue N (by rw [← hp]; rfl) (by omega) rfl fun _ => ?_
  have kF : bits N 0 8 = 11 := by unfold bits; omega
  have kC1 : bits N 48 16 = 0 := by unfold bits; omega
  simp only [decodeQueueRow, kF, kC1, and_self, false_and, Nat.reduceEqDiff, Nat.one_ne_zero, ↓reduceIte, fld_eq N 8 d (by omega), fld_eq N 12 s (by omega), fld_eq N 16 disp (by omega), fld_eq N 32 bound (by omega)]

theorem F.qbltn (d s disp bound) : F.Statement (.qbltn d s disp bound) := by
  have lt_d := d.isLt; have lt_s := s.isLt; have lt_disp := disp.isLt; have lt_bound := bound.isLt
  obtain ⟨N, hN⟩ : ∃ N, N = 12 + d.toNat * 2 ^ 8 + s.toNat * 2 ^ 12 + disp.toNat * 2 ^ 16 + bound.toNat * 2 ^ 32 := ⟨_, rfl⟩
  have hp : pack 12 [(d.toNat, 8), (s.toNat, 12), (disp.toNat, 16), (bound.toNat, 32)] = N := by rw [hN, pack_cons, pack_cons, pack_cons, pack_cons, pack_nil]
  refine ofQueue N (by rw [← hp]; rfl) (by omega) rfl fun _ => ?_
  have kF : bits N 0 8 = 12 := by unfold bits; omega
  have kC1 : bits N 48 16 = 0 := by unfold bits; omega
  simp only [decodeQueueRow, kF, kC1, and_self, false_and, Nat.reduceEqDiff, Nat.one_ne_zero, ↓reduceIte, fld_eq N 8 d (by omega), fld_eq N 12 s (by omega), fld_eq N 16 disp (by omega), fld_eq N 32 bound (by omega)]

theorem F.qjmp (disp bound) : F.Statement (.qjmp disp bound) := by
  have lt_disp := disp.isLt; have lt_bound := bound.isLt
  obtain ⟨N, hN⟩ : ∃ N, N = 13 + disp.toNat * 2 ^ 16 + bound.toNat * 2 ^ 32 := ⟨_, rfl⟩
  have hp : pack 13 [(disp.toNat, 16), (bound.toNat, 32)] = N := by rw [hN, pack_cons, pack_cons, pack_nil]
  refine ofQueue N (by rw [← hp]; rfl) (by omega) rfl fun _ => ?_
  have kF : bits N 0 8 = 13 := by unfold bits; omega
  have kC1 : bits N 8 4 = 0 := by unfold bits; omega
  have kC2 : bits N 12 4 = 0 := by unfold bits; omega
  have kC3 : bits N 48 16 = 0 := by unfold bits; omega
  simp only [decodeQueueRow, kF, kC1, kC2, kC3, and_self, false_and, Nat.reduceEqDiff, Nat.one_ne_zero, ↓reduceIte, fld_eq N 16 disp (by omega), fld_eq N 32 bound (by omega)]

theorem F.qlaunch (d) : F.Statement (.qlaunch d) := by
  have lt_d := d.isLt
  obtain ⟨N, hN⟩ : ∃ N, N = 14 + d.toNat * 2 ^ 8 := ⟨_, rfl⟩
  have hp : pack 14 [(d.toNat, 8)] = N := by rw [hN, pack_cons, pack_nil]
  refine ofQueue N (by rw [← hp]; rfl) (by omega) rfl fun _ => ?_
  have kF : bits N 0 8 = 14 := by unfold bits; omega
  have kC1 : bits N 12 4 = 0 := by unfold bits; omega
  have kC2 : bits N 16 48 = 0 := by unfold bits; omega
  simp only [decodeQueueRow, kF, kC1, kC2, and_self, false_and, Nat.reduceEqDiff, Nat.one_ne_zero, ↓reduceIte, fld_eq N 8 d (by omega)]

theorem F.qgraph (d) : F.Statement (.qgraph d) := by
  have lt_d := d.isLt
  obtain ⟨N, hN⟩ : ∃ N, N = 15 + d.toNat * 2 ^ 8 := ⟨_, rfl⟩
  have hp : pack 15 [(d.toNat, 8)] = N := by rw [hN, pack_cons, pack_nil]
  refine ofQueue N (by rw [← hp]; rfl) (by omega) rfl fun _ => ?_
  have kF : bits N 0 8 = 15 := by unfold bits; omega
  have kC1 : bits N 12 4 = 0 := by unfold bits; omega
  have kC2 : bits N 16 48 = 0 := by unfold bits; omega
  simp only [decodeQueueRow, kF, kC1, kC2, and_self, false_and, Nat.reduceEqDiff, Nat.one_ne_zero, ↓reduceIte, fld_eq N 8 d (by omega)]

theorem F.qamsg (d s) : F.Statement (.qamsg d s) := by
  have lt_d := d.isLt; have lt_s := s.isLt
  obtain ⟨N, hN⟩ : ∃ N, N = 16 + d.toNat * 2 ^ 8 + s.toNat * 2 ^ 12 := ⟨_, rfl⟩
  have hp : pack 16 [(d.toNat, 8), (s.toNat, 12)] = N := by rw [hN, pack_cons, pack_cons, pack_nil]
  refine ofQueue N (by rw [← hp]; rfl) (by omega) rfl fun _ => ?_
  have kF : bits N 0 8 = 16 := by unfold bits; omega
  have kC1 : bits N 16 48 = 0 := by unfold bits; omega
  simp only [decodeQueueRow, kF, kC1, and_self, false_and, Nat.reduceEqDiff, Nat.one_ne_zero, ↓reduceIte, fld_eq N 8 d (by omega), fld_eq N 12 s (by omega)]

theorem F.qsigdec (d s) : F.Statement (.qsigdec d s) := by
  have lt_d := d.isLt; have lt_s := s.isLt
  obtain ⟨N, hN⟩ : ∃ N, N = 17 + d.toNat * 2 ^ 8 + s.toNat * 2 ^ 12 := ⟨_, rfl⟩
  have hp : pack 17 [(d.toNat, 8), (s.toNat, 12)] = N := by rw [hN, pack_cons, pack_cons, pack_nil]
  refine ofQueue N (by rw [← hp]; rfl) (by omega) rfl fun _ => ?_
  have kF : bits N 0 8 = 17 := by unfold bits; omega
  have kC1 : bits N 16 48 = 0 := by unfold bits; omega
  simp only [decodeQueueRow, kF, kC1, and_self, false_and, Nat.reduceEqDiff, Nat.one_ne_zero, ↓reduceIte, fld_eq N 8 d (by omega), fld_eq N 12 s (by omega)]

theorem F.qsigrd (d s) : F.Statement (.qsigrd d s) := by
  have lt_d := d.isLt; have lt_s := s.isLt
  obtain ⟨N, hN⟩ : ∃ N, N = 18 + d.toNat * 2 ^ 8 + s.toNat * 2 ^ 12 := ⟨_, rfl⟩
  have hp : pack 18 [(d.toNat, 8), (s.toNat, 12)] = N := by rw [hN, pack_cons, pack_cons, pack_nil]
  refine ofQueue N (by rw [← hp]; rfl) (by omega) rfl fun _ => ?_
  have kF : bits N 0 8 = 18 := by unfold bits; omega
  have kC1 : bits N 16 48 = 0 := by unfold bits; omega
  simp only [decodeQueueRow, kF, kC1, and_self, false_and, Nat.reduceEqDiff, Nat.one_ne_zero, ↓reduceIte, fld_eq N 8 d (by omega), fld_eq N 12 s (by omega)]

theorem F.qcyc (d) : F.Statement (.qcyc d) := by
  have lt_d := d.isLt
  obtain ⟨N, hN⟩ : ∃ N, N = 19 + d.toNat * 2 ^ 8 := ⟨_, rfl⟩
  have hp : pack 19 [(d.toNat, 8)] = N := by rw [hN, pack_cons, pack_nil]
  refine ofQueue N (by rw [← hp]; rfl) (by omega) rfl fun _ => ?_
  have kF : bits N 0 8 = 19 := by unfold bits; omega
  have kC1 : bits N 12 4 = 0 := by unfold bits; omega
  have kC2 : bits N 16 48 = 0 := by unfold bits; omega
  simp only [decodeQueueRow, kF, kC1, kC2, and_self, false_and, Nat.reduceEqDiff, Nat.one_ne_zero, ↓reduceIte, fld_eq N 8 d (by omega)]

theorem F.qend (d) : F.Statement (.qend d) := by
  have lt_d := d.isLt
  obtain ⟨N, hN⟩ : ∃ N, N = 20 + d.toNat * 2 ^ 8 := ⟨_, rfl⟩
  have hp : pack 20 [(d.toNat, 8)] = N := by rw [hN, pack_cons, pack_nil]
  refine ofQueue N (by rw [← hp]; rfl) (by omega) rfl fun _ => ?_
  have kF : bits N 0 8 = 20 := by unfold bits; omega
  have kC1 : bits N 12 4 = 0 := by unfold bits; omega
  have kC2 : bits N 16 48 = 0 := by unfold bits; omega
  simp only [decodeQueueRow, kF, kC1, kC2, and_self, false_and, Nat.reduceEqDiff, Nat.one_ne_zero, ↓reduceIte, fld_eq N 8 d (by omega)]

theorem F.nop : F.Statement .nop := closed (w := 0xF0000000) (by decide +kernel) rfl (by decide +kernel)

theorem F.ret : F.Statement .ret := closed (w := 0xF0000200) (by decide +kernel) rfl (by decide +kernel)

theorem F.leave : F.Statement .leave := closed (w := 0xF0000400) (by decide +kernel) rfl (by decide +kernel)

theorem F.bar : F.Statement .bar := closed (w := 0xF0000800) (by decide +kernel) rfl (by decide +kernel)

theorem F.barGroup : F.Statement .barGroup := closed (w := 0xF0000801) (by decide +kernel) rfl (by decide +kernel)

theorem F.yield : F.Statement .yield := closed (w := 0xF0001100) (by decide +kernel) rfl (by decide +kernel)

theorem F.rft : F.Statement .rft := closed (w := 0xF4000100) (by decide +kernel) rfl (by decide +kernel)

theorem F.xinvAll : F.Statement .xinvAll := closed (w := 0xF4000402) (by decide +kernel) rfl (by decide +kernel)

theorem F.haltx : F.Statement .haltx := closed (w := 0xF4000700) (by decide +kernel) rfl (by decide +kernel)

theorem F.packetStart : F.Statement .packetStart :=
  ofEvent (m := .packetStart 0) rfl rfl rfl

theorem F.submission : F.Statement .submission :=
  ofEvent (m := .submission 0 0) rfl rfl rfl

theorem F.commitWrite : F.Statement .commitWrite :=
  ofEvent (m := .commitWrite 0) rfl rfl rfl

theorem F.firmwareRestart : F.Statement .firmwareRestart :=
  ofEvent (m := .firmwareRestart) rfl rfl rfl

theorem F.queueProgramLoad : F.Statement .queueProgramLoad :=
  ofEvent (m := .queueProgramLoad 0 0) rfl rfl rfl

theorem F.queueDisable : F.Statement .queueDisable :=
  ofEvent (m := .queueDisable 0 0) rfl rfl rfl

theorem F.startTrial : F.Statement .startTrial :=
  ofEvent (m := .startTrial 0 [] false) rfl rfl rfl

theorem F.trialTimeout : F.Statement .trialTimeout :=
  ofEvent (m := .trialTimeout) rfl rfl rfl

theorem F.clearStatus : F.Statement .clearStatus :=
  ofEvent (m := .clearStatus) rfl rfl rfl

theorem F.activeMessageBlockTarget : F.Statement .activeMessageBlockTarget :=
  ofEvent (m := .activeMessageBlockTarget 0 0) rfl rfl rfl

theorem F.hostApertureAccess : F.Statement .hostApertureAccess :=
  ofEvent (m := .hostApertureAccess false false 0 0 0) rfl rfl rfl

theorem F.registerWrite : F.Statement .registerWrite :=
  ofEvent (m := .registerWrite 0 0) rfl rfl rfl

theorem F.regionEntryWrite : F.Statement .regionEntryWrite :=
  ofEvent (m := .regionEntryWrite 0 0) rfl rfl rfl

theorem F.connectorKeyInstall : F.Statement .connectorKeyInstall :=
  ofEvent (m := .connectorKeyInstall 0 0) rfl rfl rfl

theorem F.poolSizeWrite : F.Statement .poolSizeWrite :=
  ofEvent (m := .poolSizeWrite 0 0) rfl rfl rfl

theorem F.faultLogRead : F.Statement .faultLogRead :=
  ofEvent (m := .faultLogRead 0) rfl rfl rfl

theorem F.moduleReset : F.Statement .moduleReset :=
  ofEvent (m := .moduleReset) rfl rfl rfl

theorem F.powerSample : F.Statement .powerSample :=
  ofEvent (m := .powerSample 0) rfl rfl rfl

theorem F.thermalEvent : F.Statement .thermalEvent :=
  ofEvent (m := .thermalEvent 0 0) rfl rfl rfl

theorem F.thermalStop : F.Statement .thermalStop :=
  ofEvent (m := .thermalStop) rfl rfl rfl

theorem F.gangPlacement : F.Statement .gangPlacement :=
  ofEvent (m := .gangPlacement) rfl rfl rfl

theorem F.strideQuantum : F.Statement .strideQuantum :=
  ofEvent (m := .strideQuantum) rfl rfl rfl

theorem F.balancerTick : F.Statement .balancerTick :=
  ofEvent (m := .balancerTick 0 0 0) rfl rfl rfl

theorem F.gangStop : F.Statement .gangStop :=
  ofEvent (m := .gangStop 0) rfl rfl rfl

theorem F.gangResume : F.Statement .gangResume :=
  ofEvent (m := .gangResume 0 0 0 0) rfl rfl rfl

theorem F.gangComplete : F.Statement .gangComplete :=
  ofEvent (m := .gangComplete 0) rfl rfl rfl

theorem F.successorStart : F.Statement .successorStart :=
  ofEvent (m := .successorStart 0) rfl rfl rfl

theorem F.successorOverlapStoresDone : F.Statement .successorOverlapStoresDone :=
  ofEvent (m := .successorOverlapStoresDone 0) rfl rfl rfl

theorem F.coreFailure : F.Statement .coreFailure :=
  ofEvent (m := .coreFailure 0 false) rfl rfl rfl

theorem F.controlCoreFailover : F.Statement .controlCoreFailover :=
  ofEvent (m := .controlCoreFailover 0) rfl rfl rfl

theorem F.hbmRowRemap : F.Statement .hbmRowRemap :=
  ofEvent (m := .hbmRowRemap 0 0 0) rfl rfl rfl

theorem F.bexuzLaneFailure : F.Statement .bexuzLaneFailure :=
  ofEvent (m := .bexuzLaneFailure 0) rfl rfl rfl

theorem F.keystoneFailure : F.Statement .keystoneFailure :=
  ofEvent (m := .keystoneFailure 0) rfl rfl rfl

theorem F.decision : F.Statement .decision :=
  ofEvent (m := .decision 0 0) rfl rfl rfl

theorem F.offerMsg : F.Statement .offerMsg :=
  ofEvent (m := .offerMsg 0 0 0 0 0 0 []) rfl rfl rfl

theorem F.retractMessage : F.Statement .retractMessage :=
  ofEvent (m := .retractMessage 0 0 0 0 0 0) rfl rfl rfl

theorem F.bindMsg : F.Statement .bindMsg :=
  ofEvent (m := .bindMsg 0 0 0 0 0 0 false 0) rfl rfl rfl

theorem F.unbindMsg : F.Statement .unbindMsg :=
  ofEvent (m := .unbindMsg 0 0 0 0 0) rfl rfl rfl

theorem F.loadConn : F.Statement .loadConn :=
  ofEvent (m := .loadConn 0 0 0 0 0 0 0 0 0 false) rfl rfl rfl

theorem F.connectorVerified : F.Statement .connectorVerified :=
  ofEvent (m := .connectorVerified 0 0) rfl rfl rfl

theorem F.dropMsg : F.Statement .dropMsg :=
  ofEvent (m := .dropMsg 0 0 0 0) rfl rfl rfl

theorem F.fireMsg : F.Statement .fireMsg :=
  ofEvent (m := .fireMsg 0 0 0 []) rfl rfl rfl

theorem F.rack : F.Statement .rack :=
  ofEvent (m := .rack 0 0 0) rfl rfl rfl

theorem F.rlate : F.Statement .rlate :=
  ofEvent (m := .rlate 0 0 0) rfl rfl rfl

theorem F.back : F.Statement .back :=
  ofEvent (m := .back 0 0 false) rfl rfl rfl

theorem F.bref : F.Statement .bref :=
  ofEvent (m := .bref 0 0) rfl rfl rfl

theorem F.lack : F.Statement .lack :=
  ofEvent (m := .lack 0 0 0 false) rfl rfl rfl

theorem F.dack : F.Statement .dack :=
  ofEvent (m := .dack 0 0) rfl rfl rfl

theorem F.failover : F.Statement .failover :=
  ofEvent (m := .failover 0 0 0) rfl rfl rfl

theorem F.inboxArrival : F.Statement .inboxArrival :=
  ofEvent (m := .inboxArrival 0 noEntry) rfl rfl rfl

theorem F.activeMessageStart : F.Statement .activeMessageStart :=
  ofEvent (m := .activeMessageStart 0) rfl rfl rfl

theorem F.mcmdArrival : F.Statement .mcmdArrival :=
  ofEvent (m := .mcmdArrival 0 0 0 0 0) rfl rfl rfl

theorem F.homeRequest : F.Statement .homeRequest :=
  ofEvent (m := .homeRequest noReq) rfl rfl rfl

theorem F.llcFill : F.Statement .llcFill :=
  ofEvent (m := .llcFill 0 noLine) rfl rfl rfl

theorem F.waitaTimeout : F.Statement .waitaTimeout :=
  ofEvent (m := .waitaTimeout 0 0) rfl rfl rfl

theorem F.sigwaitRepoll : F.Statement .sigwaitRepoll :=
  ofEvent (m := .sigwaitRepoll 0 0) rfl rfl rfl

theorem F.pageWalk : F.Statement .pageWalk :=
  ofEvent (m := .pageWalk 0 0 .read false) rfl rfl rfl

theorem F.monitorWindow : F.Statement .monitorWindow :=
  ofEvent (m := .monitorWindow 0) rfl rfl rfl

theorem F.loadReturn : F.Statement .loadReturn :=
  ofEvent (m := .loadReturn 0 0 0 0) rfl rfl rfl

theorem F.storeAck : F.Statement .storeAck :=
  ofEvent (m := .storeAck 0 0 0) rfl rfl rfl

theorem F.granuleFill : F.Statement .granuleFill :=
  ofEvent (m := .granuleFill 0 0 0) rfl rfl rfl

theorem F.bankWake : F.Statement .bankWake :=
  ofEvent (m := .bankWake 0 0) rfl rfl rfl

theorem F.macroOpStep : F.Statement .macroOpStep :=
  ofEvent (m := .macroOpStep 0) rfl rfl rfl

theorem F.permitGrant : F.Statement .permitGrant :=
  ofEvent (m := .permitGrant 0) rfl rfl rfl

theorem F.emulationComplete : F.Statement .emulationComplete :=
  ofEvent (m := .emulationComplete 0) rfl rfl rfl

theorem F.stallTimeout : F.Statement .stallTimeout :=
  ofEvent (m := .stallTimeout 0 0) rfl rfl rfl

theorem F.asyncReport : F.Statement .asyncReport :=
  ofEvent (m := .asyncReport 0 0) rfl rfl rfl

theorem F.jobDispatch : F.Statement .jobDispatch :=
  ofEvent (m := .jobDispatch 0) rfl rfl rfl

theorem F.jobComplete : F.Statement .jobComplete :=
  ofEvent (m := .jobComplete 0 0) rfl rfl rfl

theorem F.operatorComplete : F.Statement .operatorComplete :=
  ofEvent (m := .operatorComplete 0) rfl rfl rfl

theorem F.nodeDispatch : F.Statement .nodeDispatch :=
  ofEvent (m := .nodeDispatch 0) rfl rfl rfl

theorem F.nodeComplete : F.Statement .nodeComplete :=
  ofEvent (m := .nodeComplete 0 0 0) rfl rfl rfl

theorem F.passRoundStart : F.Statement .passRoundStart :=
  ofEvent (m := .passRoundStart 0) rfl rfl rfl

theorem F.pageFetch : F.Statement .pageFetch :=
  ofEvent (m := .pageFetch 0) rfl rfl rfl

theorem F.pageDelivery : F.Statement .pageDelivery :=
  ofEvent (m := .pageDelivery 0) rfl rfl rfl

theorem F.passEnd : F.Statement .passEnd :=
  ofEvent (m := .passEnd 0) rfl rfl rfl

theorem F.attestReportDone : F.Statement .attestReportDone :=
  ofEvent (m := .attestReportDone 0) rfl rfl rfl

theorem F.illegalInstructionWord : F.Statement .illegalInstructionWord :=
  ofEvent (m := .illegalInstructionWord 0) rfl rfl rfl

theorem F.rampLimiterFill : F.Statement .rampLimiterFill :=
  ofEvent (m := .rampLimiterFill 0 0) rfl rfl rfl

end Sys2Proof.Laws
end

