-- ==== Sys2Proof/Tests/Slice0.lean ====
section
/-! SUPPORT. Tests: words decoded, ill-formed terms refused, single steps on small states, and for each statement of
Certificates/Slice0/Obligations.lean a state and operands that meet its hypotheses. Expected words are those that the manual prints
(Table 4-16 and the "encodes as" examples of each chapter) or are written out from the encoding tables; expected values are worked out
by hand from the rule that each test names. -/

section

set_option Elab.async false

namespace Sys2Proof.Tests

open Sys2Proof Sys2Proof.Machine

/-! ## Words decoded (Table 4-16 and the examples of chapters 4 to 17 and 20 to 22) -/

/-- The decoder reads each listed word as the listed instruction. -/
def decodes (l : List (Word × Instr)) : Bool := l.all (fun e => decodeWord e.1 == some e.2)

theorem test_decode_integer : decodes [(0x00304201, .add 3 1 2), (0x04517FFD, .addi 5 5 0x3FFD), (0x18700240, .movi 7 0x240),
    (0x1460804C, .shri 6 2 12), (0x1C1253C8, .extS 1 9 15 8), (0x00107C01, .add 1 1 60), (0x0040C707, .divn 4 3 7),
    (0x00A24B0F, .shr 10 9 11), (0x0CA28000, .ori 10 10 0), (0x031FFC01, .add 49 63 60)] = true := by decide +kernel

theorem test_decode_float : decodes [(0x20310511, .fadd 3 4 5 1), (0x2021C287, .fcvt 2 7 0 1 0 7), (0x24500001, .rdcyc 5),
    (0x24518002, .rdperf 5 6)] = true := by decide +kernel

theorem test_decode_vector : decodes [(0x40C48004, .vfma 3 1 2 0), (0x4014090A, .vredAdd 5 9 0), (0x40400AD0, .vbcast 1 10 6),
    (0x400C4A0A, .vredMax 3 10 0), (0x4144820C, .vpack 5 1 2 0 0 2 0)] = true := by decide +kernel

theorem test_decode_matrix : decodes [(0x45109003, .mms 1 4 9 0 0 3), (0x46109105, .mms 2 4 9 0 1 5), (0x48009000, .ldstat 9 0),
    (0x48001800, .ldstat 1 1), (0x4C400001, .tidset 4), (0x4C000203, .swapstat 2), (0x4C200004, .accz 2 0 0), (0x4C001D04, .acczMark 5),
    (0x4CC04306, .accst 12 1 3), (0x4C10C005, .accld 1 3 0), (0x4C00C007, .accadd 0 3 0), (0x4C304208, .scalek 3 1 2),
    (0x4C400009, .scalew 4), (0x4C51800E, .permit 5 6), (0x4C5FC00F, .permrel 5 63)] = true := by decide +kernel

theorem test_decode_address : decodes [(0x84208008, .aaddi 2 2 8), (0x80104515, .aidx 1 1 5 5), (0x80430610, .aidx 4 12 6 0),
    (0x84E38200, .aaddi 14 14 0x200), (0x80330003, .amov 3 12)] = true := by decide +kernel

theorem test_decode_memory : decodes [(0x8888C002, .ld 2 1 0 3 0 2), (0x8CD08002, .st 3 2 0 2 2), (0x9040D000, .ldacq 1 0 0 3 1 0),
    (0x9442D001, .strel 1 0 2 3 1 1), (0xA140D000, .ldfe 5 0 0 3 1 0), (0xA8807020, .la 2 0 0 7 2), (0xBD083020, .vld 4 1 0 3 2),
    (0xBD013004, .vst 4 0 1 3 0), (0xAC98C000, .atadd 2 3 0 1 0), (0xB080B001, .atcas 2 0 0 0 1), (0xB480C000, .waita 2 0 0 1 0),
    (0xB808A000, .fenceDie 1), (0xB9803001, .cpin 6 0 0 1)] = true := by decide +kernel

theorem test_decode_engines : decodes [(0xC0882000, .asopAxpy 2 1 0 0), (0xC0C20002, .asopReduceAdd 3 0 2 2),
    (0xC4508627, .ascfg 5 2 6 1), (0xC4508623, .segopen 5 2 6 1), (0xC4208704, .segputPfx 0 2 7 0), (0xC4108804, .segput2 0 2 8 0),
    (0xC4D08045, .segclose 13 2 0 2), (0xC4C08006, .segcnt 12 2 0 0), (0xD4508681, .rhopen 5 2 6 4),
    (0xD0508601, .sigdec 5 2 6 0)] = true := by decide +kernel

theorem test_decode_ports : decodes [(0xC8320238, .put 3 2 0 7), (0xC81003F8, .put 1 0 0 63), (0xC8400400, .get 4 0 0),
    (0xC8322638, .offerPut 3 2 1 7), (0xC8014800, .offerGet 1 2), (0xC8610A00, .poll 6 1 0), (0xC8610C00, .retract 6 1 0),
    (0xC8531400, .pbind 5 3 0), (0xC8206E00, .conload 2 3), (0xC8701000, .condrop 7 0), (0xC8701200, .constat 7 0)] = true := by
  decide +kernel

theorem test_decode_pages : decodes [(0xCC508001, .pgsub 5 2 0), (0xCC610002, .pgunsub 6 4 0), (0xCC70C023, .pgpass 7 3 1),
    (0xCC810004, .pgrecv 8 4 0), (0xCC010104, .pgrecvFree 4 0), (0xCC014945, .mrgput 5 9 2), (0xCCA18906, .mrgget 10 6 9 0),
    (0xCCB1CC07, .mrgcfg 11 7 12 0)] = true := by decide +kernel

theorem test_decode_control : decodes [(0xE04FFFFD, .bre 4 0xFFFFD), (0xEF3FFFFE, .loop 3 0xFFFFE), (0xEF4FFFEB, .loop 4 0xFFFEB),
    (0xF0014100, .jmpi 5), (0xF0000000, .nop), (0xF001C600, .endc 7), (0xF0518500, .join 5 6), (0xF0510700, .rets 5 4),
    (0xF0000800, .bar), (0xF0000801, .barGroup), (0xF050090A, .rdsw 5 10), (0xF0200908, .rdsw 2 8), (0xF000CA00, .wrsw 3 0),
    (0xF0020D00, .amsg 8), (0xF0500C00, .tndone 5), (0xF0508B00, .tnsub 5 2), (0xF0014F00, .fibsw 5), (0xF0015000, .upret 5),
    (0xF0001210, .sbwait 0x10), (0xF0001205, .sbwait 5), (0xF0500E00, .inbx 5), (0xF0500E01, .inbxWait 5),
    (0xF8900010, .start 9 16)] = true := by decide +kernel

theorem test_decode_system : decodes [(0xF4000005, .trap 5), (0xF4000211, .svc 17), (0xF4000100, .rft), (0xF400C300, .wrpriv 3),
    (0xF4000700, .haltx), (0xF4310400, .xinvPage 3 4), (0xF401043F, .xinvFrame 4 15), (0xF420C519, .keysetLoad 2 3 6),
    (0xF420C502, .keysetRetire 2 3), (0xF4508801, .attest 5 2 1), (0xF4518900, .sparemap 5 6), (0xF4000613, .pwrbRtn 3)] = true := by
  decide +kernel

theorem test_decode_hints : decodes [(0xFC00003D, .hintPfx 0x3D), (0xFC000008, .hintPfx 8), (0xFC400007, .hintSched 7),
    (0xFC800003, .hintMod 1 1), (0xFCC00005, .hintPrio 5)] = true := by decide +kernel

/-- R75: words that are no instruction; R69: a reserved field that is not zero. -/
theorem test_decode_refuses : [0xFFFFFFFF, 0x00000000, 0xF0000001, 0x4C410001, 0x0000001D].all (fun w => decodeWord w == none) = true := by
  decide +kernel

/-- Table 17-2: op, d at bit 8, s at bit 12, imm at bit 16. -/
theorem test_decode_queue_words :
    [((0x0000000000C80301 : Dword), Instr.qmovi 3 200), (0x0000000000002102, .qmov 1 2), (0x0000000000002103, .qadd 1 2),
      (0x0000FFFFFFFF0204, .qaddi 2 0xFFFFFFFF), (0x0000000000002105, .qand 1 2), (0x0000000000050306, .qshl 3 5),
      (0x0000000000050307, .qshr 3 5), (0x0000000300104108, .qld 1 4 3 16), (0x0000000300104109, .qst 1 4 3 16),
      (0x000000000003210A, .qbeq 1 2 3 0), (0x000000000000010E, .qlaunch 1), (0x0000000000000114, .qend 1)].all
      (fun e => decodeQueueWord e.1 == some e.2) = true := by decide +kernel

/-! ## Ill-formed terms, one for each check (R68, R69, R75, R106, R110, R121, R138, R387) -/

theorem test_wf_register_names : (Instr.add 60 1 2).wellFormed = false ∧ (Instr.add 1 61 2).wellFormed = false ∧
    (Instr.sel 62 1 2).wellFormed = false ∧ (Instr.movi 56 0).wellFormed = false ∧ (Instr.add 61 60 62).wellFormed = true := by
  decide +kernel
theorem test_wf_types : (Instr.fadd 1 2 3 15).wellFormed = false ∧ (Instr.fcvt 1 2 15 0 0 0).wellFormed = false ∧
    (Instr.fcvt 1 2 0 1 0 0).wellFormed = false ∧ (Instr.vfma 1 2 3 7).wellFormed = false ∧
    (Instr.vadd 1 2 3 1 0).wellFormed = false ∧ (Instr.vexp2 1 2 1).wellFormed = false := by decide +kernel
theorem test_wf_fields : (Instr.ext 1 2 63 1).wellFormed = false ∧ (Instr.ext 1 2 63 0).wellFormed = true ∧
    (Instr.vunpk 1 2 0 0 0 1).wellFormed = false ∧ (Instr.mms 0 0 0 0 2 0).wellFormed = false ∧
    (Instr.accz 1 2 0).wellFormed = false ∧ (Instr.accz 0 3 0).wellFormed = false ∧ (Instr.acczMark 0).wellFormed = false := by
  decide +kernel
theorem test_wf_other : (Instr.ld 1 0 0 3 1 0).wellFormed = false ∧ (Instr.ld 1 0 0 2 1 0).wellFormed = true ∧
    (Instr.rdsw 1 12).wellFormed = false ∧ (Instr.wrsw 1 8).wellFormed = false ∧ (Instr.sbwait 0).wellFormed = false ∧
    (Instr.qld 1 2 0 4).wellFormed = false ∧ (Msg.coreFailure 4096 false).wellFormed = false ∧
    (Msg.granuleFill 0 0 26).wellFormed = false ∧ (Msg.decision 0 16).wellFormed = false := by decide +kernel
theorem test_wf_queue_branch : (Instr.qbeq 1 2 0xFFFF 0).wellFormed = false ∧ (Instr.qbeq 1 2 2 1).wellFormed = false ∧
    (Instr.qbeq 1 2 0xFFFF 4).wellFormed = true := by decide +kernel

/-! ## Small states -/

/-- Core 0 runs a gang of one; its control context, at device privilege, stands with both streams at one word, at text position 4. -/
def ctx0 : Ctx := { live := true, dev := true, tb := 0x4000, acc := { pc := 0x100, pos := 4 }, exe := { pc := 0x100, pos := 4 } }
def base : State := { State.reset with cores := [(0, { gid := 1, ctxs := [(0, ctx0)] })], ring := [(0, 0, .acc), (0, 0, .exe)], cur := .ctx 0 0 .exe }
def onAcc (s : State) : State := { s with cur := .ctx 0 0 .acc }
def user (s : State) : State := s.modCtx 0 0 (fun x => { x with dev := false })
/-- w registers, address registers and vector registers with values. -/
def regs (l : List (Nat × Nat)) (s : State := base) : State := l.foldl (fun s e => s.store (spPlace 0 (8 * e.1)) 8 e.2) s
def addrs (l : List (Nat × Nat)) (s : State := base) : State := l.foldl (fun s e => s.store (spPlace 0 (0x580 + 16 * e.1)) 16 e.2) s
def vecs (l : List (Nat × Nat)) (s : State := base) : State := l.foldl (fun s e => s.store (spPlace 0 (0x180 + 64 * e.1)) 64 e.2) s

/-- The state that an instruction answers. -/
def after (i : Instr) (s : State) : State :=
  match exec i s with
  | .next t => t
  | _ => s
/-- The value of w register `n` after an instruction, of an address register, of a vector register. -/
def w (n : Nat) (s : State) : Nat := s.load (spPlace 0 (8 * n)) 8
def a (n : Nat) (s : State) : Nat := s.load (spPlace 0 (0x580 + 16 * n)) 10
def v (n : Nat) (s : State) : Nat := s.load (spPlace 0 (0x180 + 64 * n)) 64
def fsn (s : State) : Nat := (s.ctx 0 0).fsn.toNat
/-- The trap code that an instruction leaves; 0 without a trap. -/
def code (s : State) : Nat := (s.ctx 0 0).tc.toNat
def epos (s : State) : Nat := (s.ctx 0 0).exe.pos
def apos (s : State) : Nat := (s.ctx 0 0).acc.pos
/-- A computation that goes through. -/
def ok {α : Type} (m : M α) (s : State) : Bool :=
  match m s with
  | .ok _ => true
  | .error _ => false
/-- What a computation gives satisfies `p`. -/
def got {α : Type} (m : M α) (s : State) (p : α → State → Bool := fun _ _ => true) : Bool :=
  match m s with
  | .ok (x, t) => p x t
  | .error _ => false

/-! ## Integer and logic words (R27, R28, R103, R104) -/

/-- Sources can be read and destinations written: the hypotheses of the statements on scalar, vector and address words, of each form. -/
theorem witness_operands :
    ok (do let x ← readS 1; let y ← readS 2; writeS 3 (x + y)) base = true ∧
    ok (do let x ← readS 1; writeS 3 x) base = true ∧
    ok (do let x ← readS 1; let y ← readS 2; let z ← readS 3; writeS 3 (x + y + z)) base = true ∧
    ok (do let x ← readV 1; let y ← readV 2; let z ← readV 3; writeV 3 (x + y + z)) base = true ∧
    ok (do let x ← readV 15; writeV 14 x; writeV 15 x) base = true ∧ ok (do let x ← readV 5; writeS 9 (x.setWidth 64)) base = true ∧
    ok (do let x ← readA 1; let y ← readA 15; writeA 14 (x + y)) base = true ∧
    ok (do let x ← readA 1; let y ← readS 5; writeA 0 (x + y.setWidth 80)) base = true := by decide +kernel

/-- R85, Table 5-2: in-place granules and register names at the ends of each range. -/
theorem witness_register_names :
    (base.mine.granule base.me.area 0 = .present true ∧ base.mine.granule base.me.area 5 = .present true ∧
      base.mine.power (areaBank base.me.area) = .on) ∧
    (ok (readS 0) base ∧ ok (readS 47) base ∧ ok (readS 48) base ∧ ok (readS 54) base ∧ ok (readS 55) base ∧ ok (readS 56) base ∧
      ok (readS 59) base ∧ ok (readS 63) base) ∧
    (ok (writeS 0 1) base ∧ ok (writeS 47 1) base ∧ ok (writeS 54 1) base ∧ ok (writeS 55 1) base ∧ ok (writeS 61 1) base ∧
      ok (writeS 63 1) base) := by decide +kernel

/-- R85: writing one register leaves its neighbour; R97: o7 sets its full bit; R68: z takes nothing. -/
theorem test_registers : w 47 (after (.addi 47 63 5) (regs [(46, 7)])) = 5 ∧ w 46 (after (.addi 47 63 5) (regs [(46, 7)])) = 7 ∧
    ((after (.movi 55 9) base).core 0).o7 = 9 ∧ ((after (.movi 55 9) base).core 0).o7full = true ∧
    (after (.movi 63 9) base).mem = base.mem ∧ ((after (.movi 61 9) base).ctx 0 0).sdq = [{ pos := 4, val := 9 }] ∧
    tget ((after (.movi 49 9) base).ctx 0 0).o 1 0 = 9 := by decide +kernel

def gran (g : Gran) : State := (regs [(1, 5)]).modCore 0 (fun v => v.setGranule 0 0 g)

/-- Table 5-2: each granule state meets its clause. A fill brings the save area's bytes (R87). -/
theorem witness_granules : (gran .dead).mine.granule 0 0 = .dead ∧ (gran .absentZero).mine.granule 0 0 = .absentZero ∧
    (gran .absent).mine.granule 0 0 = .absent ∧ (gran .absent).mine.power 0 = .on ∧ (base.ctx 0 0).area < 128 := by decide +kernel
/-- w1, which stands at offset 8 of a granule that is present, lies in a unit with an uncorrectable error (R368). -/
def flawed : State := { regs [(1, 5)] with flaws := [spPlace 0 0 / 16] }
theorem witness_flawed : flawed.mine.granule flawed.me.area 0 = .present true ∧ flawed.flawed (flawed.areaPlace 8) 8 = true ∧
    (fillGranule 0 0 0 { gran .absent with flaws := [] }).flawed (spPlace 0 8) 8 = false := by decide +kernel
theorem test_flawed : code (after (.addi 3 1 1) flawed) = 0x1E ∧ w 3 (after (.addi 3 2 1) flawed) = 1 ∧
    (after (.movi 0 7) ((flawed.store (spPlace 0 8) 8 6))).flaws = flawed.flaws ∧ (flawed.store (spPlace 0 0) 16 6).flaws = [] := by decide +kernel
theorem test_granules : code (after (.add 3 1 2) (gran .dead)) = 0x0B ∧ w 3 (after (.addi 3 1 1) (gran .absentZero)) = 1 ∧
    w 1 (after (.movi 2 1) (gran .absentZero)) = 0 ∧
    w 1 (after (.movi 2 1) ((gran .absent).store (saveArea 0 0 + 8) 8 77)) = 77 ∧
    ((after (.movi 2 1) (gran .absent)).ctx 0 0).granFill = 1 := by decide +kernel

/-- The load-data queue: an item that precedes the word, one that is reserved, and one that only the word's own stream could bring. -/
def ldq (l : List LdqItem) : State := base.modCtx 0 0 (fun x => { x with ldq := l, acc := { x.acc with pos := 4 } })
def sdq (l : List SdqItem) : State := onAcc (base.modCtx 0 0 (fun x => { x with sdq := l }))
theorem witness_queues :
    ((ldq []).me.ldq = [] ∧ (ldq []).position ≤ (ldq []).me.acc.pos) ∧
    (let s := (ldq []).modCtx 0 0 (fun x => { x with acc := { x.acc with pos := 3 } }); s.me.ldq = [] ∧ s.me.acc.pos < s.position) ∧
    (let s := ldq [{ pos := 3, id := 0, val := none }]; ∃ i l, s.me.ldq = i :: l ∧ i.pos < s.position ∧ i.val = none) ∧
    (let s := ldq [{ pos := 4, id := 0, val := some 6 }]; ∃ i l, s.me.ldq = i :: l ∧ s.position ≤ i.pos ∧ s.position ≤ s.me.acc.pos) ∧
    (let s := sdq [{ pos := 3, val := 8 }]; ∃ i l, s.me.sdq = i :: l ∧ i.pos < s.position) ∧
    (let s := sdq [{ pos := 4, val := 8 }]; ∃ i l, s.me.sdq = i :: l ∧ s.position ≤ i.pos ∧ s.position ≤ s.me.exe.pos) ∧
    ((sdq []).me.sdq = [] ∧ (sdq []).position ≤ (sdq []).me.exe.pos) ∧
    (let s := (sdq []).modCtx 0 0 (fun x => { x with exe := { x.exe with pos := 3 } }); s.me.sdq = [] ∧ s.me.exe.pos < s.position) := by
  refine ⟨?_, ?_, ⟨_, _, rfl, ?_⟩, ⟨_, _, rfl, ?_⟩, ⟨_, _, rfl, ?_⟩, ⟨_, _, rfl, ?_⟩, ?_, ?_⟩ <;> decide +kernel
theorem test_queue_operands : w 3 (after (.addi 3 60 1) (ldq [{ pos := 3, id := 0, val := some 6 }])) = 7 ∧
    code (after (.addi 3 60 1) (ldq [])) = 0x0E ∧ epos (after (.addi 3 60 1) (ldq [{ pos := 3, id := 0, val := none }])) = 4 := by
  decide +kernel

/-- An active message, mail of two payload dwords and of one, and mail for another gang (R233, R235). -/
def letter (kind : Nat) (l : List Dword) (gid : BitVec 32 := 1) : InboxEntry := ⟨kind, 0, gid, 3, 0, l, 0, 0⟩
def mailed (l : List InboxEntry) : State := base.modCore 0 (fun v => { v with inbox := l })
theorem witness_ib :
    (let s := mailed [letter 1 [9, 9, 9], letter 0 [7, 8]]; s.mine.inbox = [letter 1 [9, 9, 9]] ++ letter 0 [7, 8] :: [] ∧
      (∀ m ∈ [letter 1 [9, 9, 9]], ¬ s.isMail m) ∧ s.isMail (letter 0 [7, 8]) ∧ (letter 0 [7, 8]).payload = 7 :: [8]) ∧
    (let s := mailed [letter 0 [7]]; s.mine.inbox = [] ++ letter 0 [7] :: [] ∧ s.isMail (letter 0 [7])) ∧
    (let s := mailed [letter 0 [7] 2]; ∀ m ∈ s.mine.inbox, ¬ s.isMail m) := by decide +kernel
theorem test_ib : (let s := after (.addi 3 62 1) (mailed [letter 1 [9, 9, 9], letter 0 [7, 8]])
      w 3 s = 8 ∧ (s.core 0).inbox = [letter 1 [9, 9, 9], letter 0 [8]]) ∧
    ((after (.addi 3 62 1) (mailed [letter 0 [7]])).core 0).inbox = [] ∧
    epos (after (.addi 3 62 1) (mailed [letter 0 [7] 2])) = 4 ∧ w 3 (after (.addi 3 55 1) (base.modCore 0 (fun v => { v with o7 := 6, o7full := true }))) = 7 := by
  decide +kernel

def two (x y : Nat) : State := regs [(1, x), (2, y)]
def r3 (i : BitVec 6 → BitVec 6 → BitVec 6 → Instr) (x y : Nat) : Nat := w 3 (after (i 3 1 2) (two x y))

theorem test_add_sub : r3 .add (2 ^ 64 - 1) 2 = 1 ∧ r3 .sub 1 2 = 2 ^ 64 - 1 ∧
    ((after (.add 3 1 2) (two 5 6)).ctx 0 0).y0 = 11 ∧ epos (after (.add 3 1 2) base) = 5 ∧ apos (after (.add 3 1 2) base) = 4 := by
  decide +kernel
theorem test_mul : r3 .mul (2 ^ 63) 3 = 2 ^ 63 ∧ r3 .mulh (2 ^ 64 - 1) (2 ^ 64 - 1) = 0 ∧ r3 .mulh (2 ^ 64 - 1) 1 = 2 ^ 64 - 1 ∧
    r3 .mulhn (2 ^ 64 - 1) (2 ^ 64 - 1) = 2 ^ 64 - 2 := by decide +kernel
/-- Table 2-1. -/
theorem test_div : r3 .divs (2 ^ 64 - 7) 2 = 2 ^ 64 - 3 ∧ r3 .divs (2 ^ 63) (2 ^ 64 - 1) = 2 ^ 63 ∧ r3 .divs 7 0 = 2 ^ 64 - 1 ∧
    r3 .divn (2 ^ 64 - 1) 2 = 2 ^ 63 - 1 ∧ r3 .divn 7 0 = 2 ^ 64 - 1 ∧ fsn (after (.divn 3 1 2) (two 7 0)) = 2 ∧
    fsn (after (.divs 3 1 2) (two (2 ^ 63) (2 ^ 64 - 1))) = 0 := by decide +kernel
theorem test_rem : r3 .rems (2 ^ 64 - 7) 2 = 2 ^ 64 - 1 ∧ r3 .rems 7 0 = 7 ∧ r3 .rems (2 ^ 63) (2 ^ 64 - 1) = 0 ∧
    r3 .remn 7 4 = 3 ∧ r3 .remn 7 0 = 7 ∧ fsn (after (.remn 3 1 2) (two 7 0)) = 2 := by decide +kernel
theorem test_logic : r3 .andd 12 10 = 8 ∧ r3 .orr 12 10 = 14 ∧ r3 .xorr 12 10 = 6 ∧ r3 .andn 12 10 = 4 := by decide +kernel
theorem test_shifts : r3 .shl 1 65 = 2 ∧ r3 .shr (2 ^ 63) 63 = 1 ∧ r3 .sha (2 ^ 63) 63 = 2 ^ 64 - 1 ∧ r3 .rot (2 ^ 63) 1 = 1 ∧
    w 3 (after (.shli 3 1 63) (two 3 0)) = 2 ^ 63 ∧ w 3 (after (.shri 3 1 12) (two 0x5000 0)) = 5 ∧
    w 3 (after (.shai 3 1 1) (two (2 ^ 64 - 3) 0)) = 2 ^ 64 - 2 := by decide +kernel
theorem test_bit_counts : w 3 (after (.clz 3 1) (two 0 0)) = 64 ∧ w 3 (after (.clz 3 1) (two 1 0)) = 63 ∧
    w 3 (after (.popc 3 1) (two 0xF1 0)) = 5 := by decide +kernel
theorem test_min_max : r3 .mins (2 ^ 64 - 1) 1 = 2 ^ 64 - 1 ∧ r3 .maxs (2 ^ 64 - 1) 1 = 1 ∧ r3 .minn (2 ^ 64 - 1) 1 = 1 ∧
    r3 .maxn (2 ^ 64 - 1) 1 = 2 ^ 64 - 1 := by decide +kernel
theorem test_compares : r3 .cmpeq 3 3 = 1 ∧ r3 .cmplt (2 ^ 64 - 1) 0 = 1 ∧ r3 .cmpltn (2 ^ 64 - 1) 0 = 0 ∧ r3 .cmple 3 3 = 1 ∧
    w 3 (after (.sel 3 1 2) (regs [(1, 7), (2, 8), (3, 1)])) = 7 ∧ w 3 (after (.sel 3 1 2) (regs [(1, 7), (2, 8), (3, 2)])) = 8 := by
  decide +kernel
/-- R27: the exact result clamped, and sat (bit 6 of fsn). -/
theorem test_saturating : r3 .addSats (2 ^ 63 - 1) 1 = 2 ^ 63 - 1 ∧ r3 .subSats (2 ^ 63) 1 = 2 ^ 63 ∧ r3 .mulSats (2 ^ 62) 4 = 2 ^ 63 - 1 ∧
    r3 .addSatn (2 ^ 64 - 1) 1 = 2 ^ 64 - 1 ∧ r3 .subSatn 1 2 = 0 ∧ r3 .mulSatn (2 ^ 63) 2 = 2 ^ 64 - 1 ∧
    fsn (after (.subSatn 3 1 2) (two 1 2)) = 64 ∧ fsn (after (.addSats 3 1 2) (two 1 2)) = 0 := by decide +kernel
def pfx (p : BitVec 22) (s : State) : State := s.modCtx 0 0 (fun x => { x with exe := { x.exe with hint := .pfx p } })
/-- R104, R81: 14-bit immediates, and the pair of Table 4-16 that loads 1,000,000. -/
theorem test_immediates : w 5 (after (.addi 5 5 0x3FFD) (regs [(5, 10)])) = 7 ∧ w 5 (after (.andi 5 5 0x3FFF) (regs [(5, 2 ^ 64 - 1)])) = 0x3FFF ∧
    w 5 (after (.ori 5 5 1) (regs [(5, 4)])) = 5 ∧ w 5 (after (.xori 5 5 0x3FFF) (regs [(5, 1)])) = 0x3FFE ∧
    w 7 (after (.movi 7 0x240) (pfx 0x3D base)) = 1000000 ∧ w 7 (after (.movi 7 0x3FFF) base) = 2 ^ 64 - 1 ∧
    w 5 (after (.andi 5 5 0x3FFF) (pfx 0x3FFFFF (regs [(5, 77)]))) = 77 := by decide +kernel
theorem test_fields : w 1 (after (.ext 1 9 15 8) (regs [(9, 0xABCDEF12)])) = 0xCDEF ∧
    w 1 (after (.extS 1 9 15 8) (regs [(9, 0xABCDEF12)])) = 2 ^ 64 - 0x3211 ∧
    w 1 (after (.ins 1 9 3 4) (regs [(1, 0xFFF), (9, 0x12)])) = 0xF2F ∧ w 1 (after (.ext 1 9 63 0) (regs [(9, 5)])) = 5 := by decide +kernel

/-! ## Float words (R29 to R31, R105, R106) -/

/-- 1.0 + 2.0 = 3.0 in f32, f16 and bf16; 1.0 - 2.0; 3.0 * 0.5; 2 * 3 + 1; ordering codes; sign words. -/
theorem test_float : r3 (fun d a b => .fadd d a b 0) 0x3F800000 0x40000000 = 0x40400000 ∧
    r3 (fun d a b => .fadd d a b 1) 0x3C00 0x4000 = 0x4200 ∧ r3 (fun d a b => .fadd d a b 2) 0x3F80 0x4000 = 0x4040 ∧
    r3 (fun d a b => .fsub d a b 0) 0x3F800000 0x40000000 = 0xBF800000 ∧ r3 (fun d a b => .fmul d a b 0) 0x40400000 0x3F000000 = 0x3FC00000 ∧
    w 3 (after (.ffma 3 1 2 0) (regs [(1, 0x40000000), (2, 0x40400000), (3, 0x3F800000)])) = 0x40E00000 := by decide +kernel
theorem test_float_order : r3 (fun d a b => .fcmp d a b 0) 0x3F800000 0x40000000 = 2 ∧ r3 (fun d a b => .fcmp d a b 0) 0x7FC00000 0 = 8 ∧
    r3 (fun d a b => .fcmp d a b 0) 0x80000000 0 = 1 ∧ r3 (fun d a b => .fmin d a b 0) 0x3F800000 0xC0000000 = 0xC0000000 ∧
    r3 (fun d a b => .fmax d a b 0) 0x3F800000 0xC0000000 = 0x3F800000 ∧ w 3 (after (.fabs 3 1 0) (two 0xBF800000 0)) = 0x3F800000 ∧
    w 3 (after (.fneg 3 1 1) (two 0x3C00 0)) = 0xBC00 := by decide +kernel
/-- Inf - Inf is the canonical NaN and sets nv; 1/3 of a unit in the last place sets nx. -/
theorem test_float_flags : r3 (fun d a b => .fsub d a b 0) 0x7F800000 0x7F800000 = 0x7FC00000 ∧
    fsn (after (.fsub 3 1 2 0) (two 0x7F800000 0x7F800000)) = 1 ∧ fsn (after (.fadd 3 1 2 0) (two 0x3F800000 0x33000000)) = 16 ∧
    w 3 (after (.fadd 3 1 2 0) (two 0x3F800000 0x33000000)) = 0x3F800000 := by decide +kernel
/-- FCVT: 2.5 truncates to 2, rounds to nearest even otherwise; -1.0 to s32 is sign-extended. -/
theorem test_fcvt : w 2 (after (.fcvt 2 7 0 1 0 7) (regs [(7, 0x40200000)])) = 2 ∧ w 2 (after (.fcvt 2 7 0 0 0 7) (regs [(7, 0x40600000)])) = 4 ∧
    w 2 (after (.fcvt 2 7 0 0 0 7) (regs [(7, 0xBF800000)])) = 2 ^ 64 - 1 ∧ w 2 (after (.fcvt 2 7 7 0 0 0) (regs [(7, 3)])) = 0x40400000 := by
  decide +kernel

/-- R30, R31: ties to the even significand, and overflow to Inf; R35, R37: the greatest and the least tapered number. -/
theorem test_rounding : shapeF32.round (.fin false (2 ^ 24 + 1) 0) = (0x4B800000, fNx) ∧ shapeF32.round (.fin true (2 ^ 24 + 3) 0) = (0xCB800002, fNx) ∧
    shapeF16.round (.fin false 65519 0) = (0x7BFF, fNx) ∧ shapeF16.round (.fin false 65520 0) = (0x7C00, fOf ||| fNx) ∧
    shapeBf16.round (.fin false 257 0) = (0x4380, fNx) ∧
    taperRound 8 1 (.fin false (2 ^ 20) 0) = (0x7F, fOf ||| fNx) ∧ taperRound 8 1 (.fin true 1 (-30)) = (0xFF, fUf ||| fNx) ∧
    taperRound 6 0 (.fin false 3 0) = (0x1A, 0) := by decide +kernel
/-- Table 2-6: 2^31 and Inf to s32, a NaN, 2.5 and 3.5 to the even integer, 300 from s16 to s8 with and without .sat. -/
theorem witness_conversion : typeDecode 0 0x7FC00000 = .nan ∧ typeDecode 0 0xFF800000 = .inf true ∧ typeDecode 0 0x40200000 = .fin false 0xA00000 (-22) ∧
    shapeF16 ∈ [shapeF32, shapeF16, shapeBf16] ∧ ((6, 0) : Nat × Nat) ∈ [((8 : Nat), (1 : Nat)), (6, 0)] := by decide +kernel
theorem test_conversion : convert 0 7 true true 0x4F000000 = (0x7FFFFFFF, fNv) ∧ convert 0 7 true false 0xFF800000 = (0x80000000, fNv) ∧
    convert 0 7 true false 0x7FC00000 = (0, fNv) ∧ convert 0 7 false false 0x40200000 = (2, fNx) ∧ convert 0 7 false false 0x40600000 = (4, fNx) ∧
    convert 6 5 false true 300 = (127, fSat) ∧ convert 6 5 false false 300 = (44, 0) := by decide +kernel

/-- R341: RDPERF of counter 0, of a core's and a die's counter; unassigned selectors read zero. RDCYC never goes back. -/
theorem test_counters : w 5 (after (.rdperf 5 6) ((regs [(6, 0)]).modCtx 0 0 (fun x => { x with accIssue := 9 }))) = 9 ∧
    w 5 (after (.rdperf 5 6) ((regs [(6, 6)]).modCore 0 (fun v => { v with l1Hit := 3 }))) = 3 ∧
    w 5 (after (.rdperf 5 6) ((regs [(6, 23)]).modDie 0 (fun v => { v with wdReport := 2 }))) = 2 ∧
    w 5 (after (.rdperf 5 6) (regs [(5, 1), (6, 24)])) = 0 := by decide +kernel
theorem witness_counters : ok (do let n ← readS 6; writeS 5 n) (regs [(6, 23)]) = true ∧ ok (writeS 5 1) base = true := by decide +kernel

/-! ## Vector words (R108 to R110) -/

/-- Lanes of 32 bits 1, 2, 3 and so on from the low end. -/
def lanes32 (l : List Nat) : Nat := (l.zipIdx.map (fun e => e.1 * 2 ^ (32 * e.2))).sum
def vv (i : Instr) (x y : Nat) : Nat := v 3 (after i (vecs [(1, x), (2, y)]))
theorem test_vector_integer : vv (.vadd 3 1 2 0 1) (lanes32 [1, 2 ^ 32 - 1]) (lanes32 [2, 1]) = lanes32 [3, 0] ∧
    vv (.vadd 3 1 2 1 1) (lanes32 [2 ^ 31 - 1]) (lanes32 [1]) = lanes32 [2 ^ 31 - 1] ∧
    fsn (after (.vadd 3 1 2 1 1) (vecs [(1, 2 ^ 31 - 1), (2, 1)])) = 64 ∧ vv (.vsub 3 1 2 1 2) 1 2 = 0 ∧
    vv (.vmul 3 1 2 0 6) 0x03FF 0x0202 = 0x06FE ∧ vv (.vmax 3 1 2 1) (lanes32 [2 ^ 32 - 1, 5]) (lanes32 [0, 6]) = lanes32 [0, 6] ∧
    vv (.vmin 3 1 2 2) (lanes32 [2 ^ 32 - 1]) 7 = 7 := by decide +kernel
theorem test_vector_float : vv (.vfma 3 1 2 0) 0x40000000 0x40400000 = 0x40C00000 ∧ vv (.vexp2 3 1 0) 0x3F800000 0 % 2 ^ 32 = 0x40000000 ∧
    vv (.vrcp 3 1 0) 0x40000000 0 % 2 ^ 32 = 0x3F000000 ∧ vv (.vrsq 3 1 0) 0x40800000 0 % 2 ^ 32 = 0x3F000000 ∧
    fsn (after (.vrcp 3 1 0) base) = 2 := by decide +kernel
theorem test_vector_reduce : w 9 (after (.vredAdd 5 9 1) (vecs [(5, lanes32 [1, 2, 3])])) = 6 ∧
    w 9 (after (.vredMax 5 9 1) (vecs [(5, lanes32 [1, 7])])) = 7 ∧ w 9 (after (.vredMin 5 9 2) (vecs [(5, lanes32 [1, 7])])) = 0 ∧
    ((after (.vredMax 5 9 1) (vecs [(5, lanes32 [1, 7])])).ctx 0 0).y0 = 7 := by decide +kernel
theorem test_vector_move : vv (.vsel 3 1 2 4 1) (lanes32 [1, 2]) (lanes32 [3, 4]) = lanes32 [3, 4] ∧
    v 3 (after (.vsel 3 1 2 4 1) (vecs [(1, lanes32 [1, 2]), (2, lanes32 [3, 4]), (4, lanes32 [1, 0])])) = lanes32 [1, 4] ∧
    v 3 (after (.vshf 3 1 2 1) (vecs [(1, lanes32 [5, 6]), (2, lanes32 [1, 0] + 2 ^ 64)])) % 2 ^ 96 = lanes32 [6, 5, 6] ∧
    v 1 (after (.vbcast 1 10 6) (regs [(10, 0x103)])) % 2 ^ 16 = 0x0303 := by decide +kernel
theorem test_vector_convert : vv (.vcvt 3 1 0 0 0 1) 3 0 = 0x40400000 ∧ vv (.vcmp 3 1 2 0 1) (lanes32 [1, 2]) (lanes32 [1, 3]) % 2 ^ 64 = 2 ^ 32 - 1 ∧
    v 5 (after (.vpack 5 1 2 0 0 2 0) (vecs [(1, 0x3F800000), (2, 0x40000000)])) = 0x3F80 + 0x4000 * 2 ^ 256 ∧
    v 4 (after (.vunpk 4 1 0 0 0 4) (vecs [(1, 0x40003F80)])) = lanes32 [0x3F800000, 0x40000000] := by decide +kernel

/-! ## Address words (R107) -/

def aa (i : BitVec 4 → BitVec 4 → BitVec 4 → Instr) (x y : Nat) : Nat := a 3 (after (i 3 1 2) (addrs [(1, x), (2, y)] (onAcc base)))
theorem test_address : aa .aadd (2 ^ 80 - 1) 2 = 1 ∧ aa .asub 1 2 = 2 ^ 80 - 1 ∧ aa .acmpEq 5 5 = 1 ∧ aa .acmpNe 5 5 = 0 ∧
    aa .acmpLt 4 5 = 1 ∧ aa .acmpLe 5 5 = 1 ∧ aa .amask 12 10 = 8 := by decide +kernel
theorem test_address_moves : a 2 (after (.aaddi 2 2 0x3FFF) (addrs [(2, 0)] (onAcc base))) = 2 ^ 80 - 1 ∧
    a 1 (after (.aidx 1 1 5 5) (addrs [(1, 0x1000)] (regs [(5, 2 ^ 64 - 1)] (onAcc base)))) = 0xFE0 ∧
    a 3 (after (.amov 3 1) (addrs [(1, 0xF * 2 ^ 76 + 99)] (onAcc (ldq [{ pos := 3, id := 0, val := some 6 }])))) = 0xF * 2 ^ 76 + 6 := by
  decide +kernel

/-! ## Frames -/

/-- Sources and destinations of each form can be used at granule boundaries, also where source and destination are one register. -/
theorem witness_frames : (∀ v, ok (do let _ ← readS 8; let _ ← readS 7; writeS 8 v) base = true) ∧
    (∀ v, ok (do let _ ← readS 47; writeS 0 v) base = true) ∧ (∀ v, ok (writeS 63 v) base = true) ∧
    (∀ v, ok (do let _ ← readA 3; let _ ← readA 4; writeA 15 v) base = true) ∧
    (∀ v, ok (do let _ ← readV 0; let _ ← readV 15; let _ ← readV 1; writeV 1 v) base = true) := by
  refine ⟨fun v => ?_, fun v => ?_, fun v => ?_, fun v => ?_, fun v => ?_⟩ <;> rfl
theorem witness_frame_moves : (∀ v, ok (do let _ ← readS 7; writeV 1 v) base = true) ∧
    (∀ v w, ok (do let _ ← readV 3; writeV 14 v; writeV 15 w) base = true) ∧ (∀ v, ok (do let _ ← readV 15; writeS 0 v) base = true) := by
  refine ⟨fun v => ?_, fun v w => ?_, fun v => ?_⟩ <;> rfl
theorem witness_frame_amov : ok (do let _ ← readA 1; let v ← popLdq; writeA 3 (v.setWidth 80))
    (onAcc (ldq [{ pos := 3, id := 0, val := some 6 }])) = true := by decide +kernel

/-! ## Control words (R76 to R81, R101, R102, R111 to R118, R327) -/

def inSlot (b : Branch) (s : State := base) : State :=
  s.modCtx 0 0 (fun x => { x with acc := { x.acc with ctl := .slot b }, exe := { x.exe with ctl := .slot b } })
def br (o : Option Bool) : Branch := { addr := 0x200, target := 0x300, outcome := o }
theorem witness_branches : (¬ base.standsInSlot ∧ base.cur.stream = .exe ∧ ok (readS 4) base = true ∧ base.me.oqE.length < 8) ∧
    (¬ (onAcc base).standsInSlot ∧ (onAcc base).cur.stream = .acc ∧ ok (readA 3) (onAcc base) = true ∧
      ok (do let x ← readA 3; writeA 3 (x - 1)) (onAcc base) = true ∧ (onAcc base).me.oqA.length < 8) ∧
    (inSlot (br none)).standsInSlot ∧ (onAcc (inSlot (br none))).standsInSlot := by decide +kernel

def ctlOf (s : State) (t : Stream) : Ctl := ((s.ctx 0 0).stream t).ctl
/-- Table 4-16: BRE with disp20 -3 from 0x100 has the target 0xF4; its outcome is queued. LOOP writes the decremented register. -/
theorem test_branches : ctlOf (after (.bre 4 0xFFFFD) (regs [(4, 1)])) .exe = .slot { addr := 0x100, target := 0xF4, outcome := some true } ∧
    ((after (.bre 4 0xFFFFD) (regs [(4, 2)])).ctx 0 0).oqE = [{ taken := false, target := 0 }] ∧
    ctlOf (after (.beqz 4 1) base) .exe = .slot { addr := 0x100, target := 0x104, outcome := some true } ∧
    ctlOf (after (.bnez 4 1) base) .exe = .slot { addr := 0x100, target := 0x104, outcome := some false } ∧
    ctlOf (after (.bre 4 1) (onAcc base)) .acc = .slot { addr := 0x100, target := 0x104, outcome := none } := by decide +kernel
theorem test_loop : a 3 (after (.loop 3 0xFFFFE) (addrs [(3, 1)] (onAcc base))) = 0 ∧
    ctlOf (after (.loop 3 0xFFFFE) (addrs [(3, 1)] (onAcc base))) .acc = .slot { addr := 0x100, target := 0xF8, outcome := some false } ∧
    ((after (.loop 3 0xFFFFE) (addrs [(3, 2)] (onAcc base))).ctx 0 0).oqA = [true] ∧
    ((after (.bra 3 1) (addrs [(3, 3)] (onAcc base))).ctx 0 0).oqA = [true] ∧
    ctlOf (after (.loop 3 1) base) .exe = .slot { addr := 0x100, target := 0x104, outcome := none } := by decide +kernel

def deep (n : Nat) : State := base.modCtx 0 0 (fun x => x.setReturnStack .exe ((List.range n).map (fun i => BitVec.ofNat 64 (4 * i))))
theorem witness_transfers : (¬ base.standsInSlot ∧ (base.me.returnStack .exe).length < 32 ∧ base.me.returnStack .exe = []) ∧
    (¬ (deep 32).standsInSlot ∧ 32 ≤ ((deep 32).me.returnStack .exe).length) ∧ ((deep 31).me.returnStack .exe).length < 32 ∧
    (∃ r l, (deep 1).me.returnStack .exe = r :: l) ∧
    (∃ v s₁, readS 5 (regs [(5, 0x40)]) = .ok (v, s₁) ∧ v.toNat % 4 = 0 ∧ s₁.me.oqE.length < 8) := by
  refine ⟨by decide +kernel, by decide +kernel, by decide +kernel, ⟨_, _, rfl⟩, ⟨_, _, rfl, ?_, ?_⟩⟩ <;> decide +kernel
theorem test_transfers : ctlOf (after (.jmp 0xFFFFF) base) .exe = .slot { addr := 0x100, target := 0xFC, outcome := some true } ∧
    ((after (.call 4) base).ctx 0 0).returnStack .exe = [0x108] ∧ ((after .ret (deep 1)).ctx 0 0).returnStack .exe = [] ∧
    ctlOf (after .ret (deep 1)) .exe = .slot { addr := 0x100, target := 0, outcome := some true } ∧
    ((after (.jmpi 5) (regs [(5, 0x40)])).ctx 0 0).oqE = [{ taken := true, target := 0x40 }] ∧ epos (after .nop base) = 5 ∧
    apos (after .yield (onAcc base)) = 5 := by decide +kernel
/-- R102 and R364: the traps 0x0C and 0x0D start both streams at tb + 16 × code. -/
theorem test_return_stack_ends : code (after (.call 4) (deep 32)) = 0x0C ∧ code (after .ret base) = 0x0D ∧
    ((after .ret base).ctx 0 0).acc.pc = 0x40D0 ∧ ((after (.call 4) (deep 32)).ctx 0 0).exe.pc = 0x40C0 ∧
    (((after (.call 4) (deep 32)).ctx 0 0).returnStack .exe).length = 32 := by decide +kernel
/-- R79; R376: taken with the branch resolved, and recorded in ds: taken to 0x300. -/
theorem test_no_branch_in_slot : code (after (.jmp 4) (inSlot (br (some true)))) = 1 ∧
    ((after (.jmp 4) (inSlot (br (some true)))).ctx 0 0).ds = 0x303 ∧ code (after (.hintPrio 1) (inSlot (br (some false)))) = 1 ∧
    ((after (.hintPrio 1) (inSlot (br (some false)))).ctx 0 0).ds = 0x209 := by decide +kernel

/-- R79: the other words that may not stand there. -/
theorem witness_slot_words : (onAcc (inSlot (br (some true)))).standsInSlot ∧ (onAcc (inSlot (br (some true)))).me.dev = true := by decide +kernel
theorem test_slot_words : [Instr.follow 5, .leave, .endc 7, .rets 5 4, .rft, .fibsw 5, .upret 5].all (fun i =>
    let s := after i (onAcc (inSlot (br (some true))))
    code s == 1 && (s.ctx 0 0).ds == 0x303) = true := by decide +kernel
/-- R111: a JMPI to 0x42. The access stream stands before it, or in its slot, or has not come to it. -/
def crooked (f : StreamState → StreamState) : State := (regs [(5, 0x42)]).modCtx 0 0 (fun x => { x with acc := f x.acc })
def jmpiSlot : State := crooked (fun t => { t with pc := 0x104, pos := 5, ctl := .slot { addr := 0x100, target := 0, outcome := none, indirect := true } })
theorem witness_misaligned_jmpi : got (readS 5) (crooked id) (fun v _ => v.toNat % 4 != 0) = true ∧ ¬ (crooked id).standsInSlot ∧
    (crooked id).cur.stream = .exe ∧ (crooked id).me.slotAhead = false ∧ (crooked id).me.together = true ∧
    ¬ jmpiSlot.standsInSlot ∧ jmpiSlot.me.slotAhead = true ∧
    (let x := (crooked (fun t => { t with pc := 0xFC, pos := 3 })).me; x.slotAhead = false ∧ x.together = false) := by decide +kernel
theorem test_misaligned_jmpi : code (after (.jmpi 5) (crooked id)) = 1 ∧ code (after (.jmpi 5) jmpiSlot) = 1 ∧
    (after (.jmpi 5) jmpiSlot).load (spPlace 0 0x7E0) 8 = 0x100 ∧
    (let s := after (.jmpi 5) (crooked (fun t => { t with pc := 0xFC, pos := 3 })); code s = 0 ∧ epos s = 4) := by decide +kernel

theorem witness_redirects : (base.core 0).follower = false ∧ (base.ctx 0 0).ldr = false ∧ (base.ctx 0 0).oqE = [] ∧ (base.ctx 0 0).oqA = [] ∧
    (br (some true)).outcome = some true ∧ (br none).outcome = none ∧
    (∃ o l, ((base.modCtx 0 0 (fun x => { x with oqE := [{ taken := true, target := 0 }] })).ctx 0 0).oqE = o :: l) ∧
    (∃ o l, ((base.modCtx 0 0 (fun x => { x with oqA := [true] })).ctx 0 0).oqA = o :: l) :=
  ⟨rfl, rfl, rfl, rfl, rfl, rfl, ⟨_, _, rfl⟩, ⟨_, _, rfl⟩⟩
theorem test_redirects : (redirect 0 0 .exe (br (some true)) base).map (fun s => ((s.ctx 0 0).exe.pc, (s.ctx 0 0).exe.ctl)) = some (0x300, .seq) ∧
    (redirect 0 0 .exe (br (some false)) base).map (fun s => (s.ctx 0 0).exe.pc) = some 0x208 ∧
    redirect 0 0 .acc (br none) base = none := by decide +kernel

/-- The text from 0x104 on: a word there. -/
def nextWord (w : Nat) (s : State := base) : State :=
  s.modCore 0 (fun v => { v with ic := [{ line := 0x100 / 128, asid := 0, key := 0, data := BitVec.ofNat 1024 (w * 2 ^ 32) }] })
def fetched (s : State) : Option Word :=
  match fetchFor s 0 0 0x104 with
  | .ok (w, u) => if u.cur = s.cur then some w else none
  | .error _ => none
theorem witness_hints : fetched (nextWord 0x18700240) = some 0x18700240 ∧ takesPfx (.movi 7 0x240) = true ∧
    isHint (.movi 7 0x240) = false ∧ takesPfx .nop = false ∧ isHint (.hintPfx 1) = true ∧ takesNt (.movi 7 0x240) = false ∧
    takesNt (.ld 2 1 0 3 0 2) = true ∧ takesTmo (.waita 2 0 0 1 0) = true ∧ base.me.together = true ∧
    (0x22 ≤ 0x8888C002 / 2 ^ 26 ∧ 0x8888C002 / 2 ^ 26 ≤ 0x30) ∧ decodeWord 0x8888C002 = some (.ld 2 1 0 3 0 2) := by decide +kernel
theorem test_hints : ((after (.hintPfx 0x3D) (nextWord 0x18700240)).ctx 0 0).exe.hint = .pfx 0x3D ∧
    code (after (.hintPfx 0x3D) (nextWord 0xF0000000)) = 1 ∧ ((after (.hintSched 7) (nextWord 0xF0000000)).ctx 0 0).exe.hint = .sched 7 ∧
    ((after (.hintMod 0 1) (onAcc (nextWord 0x8888C002))).ctx 0 0).acc.hint = .mod true 0 ∧
    ((after (.hintPrio 5) (onAcc (nextWord 0x8888C002))).ctx 0 0).acc.hint = .prio 5 ∧
    code (after (.hintSched 7) (nextWord 0xFC00003D)) = 1 := by decide +kernel

/-- Two cores of one tile in one gang, core 0 the leader. -/
def pair (s : State := base) : State :=
  { s with cores := tset s.cores 1 { gid := 1, enrolled := true, ctxs := [(0, { ctx0 with rank := 1 })] } }
theorem witness_follow : (base.cur = .ctx 0 0 .exe ∧ ¬ base.standsInSlot ∧ (base.core 0).follower = false ∧ leaderOf base 0 = 0 ∧
      detachedMembers base 0 = [] ∧ arrivedAt base 0 5 = []) ∧
    (leaderOf pair 0 = 0 ∧ ∃ m, m ∈ detachedMembers pair 0 ∧ (pair.ctx m 0).atFollow ≠ some 5) ∧
    (let s := (pair.modCore 1 (fun v => { v with follower := true })).modCtx 0 0 (fun x => { x with acc := { x.acc with pos := 9 } })
     let s := { s with cur := .ctx 1 0 .acc }
     (s.core 1).follower = true ∧ s.me.acc.pos < (s.ctx (leaderOf s 1) 0).acc.pos) := by
  refine ⟨by decide +kernel, ⟨by decide +kernel, 1, by decide +kernel, by decide +kernel⟩, by decide +kernel⟩
theorem test_follow : ((after (.follow 5) base).ctx 0 0).ldr = true ∧ apos (after (.follow 5) base) = 5 ∧
    ((after (.follow 5) pair).ctx 0 0).atFollow = some 5 ∧ apos (after (.follow 5) pair) = 4 ∧
    ((after .leave base).core 0).enrolled = false ∧ epos (after .leave base) = 5 := by decide +kernel

def slotError (n : Nat) (c : Nat) : State := base.modCtx 0 0 (fun x => { x with err := 1 <<< (n - 1), cause := BitVec.ofNat 28 (c * 2 ^ (4 * (n - 1))) })
theorem witness_sbwait : (∀ i, i < 7 → (0x7F : BitVec 7).getLsbD i = true → base.me.pendBefore (BitVec.ofNat 3 (i + 1)) base.position = false) ∧
    (∀ i, i < 7 → (0x7F : BitVec 7).getLsbD i = true → base.me.slotErr (i + 1) = false) ∧ (slotError 7 1).me.slotErr 7 = true ∧
    (slotError 1 1).me.slotErr 1 = true := by decide +kernel
theorem test_sbwait : epos (after (.sbwait 0x7F) base) = 5 ∧ apos (after (.sbwait 0x7F) base) = 5 ∧
    ((after (.sbwait 0x40) (slotError 7 1)).ctx 0 0).err = 0 ∧ code (after (.sbwait 0x40) (slotError 7 1)) ≠ 0 ∧
    code (after (.sbwait 0x3F) (slotError 7 1)) = 0 := by decide +kernel
theorem test_illegal_word : code (after .illegalInstructionWord { base with ev := .illegalInstructionWord 0 }) = 1 ∧
    (let s : State := { base with ev := .illegalInstructionWord 0xFFFFFFFF }; s.cur = .ctx 0 0 .exe) := by decide +kernel

/-! ## Accesses and homes (R148, R149, R154 to R165, R179 to R202) -/

/-- Region 0: pages of 4 KiB, one level, L1 admitted, home die 0; the slice of `va` holds the translation of page 0 to frame 5. -/
def att0 : Nat := 1 + 8 + 12 * 64 + 2 * 2 ^ 26
def leaf0 : Nat := 1 + 2 + 4 + 8 + 5 * 32
def mappedAt (va : Nat) (s : State := base) : State :=
  { s with
    regions := tset s.regions 0 (BitVec.ofNat 128 att0)
    slices := tset s.slices (homeSlice (BitVec.ofNat 80 va) att0) { stc := [{ asid := 0, region := 0, vpn := 0, leaf := BitVec.ofNat 64 leaf0 }] } }
def regionF (off : Nat) : Nat := 15 * 2 ^ 76 + off
def regionE (off : Nat) : Nat := 14 * 2 ^ 76 + off
def okE {α : Type} (e : Except Nat α) : Option Nat :=
  match e with
  | .ok _ => none
  | .error c => some c
/-- The fault of an address; none where it can be reached. -/
def faultOf (s : State) (v : Nat) (n : Nat := 8) : Option Nat := okE (resolve s 0 1 0 (BitVec.ofNat 80 v) n .read false)
def twoGangs : State := (pair base).modCore 2 (fun v => { v with gid := 7 })
def bankOf (g : BitVec 32) : State := base.modAshlar 3 (fun u => { u with gid := g, mst := 16 })
/-- R148, R149: every clause at a boundary: the last byte of the own scratchpad, the first beyond it, a core of the gang and one of
another, a bank of the gang up to its partition and past it. -/
theorem test_address_rules : faultOf base (regionF (2 ^ 18 - 1)) 1 = none ∧ faultOf base (regionF (2 ^ 18)) = some 4 ∧
    faultOf base (regionF (2 ^ 31)) = some 4 ∧ faultOf twoGangs (regionF (2 ^ 30 + 2 ^ 18)) = none ∧
    faultOf twoGangs (regionF (2 ^ 30 + 2 * 2 ^ 18)) = some 5 ∧ faultOf (bankOf 1) (regionE (2 ^ 25)) = some 4 ∧
    faultOf (bankOf 2) (regionE (3 * 2 ^ 16)) = some 5 ∧ faultOf (bankOf 1) (regionE (3 * 2 ^ 16 + 4088)) = none ∧
    faultOf (bankOf 1) (regionE (3 * 2 ^ 16 + 4089)) = some 5 ∧ faultOf base 0 = some 4 := by decide +kernel
theorem witness_address_rules : vaRegion (BitVec.ofNat 80 (regionF 0)) = 15 ∧ vaRegion (BitVec.ofNat 80 (regionE 0)) = 14 ∧
    (twoGangs.core 1).gid = 1 ∧ (twoGangs.core 2).gid ≠ 1 ∧ ((bankOf 1).ashlar 3).gid = 1 ∧ ((bankOf 2).ashlar 3).gid ≠ 1 ∧
    attValid (attOf base 0) = false := by decide +kernel

def req (op : ReqOp) (va : Nat) (n : Nat) (x : Nat := 0) : Req :=
  { core := 0, ctx := 0, id := 3, op := op, asid := 0, gid := 1, va := BitVec.ofNat 80 va, size := n, x := BitVec.ofNat 512 x, y := 0, sx := true,
    dest := .ldq, path := .plain, nt := false, leaf := 0 }
/-- a2 holds a scratchpad address of the own core past the workspace areas in use, and sdq two items. -/
def acc2 (va : Nat) (s : State := base) : State :=
  onAcc ((addrs [(2, va)] s).modCtx 0 0 (fun x => { x with sdq := [{ pos := 2, val := 0x1122334455667788 }, { pos := 3, val := 9 }] }))
def spAt : Nat := regionF 0x8000
theorem witness_access : (acc2 spAt).unheld 0 ∧ (acc2 spAt).slotRoom 7 ∧ (acc2 spAt).feRoom ∧ (acc2 spAt).me.ldq.length < 16 ∧
    ok (do let b ← readA 2; let _ ← popSdq; let _ ← popSdq; check (b + (-1 : BitVec 12).signExtend 80 * BitVec.ofNat 80 8) 8 .atomic) (acc2 spAt) = true ∧
    ok (do let b ← readA 2; let _ ← readV 15; check b 64 .write) (acc2 spAt) = true ∧ spAt % 64 = 0 ∧ (spAt + 1) % 2 ≠ 0 ∧
    (acc2 spAt).me.accessesBefore (acc2 spAt).position = false ∧ vaRegion (BitVec.ofNat 80 spAt) = 15 := by decide +kernel
/-- R179, R197, R206: an address that is a multiple of 4 but of no larger size. -/
theorem witness_misaligned : (spAt + 4) % 8 ≠ 0 ∧ (spAt + 4) % 64 ≠ 0 ∧ (spAt + 2) % 4 ≠ 0 ∧ (acc2 (spAt + 4)).me.replay = [] ∧
    (acc2 (spAt + 4)).unheld 0 ∧ ok (do let _ ← readA 2; let _ ← popSdq; let _ ← popSdq) (acc2 (spAt + 4)) = true ∧
    (spAt + 4) % 8 ≠ 0 ∧ (if (2 : BitVec 2).getLsbD 0 then 8 else 4) = 4 := by decide +kernel
theorem test_misaligned : [Instr.ldacq 2 0 0 3 1 0, .strel 2 0 0 3 1 0, .stfe 2 0 0 3 1 0, .atadd 2 0 0 1 0, .atcas 2 0 0 1 0, .waita 2 0 0 1 0,
      .atmax 2 0 0 1 0, .asopReduceAdd 2 0 0 0, .asopSmerge 2 0 0 0, .vld 2 0 0 3 0].all (fun i =>
    let s := after i (acc2 (spAt + 4))
    code s == 3 && s.agenda.isEmpty && (s.ctx 0 0).sdq.length == 2) = true := by decide +kernel
/-- R194, R196: outside region 0xF. -/
theorem witness_full_empty_outside : vaRegion (BitVec.ofNat 80 64) ≠ 15 ∧ 64 % 8 = 0 ∧ (acc2 64).unheld 0 ∧
    ok (do let _ ← readA 2; popSdq) (acc2 64) = true ∧ ok (do let _ ← readA 2; readV 3) (acc2 64) = true := by decide +kernel
theorem test_full_empty_outside : code (after (.stfe 2 0 0 3 0 0) (acc2 64 (mappedAt 64))) = 4 ∧
    code (after (.stfe 2 0 0 3 1 0) (acc2 64 (mappedAt 64))) = 4 ∧ code (after (.vstfe 2 0 0 3 0) (acc2 64 (mappedAt 64))) = 4 := by decide +kernel
/-- A line of region 0 that the L1 admits, without and with cached copies; a misaligned one; an address in no mapped region. -/
def line0 : CodeLine := { line := 0, asid := 0, key := 0, data := 0xAB }
def withCc (s : State) : State := s.modCore 0 (fun v => { v with cc := [line0] })
def withL1 (inv : Bool) (s : State) : State := s.modCore 0 (fun v => { v with
  l1 := [{ line := 0, asid := 0, key := 0, valid := 15, inv := inv, data := 0xAB, home := { phys := false, line := 0, asid := 0, key := 0 } }] })
def copyOf (s : State) (p : ReqPath) : Option Nat := cachedCopy s (s.core 0) { req .read 0 8 with path := p }
theorem witness_cached : admitsL1 (match check 0 8 .read (acc2 0 (mappedAt 0)) with
      | .ok (t, _) => t
      | .error _ => .sp 0 0) 0 = true ∧ ok (check 0 8 .read) (acc2 0 (mappedAt 0)) = true ∧
    copyOf (mappedAt 0) .constant = none ∧ copyOf (mappedAt 0) .invariant = none ∧ copyOf (mappedAt 0) .plain = none ∧
    copyOf (withCc (mappedAt 0)) .constant = some 0xAB ∧ copyOf (withL1 true (mappedAt 0)) .invariant = some 0xAB ∧
    copyOf (withL1 false (mappedAt 0)) .plain = some 0xAB ∧ copyOf (withL1 true (mappedAt 0)) .plain = none ∧
    lineBusy (withL1 false (mappedAt 0)) 0 0 0 = false ∧
    lineBusy ((withL1 false (mappedAt 0)).send (.homeRequest { req .write 0 8 with ctx := 1 })) 0 0 0 = true ∧ vaRegion (0 : VA) < 14 ∧ ok (check 0 4 .read) (acc2 0 (mappedAt 0)) = true ∧
    okE (checkAccess (acc2 0) 0 0 0 128 .read) = some 4 ∧ okE (checkAccess (acc2 0 (mappedAt 0)) 0 0 0 128 .read) = none := by decide +kernel

def lastReq (s : State) : Option Req :=
  match s.agenda.getLast? with
  | some (.homeRequest r) => some r
  | _ => none
theorem test_load : ((lastReq (after (.ld 2 1 0 3 0 2) (acc2 spAt))).map (fun r => (r.op, r.va.toNat, r.size, r.sx, r.dest))) =
      some (.read, spAt + 16, 8, false, .ldq) ∧ ((after (.ld 2 1 0 3 0 2) (acc2 spAt)).ctx 0 0).ldq = [{ pos := 4, id := 0, val := none }] ∧
    ((after (.ld 2 1 0 0 1 0xFFF) (acc2 spAt)).agenda.length = 1) ∧ code (after (.ld 2 1 0 3 0 0) (acc2 (spAt + 4))) = 3 := by decide +kernel
theorem test_other_loads : (((after (.ldacq 2 1 0 3 1 0) (acc2 spAt)).ctx 0 0).pend.map (fun p => p.hold)) = [true] ∧
    ((lastReq (after (.ldc 2 0 0 2 1 0) (acc2 0 (mappedAt 0)))).map (fun r => (r.path, r.sx))) = some (.constant, true) ∧
    ((lastReq (after (.ldi 2 0 0 2 0 0) (acc2 0 (mappedAt 0)))).map (fun r => r.path)) = some .invariant ∧
    (after (.ldc 2 0 0 3 0 0) (acc2 0 (withCc (mappedAt 0)))).agenda = [.loadReturn 0 0 0 0xAB] := by decide +kernel
/-- R157, R158: a copy in the L1 answers a load, unless a store of the core to the line is still to be performed. -/
theorem test_l1_copy : (after (.ld 2 0 0 3 0 0) (acc2 0 (withL1 false (mappedAt 0)))).agenda = [.loadReturn 0 0 0 0xAB] ∧
    ((lastReq (after (.ld 2 0 0 3 0 0) (acc2 0 ((withL1 false (mappedAt 0)).send (.homeRequest { req .write 0 8 with ctx := 1 }))))).map
      (fun r => (r.op, r.size))) = some (.read, 8) := by decide +kernel
theorem test_stores : ((lastReq (after (.st 2 2 0 2 2) (acc2 spAt))).map (fun r => (r.op, r.va.toNat, r.size, r.x.toNat))) =
      some (.write, spAt + 8, 4, 0x55667788) ∧ ((after (.st 2 2 0 2 2) (acc2 spAt)).ctx 0 0).sdq.length = 1 ∧
    ((lastReq (after (.strel 2 0 0 3 1 0) (acc2 spAt))).map (fun r => r.op)) = some .write ∧
    ((lastReq (after (.stfe 2 0 0 3 1 0) (acc2 spAt))).map (fun r => r.op)) = some .writeWhenEmpty ∧
    ((lastReq (after (.stfe 2 0 0 3 0 0) (acc2 spAt))).map (fun r => r.op)) = some .writeFull ∧
    (after (.st 2 2 0 2 2) (acc2 spAt)).mem = (acc2 spAt).mem := by decide +kernel
theorem test_full_empty : ((lastReq (after (.ldfe 2 0 0 3 1 0) (acc2 spAt))).map (fun r => r.op)) = some (.readWhenFull true) ∧
    code (after (.ldfe 2 0 0 3 1 0) (acc2 0 (mappedAt 0))) = 4 ∧
    ((lastReq (after (.la 2 0 0 7 2) (acc2 spAt))).map (fun r => (r.size, r.dest))) = some (16, .addr 7) ∧
    ((lastReq (after (.vld 2 1 0 3 2) (acc2 spAt))).map (fun r => (r.va.toNat, r.size, r.dest))) = some (spAt + 128, 64, .vec 3) ∧
    ((lastReq (after (.vst 2 0 0 3 0) (vecs [(3, 77)] (acc2 spAt)))).map (fun r => r.x.toNat)) = some 77 ∧
    ((lastReq (after (.vstfe 2 0 0 3 0) (acc2 spAt))).map (fun r => r.op)) = some .writeFull := by decide +kernel
/-- A STREL behind an access that is outstanding: it goes on, deferred, and is sent when the access has completed (R191). -/
def acc2Busy : State := (acc2 spAt).modCtx 0 0 (fun x => { x with pend := [{ id := 3, pos := 2, ss := 0, kind := .access, hold := false }] })
theorem witness_strel : acc2Busy.unheld 0 ∧ acc2Busy.slotRoom 7 ∧ acc2Busy.me.replay = [] ∧ acc2Busy.me.hasPend acc2Busy.nextId = false ∧
    acc2Busy.me.accessesBefore acc2Busy.position = true ∧ (acc2 spAt).me.replay = [] ∧
    (acc2 spAt).me.accessesBefore (acc2 spAt).position = false := by decide +kernel
theorem test_strel_defers : (let s := after (.strel 2 0 0 3 1 0) acc2Busy
     apos s = 5 ∧ s.agenda = [] ∧ ((s.ctx 0 0).deferred.map (fun h => (h.req.op, h.release))) = [(.write, true)] ∧
     (let t := after .storeAck { s with ev := .storeAck 0 0 3, cur := .none }
      ((lastReq t).map (·.op)) = some .write ∧ (t.ctx 0 0).deferred = [])) := by decide +kernel
/-- Table 5-2: the granules of a7 and v3 can be written; a dead one traps LA and VLD before anything is sent. -/
def deadGran (n : Nat) : State := (acc2 spAt).modCore 0 (fun v => v.setGranule 0 n .dead)
theorem witness_dest : (∀ n : BitVec 4, ReqDest.addr 7 = .addr n → (acc2 spAt).mine.granule (acc2 spAt).me.area ((0x580 + 16 * n.toNat) / 64) ≠ .dead) ∧
    (∀ n : BitVec 4, ReqDest.vec 3 = .vec n → (acc2 spAt).mine.granule (acc2 spAt).me.area ((0x180 + 64 * n.toNat) / 64) ≠ .dead) ∧
    (deadGran 23).mine.granule (deadGran 23).me.area ((0x580 + 16 * 7) / 64) = .dead ∧
    (deadGran 9).mine.granule (deadGran 9).me.area ((0x180 + 64 * 3) / 64) = .dead := by
  refine ⟨fun n h => ?_, fun n h => ?_, by decide +kernel, by decide +kernel⟩ <;> (injection h with h; subst h; decide +kernel)
theorem test_dead_destination : code (after (.la 2 0 0 7 0) (deadGran 23)) = 0x0B ∧ code (after (.vld 2 0 0 3 0) (deadGran 9)) = 0x0B ∧
    (after (.vld 2 0 0 3 0) (deadGran 9)).agenda = [] := by decide +kernel
def atOf (i : Instr) : Option (ReqOp × Nat × Nat) := (lastReq (after i (acc2 spAt))).map (fun r => (r.op, r.size, r.x.toNat))
theorem test_atomics : atOf (.atadd 2 3 0 1 0) = some (.atomic .add, 8, 0x1122334455667788) ∧ (atOf (.atand 2 0 0 0 0)).map (·.1) = some (.atomic .and) ∧
    (atOf (.ator 2 0 0 0 0)).map (·.1) = some (.atomic .or) ∧ (atOf (.atxor 2 0 0 0 0)).map (·.1) = some (.atomic .xor) ∧
    (atOf (.atswp 2 0 0 0 0)).map (·.1) = some (.atomic .swp) ∧ (atOf (.atmin 2 0 0 2 0)).map (·.1) = some (.atomic .minS) ∧
    (atOf (.atmax 2 0 0 1 0)).map (fun x => (x.1, x.2.1)) = some (.atomic .maxN, 8) := by decide +kernel
theorem test_cas_waita : ((lastReq (after (.atcas 2 0 0 1 0) (acc2 spAt))).map (fun r => (r.op, r.y.toNat))) = some (.atomic .cas, 9) ∧
    ((lastReq (after (.waita 2 0 0 1 0) (acc2 0 (mappedAt 0)))).map (fun r => r.op)) = some .waita ∧
    code (after (.waita 2 0 0 1 0) (acc2 spAt)) = 4 := by decide +kernel
theorem test_atomic_values : atomicOp .add 32 (2 ^ 32 - 1) 2 0 = some 1 ∧ atomicOp .minS 32 (2 ^ 32 - 1) 1 0 = some (2 ^ 32 - 1) ∧
    atomicOp .minN 32 (2 ^ 32 - 1) 1 0 = some 1 ∧ atomicOp .cas 64 5 5 6 = some 6 ∧ atomicOp .cas 64 5 4 6 = none := by decide +kernel

/-- R92: at user privilege a line of the own scratchpad that touches the area of a live context. -/
theorem witness_line_guard : okE (checkAccess (user (acc2 (regionF 0))) 0 0 (BitVec.ofNat 80 (regionF 0)) 128 .read) = some 0x0A ∧
    okE (checkAccess (acc2 spAt) 0 0 (BitVec.ofNat 80 spAt) 128 .read) = none := by decide +kernel
theorem test_line_guard : code (after (.pref 2 0 0 0) (user (acc2 (regionF 0)))) = 0x0A ∧
    code (after (.cunpin 2 0 0 0) (user (acc2 (regionF 0)))) = 0x0A ∧ apos (after (.pref 2 0 0 0) (user (acc2 spAt))) = 5 := by decide +kernel
theorem test_line_operations : epos (after (.cflush 2 0 0 0) (acc2 spAt)) = 4 ∧ apos (after (.cflush 2 0 0 0) (acc2 spAt)) = 5 ∧
    (after (.cpin 2 0 0 1) (acc2 spAt)).agenda = [] ∧ ((lastReq (after (.cinv 2 0 0 0) (acc2 0))).map (fun r => r.op)) = some .cinv ∧
    ((lastReq (after (.cunpin 2 0 0 0) (acc2 0))).map (fun r => r.op)) = some .cunpin ∧
    ((lastReq (after (.cpin 2 0 0 0) (acc2 0 (mappedAt 0)))).map (fun r => (r.op, r.size))) = some (.cpin, 128) ∧
    (after (.pref 2 0 0 0) (acc2 0)).agenda = [] ∧ ((lastReq (after (.pref 2 0 0 0) (acc2 0 (mappedAt 0)))).map (fun r => r.op)) = some .pref := by
  decide +kernel
/-- R184: with nt the translation of the page goes to the slice, also where it is not there yet. -/
theorem test_pref_nt : (loadTranslation true 0 0 false (mappedAt 0)).slices.map (fun e => e.2.stc.length) = [1] ∧
    loadTranslation false 0 0 false base = base ∧
    (let s := (acc2 0 (mappedAt 0)).modCtx 0 0 (fun x => { x with acc := { x.acc with hint := .mod true 0 } }); s.hintedNt = true) :=
  ⟨by decide +kernel, rfl, by decide +kernel⟩
def pending : State := onAcc (base.modCtx 0 0 (fun x => { x with pend := [{ id := 0, pos := 2, ss := 1, kind := .access, hold := false }] }))
theorem witness_fences : (onAcc base).unheld 0 ∧ (onAcc base).me.accessesBefore 4 = false ∧
    (onAcc base).me.pend.any (fun p => p.ss != 0 && p.pos < 4) = false ∧ (∀ n, 1 ≤ n → n ≤ 7 → (onAcc base).me.slotErr n = false) ∧
    pending.unheld 0 ∧ pending.me.accessesBefore 4 = true ∧ (slotError 7 1).me.slotErr 7 = true ∧
    (∀ m, 1 ≤ m → m < 7 → (slotError 7 1).me.slotErr m = false) := by
  refine ⟨by decide +kernel, by decide +kernel, by decide +kernel, fun n h1 h2 => ?_, by decide +kernel, by decide +kernel, by decide +kernel,
    fun m h1 h2 => ?_⟩
  · have : n = 1 ∨ n = 2 ∨ n = 3 ∨ n = 4 ∨ n = 5 ∨ n = 6 ∨ n = 7 := by omega
    rcases this with h | h | h | h | h | h | h <;> subst h <;> decide +kernel
  · have : m = 1 ∨ m = 2 ∨ m = 3 ∨ m = 4 ∨ m = 5 ∨ m = 6 := by omega
    rcases this with h | h | h | h | h | h <;> subst h <;> decide +kernel
theorem test_fences : [Instr.fenceCore 1, .fenceTile 0, .fenceDie 0, .fenceModule 0, .fenceDomain 7].all (fun i =>
      apos (after i (onAcc base)) == 5 && apos (after i pending) == 4) = true ∧
    ((after (.fenceCore 0) (onAcc (slotError 7 1))).ctx 0 0).err = 0 ∧ code (after (.fenceCore 0) (onAcc (slotError 7 1))) ≠ 0 := by decide +kernel

def home (r : Req) (s : State := base) : State := after .homeRequest { s with ev := .homeRequest r, cur := .none }
theorem witness_homes : (base.core 0).feWait = [] ∧ isFull base 0 (0x8000 / 16) = false ∧ okE (resolve base 0 1 0 (BitVec.ofNat 80 spAt) 8 .atomic false) = none ∧ (base.core 0).power (0x8000 / 16384) = .on ∧
    tagOnly (.atomic .add) = false ∧ tagOnly .read = false ∧ tagOnly .write = false ∧
    okE (resolve (bankOf 1) 0 1 0 (BitVec.ofNat 80 (regionE (3 * 2 ^ 16))) 8 .write false) = none := by decide +kernel
theorem test_home_bank : ((home (req .read spAt 2) (base.store (spPlace 0 0x8000) 2 0xFFFE)).agenda = [.loadReturn 0 0 3 (BitVec.ofNat 512 (2 ^ 64 - 2))]) ∧
    (home (req .write spAt 2 0xABCDEF)).load (spPlace 0 0x8000) 4 = 0xCDEF ∧ (home (req .write spAt 2 0xABCDEF)).agenda = [.storeAck 0 0 3] ∧
    (home (req (.atomic .add) spAt 4 5) (base.store (spPlace 0 0x8000) 4 7)).load (spPlace 0 0x8000) 4 = 12 ∧
    (home (req .write (regionE (3 * 2 ^ 16)) 2 0xABCD) (bankOf 1)).load (ashPlace 3 0) 2 = 0xABCD := by decide +kernel
def sl0 : Nat := homeSlice (0 : VA) att0
theorem witness_misses : (∃ l u, reqTarget (mappedAt 0) (req .read 0 8) = .ok (.hbm l, u) ∧ (u.slice l.slice).ingress = [] ∧
    reqHit (req .read 0 8) l u = false ∧ (u.slice l.slice).mshrs = [] ∧ (u.slice l.slice).held = [] ∧
    replicaServes (req .read 0 8) l u = false) := by
  refine ⟨_, _, rfl, ?_, ?_, ?_, ?_, ?_⟩ <;> decide +kernel
/-- The line's fill is due, for a read: a second request joins it. -/
def missing : State := { home (req .read 0 8) (mappedAt 0) with cur := .none }
theorem witness_merges : (∃ l u m, reqTarget missing (req .write 0 8 7) = .ok (.hbm l, u) ∧ (u.slice l.slice).mshrs = [m] ∧
      sameLine m.tag l.tag = true ∧ m.merge.length < 33 ∧ reqHit (req .write 0 8 7) l u = false ∧ findLine u l.slice l.tag false = none) ∧
    (∃ l u, reqTarget (missing.modSlice sl0 (fun v => { v with mshrs := [] })) (req .read 0 8) = .ok (.hbm l, u) ∧
      ((performHbm (req .read 0 8) l u).slice sl0).ingress = [] ∧ ((performHbm (req .read 0 8) l u).slice sl0).held = []) ∧
    (missing.slice sl0).mshrs.map (fun m => (m.merge, m.acked)) = [([req .read 0 8], [])] := by
  refine ⟨⟨_, _, _, rfl, rfl, ?_, ?_, ?_, ?_⟩, ⟨_, _, rfl, ?_, ?_⟩, ?_⟩ <;> decide +kernel
/-- R165: the store is performed and acknowledged where its line's fill is still due. -/
theorem test_store_at_a_miss : (let s := home (req .write 0 8 7) { missing with agenda := [] }
    s.agenda = [.storeAck 0 0 3] ∧ (s.slice sl0).mshrs.map (fun m => (m.merge.length, m.acked)) = [(2, [3])]) := by decide +kernel
theorem test_misses : (((home (req .read 0 8) (mappedAt 0)).slice sl0).mshrs.map (fun m => m.merge.length)) = [1] ∧
    (((home (req .read 0 4) { home (req .read 0 8) (mappedAt 0) with cur := .none }).slice sl0).mshrs.map (fun m => m.merge.length)) = [2] ∧
    (let s := home (req .read 0 8) ((mappedAt 0).store 0x5000 8 0x123)
     let t := match s.agenda with
       | m :: l => after .llcFill { s with ev := m, agenda := l }
       | [] => s
     t.agenda = [.loadReturn 0 0 3 0x123] ∧ (t.slice sl0).mshrs = []) := by decide +kernel
def waiting : State := base.modCtx 0 0 (fun x => { x with pend := [{ id := 3, pos := 2, ss := 1, kind := .access, hold := false, dest := .ldq }], ldq := [{ pos := 2, id := 3, val := none }] })
theorem witness_returns : (waiting.ctx 0 0).deferred = [] ∧ (waiting.ctx 0 0).pend.find? (fun q => q.id == 3) = some { id := 3, pos := 2, ss := 1, kind := .access, hold := false, dest := .ldq } := by
  decide +kernel
theorem test_returns : ((after .loadReturn { waiting with ev := .loadReturn 0 0 3 99 }).ctx 0 0).ldq = [{ pos := 2, id := 3, val := some 99 }] ∧
    ((after .loadReturn { waiting with ev := .loadReturn 0 0 3 99 }).ctx 0 0).pend = [] ∧
    ((after .storeAck { waiting with ev := .storeAck 0 0 3 }).ctx 0 0).pend = [] := by decide +kernel

/-- The one access before a deferred STREL, and R177: a sector of no slice's line. -/
theorem witness_deferred : (let s := after (.strel 2 0 0 3 1 0) acc2Busy
    ∃ h, (s.ctx 0 0).deferred = [h] ∧ (s.ctx 0 0).replay = [] ∧ (s.ctx 0 0).pend.find? (fun q => q.id == 3) =
        some { id := 3, pos := 2, ss := 0, kind := .access, hold := false } ∧
      (let x : Ctx := { s.ctx 0 0 with pend := (s.ctx 0 0).pend.filter (fun q => q.id != 3) }
       x.accessesBefore (x.posOf h.req.id) = false) ∧ waitaAhead s h.req = false) := ⟨_, rfl, by decide +kernel⟩
theorem test_sector_error : sectorPoison (after .llcFill { base with ev := .sectorError 0x5000 }) 0x5010 = true ∧
    ((after .llcFill { base with ev := .correctedError 0 }).die 0).corrected = 1 := by decide +kernel
/-- R368: a unit of a scratchpad that no live context has as its state area, and one that is in it. -/
theorem witness_unit_error : (base.core 0).areaLive (0x9000 / 2048) = false ∧ (base.core 0).areaLive (0x680 / 2048) = true ∧
    0x680 ≤ 0x680 % 2048 ∧ spPlace 0 0x9000 < 2 ^ 59 := by decide +kernel
theorem test_unit_error : (after .llcFill { base with ev := .sectorError (spPlace 0 0x9008) }).flaws = [spPlace 0 0x9000 / 16] ∧
    (after .llcFill { base with ev := .sectorError (spPlace 0 0x680) }).agenda = [.coreFailure 0 true] := by decide +kernel
def parked (y : Nat) : State := (mappedAt 0).modSlice sl0 (fun v => { v with waiters := [{ line := { phys := false, line := 0, asid := 0, key := 0 }, req := { req .waita 0 8 with y := BitVec.ofNat 64 y } }] })
theorem witness_memory_events : (base.ctx 0 0).live = true ∧ (gran .absent).mine.granule (base.ctx 0 0).area 0 = .absent ∧
    (base.modCore 0 (fun v => { v with bank := [(15, .retention)] }) |>.core 0).power 15 = .retention ∧
    okE (translate (mappedAt 0) 0 0 .read false) = none ∧ vaRegion (0 : VA) < 14 ∧ ((parked 1).slice sl0).waiters.length = 1 ∧
    okE (reqHome ((parked 1).modSlice sl0 (fun v => { v with waiters := [] })) (req .waita 0 8) .read) = none ∧
    (let s := base.modCtx 0 0 (fun x => { x with wait := some ⟨3, none⟩, pend := [{ id := 3, pos := 2, ss := 0, kind := .access, hold := true }] })
     (s.ctx 0 0).hasPend 3 = true ∧ s.agenda = [] ∧ s.slices = [] ∧ (s.ctx 0 0).deferred = []) := by decide +kernel
theorem test_memory_events : ((after .granuleFill { gran .absent with ev := .granuleFill 0 0 0 }).core 0).granule 0 0 = .present false ∧
    ((after .bankWake { base.modCore 0 (fun v => { v with bank := [(15, .retention)] }) with ev := .bankWake 0 15 }).core 0).power 15 = .on ∧
    (after .waitaTimeout { parked 1 with ev := .waitaTimeout sl0 3 }).agenda = [.loadReturn 0 0 3 0] ∧
    ((after .monitorWindow { base.modDie 0 (fun v => { v with monitor := [⟨0, 1, 5, 6, false⟩] }) with ev := .monitorWindow 0 }).die 0).monitor =
      [⟨0, 1, 0, 0, false⟩] := by decide +kernel

/-! ## Traps, contexts, system words (chapters 5, 12, 15 to 17) -/

def infoAt (n : Nat) : TrapInfo := { code := n, va := BitVec.ofNat 80 (3 * 2 ^ 64 + 7), num := 9 }
def dsOf (s : State) : Nat := (s.ctx 0 0).ds.toNat
/-- A trap taken outside a slot, in a slot with a branch that has no outcome, and in one that has. -/
theorem witness_taking_a_trap : (infoAt 255).code < 256 ∧ (base.core 0).power (areaBank (base.ctx 0 0).area) = .on ∧
    base.me.slotOf base.cur.stream = none ∧
    ((inSlot (br none)).me.slotOf (inSlot (br none)).cur.stream = some (br none) ∧ (inSlot (br none)).me.outcome .exe (br none) = none) ∧
    (inSlot (br (some true))).me.slotOf .exe = some (br (some true)) ∧
    (inSlot (br (some true))).me.outcome .exe (br (some true)) = some (true, 0x300) := by decide +kernel
/-- Table 16-1: the record lies at 0x7E0 of the area: saved PCs, the code at byte 16, es, us and dev in byte 17, the number at byte 18,
and the address from byte 22. -/
theorem test_trap_record : (let s := takeTrap 0 0 (infoAt 5) true none base
     s.load (spPlace 0 0x7E0) 8 = 0x100 ∧ s.load (spPlace 0 0x7E8) 8 = 0x100 ∧ s.load (spPlace 0 0x7F0) 3 = 0x090505 ∧
     s.load (spPlace 0 0x7F6) 10 = 7 * 2 ^ 16 + 3 ∧ (s.ctx 0 0).acc.pc = 0x4050 ∧ (s.ctx 0 0).exe.pc = 0x4050) := by decide +kernel

theorem witness_trap_and_svc : (let u := base.onMe (fun x => x.retireBoth)
     (∃ v, (afterSlot base.cur.core base.cur.ctxNo .acc u).bind (afterSlot base.cur.core base.cur.ctxNo .exe) = some v) ∧
     base.me.acc.ctl = .seq ∧ base.me.exe.ctl = .seq) ∧
    (let s := inSlot (br none); let u := s.onMe (fun x => x.retireBoth)
     (afterSlot s.cur.core s.cur.ctxNo .acc u).bind (afterSlot s.cur.core s.cur.ctxNo .exe) = none) ∧
    (let s := inSlot (br (some true)); let u := s.onMe (fun x => x.retireBoth)
     (∃ v, (afterSlot s.cur.core s.cur.ctxNo .acc u).bind (afterSlot s.cur.core s.cur.ctxNo .exe) = some v) ∧
     s.me.acc.ctl = .slot (br (some true)) ∧ s.me.outcome .acc (br (some true)) = some (true, 0x300)) :=
  ⟨⟨⟨_, rfl⟩, rfl, rfl⟩, rfl, ⟨_, rfl⟩, rfl, rfl⟩
/-- R380: SVC 17 from 0x100 saves 0x104 in both streams; in a slot it saves the target. -/
theorem test_svc : (let s := after (.svc 17) (user base)
     code s = 0x21 ∧ s.load (spPlace 0 0x7E0) 8 = 0x104 ∧ s.load (spPlace 0 0x7E8) 8 = 0x104 ∧ s.load (spPlace 0 0x7F1) 2 = 0x1100 ∧
     (s.ctx 0 0).dev = true ∧ (s.ctx 0 0).exe.pc = 0x4210) ∧
    (let s := after (.trap 5) (inSlot (br (some true)))
     code s = 0x20 ∧ s.load (spPlace 0 0x7E0) 8 = 0x300 ∧ s.load (spPlace 0 0x7E8) 8 = 0x300) := by decide +kernel

theorem witness_wrpriv : (user base).me.dev = false ∧ base.me.dev = true ∧
    base.me.pend.any (fun p => p.pos < base.position && p.kind != .token && !base.me.withdrawn p.id) = false ∧
    (let s := base.modCtx 0 0 (fun x => { x with pend := [{ id := 0, pos := 2, ss := 1, kind := .access, hold := false }] })
     s.me.pend.any (fun p => p.pos < s.position && p.kind != .token && !s.me.withdrawn p.id) = true) ∧
    (∃ v s₁, readS 3 (regs [(3, 1)]) = .ok (v, s₁) ∧ v.toNat / 2 = 0) ∧ (∃ v s₁, readS 3 (regs [(3, 2)]) = .ok (v, s₁) ∧ v.toNat / 2 ≠ 0) := by
  refine ⟨by decide +kernel, by decide +kernel, by decide +kernel, by decide +kernel, ⟨_, _, rfl, ?_⟩, ⟨_, _, rfl, ?_⟩⟩ <;> decide +kernel
theorem test_wrpriv : ((after (.wrpriv 3) base).ctx 0 0).dev = false ∧ ((after (.wrpriv 3) (regs [(3, 1)])).ctx 0 0).dev = true ∧
    code (after (.wrpriv 3) (regs [(3, 2)])) = 1 ∧ code (after (.wrpriv 3) (user base)) = 2 := by decide +kernel

theorem witness_traps_return : base.cur = .ctx 0 0 .exe ∧ (infoAt 5).code < 256 ∧ (infoAt 5).pcs = none ∧
    (base.core 0).power (areaBank base.me.area) = .on ∧ base.me.pend = [] ∧ base.me.replay = [] ∧ base.me.ds.getLsbD 0 = false ∧
    base.me.acc.ctl = .seq ∧ base.me.exe.ctl = .seq ∧ base.me.acc.hint = .none ∧ base.me.exe.hint = .none ∧
    base.me.deferred = [] ∧ base.me.acc.pc.toNat % 4 = 0 ∧ base.me.exe.pc.toNat % 4 = 0 := by decide +kernel
/-- RFT after a trap at user privilege; RFT honours a delay-slot record (the slot at 0x204, the branch to 0x300). -/
theorem test_rft : (let s := after .rft (takeTrap 0 0 (infoAt 5) true none (user base))
     (s.ctx 0 0).acc.pc = 0x100 ∧ (s.ctx 0 0).exe.pc = 0x100 ∧ (s.ctx 0 0).dev = false) ∧
    (let s := after .rft (precise (infoAt 5) (inSlot (br (some true))))
     ctlOf s .exe = .slot { addr := 0x200, target := 0x300, outcome := some true } ∨ (s.ctx 0 0).exe.ctl ≠ .seq) ∧
    code (after .rft (user base)) = 2 := by decide +kernel

theorem witness_privileged : (user base).me.dev = false ∧ (user base).me.pend = [] ∧
    (∃ v s₁, readS 3 (user base) = .ok (v, s₁) ∧ s₁.me.dev = false) ∧
    (let s : State := { base with cur := .ctx 0 1 .exe }; s.cur.ctxNo ≠ 0) :=
  ⟨rfl, rfl, ⟨_, _, rfl, rfl⟩, by decide⟩
def helper : State :=
  { base with cores := tset base.cores 0 { gid := 1, hlp := 2, areas := [(0, 0), (1, 1), (2, 2)], ctxs := [(0, ctx0), (1, { ctx0 with wp := 2048 })] },
              ring := base.ring ++ [(0, 1, .acc), (0, 1, .exe)], cur := .ctx 0 1 .exe }
theorem test_privileged : [Instr.rft, .wrpriv 3, .haltx, .xinvPage 3 4, .xinvAsid 3, .xinvAll, .xinvFrame 4 15, .keysetRand 2 3, .keysetLoad 2 3 6,
      .keysetRetire 2 3, .sparemap 5 6, .mcap 5 6, .wrsw 3 3, .wrsw 3 6].all (fun i => code (after i (user base)) == 2) = true ∧
    [Instr.follow 5, .leave, .join 5 6, .rets 5 4, .amsg 8, .bar, .barGroup, .tndone 5, .start 9 16].all (fun i =>
      ((after i helper).ctx 0 1).tc == 1) = true := by decide +kernel

theorem witness_rdsw : base.me.pend.any (fun p => p.pos < base.position && p.kind == .macroOp) = false ∧ ok (writeS 2 77) base = true := by
  decide +kernel
/-- Tables 5-5 to 5-7: chi 2, device privilege and ue: 0x30002; the return-stack depth stands at bit 16 of st. -/
theorem test_rdsw : w 2 (after (.rdsw 2 11) (base.modCtx 0 0 (fun x => { x with chi := 2, ue := true }))) = 0x30002 ∧
    w 2 (after (.rdsw 2 5) ((deep 3).modCtx 0 0 (fun x => { x with rsA := x.rsE, tc := 0x21 }))) = 0x32100 ∧
    w 2 (after (.rdsw 2 9) (slotError 7 5)) = 5 * 2 ^ 40 + 0x40 * 2 ^ 8 ∧ w 2 (after (.rdsw 2 2) base) = 0x100 ∧
    w 2 (after (.rdsw 2 3) base) = 0x4000 ∧ code (after (.rdsw 2 12) base) = 1 := by decide +kernel

theorem witness_wrsw : base.me.pend = [] ∧
    (∃ v s₁, readS 3 (regs [(3, 0x3F800)]) = .ok (v, s₁) ∧ areaTaken s₁ 0 0 v = false ∧ s₁.me.dev = true ∧ v.toNat % 256 = 0) ∧
    (∃ v s₁, readS 3 (regs [(3, 0x40000)]) = .ok (v, s₁) ∧ areaTaken s₁ 0 0 v = true) ∧
    (∃ v s₁, readS 3 (regs [(3, 0xFF)]) = .ok (v, s₁) ∧ s₁.me.dev = true ∧ v.toNat % 256 ≠ 0 ∧ v.toNat % 4 ≠ 0 ∧ 2 ^ 7 ≤ v.toNat) ∧
    (∃ v s₁, readS 3 (regs [(3, 0x7C)]) = .ok (v, s₁) ∧ v.toNat % 4 = 0 ∧ v.toNat < 2 ^ 7) ∧
    (∃ v s₁, readS 3 (regs [(3, 0x3FFFF)]) = .ok (v, s₁) ∧ v.toNat < 2 ^ 20 ∧ nbits v.toNat 16 1 = nbits base.me.msr.toNat 16 1 ∧
      nbits v.toNat 18 2 = nbits base.me.msr.toNat 18 2 ∧ s₁.me.dev = true) ∧
    (∃ v s₁, readS 3 (regs [(3, 0x80000)]) = .ok (v, s₁) ∧ v.toNat < 2 ^ 20 ∧ nbits v.toNat 18 2 ≠ nbits base.me.msr.toNat 18 2) := by
  refine ⟨rfl, ⟨_, _, rfl, ?_, ?_, ?_⟩, ⟨_, _, rfl, ?_⟩, ⟨_, _, rfl, ?_, ?_, ?_, ?_⟩, ⟨_, _, rfl, ?_, ?_⟩, ⟨_, _, rfl, ?_, ?_, ?_, ?_⟩,
    ⟨_, _, rfl, ?_, ?_⟩⟩ <;> decide +kernel
theorem test_wrsw : ((after (.wrsw 3 0) (regs [(3, 0x800)])).ctx 0 0).wp = 0x800 ∧ code (after (.wrsw 3 0) (regs [(3, 0x801)])) = 0x0A ∧
    ((after (.wrsw 3 3) (regs [(3, 0x100)])).ctx 0 0).tb = 0x100 ∧ ((after (.wrsw 3 4) (regs [(3, 8)])).ctx 0 0).uh = 8 ∧
    ((after (.wrsw 3 6) (regs [(3, 9)])).ctx 0 0).ds = 9 ∧ fsn (after (.wrsw 3 10) (regs [(3, 0x7F)])) = 0x7F ∧
    code (after (.wrsw 3 10) (regs [(3, 0x80)])) = 1 ∧ ((after (.wrsw 3 11) (regs [(3, 0x3FFFF)])).ctx 0 0).chi = 0xFFFF ∧
    code (after (.wrsw 3 9) base) = 1 := by decide +kernel

/-- A core with helpers: none live, and both live. -/
def noHelper : State := base.modCore 0 (fun v => { v with hlp := 1, areas := [(0, 0), (1, 1)] })
def ctl (s : State) : State := { s with cur := .ctx 0 0 .exe }
theorem witness_contexts : (noHelper.cur = .ctx 0 0 .exe ∧ (noHelper.core 0).hlp ≠ 0 ∧ noHelper.me.accessesBefore noHelper.position = false ∧
      freeHelper (noHelper.core 0) = some 1 ∧ (∃ a s₁, readA 0 noHelper = .ok (a, s₁))) ∧
    (let s := (ctl helper).modCore 0 (fun v => { v with hlp := 1 }); s.cur = .ctx 0 0 .exe ∧ freeHelper (s.core 0) = none) ∧
    (∃ n s₁, readS 6 (regs [(6, 1)] (ctl helper)) = .ok (n, s₁) ∧ 1 ≤ n.toNat ∧ n.toNat ≤ 10 ∧
      (tget s₁.mine.ctxs n.toNat {}).live = true) ∧
    (∃ n s₁, readS 6 (regs [(6, 10)] (ctl helper)) = .ok (n, s₁) ∧ 1 ≤ n.toNat ∧ n.toNat ≤ 10 ∧
      (tget s₁.mine.ctxs n.toNat {}).live = false ∧ ok (writeS 5 (tget s₁.mine.exits n.toNat 0)) s₁ = true) ∧
    (helper.cur = .ctx 0 1 .exe ∧ ¬ helper.standsInSlot ∧ helper.me.pend = [] ∧ ∃ v s₁, readS 7 helper = .ok (v, s₁)) ∧
    (base.cur = .ctx 0 0 .exe ∧ ¬ base.standsInSlot ∧ base.me.pend = [] ∧ (base.core 0).ctxs.any (fun e => e.1 != 0 && e.2.live) = false ∧
      ∃ v s₁ w s₂, readS 7 base = .ok (v, s₁) ∧ readS 5 s₁ = .ok (w, s₂)) := by
  refine ⟨⟨rfl, by decide +kernel, by decide +kernel, by decide +kernel, ⟨_, _, rfl⟩⟩, ⟨rfl, by decide +kernel⟩, ⟨_, _, rfl, ?_⟩, ⟨_, _, rfl, ?_⟩,
    ⟨rfl, by decide +kernel, rfl, ⟨_, _, rfl⟩⟩, rfl, by decide +kernel, rfl, by decide +kernel, ⟨_, _, _, _, rfl, rfl⟩⟩ <;> decide +kernel
theorem test_contexts : (let s := after (.start 9 16) (addrs [(0, 0x1234)] noHelper)
     w 9 s = 1 ∧ (s.ctx 0 1).acc.pc = 0x140 ∧ (s.ctx 0 1).exe.pc = 0x140 ∧ s.load (spPlace 0 (2048 + 0x580)) 10 = 0x1234 ∧ s.ring = helper.ring) ∧
    (let s := after (.endc 7) (helper.store (spPlace 0 (2048 + 56)) 8 55)
     tget (s.core 0).exits 1 0 = 55 ∧ (s.ctx 0 1).live = false ∧ s.ring = base.ring ∧
     w 5 (after (.join 5 6) (regs [(6, 1)] (ctl s))) = 55) ∧
    epos (after (.join 5 6) (regs [(6, 1)] (ctl helper))) = 4 ∧ code (after (.join 5 6) (regs [(6, 11)] (ctl helper))) = 1 := by decide +kernel
/-- R353, R357: a RETS behind an access that is outstanding has begun to retire: gang-stop waits for it. -/
def retsWaits : State := base.modCtx 0 0 (fun x => { x with pend := [{ id := 0, pos := 2, ss := 1, kind := .access, hold := false, dest := .ldq }] })
theorem witness_rets_waits : retsWaits.cur = .ctx 0 0 .exe ∧ ¬ retsWaits.standsInSlot ∧ retsWaits.me.pend.any (fun p => !sentStore retsWaits.me p) = true := by
  decide +kernel
theorem test_rets_waits : (let s := after (.rets 5 4) retsWaits
    epos s = 4 ∧ (s.ctx 0 0).retiring = true ∧ mayHalt (s.core 0) (s.ctx 0 0) = false) := by decide +kernel
/-- R123, R143, R365: a context that traps waits for a unit no more. R101: RDSW gives the depth at the last word both streams passed. -/
theorem test_trap_leaves_waits : (let s := after (.trap 5) (base.modCore 0 (fun v => { v with ownWait := [1, 0], scaleWait := [0, 1] }))
    (s.core 0).ownWait = [1] ∧ (s.core 0).scaleWait = [1]) := by decide +kernel
def depths (a e : Nat) : State := base.modCtx 0 0 (fun x => { x with acc := { x.acc with pos := a }, exe := { x.exe with pos := e }, rsA := [8, 4], rsE := [4] })
theorem witness_depth : (depths 5 4).me.exe.pos < (depths 5 4).me.acc.pos ∧ (depths 3 4).me.acc.pos < (depths 3 4).me.exe.pos ∧
    base.me.rsA.length = base.me.rsE.length := by decide +kernel
theorem test_depth : (depths 5 4).me.rsd = 1 ∧ (depths 3 4).me.rsd = 2 ∧ w 2 (after (.rdsw 2 5) (depths 4 4)) / 2 ^ 16 = (depths 4 4).me.rsd := by decide +kernel
theorem test_retirement : ((after (.endc 7) base).core 0).retired = .byEnd ∧ (after (.endc 7) base).agenda = [.gangComplete 1] ∧
    ((after (.rets 5 4) (regs [(4, 8), (5, 3)])).core 0).retired = .byRets 8 3 ∧
    code (after (.endc 7) (inSlot (br (some true)))) = 1 := by decide +kernel
/-- Two members: the first waits, the second completes the barrier, and the first goes on. -/
theorem witness_barriers : base.cur = .ctx 0 0 .exe ∧ base.me.accessesBefore base.position = false ∧ base.me.atBar = 0 ∧
    barComplete (base.modCtx 0 0 (fun x => { x with atBar := 1 })) 0 1 = true ∧
    barComplete ((pair base).modCtx 0 0 (fun x => { x with atBar := 1 })) 0 1 = false ∧
    ((base.modCtx 0 0 (fun x => { x with atBar := 4 })).ctx 0 0).atBar = 2 + 2 := by decide +kernel
theorem test_barriers : epos (after .bar base) = 5 ∧ epos (after .bar (pair base)) = 4 ∧ ((after .bar (pair base)).ctx 0 0).atBar = 1 ∧
    (let s := after .bar { after .bar (pair base) with cur := .ctx 1 0 .exe }
     (s.ctx 1 0).exe.pos = 5 ∧ epos (after .bar { s with cur := .ctx 0 0 .exe }) = 5) ∧
    epos (after .barGroup ((pair base).modCtx 1 0 (fun x => { x with rank := 1 + 2 ^ 20 }))) = 5 := by decide +kernel

def lp0 : Launch := { record := 0, asid := 1, key := 0, tb := 0x4000, lat := false, queue := 0, node := none, args := [] }
def gang0 (node : Option (Nat × BitVec 32 × Nat) := none) : Gang :=
  { gid := 1, launch := { lp0 with node := node }, die := 0, x := 0, y := 0, cores := [0], seqNo := 0, held := [], stopped := false, stopping := false,
    faulted := false, preds := [], next := .unread, waits := false, imaged := false, savedCores := [] }
def ganged (node : Option (Nat × BitVec 32 × Nat) := none) (s : State := base) : State := s.modPlinth (fun p => { p with gangs := [gang0 node] })
theorem witness_tndone : gangOn (ganged (some (0, 7, 2))) 0 = some (gang0 (some (0, 7, 2))) ∧ gangOn (ganged none) 0 = some (gang0 none) ∧
    (base.core 0).tnDone = false ∧ ok (writeS 5 1) (ganged none) = true ∧
    ok (writeS 5 0) (nodeCheck 0 ((ganged (some (0, 7, 2))).modCore 0 (fun v => { v with tnDone := true }))) = true := by decide +kernel
theorem test_tndone : (let s := after (.tndone 5) (ganged (some (0, 7, 2)) (regs [(5, 9)]))
     w 5 s = 0 ∧ (s.core 0).tnDone = true ∧ s.agenda = [.nodeComplete 0 7 2]) ∧
    w 5 (after (.tndone 5) (ganged none)) = 1 := by decide +kernel

/-- A graph header at 0x8000 of the scratchpad: one node (no dependencies, a job), whose card fills the 64 bytes at its first entry. -/
def cardAt (k op styp dtyp len rl e0 e1 e2 : Nat) : Nat :=
  k + op * 16 + styp * 2 ^ 8 + dtyp * 2 ^ 12 + len * 2 ^ 16 + rl * 2 ^ 56 + e0 * 2 ^ 128 + e1 * 2 ^ 256 + e2 * 2 ^ 384
def ent (va ext wf : Nat) : Nat := va + ext * 2 ^ 80 + wf * 2 ^ 120
def job1 : Nat := cardAt 1 0 0 0 64 0 (ent (spAt + 0x400) 64 3) (ent (spAt + 0x800) 64 2) 0
def graphAt (nn : Nat := 1) : State :=
  ((addrs [(2, spAt)] base).store (spPlace 0 0x8000) 64 (nn + 0xF000 * 2 ^ 16 + 0x8040 * 2 ^ 64)).store (spPlace 0 0x8040) 128
    (8 + 0x8080 * 2 ^ 64 + job1 * 2 ^ 512)
def graphOf (_ : State) : M (Option (BitVec 16 × Table Node)) := readGraph loadReader spAt
def node0 : Node := { record := 0, succs := [], work := [], count := 0, ready := none, dispatched := false, done := false, gangId := 0 }
def fullPool (s : State) : State :=
  s.modDie 0 (fun v => { v with graphs := [{ num := 0, asid := 0, gid := 0, chi := 0, lat := false, queue := 0,
                                             nodes := List.replicate 8192 (0, node0), retired := false }] })
theorem witness_graph : got (do let va ← readA 2; let r ← graphOf base; return (va, r)) (graphAt 0) (fun e _ => e.1.toNat % 64 == 0 && e.2.isNone) ∧
    got (readA 2) (addrs [(2, spAt + 8)] base) (fun va _ => va.toNat % 64 != 0) ∧
    got (graphOf base) graphAt (fun r t => (r.map (fun e => e.2.length)) == some 1 && decide (poolNodes t 0 + 1 ≤ 8192)) ∧
    got (graphOf base) (fullPool graphAt) (fun r t => (r.map (fun e => e.2.length)) == some 1 && decide (8192 < poolNodes t 0 + 1)) := by
  decide +kernel
/-- R299: status 2 stands for a bad graph (here of no nodes), 1 for a full pool; else the word gives the graph's number and die. -/
theorem test_graph : w 5 (after (.tnsub 5 2) (graphAt 0)) = 2 ^ 63 ∧ code (after (.tnsub 5 2) (addrs [(2, spAt + 8)] base)) = 3 ∧
    w 5 (after (.tnsub 5 2) (fullPool graphAt)) = 2 ^ 62 ∧
    w 5 (after (.tnsub 5 2) (graphAt.modDie 0 (fun v => { v with graphNext := 6 }))) = 6 ∧
    ((after (.tnsub 5 2) graphAt).die 0).graphs.length = 1 := by decide +kernel

/-- AMSG to core 1 of the gang with a program counter and two arguments; with program counter 0 it is mail. -/
def amsgState (pc : Nat) (to_ : Nat := 1) : State :=
  (regs [(8, to_)] (pair base)).modCtx 0 0 (fun x => { x with sdq := [{ pos := 1, val := BitVec.ofNat 64 pc }, { pos := 2, val := 7 }, { pos := 3, val := 8 }] })
/-- The four operands of AMSG, and what they are where `p` looks. -/
def amsgReads (p : Nat → Nat → State → Bool) (s : State) : Bool :=
  got (do let w ← readS 8; let pc ← popSdq; let _ ← popSdq; let _ ← popSdq; return (w, pc)) s (fun e t => p e.1.toNat e.2.toNat t)
theorem witness_messages : amsgReads (fun w pc t => decide (t.cur = base.cur) && decide (w < 2 ^ 12) && (t.core 1).gid == (t.core 0).gid && pc % 4 == 0 &&
      !t.me.accessesBefore t.position && decide (inboxShared t 1 < 16)) (amsgState 0x40) ∧
    amsgReads (fun w _ t => decide (t.cur = base.cur) && decide (w < 2 ^ 12) && (t.core 2).gid != (t.core 0).gid) (amsgState 0x40 2) ∧
    amsgReads (fun w _ _ => decide (2 ^ 12 ≤ w)) (amsgState 0x40 (2 ^ 12)) ∧
    (let s := base.modCore 0 (fun v => { v with inbox := [⟨0, 0, 1, 3, 0, [5, 6], 0, 0⟩] })
     (∃ e ∈ s.mine.inbox, e.kind = 0 ∧ e.gid = s.mine.gid) ∧ ok (writeS 5 (inboxWord s.mine)) s = true) ∧
    (∀ e ∈ base.mine.inbox, e.kind ≠ 0 ∨ e.gid ≠ base.mine.gid) := by decide +kernel
theorem test_messages : (after (.amsg 8) (amsgState 0x40)).agenda = [.inboxArrival 1 ⟨1, 0, 1, 0, 0, [0x40, 7, 8], 0, 0⟩] ∧
    (after (.amsg 8) (amsgState 0)).agenda = [.inboxArrival 1 ⟨0, 0, 1, 0, 0, [7, 8], 0, 0⟩] ∧ code (after (.amsg 8) (amsgState 0x40 2)) = 5 ∧
    epos (after (.inbxWait 5) base) = 4 ∧ epos (after (.inbx 5) base) = 5 := by decide +kernel

/-- A frame at 0x8000 of the scratchpad (Table 16-5): program counters 0x40, area `area`, flags `fl`, notice at 0x90 of region 0xD. -/
def frameState (fl area a14 : Nat) (s : State := base) : State :=
  (addrs [(3, spAt), (14, a14)] s).store (spPlace 0 0x8000) 64
    (0x40 + 0x40 * 2 ^ 64 + area * 2048 * 2 ^ 128 + fl * 2 ^ 192 + 0x77 * 2 ^ 256 + 0x90 * 2 ^ 448)
def leaf13 : Nat := 1 + 2 + 4 + 8 + 7 * 32
/-- Region 0xD: its first page maps to frame 7, and the notice there holds `n`. -/
def noticed (n : Nat) (s : State) : State :=
  ({ s with slices := tset s.slices (homeSlice (BitVec.ofNat 80 (0xD000 * 2 ^ 64 + 0x90)) (attOf s 13))
                        { stc := [{ asid := 0, region := 13, vpn := 0xD000 * 2 ^ 64 / 4096, leaf := BitVec.ofNat 64 leaf13 }] } } : State).store 0x7090 8 n
def outFrame : Nat := regionF 0x9000
def writes (m : State → Except Nat State) : M Unit := fun s =>
  match m s with
  | .ok t => .ok ((), t)
  | .error c => .error (.trap { code := c })
def wroteFrame (at_ : VA) : M Unit := writes (fun s => writeFrame s 0 0 at_ (frameHead (s.address + 4) (s.address + 4) s.me.wp 0 0 0))
def wpOf (f : List Byte) : Dword := BitVec.ofNat 64 (dwordAt f 0x10)
theorem witness_fibsw : ¬ base.standsInSlot ∧ base.me.pend = [] ∧
    got (do let fva ← readA 3; let h ← readWord fva 0x38 true; let a14 ← readA 14; wroteFrame a14; let f ← readWord fva 512 true; return (h, f))
      (frameState 0 1 outFrame) (fun e t => !frameFlt e.1 && !areaTaken t 0 0 (wpOf e.2) && decide ((switchFibre 0 0 (wpOf e.2) t).cur = base.cur)) ∧
    got (do let fva ← readA 3; readWord fva 0x38 true) (frameState 1 1 outFrame) (fun h _ => frameFlt h) ∧
    got (do let fva ← readA 3; readWord fva 0x40 true) (frameState 0 1 outFrame) (fun h _ => !frameFlt h) := by decide +kernel
theorem witness_upret :
    got (do let fva ← readA 3; let h ← readWord fva 0x40 true; let l ← readWord (noticeVa h) 8 true; return (h, l)) (noticed 0 (frameState 3 1 outFrame))
      (fun e t => frameFlt e.1 && t.me.pend == [] && leNat e.2 == 0) ∧
    got (do let fva ← readA 3; let h ← readWord fva 0x40 true; let l ← readWord (noticeVa h) 8 true
            writes (fun s => writeBytesNow s 0 0 (noticeVa h) (leBytes 8 0)); let a14 ← readA 14; wroteFrame a14
            let f ← readWord fva 512 true; return (l, f)) (noticed 1 (frameState 3 1 outFrame))
      (fun e t => leNat e.1 == 1 && !areaTaken t 0 0 (wpOf e.2) &&
        got (writes (fun s => writeBytesNow s 0 0 (BitVec.ofNat 80 (spAt + 0x18)) (leBytes 8 2))) (switchFibre 0 0 (wpOf e.2) t)
          (fun _ u => decide (u.cur = base.cur))) := by decide +kernel
/-- R275, R377: no notice, and a notice of 2, whose trap is the page fault of the frame. -/
def mute (s : State) : State := s.store (spPlace 0 0x8038) 8 0
theorem witness_upret_other :
    got (do let fva ← readA 3; readWord fva 0x40 true) (mute (frameState 3 1 outFrame)) (fun h t => frameFlt h && t.me.pend == [] && dwordAt h 0x38 == 0) ∧
    got (do let fva ← readA 3; let h ← readWord fva 0x40 true; let l ← readWord (noticeVa h) 8 true
            writes (fun s => writeBytesNow s 0 0 (noticeVa h) (leBytes 8 0)); return (h, l)) (noticed 2 (frameState 3 1 outFrame))
      (fun e t => dwordAt e.1 0x38 != 0 && decide (1 < leNat e.2) && decide (t.cur = base.cur)) := by decide +kernel
theorem test_upret_other : (let s := after (.upret 3) (mute (noticed 1 (frameState 3 1 outFrame))); epos s = 4 ∧ code s = 0) ∧
    (let s := after (.upret 3) (noticed 2 (frameState 3 1 outFrame)); code s = 6 ∧ s.load (spPlace 0 0x7E0) 8 = 0x40) := by decide +kernel
/-- FIBSW writes the running fibre's pcs (0x104) and area at a14, and goes on at 0x40 in area 1. UPRET waits for the notice, clears it and
the frame's flt bit, and honours the delay-slot record: the slot at 0x40 of a branch to 0x74. -/
theorem test_fibres : (let s := after (.fibsw 3) (frameState 0 1 outFrame)
     s.load (spPlace 0 0x9000) 8 = 0x104 ∧ s.load (spPlace 0 0x9010) 8 = 0 ∧ (s.ctx 0 0).acc.pc = 0x40 ∧ (s.ctx 0 0).wp = 0x800) ∧
    code (after (.fibsw 3) (frameState 1 1 outFrame)) = 1 ∧ epos (after (.upret 3) (noticed 0 (frameState 3 1 outFrame))) = 4 ∧
    (let s := after (.upret 3) (noticed 1 (frameState 3 1 outFrame))
     (s.ctx 0 0).exe.pc = 0x40 ∧ ctlOf s .exe = .slot { addr := 0x3C, target := 0x74, outcome := some true } ∧
     s.load (spPlace 0 0x8018) 8 = 2) := by decide +kernel

def bankAt (p : BankPower) (s : State := base) : State := s.modCore 0 (fun v => { v with bank := tset v.bank 15 p })
/-- A bank in which an LDFE waits; it is told so at any power. -/
def busyAt (p : BankPower) : State := (bankAt p).modCore 0 (fun v => { v with feWait := [req (.readWhenFull true) (regionF 0x3FFF8) 8] })
theorem witness_bank_power : [BankPower.on, .retention, .off].all (fun p => bankBusy (busyAt p) 0 15 && (busyAt p).mine.power 15 == p &&
      !bankBusy (bankAt p) 0 15) = true ∧
    (bankAt .on).mine.power 15 = .on ∧ (bankAt .retention).mine.power 15 = .retention ∧
    (bankAt .off).mine.power 15 = .off := by decide +kernel
/-- R95: a PWRB that waits is not halted by gang-stop. -/
theorem test_bank_busy : (let s := after (.pwrbOff 15) (busyAt .on); epos s = 4 ∧ mayHalt (s.core 0) (s.ctx 0 0) = false) ∧
    epos (after (.pwrbOn 15) (busyAt .on)) = 5 ∧ epos (after (.pwrbSave 15) (busyAt .off)) = 5 := by decide +kernel
theorem test_bank_power : ((after (.pwrbRtn 15) base).core 0).power 15 = .retention ∧ ((after (.pwrbOn 15) (bankAt .off)).core 0).power 15 = .on ∧
    (after (.pwrbOn 15) (bankAt .off (base.store (spPlace 0 0x3C000) 8 77))).load (spPlace 0 0x3C000) 8 = 0 ∧
    ((after (.pwrbOff 0) base).core 0).granule 7 25 = .dead ∧ ((after (.pwrbOff 0) base).core 0).granule 8 0 = .present true ∧
    (let s := after (.pwrbSave 0) (regs [(1, 77)])
     (s.core 0).power 0 = .off ∧ s.load (saveArea 0 0 + 8) 8 = 77 ∧ (s.core 0).granule 0 0 = .absent) := by decide +kernel

/-- A translation of address space 5 in one slice, and a line under it. -/
def transState : State := { base with slices := [(3, { stc := [{ asid := 5, region := 0, vpn := 2, leaf := BitVec.ofNat 64 leaf0 }, { asid := 6, region := 0, vpn := 2, leaf := BitVec.ofNat 64 leaf0 }] })],
                                      regions := tset base.regions 0 (BitVec.ofNat 128 att0), frames := [(4, {}), (5, { key := 3 }), (6, { key := 3 })] }
def quietNow (s : State) : Bool :=
  !s.cores.any (fun e => e.2.queue.any (fun _ => true)) && !s.slices.any (fun e => e.2.mshrs.any (fun _ => true)) && !sentAny s (fun _ => true)
theorem witness_translations : missing.me.dev = true ∧ missing.slices.any (fun e => e.2.mshrs.any (fun _ => true)) = true ∧
    quietNow transState = true ∧ transState.me.dev = true ∧
    got (readS 4) (regs [(4, 5)] transState) (fun v t => decide (t.slices = transState.slices) && decide (t.regions = transState.regions) &&
      decide (v.toNat < 2 ^ 12) && quietNow t) ∧
    got (readS 4) (regs [(4, 2 ^ 12)] transState) (fun v t => decide (2 ^ 12 ≤ v.toNat) && v.toNat % 2 ^ 12 == 0 && decide (v.toNat < 2 ^ 58) && quietNow t) ∧
    got (do let va ← readA 3; let v ← readS 4; return (va, v)) (addrs [(3, 0x2FFF)] (regs [(4, 5)] transState)) (fun e t =>
      decide (e.2.toNat < 2 ^ 12) && quietNow t) := by
  decide +kernel
theorem test_translations : (allTrans (after (.xinvAsid 4) (regs [(4, 5)] transState))).map (·.asid) = [6] ∧
    allTrans (after .xinvAll transState) = [] ∧ code (after (.xinvAsid 4) (regs [(4, 2 ^ 12)] transState)) = 1 ∧
    (allTrans (after (.xinvPage 3 4) (addrs [(3, 0x2FFF)] (regs [(4, 5)] transState)))).map (·.asid) = [6] ∧
    (allTrans (after (.xinvPage 3 4) (addrs [(3, 0x3000)] (regs [(4, 5)] transState)))).length = 2 ∧
    (let s := after (.xinvFrame 4 0) (regs [(4, 0x5000)] transState)
     s.frames.map (·.1) = [4, 6] ∧ allTrans s = []) := by decide +kernel

def keyed (k : Nat) (s : State := base) : State := { s with keys := tset s.keys k { installed := true, material := 9 } }
/-- A fill under key 5 is due. -/
def keyBusy : State := { keyed 5 with slices := [(0, { mshrs := [{ tag := { phys := true, line := 8, asid := 0, key := 5 }, pa := 1024, perm := 0, merge := [] }] })] }
theorem witness_keys : got (readS 3) base (fun v _ => v.toNat == 0) ∧ got (readS 3) (regs [(3, 2 ^ 12)]) (fun v _ => decide (2 ^ 12 ≤ v.toNat)) ∧
    got (readS 3) (regs [(3, 4095)]) (fun v t => decide (0 < v.toNat ∧ v.toNat < 2 ^ 12) && !keyInstalled t v.toNat && ok (writeS 2 2) t &&
      ok (writeS 2 0) (installKey v.toNat (Config.randomKey t.draws) t.drawn)) ∧
    got (readS 3) (regs [(3, 4095)] (keyed 4095)) (fun v t => keyInstalled t v.toNat && ok (writeS 2 1) t &&
      !keyInUse t v.toNat && ok (writeS 2 0) (retireKey v.toNat t)) ∧
    got (readS 3) (regs [(3, 5)] keyBusy) (fun v t => keyInstalled t v.toNat && keyInUse t v.toNat) ∧
    got (do let v ← readS 3; let va ← readA 6; let n ← readKeyBlock va; return (v, n)) (addrs [(6, spAt)] (regs [(3, 1)])) (fun e t =>
      !keyInstalled t e.1.toNat && e.2 % 2 ^ 256 == e.2 / 2 ^ 256 && ok (writeS 2 3) t) ∧
    got (do let v ← readS 3; let va ← readA 6; let n ← readKeyBlock va; return (v, n))
      ((addrs [(6, spAt)] (regs [(3, 1)])).store (spPlace 0 0x8000) 8 7) (fun e t =>
      !keyInstalled t e.1.toNat && e.2 % 2 ^ 256 != e.2 / 2 ^ 256 && ok (writeS 2 0) (installKey e.1.toNat (BitVec.ofNat 512 e.2) t)) := by
  decide +kernel
theorem test_key_in_use : epos (after (.keysetRetire 2 3) (regs [(3, 5)] keyBusy)) = 4 ∧
    keyInstalled (after (.keysetRetire 2 3) (regs [(3, 5)] keyBusy)) 5 = true := by decide +kernel
theorem test_keys : w 2 (after (.keysetRand 2 3) (regs [(3, 4095)] (keyed 4095))) = 1 ∧
    keyInstalled (after (.keysetRand 2 3) (regs [(3, 4095)])) 4095 = true ∧ w 2 (after (.keysetRetire 2 3) (regs [(3, 4095)])) = 2 ∧
    keyInstalled (after (.keysetRetire 2 3) (regs [(3, 4095)] (keyed 4095))) 4095 = false ∧ code (after (.keysetRetire 2 3) base) = 1 ∧
    w 2 (after (.keysetLoad 2 3 6) (addrs [(6, spAt)] (regs [(3, 1)]))) = 3 ∧
    (let s := after (.keysetLoad 2 3 6) ((addrs [(6, spAt)] (regs [(3, 1)])).store (spPlace 0 0x8000) 8 7)
     keyMaterial s 1 = 7 ∧ w 2 s = 0) := by decide +kernel

def spareState (v : Nat) (s : State := base) : State := (regs [(6, v)] s).modCore 5 (fun v => { v with failed := true })
/-- The buffer of an ATTEST: pages 0 to 7 of region 0, all translated, the first 64 bytes of which are the nonce. -/
def attestState (s : State := base) : State :=
  (List.range 8).foldl (fun s i =>
    s.modSlice (homeSlice (BitVec.ofNat 80 (4096 * i)) att0) (fun v =>
      { v with stc := { asid := 0, region := 0, vpn := i, leaf := BitVec.ofNat 64 (15 + (5 + i) * 32) } :: v.stc }))
    ({ (addrs [(2, 0)] s) with regions := tset s.regions 0 (BitVec.ofNat 128 att0) } : State)
def attestFull : State := attestState.modDie 0 (fun v => { v with attests := List.replicate 4 ⟨0, 0, 0, 0, 0, 0, 0, 0, []⟩ })
theorem witness_system : base.me.dev = true ∧ base.me.pend = [] ∧
    got (readS 6) (spareState (5 + 31 * 2 ^ 10) (base.modDie 0 (fun v => { v with spares := [(31, 7)] }))) (fun v t => decide (v.toNat < 2 ^ 15) &&
      (tfind (t.die 0).spares 31).isSome && ok (writeS 5 1) t) ∧
    got (readS 6) (spareState 6) (fun _ t => (tfind (t.die 0).spares 0).isNone && !(t.core 6).failed && ok (writeS 5 2) t) ∧
    got (readS 6) (spareState 5) (fun _ t => !(t.die 0).badSpares.contains 0 && (t.core 5).failed && (gangAt t 5).isNone &&
      ok (writeS 5 0) (placeAgain (mapSpare 5 0 t))) ∧
    attestState.slotRoom 0 ∧ attestState.slotRoom 1 ∧
    got (do let va ← readA 2; let _ ← probeBuffer va 8; let _ ← readWord va 64 true; return va) attestState (fun va t =>
      va.toNat % 4096 == 0 && decide (vaRegion va < 13) && decide ((t.die 0).attests.length < 4) && ok (writeS 5 0) t) ∧
    (4 ≤ (attestFull.die 0).attests.length ∧ ok (writeS 5 1) attestFull) ∧ got (readA 2) (addrs [(2, 64)] base) (fun va _ => va.toNat % 4096 != 0) ∧
    got (readA 2) (addrs [(2, regionF 0x8000)] base) (fun va _ => va.toNat % 4096 == 0 && decide (13 ≤ vaRegion va)) := by
  decide +kernel
theorem test_system : ((after .haltx base).core 0).failed = true ∧ w 5 (after (.sparemap 5 6) (spareState 6)) = 2 ∧
    tfind ((after (.sparemap 5 6) (spareState 5)).die 0).spares 0 = some 5 ∧ w 5 (after (.attest 5 2 0) attestFull) = 1 ∧
    ((after (.attest 5 2 1) attestState).die 0).attests.map (·.va) = [0] ∧ ((after (.attest 5 2 1) attestState).ctx 0 0).pend.length = 1 ∧
    code (after (.attest 5 2 1) (addrs [(2, 64)] base)) = 3 ∧ code (after (.attest 5 2 1) (addrs [(2, regionF 0x8000)] base)) = 4 ∧
    (let s := after (.attest 5 2 1) (addrs [(2, 64)] attestFull); w 5 s = 1 ∧ code s = 0) := by decide +kernel

/-! ## The matrix array (chapter 6, R286 to R288, R338, R339) -/

/-- An f32 entry in the scratchpad: byte offset, rows, stride; further fields in `more`. -/
def tent (off rows stride : Nat) (more : Nat := 0) : BitVec 256 :=
  BitVec.ofNat 256 (regionF off + (rows - 1) * 2 ^ 80 + 31 * 2 ^ 96 + more + 2 ^ 127 + stride * 2 ^ 128)
def plane (l : Table (BitVec 64)) (tid : BitVec 6) : Plane :=
  { el := l, tid := tid, fmt := 0, sc := false, ld := true, scale := BitVec.ofNat 256 (127 * ((2 ^ 256 - 1) / 255)) }
/-- Tensors 1 (32 rows), 2 (2:4), 3 (one row), 9 and 10; planes 9 and 10 loaded; the plane's elements (0, 0) = 1.0 and (1, 1) = 2.0; a gang
with a budget of 100 units. -/
def mx : State :=
  let g := gang0
  (base.modPlinth (fun p => { p with gangs := [{ g with launch := { g.launch with record := BitVec.ofNat 2048 (100 * 2 ^ 288) } }] })).modCore 0
    (fun v => { v with
      ctxs := [(0, { ctx0 with tids := [(1, tent 0x8000 32 128), (2, tent 0xA000 32 128 (2 ^ 117)), (3, tent 0x8000 1 128), (9, tent 0xC000 32 128),
                                        (10, tent 0xE000 32 128)] })]
      active := plane [(0, 0x3F800000), (33, 0x40000000)] 9, shadow := plane [] 10 })
/-- The words of the array, by constructor, in a form that `mx` takes. -/
def mxWords : List Instr :=
  [.mms 0 1 9 0 0 0, .mms 1 3 9 0 1 0, .mmss 0 2 9 0 0 0, .ldstat 9 0, .ldstat 9 1, .swapstat 2, .accz 2 0 0, .accz 2 2 1, .acczMark 5, .accld 1 1 3,
    .accst 9 1 3, .accadd 0 3 0, .tcvt 9 1 0 0 1, .tcopy 10 1 1 7]
def permitsOk (n : Nat) (s : State) : Bool := n == 0 || (queuedPermit s.cur.core (permitKey s.cur) n s).1.isSome
/-- The plan at issue, where a word passes its checks. -/
def planned (i : Instr) (s : State) (p : Plan → State → Bool) : Bool :=
  match mxPlan s 0 0 i with
  | .ok (q, t) => p q t
  | .error _ => false
def planError (i : Instr) (s : State) : Nat :=
  match mxPlan s 0 0 i with
  | .ok _ => 0
  | .error e => e.1
/-- A context that holds units itself; f64 accumulators; a core whose queue is full; a tensor at a place that has no translation. -/
def mxHeld : State := mx.modCtx 0 0 (fun x => { x with held := 3 })
def mxT8 : State := mx.modCore 0 (fun v => { v with mode := [(0, 1), (3, 1)] })
theorem witness_matrix_issue : mx.ownsSequencer ∧ mx.slotRoom 0 ∧ mx.slotRoom 7 ∧
    mxWords.all (fun i => (matrixSlot i).isSome && planned i mx (fun p t => !p.emu && permitsOk p.weight t)) = true ∧
    planned (.mms 0 1 9 0 0 0) mxHeld (fun p _ => p.weight == 1 && decide (p.weight ≤ mxHeld.me.held) && !p.emu) = true ∧
    planned (.accadd 0 3 0) mxT8 (fun p _ => p.emu && p.weight == 0) = true ∧ mxT8.ownsSequencer ∧ mxT8.slotRoom 0 ∧
    planError (.ldstat 8 0) mx = 0x0F ∧ planError (.ldstat 3 0) mx = 0x10 := by decide +kernel
theorem test_matrix_issue : mxWords.all (fun i =>
      let s := after i mx
      (s.core 0).queue.length == 1 && (s.core 0).owner == some 0 && (s.ctx 0 0).exe.pos + (s.ctx 0 0).acc.pos == 9 && s.agenda == [.macroOpStep 0]) = true ∧
    ((after (.mms 0 1 9 0 0 0) mx).die 0).poolHeld = 1 ∧ ((after (.mms 0 1 9 0 0 0) mxHeld).die 0).poolHeld = 0 ∧
    ((after (.accadd 0 3 0) mxT8).ctx 0 0).emulating = true ∧ code (after (.ldstat 8 0) mx) = 0x0F ∧ code (after (.acczMark 0) mx) = 1 := by
  decide +kernel

theorem witness_matrix_checks : tnValid (entryOf mx.me 8) = false ∧ tnValid (entryOf mx.me 1) = true ∧
    (tnValid (entryOf mx.me 3) = true ∧ tnRows (entryOf mx.me 3) ≠ 32) ∧ (1 : BitVec 2).toNat % 2 = 1 ∧ 2 ≤ (2 : BitVec 2).toNat ∧
    ((projected mx.mine).active.ld = true ∧ (projected mx.mine).active.tid = 9 ∧
      (let x := mx.me; let y : Ctx := { x with tids := tset x.tids 1 (tent 0x8000 32 128 (2 ^ 112)) }
       tnValid (entryOf y 1) = true ∧ (projected mx.mine).active.fmt.toNat ≠ tnFmt (entryOf y 1))) ∧
    (projected mx.mine).active.tid ≠ 10 ∧ (projected base.mine).active.ld = false ∧
    tget (projected (mx.modCore 0 (fun v => { v with mode := [(0, 1)] })).mine).mode 0 0 ≠ tget (projected (mx.modCore 0 (fun v => { v with mode := [(0, 1)] })).mine).mode 3 0 := by
  decide +kernel

def opAt (i : Instr) (e : BitVec 256) (step : Nat := 0) (emu : Bool := false) : MacroOp :=
  { word := i, ctx := 0, id := 3, entA := e, entB := 0, permit := 0, own := false, step := step, reply := none, emu := emu, asid := 0 }
def queuedOp (m : MacroOp) (s : State := mx) : State :=
  { (s.modCore 0 (fun v => { v with queue := [m] })).modCtx 0 0 (fun x => { x with pend := [{ id := 3, pos := 2, ss := 1, kind := .macroOp, hold := false }] })
    with cur := .none }
/-- Two steps: MMS of 64 rows; one step: SWAPSTAT; an emulated ACCADD. -/
def twoSteps : MacroOp := opAt (.mms 0 1 9 0 0 1) (tent 0x8000 33 128)
def emuOp : MacroOp := opAt (.accadd 0 3 0) 0 0 true
/-- A copy of 33 rows of one column: two steps. -/
def column (off : Nat) : BitVec 256 := BitVec.ofNat 256 (regionF off + 32 * 2 ^ 80 + 2 ^ 127 + 4 * 2 ^ 128)
def emuLong : MacroOp := { opAt (.tcopy 10 1 0 7) (column 0x8000) 0 true with entB := column 0xE000 }
theorem witness_matrix_events :
    (((queuedOp twoSteps).core 0).queue = [twoSteps] ∧ halting (queuedOp twoSteps) 0 = false ∧ twoSteps.owed = false ∧ twoSteps.emu = false ∧
      twoSteps.step + 1 < macroSteps twoSteps) ∧
    (let m := opAt (.swapstat 2) 0
     macroSteps m ≤ m.step + 1 ∧ m.permit = 0 ∧ m.reply = none ∧ ((queuedOp m).core 0).inbox = [] ∧ ((queuedOp m).ctx 0 m.ctx).hasPend m.id = true ∧
     ((queuedOp m).ctx 0 m.ctx).deferred = []) ∧
    (halting (queuedOp emuOp) 0 = false ∧ emuOp.emu = true ∧ emuOp.owed = false ∧
      macroSteps emuOp ≤ emuOp.step + 1) ∧
    (halting (queuedOp emuLong) 0 = false ∧ emuLong.emu = true ∧ emuLong.owed = false ∧ emuLong.step + 1 < macroSteps emuLong) ∧
    (let r : PermitReq := { core := 0, ctx := 0, n := 1, granted := false }
     let s := mx.modDie 0 (fun d => { d with permitQ := [r] })
     (s.die 0).permitQ = [r] ∧ r.ctx < 1000 ∧ permitPossible s 0 1 = true ∧ coreDie 0 = 0 ∧
     permitPossible (s.modDie 0 (fun d => { d with poolHeld := 2304 })) 0 1 = false) := by decide +kernel
theorem test_matrix_events : (let s := after .macroOpStep { queuedOp (opAt (.swapstat 2) 0) with ev := .macroOpStep 0 }
     (s.core 0).active.tid = 10 ∧ (s.core 0).shadow.tid = 9 ∧ (s.core 0).queue = [] ∧ (s.ctx 0 0).pend = []) ∧
    (let s := mx.modDie 0 (fun d => { d with permitQ := [{ core := 0, ctx := 0, n := 1, granted := false }] })
     ((after .permitGrant { s with ev := .permitGrant 0 }).die 0).poolHeld = 1) := by decide +kernel
/-- R47: firmware carries an emulated word of 33 rows out in two steps. -/
theorem test_emulation_steps : (let s := after .emulationComplete { (queuedOp emuLong).modCtx 0 0 (fun x => { x with emulating := true }) with ev := .emulationComplete 0 }
     ((s.core 0).queue.map (·.step)) = [1] ∧ (s.ctx 0 0).emulating = true ∧ s.agenda = [.emulationComplete 0] ∧
     (let t := after .emulationComplete { s with agenda := [], ev := .emulationComplete 0 }
      (t.core 0).queue = [] ∧ (t.ctx 0 0).emulating = false ∧ (t.ctx 0 0).pend = [])) := by decide +kernel

/-- R288: a capability that the module made for core 0 of gang 1 with the right to swap passes; a core number that is not the target's fails. -/
theorem leNat_lt (l : List Byte) : leNat l < 256 ^ l.length := by
  induction l with
  | nil => decide
  | cons b l ih => simp only [leNat, List.length_cons, Nat.pow_succ]; have := b.isLt; omega
theorem capTag_lt (s : State) (n : Nat) (g : BitVec 32) : capTag s n g < 2 ^ 32 := by
  refine Nat.lt_of_lt_of_le (leNat_lt _) ?_
  rw [show (2 : Nat) ^ 32 = 256 ^ 4 from by decide]
  exact Nat.pow_le_pow_right (by decide) (by simp only [shake256, List.length_take]; exact Nat.min_le_left _ _)
def capNo (t : Nat) : Dword := BitVec.ofNat 64 (2 ^ 12 + t * 2 ^ 32)
theorem capNo_fields (t : Nat) (h : t < 2 ^ 32) : nbits (capNo t).toNat 32 32 = t ∧ (capNo t).toNat % 2 ^ 32 = 2 ^ 12 ∧ nbits (capNo t).toNat 15 17 = 0 ∧
    nbits (capNo t).toNat 0 10 = 0 ∧ nbits (capNo t).toNat 10 2 = 0 ∧ nbits (capNo t).toNat 12 1 = 1 := by
  have e : (capNo t).toNat = 2 ^ 12 + t * 2 ^ 32 := by
    simp only [capNo, BitVec.toNat_ofNat]; exact Nat.mod_eq_of_lt (by omega)
  simp only [e, nbits]; omega
theorem witness_capability : capOk base 0 (capNo (capTag base (2 ^ 12) 1)) (.swapstat 0) = true ∧ capOk base 0 0x1001 (.swapstat 0) = false ∧
    commandWord (BitVec.ofNat 32 0x4C000003) = some (.swapstat 0) ∧ commandTarget 0x4C000003 = 0 ∧ (base.core 0).owner = none ∧
    (base.core 0).queue = [] ∧ (base.core 0).ownWait.headD commandCtx = commandCtx ∧ ∃ p, mxPlan base 0 0 (.swapstat 0) = .ok (p, base) ∧ p.emu = false ∧ p.weight = 0 := by
  refine ⟨?_, ?_, by decide +kernel, by decide +kernel, rfl, rfl, rfl, _, rfl, rfl, rfl⟩
  · have h := capNo_fields _ (capTag_lt base (2 ^ 12) 1)
    have g : (base.core 0).gid = 1 := rfl
    simp only [capOk, g, h, rightBit, coreDie]
    simp
  · have h : nbits (0x1001 : Dword).toNat 0 10 = 1 := by decide +kernel
    simp only [capOk, h]
    simp
def cmdEntry : InboxEntry := ⟨3, 0, 1, 0, 0, [0x4C000003, 0x1001], 0, 5⟩
theorem witness_mcmd_arrival : (let s := { base with ev := .mcmdArrival 0x4C000003 0x1001 0 0 5 }.modCore 0 (fun v => { v with inbox := [cmdEntry] })
    (s.core 0).inbox = [cmdEntry] ∧ cmdEntry.kind = 3 ∧ cmdEntry.payload = [0x4C000003, 0x1001] ∧ cmdEntry.ctx = 0 ∧ cmdEntry.id = 5 ∧
    cmdEntry.sdie.toNat * 1024 + cmdEntry.src.toNat = 0 ∧ halting s 0 = false) := by decide +kernel

theorem witness_planes : (opAt (.ldstat 9 0) (tent 0x8000 32 128)).word = .ldstat 9 0 ∧ accMode base.mine 1 ≠ 2 ∧ accMode base.mine 2 = 0 := by decide +kernel
/-- R138: the words of the accumulator become zero, and it takes the mode; the others keep theirs. -/
theorem test_accumulators : (let s := mx.modCore 0 (fun v => { v with cacc := [(33, 0x3F800000), (1024 * 3 + 33, 0x40000000)] })
    let t := macroStep 0 (opAt (.accz 0 1 0) 0) s
    accWord (t.core 0) 0 1 1 = 0 ∧ accWord (t.core 0) 3 1 1 = 0x40000000 ∧ accMode (t.core 0) 0 = 1 ∧ accMode (t.core 0) 1 = 0) := by
  decide +kernel
/-- R41, R136: the row 3.0, 5.0 against the plane's 1.0 and 2.0, added to 0.5. -/
def mmsState : State :=
  (mx.modCore 0 (fun v => { v with cacc := [(1024, 0x3F000000)] })).store (spPlace 0 0x8000) 8 (0x40400000 + 0x40A00000 * 2 ^ 32)
theorem witness_mms : (opAt (.mms 1 3 9 0 0 0) (tent 0x8000 1 128)).word = .mms 1 3 9 0 0 0 ∧ tnFmt (tent 0x8000 1 128) ≠ 14 ∧
    accMode mmsState.mine 1 ≠ 2 := by decide +kernel
theorem test_mms : (let s := macroStep 0 (opAt (.mms 1 3 9 0 0 0) (tent 0x8000 1 128)) mmsState
    accWord (s.core 0) 1 0 0 = 0x40600000 ∧ accWord (s.core 0) 1 0 1 = 0x41200000 ∧ accWord (s.core 0) 0 0 0 = 0) := by decide +kernel
theorem test_mms_overwrites : (let s := macroStep 0 (opAt (.mms 1 3 9 0 1 0) (tent 0x8000 1 128)) mmsState
    accWord (s.core 0) 1 0 0 = 0x40400000 ∧ accWord (s.core 0) 1 1 0 = 0) := by decide +kernel
/-- LDSTAT of 32 rows whose element (0, 1) is 3.0; under tr it is element (1, 0); ACCST stores 1.5 at (2, 1). -/
theorem test_ldstat : (let s := macroStep 0 (opAt (.ldstat 9 0) (tent 0x8000 32 128)) (mmsState.store (spPlace 0 0x8004) 4 0x40400000)
    planeEl (s.core 0).shadow 0 1 = 0x40400000 ∧ (s.core 0).shadow.tid = 9) ∧
    (let s := macroStep 0 (opAt (.accst 9 1 0) (tent 0xC000 32 128)) (mx.modCore 0 (fun v => { v with cacc := [(1024 + 65, 0x3FC00000)] }))
     s.load (spPlace 0 (0xC000 + 260)) 4 = 0x3FC00000) := by decide +kernel

def sideState : State := (mx.modCtx 0 0 (fun x => { x with ldq := [⟨0, 0, some 0xF000000000008000⟩, ⟨1, 0, some (0x8000001F001FF000)⟩, ⟨2, 0, some 128⟩, ⟨3, 0, some 0⟩] }))
def tid4 (s : State) (p : BitVec 256 → State → Bool) : Bool :=
  got (do let a ← popLdq; let b ← popLdq; let c ← popLdq; let d ← popLdq; return (d ++ c ++ b ++ a : BitVec 256)) s p
theorem witness_tidset : tid4 sideState (fun e t => tnValid e && tnLegal e && !t.mine.queue.any (fun m => m.ctx == t.cur.ctxNo && (namedTids m.word).contains 4)) ∧
    tid4 (mx.modCtx 0 0 (fun x => { x with ldq := List.replicate 4 ⟨0, 0, some (2 ^ 63)⟩ })) (fun e _ => tnValid e && !tnLegal e) ∧
    tid4 (mx.modCtx 0 0 (fun x => { x with ldq := List.replicate 4 ⟨0, 0, some 0⟩ })) (fun e _ => !tnValid e) ∧ ok (writeS 3 5) mx = true := by decide +kernel
theorem test_tids : entryOf ((after (.tidset 4) sideState).ctx 0 0) 4 = BitVec.ofNat 256 (0x8000 + 2 ^ 60 * 15 + 0xF000 * 2 ^ 64 + 31 * 2 ^ 80 + 31 * 2 ^ 96 + 2 ^ 127 + 128 * 2 ^ 128) ∧
    w 3 (after (.tidget 3 9 2) mx) = 128 ∧ code (after (.tidset 4) (mx.modCtx 0 0 (fun x => { x with ldq := List.replicate 4 ⟨0, 0, some (2 ^ 63)⟩ }))) = 0x10 := by
  decide +kernel

/-- R6: the reserved fields [126:119] and [191:168] of an invalid image are not kept; TIDGET reads them as zero. -/
theorem test_reserved_image : storedImage (BitVec.ofNat 256 (2 ^ 119 + 2 ^ 126 + 2 ^ 168 + 2 ^ 191 + 2 ^ 118 + 2 ^ 192 + 5)) =
      BitVec.ofNat 256 (2 ^ 118 + 2 ^ 192 + 5) ∧
    entryOf ((after (.tidset 4) (mx.modCtx 0 0 (fun x => { x with ldq := [⟨0, 0, some 7⟩, ⟨0, 0, some (2 ^ 55)⟩, ⟨0, 0, some (2 ^ 40)⟩, ⟨0, 0, some 9⟩] }))).ctx 0 0) 4 =
      BitVec.ofNat 256 (7 + 9 * 2 ^ 192) := by decide +kernel
def linked (o7 : Bool) : State := (regs [(1, 0x80FF), (2, 0x8001)] (pair base)).modCore 1 (fun v => { v with o7full := o7, o7 := 0x77 })
theorem witness_scales : leaderOf (linked false) 0 = 0 ∧ tilePeers (linked false) 0 ≠ [] ∧
    ((tilePeers (linked false) 0).filter (fun p => ((linked false).core p).retired != .byEnd)).any (fun p => ((linked false).core p).o7full) = false ∧
    ((tilePeers (linked true) 0).filter (fun p => ((linked true).core p).retired != .byEnd)).any (fun p => ((linked true).core p).o7full) = true ∧
    (base.mine.o7full = false ∧ base.mine.scaleWait.contains base.cur.ctxNo = false ∧ base.mine.scaleWait.headD base.cur.ctxNo = base.cur.ctxNo) ∧
    (let s := base.modCore 0 (fun v => { v with scaleWait := [1, 0], o7full := true })
     s.mine.scaleWait.headD s.cur.ctxNo ≠ s.cur.ctxNo ∧ s.mine.scaleWait.contains s.cur.ctxNo = true) ∧ ((base.modCore 0 (fun v => { v with o7full := true })).mine.o7full = true) ∧
    got (do let x ← readS 1; let y ← readS 2; writeS 3 (addScaleDwords x y).1) (linked false) ∧
    ok (writeS 4 0x77) (base.modCore 0 (fun v => { v with o7full := true, o7 := 0x77 })) = true := by decide +kernel
/-- 0xFF is NaN; 0x80 + 0x80 - 127 = 0x81; 0 + 0 - 127 underflows to 0. -/
theorem test_scales : w 3 (after (.scalek 3 1 2) (linked false)) = 0x81FF ∧ ((after (.scalek 3 1 2) (linked false)).core 1).o7full = true ∧
    epos (after (.scalek 3 1 2) (linked true)) = 4 ∧ epos (after (.scalew 4) base) = 4 ∧
    (let s := after (.scalew 4) (base.modCore 0 (fun v => { v with o7full := true, o7 := 0x77 }))
     w 4 s = 0x77 ∧ (s.core 0).o7full = false) ∧
    ((after (.scalew 4) base).core 0).scaleWait = [0] ∧
    epos (after (.scalew 4) (base.modCore 0 (fun v => { v with scaleWait := [1, 0], o7full := true }))) = 4 := by decide +kernel

theorem witness_commands : base.me.dev = true ∧ (∃ v s₁ t, readS 5 base = .ok (v, s₁) ∧ writeS 6 (mintCap s₁ v) s₁ = .ok ((), t)) ∧
    got (do let x ← readS 1; let _ ← readS 2; return x) (regs [(1, 0x4C000003)]) (fun x t => decide (x.toNat < 2 ^ 44) &&
      (commandWord (BitVec.ofNat 32 x.toNat)).isSome && decide (inboxShared t (commandTarget x) < 16)) ∧ base.slotRoom 3 ∧
    got (readS 1) (regs [(1, 2 ^ 44 + 0x4C000003)]) (fun x _ => decide (2 ^ 44 ≤ x.toNat)) ∧ commandWord 0 = none := by
  refine ⟨rfl, ⟨_, _, _, rfl, rfl⟩, ?_, ?_, ?_, ?_⟩ <;> decide +kernel
theorem test_commands : ((after (.mcmd 3 1 2) (regs [(1, 0x4C000003), (2, 9)])).agenda = [.inboxArrival 0 ⟨3, 0, 1, 0, 0, [0x4C000003, 9], 0, 0⟩]) ∧
    code (after (.mcmd 3 1 2) base) = 1 ∧ w 6 (after (.mcap 6 5) (regs [(5, 2 ^ 15), (6, 8)])) = 0 ∧ epos (after (.mcap 6 5) base) = 5 := by decide +kernel

/-- A gang stopped on core 0, to which a capability of that gang addresses a command. -/
def stoppedAway : Gang := { (gang0) with gid := 2, stopped := true, savedCores := [(0, {})] }
def awayState : State := base.modPlinth (fun p => { p with gangs := [stoppedAway] })
theorem witness_addressed : (∀ g ∈ (ganged).plinth.gangs, g.stopped = false) ∧ stoppedAway ∈ awayState.plinth.gangs ∧
    (∀ h ∈ awayState.plinth.gangs, h.stopped = true → h = stoppedAway) ∧ stoppedAway.stopped = true ∧ (tfind stoppedAway.savedCores 0).isSome = true ∧
    (let cap := capNo (capTag awayState (2 ^ 12) 2)
     nbits cap.toNat 32 32 = capTag awayState (cap.toNat % 2 ^ 32) stoppedAway.gid) := by
  refine ⟨?_, ?_, ?_, rfl, rfl, ?_⟩
  · intro g h; cases h with
    | head => rfl
    | tail _ h => cases h
  · exact List.Mem.head _
  · intro h m _; cases m with
    | head => rfl
    | tail _ m => cases m
  · have h := capNo_fields _ (capTag_lt awayState (2 ^ 12) 2)
    have g : stoppedAway.gid = 2 := rfl
    simp only [g, h]
theorem test_addressed : addressedGang (ganged) 0 9 = 1 := by decide +kernel
def permState (v : Nat) : State := regs [(6, v)] mx
theorem witness_permits : got (readS 6) (permState 101) (fun v t => (permitReq t 0 0).isNone && permitRefused t 0 0 v && ok (writeS 5 1) t) ∧
    got (readS 6) (permState 100) (fun v t => (permitReq t 0 0).isNone && !permitRefused t 0 0 v && permitsOk (v.toNat % 2 ^ 16) t) ∧
    got (readS 6) (permState 100 |>.modDie 0 (fun d => { d with poolHeld := 2304 })) (fun v t => (permitReq t 0 0).isNone &&
      !permitRefused t 0 0 v && (permitReq t 0 (permitKey t.cur)).isNone && !permitsOk (v.toNat % 2 ^ 16) t) ∧
    (permState 1).mine.queue.any (fun m => m.ctx == 0 && m.own) = false := by decide +kernel
/-- R339: a grant answers the units held; beyond the budget bit 63 is set; PERMREL 0 returns all. -/
theorem test_permits : w 5 (after (.permit 5 6) (permState 100)) = 100 ∧ w 5 (after (.permit 5 6) (permState 101)) = 2 ^ 63 ∧
    (let s := after (.permit 5 6) (permState 100)
     (s.ctx 0 0).held = 100 ∧ (s.die 0).poolHeld = 100 ∧ w 5 (after (.permrel 5 6) (s.store (spPlace 0 48) 8 40)) = 60 ∧
     ((after (.permrel 5 63) s).die 0).poolHeld = 0) := by decide +kernel

/-! ## Engines and near memory (chapters 8, 12, 14) -/

/-- A card at 0x8000 of the scratchpad, a2 there, in a gang with permits; its operands from 0x8400, 0x8800 and 0x8C00. -/
def cardState (card : Nat) (s : State := mx) : State := (acc2 spAt s).store (spPlace 0 0x8000) 64 card
def opCard (op styp dtyp len rl : Nat) (e2 : Nat := 0) : Nat :=
  cardAt 3 op styp dtyp len rl (ent (spAt + 0x400) 64 2) (ent (spAt + 0x800) 64 3) e2
def e2At : Nat := ent (spAt + 0xC00) 64 2
def opCards : List (Nat × Instr × Nat) :=
  [(0, .asopReduceAdd 2 1 0 0, opCard 0 0 0 2 0), (1, .asopReduceMax 2 1 0 0, opCard 1 7 7 2 0), (2, .asopAxpy 2 1 0 0, opCard 2 0 0 2 0 e2At),
    (3, .asopConvert 2 1 0 0, opCard 3 7 0 2 0), (4, .asopScale 2 1 0 0, opCard 4 0 0 2 0 e2At), (5, .asopGather 2 1 0 0, opCard 5 0 0 1 1 e2At),
    (6, .asopScatterAdd 2 1 0 0, opCard 6 0 0 1 1 e2At), (7, .asopSmerge 2 1 0 0, opCard 7 0 0 32 0)]
theorem witness_operators : (cardState 0).unheld 0 ∧ (cardState 0).slotRoom 1 ∧ spAt % 64 = 0 ∧
    opCards.all (fun e => got (do let va ← readA 2; let l ← readWord va 64 false; return leNat l) (cardState e.2.2) (fun card t =>
      cardKind card == 3 && cardOp card == e.1 && cardOk card && decide (t.slotRoom 1) && permitsOk (if cardPermit card then 1 else 0) t)) = true ∧
    cardOk (opCard 3 13 0 2 0) = false ∧ cardKind job1 ≠ 3 := by decide +kernel
theorem test_operators : opCards.all (fun e =>
      let s := after e.2.1 (cardState e.2.2)
      (s.die 0).ops.length == 1 && (s.agenda == [.operatorComplete 0]) && apos s == 5 && (s.ctx 0 0).pend.length == 1) = true ∧
    code (after (.asopAxpy 2 1 0 0) (cardState (opCard 0 0 0 2 0))) = 0x14 ∧ code (after (.asopReduceAdd 2 1 0 0) (cardState (opCard 0 1 1 2 0))) = 0x14 := by
  decide +kernel
theorem witness_cards : opCards.all (fun e => cardOk e.2.2) = true ∧ cardOk job1 = true ∧ cardKind job1 ≠ 3 ∧ cardPermit (opCard 0 0 0 2 0) = true ∧
    cardPermit (opCard 5 0 0 1 1 e2At) = false ∧ cardOk 0 = false ∧ cardOk (cardAt 4 0 0 0 0 0 0 0 0) = false := by decide +kernel
/-- What an operator leaves at its destination (Table 8-8): the sources 1.0 and 2.0, s = 3.0, the destination 0.5 before. -/
def ran (card : Nat) : State :=
  (runCard { core := 0, gid := 1, asid := 0, user := false } card ((((cardState card).store (spPlace 0 0x8400) 8 (0x3F800000 + 0x40000000 * 2 ^ 32)).store
    (spPlace 0 0x8800) 4 0x3F000000).store (spPlace 0 0x8C00) 4 0x40400000)).1
theorem test_operator_results : (ran (opCard 0 0 0 2 0)).load (spPlace 0 0x8800) 4 = 0x40400000 ∧
    (ran (opCard 1 7 7 2 0)).load (spPlace 0 0x8800) 4 = 0x40000000 ∧ (ran (opCard 2 0 0 1 0 e2At)).load (spPlace 0 0x8800) 4 = 0x40600000 ∧
    (ran (opCard 4 0 0 2 0 e2At)).load (spPlace 0 0x8804) 4 = 0x40C00000 ∧ (ran (opCard 3 0 1 2 0)).load (spPlace 0 0x8800) 4 = 0x40003C00 ∧
    (ran job1).load (spPlace 0 0x8804) 4 = 0x40000000 := by decide +kernel

/-- Jobs of chapter 12: a card whose footprint lies in the own scratchpad, in a live workspace area, and none. -/
def jobIn (off : Nat) : Nat := cardAt 1 0 0 0 64 0 (ent (regionF 0x8400) 64 2) (ent (regionF off) 64 3) 0
def manyJobs : State := (cardState (jobIn 0x8800)).modDie 0 (fun d => { d with jobs := List.replicate 512 ⟨9, 0, 0, 0, 0, 0, 0, false, none, false, false⟩ })
def subm (s : State) (p : Nat → State → Bool) : Bool := got (do let va ← readA 2; let l ← readWord va 64 false; return leNat l) s p
theorem witness_jobs : subm (cardState 0) (fun c _ => !cardOk c) ∧ subm (cardState (cardAt 1 0 0 0 0 0 0 0 0)) (fun c _ => cardOk c && (cardFootprint c).isEmpty) ∧
    subm (cardState (jobIn 0)) (fun c t => cardOk c && !(cardFootprint c).isEmpty && footRefused t 0 1 c && ok (writeS 6 1) t) ∧
    subm manyJobs (fun c t => cardOk c && !footRefused t 0 1 c && decide (512 ≤ jobsQueued (t.die 0))) ∧
    subm (cardState (jobIn 0x8800)) (fun c t => cardOk c && !(cardFootprint c).isEmpty && !footRefused t 0 1 c && decide (jobsQueued (t.die 0) < 512)) := by decide +kernel
theorem test_jobs : code (after (.jcsub 6 2 1) (cardState 0)) = 0x14 ∧ w 6 (after (.jcsub 6 2 1) (cardState (jobIn 0))) = 2 ^ 62 ∧
    apos (after (.jcsub 6 2 1) manyJobs) = 4 ∧
    (let s := after (.jcsub 6 2 1) ((cardState (jobIn 0x8800)).modDie 0 (fun d => { d with jobNext := 5 }))
     w 6 s = 5 ∧ (s.die 0).jobs.map (·.num) = [5] ∧ s.agenda = [.jobDispatch 0]) := by decide +kernel
/-- JCWAIT: a number with status 1 in its top bits, one that is queued, one that has ended well, one that has faulted, an unknown one. -/
def ended (v : Nat) : State := (regs [(6, v)] (onAcc base)).modDie 0 (fun d => { d with jobs := [⟨9, 0, 0, 0, 0, 0, 0, false, none, false, false⟩], jobDone := [(4, false), (5, true)] })
theorem witness_jcwait : [(2 ^ 62, 1), (9, 0), (4, 0), (5, 0), (7, 0)].all (fun e => got (readS 6) (ended e.1) (fun j _ => nbits j.toNat 62 2 == e.2)) = true ∧
    ((ended 9).die 0).jobs.any (fun q => q.num == 9) = true ∧ ((ended 4).die 0).jobs.any (fun q => q.num == 4) = false ∧
    ((ended 4).die 0).jobDone.find? (fun q => q.1 == 4) = some (4, false) ∧ ((ended 7).die 0).jobDone.find? (fun q => q.1 == 7) = none := by decide +kernel
theorem test_jcwait : [(2 ^ 62, 2), (4, 0), (5, 1), (7, 0xFF)].all (fun e => w 5 (after (.jcwait 5 6 1) (ended e.1)) == e.2) = true ∧
    apos (after (.jcwait 5 6 1) (ended 9)) = 4 := by decide +kernel

def job (n : BitVec 32) (card : Nat) (r : Bool) : Job := ⟨n, BitVec.ofNat 512 card, 0, 1, 0, 0, 3, false, none, r, false⟩
def withJobs (l : List Job) (s : State := base) : State := s.modDie 0 (fun d => { d with jobs := l })
theorem witness_engine_events : (job 1 (jobIn 0x8800) false).running = false ∧ gangIdle (withJobs [job 1 (jobIn 0x8800) false]) 1 = false ∧
    cardPermit (job 1 (jobIn 0x8800) false).card.toNat = false ∧
    ((job 1 (jobIn 0x8800) true).running = true ∧ (job 2 (jobIn 0x8800) false).running = false ∧ (2 : BitVec 32) ≠ 1 ∧
      footEdge (job 1 (jobIn 0x8800) true) (job 2 (jobIn 0x8800) false) = true) ∧
    ((job 1 (jobIn 0x8800) true).permit = false ∧ (job 1 (jobIn 0x8800) true).node = none ∧ cardSig (job 1 (jobIn 0x8800) true).card.toNat = 0 ∧
      (let u := (runCard (job 1 (jobIn 0x8800) true).actor (jobIn 0x8800) (withJobs [job 1 (jobIn 0x8800) true])).1
       (u.die 0).jobs = [job 1 (jobIn 0x8800) true] ∧ (u.die 0).jobDone = [])) ∧
    (let j := job 0 (opCard 5 0 0 1 1 e2At) true
     let s := base.modDie 0 (fun d => { d with ops := [j] })
     opDie s 3 = some (0, j) ∧ j.permit = false ∧ cardSig j.card.toNat = 0 ∧ (runCard j.actor j.card.toNat s).2 = false) := by decide +kernel
theorem test_engine_events : (after .jobDispatch { withJobs [job 1 (jobIn 0x8800) false] with ev := .jobDispatch 0 }).agenda = [.jobComplete 0 1] ∧
    (after .jobDispatch { withJobs [job 1 (jobIn 0x8800) true, job 2 (jobIn 0x8800) false] with ev := .jobDispatch 0 }).agenda = [] ∧
    (let s := after .jobComplete { (withJobs [job 1 (jobIn 0x8800) true] (base.store (spPlace 0 0x8400) 4 77)) with ev := .jobComplete 0 1 }
     (s.die 0).jobs = [] ∧ (s.die 0).jobDone = [(1, false)] ∧ s.load (spPlace 0 0x8800) 4 = 77) ∧
    (let s := base.modDie 0 (fun d => { d with ops := [job 0 (opCard 5 0 0 1 1 e2At) true] })
     ((after .operatorComplete { s with ev := .operatorComplete 3 }).die 0).ops = []) := by decide +kernel

/-- An Ashlar unit of the gang, a2 at its bank, with channel 1 as given. -/
def unitAt (off v : Nat) (c : Chan := {}) : State :=
  addrs [(2, regionE (3 * 2 ^ 16 + off))] (regs [(6, v)] (onAcc ((bankOf 1).modAshlar 3 (fun x => { x with chans := [(1, c)] }))))
def other : Chan := { isOpen := true, owner := (7, 0) }
def mineOpen : Chan := { isOpen := true, owner := (0, 0), rbase := 0x40, nclosed := 2 }
theorem witness_ashlar : (unitAt 0 0).unheld 0 ∧ (unitAt 0 0).slotRoom 1 ∧
    (unitAt 0 0).namesUnit (BitVec.ofNat 80 (regionE (3 * 2 ^ 16))) 3 0 ∧ unitBusy (unitAt 0 0) 3 = false ∧
    ((unitAt 0 0).ashlar 3).chans.any (fun c => c.2.isOpen && !c.2.pfx) = false ∧ configRefused ((unitAt 0 0).ashlar 3) 256 4 = false ∧
    configRefused ((unitAt 0 0 mineOpen).ashlar 3) 256 1 = true ∧
    ((unitAt 0 0).chan 3 1).isOpen = false ∧ ((unitAt 0 0 mineOpen).chan 3 1).isOpen = true ∧ ((unitAt 0 0 other).chan 3 1).owner ≠ (0, 0) ∧
    (mineOpen.bad = false ∧ mineOpen.cnt = 0 ∧ mineOpen.pfx = true ∧ { mineOpen with cnt := 1 }.cnt ≠ 0) ∧
    got (readS 6) (unitAt 0 (256 + 4 * 2 ^ 9)) (fun v t => decide (v.toNat < 2 ^ 12) && decide (nbits v.toNat 0 9 ≤ 256) && decide (nbits v.toNat 9 3 ≤ 4) && ok (writeS 5 1) t) ∧
    got (readS 6) (unitAt 0 7) (fun v t => decide (v.toNat < 8) && decide (v.toNat % 4 < (t.ashlar 3).nseg)) := by decide +kernel
theorem test_ashlar : w 5 (after (.ascfg 5 2 6 1) (unitAt 0 (256 + 2 * 2 ^ 9))) = 16 + 4 * 2 ^ 9 ∧
    ((after (.ascfg 5 2 6 1) (unitAt 0 (256 + 2 * 2 ^ 9))).ashlar 3).mst = 256 ∧ w 5 (after (.ascfg 5 2 6 1) (unitAt 0 257)) = 16 + 4 * 2 ^ 9 + 2 ^ 63 ∧
    (let s := after (.segopen 5 2 6 1) (unitAt 0x40 5)
     (s.chan 3 1).isOpen = true ∧ (s.chan 3 1).opMax = true ∧ (s.chan 3 1).rbase = 0x40 ∧ w 5 s = 0) ∧
    w 5 (after (.segopen 5 2 6 1) (unitAt 0x40 1 mineOpen)) = 1 ∧ w 5 (after (.segclose 5 2 1 1) (unitAt 0 0)) = 2 ^ 64 - 1 ∧
    w 5 (after (.segclose 5 2 1 1) (unitAt 0 0 mineOpen)) = 2 ∧ code (after (.segclose 5 2 1 1) (unitAt 0 0 { mineOpen with cnt := 1 })) = 0x1D ∧
    w 5 (after (.segcnt 5 2 1 1) (unitAt 0 0 mineOpen)) = 2 * 2 ^ 32 + 2 ^ 56 + 2 ^ 57 := by decide +kernel
/-- R335: a segment of two s32 elements 5 and 7 from the prefix (kind 2, count 2) on. -/
theorem test_segments : (let s := after (.segputPfx 1 2 6 1) (unitAt 0 0x02000002 mineOpen)
     (s.chan 3 1).cnt = 2 ∧ (s.chan 3 1).pfx = false ∧ (s.chan 3 1).kind = 2) ∧
    (let c : Chan := { mineOpen with kind := 2, cnt := 1, pfx := false, sum := some 5 }
     let s := after (.segput 1 2 6 1) (unitAt 0 7 c)
     s.load (ashPlace 3 0x40) 4 = 12 ∧ (s.chan 3 1).rbase = 0x44 ∧ (s.chan 3 1).nclosed = 3) ∧
    (let c : Chan := { mineOpen with kind := 2, cnt := 2, pfx := false }
     (after (.segput2 1 2 6 1) (unitAt 0 (5 + 7 * 2 ^ 32) c)).load (ashPlace 3 0x40) 4 = 12) ∧
    code (after (.segput 1 2 6 1) (unitAt 0 7 other)) = 5 ∧ ((after (.segput 1 2 6 1) (unitAt 0 7 mineOpen)).chan 3 1).bad = true := by decide +kernel
theorem witness_segments : (let c : Chan := { mineOpen with kind := 2, cnt := 1, pfx := false, sum := some 5 }
    let s := unitAt 0 7 c
    (s.chan 3 1).isOpen = true ∧ (s.chan 3 1).bad = false ∧ (s.chan 3 1).pfx = false ∧ (s.chan 3 1).cnt = 1 ∧
    (s.chan 3 1).rbase < min ((s.ashlar 3).mst * 256) 65536 ∧ (s.chan 3 1).sum = some 5 ∧ (s.chan 3 1).kind ≠ 1 ∧ (s.chan 3 1).opMax = false) ∧
    mineOpen.pfx = true ∧ ({ mineOpen with pfx := false, cnt := 2 } : Chan).cnt ≠ 1 := by decide +kernel

/-- a2 at the signal 0x90 of region 0xD; w6 holds an operand. -/
def sigState (n : Nat) (x : Nat := 9) (s : State := onAcc base) : State := addrs [(2, 0xD000 * 2 ^ 64 + 0x90)] (regs [(6, x)] (noticed n s))
theorem witness_signals : (sigState 5).unheld 0 ∧ (sigState 5).slotRoom 1 ∧ (sigState 5).me.accessesBefore 4 = false ∧ (sigState 5).me.wait = none ∧
    got (do let va ← readA 2; let n ← readS 6; let _ ← check va 8 .atomic; return (va, n)) (sigState 5) (fun e t =>
      e.1.toNat % 8 == 0 && vaRegion e.1 == 13 && ok (writeS 5 (BitVec.ofNat 64 (decSig t.mine.asid e.1 (e.2.toNat % 2 ^ 56) 0 t).2))
        (decSig t.mine.asid e.1 (e.2.toNat % 2 ^ 56) 0 t).1) ∧
    got (do let va ← readA 2; let _ ← readS 6; check va 8 .read) (sigState 5) ∧
    ((sigState 5).modCtx 0 0 (fun x => { x with wait := some ⟨0, some 7⟩ })).me.wait = some ⟨0, some 7⟩ ∧
    got (readA 2) (addrs [(2, spAt + 4)] (sigState 5)) (fun va _ => va.toNat % 8 != 0) ∧
    got (readA 2) (addrs [(2, spAt)] (sigState 5)) (fun va _ => va.toNat % 8 == 0 && vaRegion va != 13) := by decide +kernel
/-- R329: the old word comes back; the value in bits [55:0] goes down and stays at zero at the least. -/
theorem test_signals : w 5 (after (.sigdec 5 2 6 0) (sigState 12)) = 12 ∧ (after (.sigdec 5 2 6 0) (sigState 12)).agenda = [] ∧
    ((lastReq (after (.sigwait 5 2 6 1) (sigState 5))).map (fun r => (r.op, r.y.toNat))) = some (.sigwait, 9) ∧
    apos (after (.sigwait 5 2 6 1) (sigState 5)) = 4 ∧
    w 5 (after (.sigwait 5 2 6 1) ((sigState 5).modCtx 0 0 (fun x => { x with wait := some ⟨0, some 7⟩ }))) = 7 ∧
    code (after (.sigdec 5 2 6 0) (addrs [(2, spAt)] (sigState 5))) = 4 := by decide +kernel

/-- A graph numbered 6 with node 2 of count 9; w6 names it, w7 holds a number. -/
def counterState (q : Node) (r n : Nat) : State :=
  (regs [(6, r), (7, n)] (onAcc base)).modDie 0 (fun d => { d with graphs := [⟨6, 0, 1, 0, false, 0, [(2, q)], false⟩] })
def node9 : Node := { node0 with count := 9 }
def ref62 : Nat := 6 + 2 * 2 ^ 32
theorem witness_counters_of_nodes : got (do let r ← readS 6; let n ← readS 7; return (r, n)) (counterState node9 ref62 9) (fun e t =>
      (nodeOf t t.mine.asid e.1).isSome && decide (0 < e.2.toNat ∧ e.2.toNat ≤ 9)) ∧ node9.past = false ∧ { node9 with done := true }.past = true ∧
    got (do let r ← readS 6; let n ← readS 7; return (r, n)) (counterState node9 7 65536) (fun e t =>
      (nodeOf t t.mine.asid e.1).isNone && decide (65535 < e.2.toNat)) ∧ (counterState node9 ref62 9).me.accessesBefore 4 = false := by decide +kernel
theorem test_dependency_counters : w 5 (after (.dcinit 5 6 7 0) (counterState node9 ref62 4)) = 9 ∧
    w 5 (after (.dcinit 5 6 7 0) (counterState { node9 with done := true } ref62 4)) = 2 ^ 62 + 9 ∧
    w 5 (after (.dcinit 5 6 7 0) (counterState node9 ref62 65536)) = 3 * 2 ^ 62 + 9 ∧ w 5 (after (.dcdec 5 6 7 0) (counterState node9 ref62 4)) = 5 ∧
    (after (.dcdec 5 6 7 0) (counterState node9 ref62 9)).agenda = [.nodeDispatch 0] ∧ code (after (.dcdec 5 6 7 0) (counterState node9 ref62 10)) = 0x1C := by decide +kernel

/-- Residency handles: a2 at 0x80, w6 a length of 128 bytes and priority 3. -/
def rhState (v : Nat) (h : Table (BitVec 256) := []) : State := addrs [(2, 0x80)] (regs [(6, v), (7, 5)] ((onAcc base).modDie 0 (fun d => { d with handles := h })))
def handle0 : BitVec 256 := BitVec.ofNat 256 (1 + 3 * 2 + 2 ^ 16 + 0x80 * 2 ^ 64 + 128 * 2 ^ 144)
theorem witness_handles : (rhState 0).unheld 0 ∧ (rhState 0).slotRoom 1 ∧
    got (do let va ← readA 2; let v ← readS 6; return (va, v)) (rhState (128 + 3 * 2 ^ 40)) (fun e t => e.1.toNat % 128 == 0 && nbits e.2.toNat 0 40 % 128 == 0 &&
      decide (e.2.toNat < 2 ^ 43) && nbits e.2.toNat 40 3 != 0 && !handleOpen (tget (t.die 0).handles 0 0) && ok (writeS 5 0) t) ∧
    (handleOpen handle0 = true ∧ handleAsid handle0 = 0 ∧ handleGid handle0 = 1 ∧ rangesMeet (handleBase handle0) (handleLen handle0) 0x80 128 = true) ∧
    (∀ n, n < 64 → handleOpen (tget ((List.range 64).map (fun i => (i, handle0))) n 0) = true) ∧
    got (readS 6) (rhState 0 [(0, handle0)]) (fun n t => decide (n.toNat < 64) && handleGid (tget (t.die 0).handles n.toNat 0) == t.mine.gid.toNat) ∧
    got (readS 6) (rhState 64) (fun n _ => decide (64 ≤ n.toNat)) ∧ handleOpen 0 = false := by decide +kernel
theorem test_handles : w 5 (after (.rhopen 5 2 6 1) (rhState (128 + 3 * 2 ^ 40))) = 0 ∧
    tget ((after (.rhopen 5 2 6 1) (rhState (128 + 3 * 2 ^ 40))).die 0).handles 0 0 = handle0 ∧
    w 5 (after (.rhopen 5 2 6 1) (rhState (128 + 3 * 2 ^ 40) [(0, handle0)])) = 2 ^ 64 - 1 ∧ code (after (.rhopen 5 2 6 1) (rhState 128)) = 0x1B ∧
    nbits (tget ((after (.rhpri 6 7 1) (rhState 0 [(0, handle0)])).die 0).handles 0 0).toNat 1 3 = 5 ∧
    nbits (tget ((after (.rhdemote 6 1) (rhState 0 [(0, handle0)])).die 0).handles 0 0).toNat 1 3 = 0 ∧
    handleOpen (tget ((after (.rhclose 6 1) (rhState 0 [(0, handle0)])).die 0).handles 0 0) = false ∧
    apos (after (.rhevict 6 1) (rhState 0 [(0, handle0)])) = 5 ∧ code (after (.rhevict 6 1) (rhState 0)) = 0x1B := by decide +kernel

/-! ## Attention pages and merge entries (chapter 13) -/

/-- A gang of core 0 that holds unit 3, whose block 16 has the entry; a2 and w6 are the operands. -/
def mrgState (va r : Nat) (e : MergeEntry := {}) : State :=
  addrs [(2, va)] (regs [(6, r)] (onAcc (ganged none ((bankOf 1).modAshlar 3 (fun x => { x with entries := [(16, e)] })))))
def blockAt (b : Nat) : Nat := regionE (3 * 2 ^ 16 + b * 256)
def ref16 : Nat := 0x31000
def entry2 : MergeEntry := { alloc := true, n := 2 }
/-- A record (m, l, sequence number, first word of the row) at 0x8000. -/
def record (q : Nat) (s : State) : State :=
  (s.store (spPlace 0 0x8000) 10 (0x3F800000 + 0x40000000 * 2 ^ 32 + q * 2 ^ 64)).store (spPlace 0 0x8040) 4 0x40400000
def part : Partial := ⟨0x3F800000, 0x40000000, 0x40400000 :: List.replicate 31 0⟩
theorem witness_mrgcfg : (mrgState (blockAt 16) 0).unheld 0 ∧ (mrgState (blockAt 16) 0).slotRoom 1 ∧
    (mrgState (blockAt 16) 0).namesUnit (BitVec.ofNat 80 (blockAt 16)) 3 (16 * 256) ∧ 16 * 256 % 256 = 0 ∧
    ((mrgState 0 0).ashlar 3).mst ≤ 16 ∧ 16 + entryBlocks 0 ≤ 256 ∧ 15 < ((mrgState 0 0).ashlar 3).mst ∧ 256 < 247 + entryBlocks 0 ∧
    ((mrgState 0 0 entry2).ashlar 3).entries.any (fun q => q.2.alloc && rangesMeet q.1 (entryBlocks q.2.dv) 25 (entryBlocks 0)) = true ∧
    (mergeEntry (mrgState 0 0 entry2) 3 16).alloc = true ∧ (mergeEntry (mrgState 0 0 entry2) 3 16).sub = false ∧
    (mergeEntry (mrgState 0 0) 3 16).alloc = false ∧
    [0, 1, 2, 3].all (fun k => got (readS 6) (mrgState 0 (k * 2 ^ 15)) (fun r _ => decide (r.toNat < 2 ^ 17) && nbits r.toNat 15 2 == k)) = true := by decide +kernel
theorem test_mrgcfg : (let s := after (.mrgcfg 5 2 6 1) (mrgState (blockAt 16) (3 * 8 + 1))
     w 5 s = 0 ∧ (mergeEntry s 3 16).n = 4 ∧ (mergeEntry s 3 16).dv = 1 ∧ (mergeEntry s 3 16).acc.o.length = 64) ∧
    w 5 (after (.mrgcfg 5 2 6 1) (mrgState (blockAt 15) 0)) = 1 ∧ w 5 (after (.mrgcfg 5 2 6 1) (mrgState (blockAt 25) 0 entry2)) = 1 ∧
    (mergeEntry (after (.mrgcfg 5 2 6 1) (mrgState (blockAt 16) (2 * 2 ^ 15) entry2)) 3 16).alloc = false ∧
    code (after (.mrgcfg 5 2 6 1) (mrgState (blockAt 16) (3 * 2 ^ 15))) = 1 := by decide +kernel

def putReads (s : State) (p : Nat → List Byte → State → Bool) : Bool :=
  got (do let va ← readA 2; let r ← readS 6; let l ← readSpan va (0x40 + 4 * 32); return (r.toNat, l)) s (fun e t => p e.1 e.2 t)
theorem witness_mrgput : putReads (record 1 (mrgState spAt ref16 entry2)) (fun r l t =>
      entryRef r == some (3, 16) && (t.ashlar 3).gid == t.mine.gid && (mergeEntry t 3 16).alloc && leNat ((l.drop 0x0A).take 0x36) == 0 &&
      leNat ((l.drop 8).take 2) == 1 && (tfind (mergeEntry t 3 16).window 1).isNone) ∧
    putReads (record 1 (mrgState spAt ref16 { entry2 with window := [(1, part)] })) (fun _ _ t => (tfind (mergeEntry t 3 16).window 1).isSome) ∧
    spAt % 64 = 0 ∧ (ownOffset 0 (BitVec.ofNat 80 spAt)).isSome = true ∧
    inOwn 0 (BitVec.ofNat 80 spAt) 192 = true ∧ inOwn 0 (BitVec.ofNat 80 (regionF (2 ^ 18 - 64))) 192 = false ∧
    (ownOffset 0 (BitVec.ofNat 80 (regionF (2 ^ 18 - 64)))).isSome = true ∧
    putReads (record 9 (mrgState spAt ref16 { entry2 with n := 12 })) (fun _ l t => leNat ((l.drop 8).take 2) == 9 && t.me.wait.isNone) := by decide +kernel
/-- R319: a partial eight numbers ahead waits, and is counted once; a record past the own scratchpad's end is misuse. -/
theorem test_mrg_stall : (let s := after (.mrgput 2 6 1) (record 9 (mrgState spAt ref16 { entry2 with n := 12 }))
     apos s = 4 ∧ (s.die 0).mrgStall = 1 ∧ ((after (.mrgput 2 6 1) s).die 0).mrgStall = 1) ∧
    code (after (.mrgput 2 6 1) (mrgState (regionF (2 ^ 18 - 64)) ref16 entry2)) = 0x1A := by decide +kernel
theorem test_mrgput : (mergeEntry (after (.mrgput 2 6 1) (record 1 (mrgState spAt ref16 entry2))) 3 16).window = [(1, part)] ∧
    (let e := mergeEntry (after (.mrgput 2 6 1) (record 0 (mrgState spAt ref16 entry2))) 3 16
     e.nextS = 1 ∧ e.acc = part ∧ e.empty = false ∧ e.window = []) ∧ code (after (.mrgput 2 6 1) (record 2 (mrgState spAt ref16 entry2))) = 0x1A := by decide +kernel
theorem witness_mrgget : { entry2 with nextS := 2 }.nextS = entry2.n ∧ entry2.nextS ≠ entry2.n ∧
    got (do let va ← readA 2; let _ ← readS 6; writes (fun s => writeBytesNow s 0 0 va (List.replicate 192 1))) (mrgState spAt ref16 entry2) := by decide +kernel
theorem test_mrgget : apos (after (.mrgget 5 2 6 1) (mrgState spAt ref16 entry2)) = 4 ∧
    (let s := after (.mrgget 5 2 6 1) (mrgState spAt ref16 { entry2 with nextS := 2, acc := part, empty := false })
     w 5 s = 0x3F800000 + 0x40000000 * 2 ^ 32 ∧ s.load (spPlace 0 0x8000) 16 = 0x3F800000 + 0x40000000 * 2 ^ 32 + 2 * 2 ^ 64 ∧
     s.load (spPlace 0 0x8040) 4 = 0x40400000 ∧ (mergeEntry s 3 16).nextS = 0 ∧ isFull s 0 (0x8000 / 16) = true) := by decide +kernel
theorem witness_merge_order : ({ entry2 with window := [(0, part)] } : MergeEntry).window = [(entry2.nextS % 8, part)] ∧
    ({ entry2 with window := [(0, part), (1, part)] } : MergeEntry).window = [(entry2.nextS % 8, part), ((entry2.nextS + 1) % 8, part)] ∧
    entry2.nextS % 8 ≠ 7 ∧ entry2.empty = true ∧ tfind entry2.window (entry2.nextS % 8) = none := by decide +kernel

/-- A subscription descriptor at 0x8000: pages 4 and 7 (table at 0x8400), the entry of block 16, rank 0, a ring of 2 slots at 0x10000. -/
def subDesc (more : Nat := 0) (ssz : Nat := 17) : Nat :=
  regionF 0x8400 + 1 * 2 ^ 80 + ref16 * 2 ^ 96 + 0x100 * 2 ^ 138 + 1 * 2 ^ 148 + ssz * 2 ^ 151 + more
def subState (d : Nat) (e : MergeEntry := entry2) : State :=
  ((mrgState spAt 0 e).store (spPlace 0 0x8000) 64 d).store (spPlace 0 0x8400) 8 (4 + 7 * 2 ^ 32)
def sub0 : Subscription := ⟨BitVec.ofNat 512 (subDesc), 1, 0, [4, 7], 0, 0, false⟩
/-- A pass of pages of 4,096 bytes (dk = dv = 32) from 0x20000 of the scratchpad. -/
def passDesc (more : Nat := 0) : Nat := regionF 0x20000 + 16 * 2 ^ 96 + more
def pass0 : Pass := ⟨6, BitVec.ofNat 512 (passDesc), 1, 0, 0, 0, 3, false, true, 0, [], [], [], [], false, false, false, false, []⟩
def subReads (s : State) (p : BitVec 512 → List Nat → State → Bool) : Bool :=
  got (do let va ← readA 2; let l ← readWord va 64 false
          let desc : BitVec 512 := BitVec.ofNat 512 (leNat l)
          let t ← readSpan (BitVec.ofNat 80 (subTable desc)) (4 * subN desc); return (desc, t)) s
    (fun e t => p e.1 ((wordsOf (subN e.1) e.2).map (·.toNat)) t)
def withDie (f : Die → Die) (s : State) : State := s.modDie 0 f
theorem witness_pgsub : (subState (subDesc)).unheld 0 ∧
    subReads (subState (subDesc)) (fun d pages t => nbits d.toNat 92 4 == 0 && nbits d.toNat 126 2 == 0 && decide (d.toNat < 2 ^ 160) && subTable d % 4 == 0 &&
      entryRef (subMrg d) == some (3, 16) && (t.ashlar 3).gid == 1 && !subMisuse t 1 d pages && (runningPass (t.die 0) 1).isNone && !storeFull (t.die 0) 1 pages) ∧
    subReads (subState (subDesc) { entry2 with sub := true }) (fun d pages t => subMisuse t 1 d pages) ∧
    subReads (withDie (fun v => { v with passes := [{ pass0 with desc := BitVec.ofNat 512 (passDesc (2 ^ 132)) }] }) (subState (subDesc))) (fun d pages t => !subMisuse t 1 d pages &&
      (runningPass (t.die 0) 1).any (fun p => passDv p.desc != subDv t d || decide (subSsz d < slotNeed p.desc))) ∧
    subReads (withDie (fun v => { v with subs := List.replicate 512 sub0 }) (subState (subDesc))) (fun _ pages t => storeFull (t.die 0) 1 pages) ∧
    nbits (subDesc (2 ^ 92)) 92 4 ≠ 0 := by decide +kernel
theorem test_pgsub : (let s := after (.pgsub 5 2 1) (subState (subDesc))
     w 5 s = 0 ∧ (s.die 0).subs = [sub0] ∧ (mergeEntry s 3 16).sub = true) ∧ code (after (.pgsub 5 2 1) (subState (subDesc (2 ^ 92)))) = 0x1A ∧
    code (after (.pgsub 5 2 1) (subState (subDesc) { entry2 with sub := true })) = 0x1A ∧
    w 5 (after (.pgsub 5 2 1) (withDie (fun v => { v with subs := List.replicate 512 sub0 }) (subState (subDesc)))) = 2 := by decide +kernel
/-- R309: a pass runs whose round has begun page 4; one whose round has both pages still to begin; one that is between two rounds. -/
def joining (p : Pass) : State := withDie (fun v => { v with passes := [p] }) (subState (subDesc))
def round3 : Pass := { pass0 with round := 3, pageSet := [4, 7], begun := [4] }
theorem witness_late : [round3, { round3 with begun := [] }, { round3 with between := true }].all (fun p =>
      subReads (joining p) (fun d pages t => !subMisuse t 1 d pages && runningPass (t.die 0) 1 == some p && passDv p.desc == subDv t d &&
        decide (slotNeed p.desc ≤ subSsz d) && !storeFull (t.die 0) 1 pages && pages == [4, 7])) = true := by decide +kernel
theorem test_late : (let s := after (.pgsub 5 2 1) (joining round3); w 5 s = 1 ∧ (s.die 0).subs.map (·.due) = [4]) ∧
    (let s := after (.pgsub 5 2 1) (joining { round3 with begun := [] }); w 5 s = 0 ∧ (s.die 0).subs.map (·.due) = [3]) ∧
    (let s := after (.pgsub 5 2 1) (joining { round3 with between := true }); w 5 s = 0 ∧ (s.die 0).subs.map (·.due) = [3]) := by decide +kernel
def subbed (r : Nat) : State := withDie (fun v => { v with subs := [sub0] }) (mrgState 0 r { entry2 with sub := true })
theorem witness_pgunsub : got (readS 6) (subbed ref16) (fun r t => entryRef r.toNat == some (3, 16) && (t.ashlar 3).gid == t.mine.gid &&
      ((t.die 0).subs.find? (fun q => q.gid == t.mine.gid && subMrg q.desc == r.toNat)) == some sub0) ∧
    got (readS 6) (subbed (ref16 + 256)) (fun r t => entryRef r.toNat == some (3, 17) &&
      ((t.die 0).subs.find? (fun q => q.gid == t.mine.gid && subMrg q.desc == r.toNat)).isNone) := by decide +kernel
theorem test_pgunsub : (let s := after (.pgunsub 5 6 1) (subbed ref16); w 5 s = 0 ∧ (s.die 0).subs = [] ∧ (mergeEntry s 3 16).sub = false) ∧
    w 5 (after (.pgunsub 5 6 1) (subbed (ref16 + 256))) = 1 := by decide +kernel

def passState (d : Nat) (f : Die → Die := id) : State := withDie f ((mrgState spAt 0).store (spPlace 0 0x8000) 64 d)
def passOk (n : Nat) : Bool :=
  let desc : BitVec 512 := BitVec.ofNat 512 n
  nbits n 80 16 == 0 && nbits n 135 57 == 0 && decide (n < 2 ^ 256) && passPool desc % 256 == 0 && decide ((pageSize desc + 255) / 256 * 256 ≤ passStride desc)
theorem witness_pgpass : passOk (passDesc) = true ∧ passOk (passDesc (2 ^ 80)) = false ∧
    got (do let va ← readA 2; readWord va 64 false) (passState (passDesc)) (fun l t => passOk (leNat l % 2 ^ 512) && decide ((t.die 0).passes.length < 4)) ∧
    4 ≤ ((passState (passDesc) (fun v => { v with passes := List.replicate 4 pass0 })).die 0).passes.length ∧
    ((subbed 0).die 0).subs.any (fun q => q.gid == (subbed 0).mine.gid && (subDv (subbed 0) q.desc != passDv (BitVec.ofNat 512 (passDesc (2 ^ 132))) ||
      decide (subSsz q.desc < slotNeed (BitVec.ofNat 512 (passDesc (2 ^ 132)))))) = true := by decide +kernel
theorem test_pgpass : (let s := after (.pgpass 5 2 1) (passState (passDesc) (fun v => { v with passNext := 9 }))
     w 5 s = 9 ∧ (s.die 0).passes.length = 1 ∧ s.agenda = [.passRoundStart 0] ∧ (s.die 0).passNext = 10) ∧
    code (after (.pgpass 5 2 1) (passState (passDesc (2 ^ 80)))) = 0x1A ∧ apos (after (.pgpass 5 2 1) (passState (passDesc) (fun v => { v with passes := List.replicate 4 pass0 }))) = 4 := by
  decide +kernel

def slotState (full : Bool) : State :=
  (((addrs [(2, regionF 0x10000)] (subbed 0)).store (spPlace 0 0x10000) 8 77)).modCore 0 (fun v => { v with full := if full then [0x1000, 0x1001, 0x2000] else [] })
theorem witness_pgrecv : (slotState true).unheld 0 ∧ (slotState true).me.accessesBefore 4 = false ∧
    got (readA 2) (slotState true) (fun va t => ownOffset 0 va == some 0x10000 && isFull t 0 (0x10000 / 16) && decide (t.mine.power (0x10000 / 16384) = .on) &&
      ringSlot t 0 0x10000 == some (0x10000, 17 * 256)) ∧
    got (readA 2) (slotState false) (fun _ t => !isFull t 0 (0x10000 / 16)) ∧ ringSlot (slotState true) 0 0x12200 = none ∧
    ownOffset 0 (BitVec.ofNat 80 (regionF (2 ^ 30 + 2 ^ 18))) = none ∧ 0x10000 % 256 = 0 := by decide +kernel
theorem test_pgrecv : w 5 (after (.pgrecv 5 2 1) (slotState true)) = 77 ∧ apos (after (.pgrecv 5 2 1) (slotState false)) = 4 ∧
    (let s := after (.pgrecvFree 2 1) (slotState true); (s.core 0).full = [0x2000] ∧ s.agenda = [.pageDelivery 0]) ∧
    code (after (.pgrecv 5 2 1) (addrs [(2, regionF (2 ^ 30 + 2 ^ 18))] (slotState true))) = 4 ∧
    code (after (.pgrecv 5 2 1) { slotState true with flaws := [spPlace 0 0x10000 / 16] }) = 0x1E := by decide +kernel

def passing (p : Pass) (m : Msg) : State := { withDie (fun v => { v with passes := [p] }) (subbed 0) with ev := m }
/-- A page image that the streamer can read, and one that lies outside the scratchpad. -/
def pageReads (n : Nat) : Bool :=
  match engReadBytes 0 1 0 false (BitVec.ofNat 80 (passPool pass0.desc + n * passStride pass0.desc)) 4096 (passing pass0 .idle) with
  | .ok _ => true
  | .error _ => false
theorem witness_pass_events : ((passing pass0 .idle).die 0).passes = [pass0] ∧ { pass0 with started := false }.started = false ∧ pass0.paused = false ∧
    pass0.started = true ∧ pass0.pageSet = [] ∧ sub0.gid = pass0.gid ∧ sub0.due = pass0.round ∧ sub0.faulted = false ∧ sub0.pages.Nodup ∧ sub0.pages.length ≤ 4096 ∧
    ((passing { pass0 with todo := [4, 7] } .idle).die 0).staging = [] ∧
    pageReads 4 = true ∧ pageReads 32 = false ∧
    pass0.ended = false ∧ pass0.todo = [] ∧ ({ sub0 with due := 1 } : Subscription).due = pass0.round + 1 ∧ sub0.due ≠ pass0.round + 1 ∧ sub0.pages ≠ [] ∧
    pass0.fetched.contains 4 = false ∧ ((passing pass0 .idle).core 0).feWait = [] ∧
    isFull (passing pass0 .idle) 0 0x1000 = false ∧
    passSig pass0.desc = 0 ∧ subMrg sub0.desc < 2 ^ 25 ∧ rankCore (passing pass0 .idle) 1 (subRank sub0.desc) = some 0 ∧
    touchesLiveArea (passing pass0 .idle) 0 0x10000 (17 * 256) = false ∧
    isFull ((passing pass0 .idle).modCore 0 (fun v => { v with full := [0x1000] })) 0 0x1000 = true := by  decide +kernel
theorem test_rounds : ((after .passRoundStart (passing { pass0 with started := false } (.passRoundStart 0))).die 0).passes.map (·.todo) = [[4, 7]] ∧
    ((after .passEnd (passing { pass0 with pageSet := [4, 7] } (.passEnd 0))).die 0).passes = [] := by decide +kernel
def fetchedState : State := after .pageFetch (passing { pass0 with todo := [4, 7], pageSet := [4, 7] } (.pageFetch 0))
theorem test_page_fetch : (fetchedState.die 0).staging.map (fun t => (t.page, t.image.length)) = [(4, 4096)] ∧
    (fetchedState.die 0).staging.map (·.subs) = [[0x31000]] := by decide +kernel
def staged5 : Staged := ⟨4, List.replicate 64 5, [0x31000]⟩
theorem witness_delivery : ({ pass0 with pageSet := [4, 7] } : Pass).pageSet ≠ [] ∧ staged5.subs = [BitVec.ofNat 25 (subMrg sub0.desc)] ∧
    (∀ b, ((passing pass0 .idle).core 0).power b = .on) := ⟨by decide, by decide +kernel, fun _ => rfl⟩
def delivered : State := after .pageDelivery (withDie (fun v => { v with staging := [staged5] }) (passing { pass0 with pageSet := [4, 7] } (.pageDelivery 0)))
theorem test_page_delivery : delivered.load (spPlace 0 0x10100) 2 = 0x505 ∧ delivered.load (spPlace 0 0x10000) 8 = 4 + 6 * 2 ^ 48 ∧
    isFull delivered 0 0x1000 = true ∧ delivered.agenda = [.passEnd 0] := by decide +kernel
/-- R308, R361: the page that a pass brings from another die is delivered, and no round begins before. -/
def carrying (m : Msg) : State := passing { pass0 with pageSet := [4, 7], carried := [staged5] } m
theorem witness_carried : ((carrying .idle).die 0).passes = [{ pass0 with pageSet := [4, 7], carried := [staged5] }] ∧
    ({ pass0 with carried := [staged5] } : Pass).carried ≠ [] ∧ pass0.carried = [] := by decide +kernel
theorem test_carried : (after .pageDelivery (carrying (.pageDelivery 0))).load (spPlace 0 0x10100) 2 = 0x505 ∧
    ((after .passEnd (carrying (.passEnd 0))).die 0).passes.length = 1 := by decide +kernel
/-- R309: a subscription that has become due keeps its pass going. -/
theorem test_next_round : (let s := after .passEnd (withDie (fun v => { v with subs := [{ sub0 with due := 1 }] }) (passing { pass0 with pageSet := [4, 7] } (.passEnd 0)))
    (s.die 0).passes.map (fun p => (p.round, p.pageSet)) = [(1, [])] ∧ s.agenda = [.passRoundStart 0]) := by decide +kernel

/-! ## Ports and connectors (chapter 11) -/

/-- Core 0 with slot 7 as given; w2 holds a parcel. -/
def ported (q : PortSlot) (s : State := base) : State := (regs [(2, 0x1122334455667788)] (onAcc (vecs [(3, 99)] s))).setPort 0 7 q
def putSlot : PortSlot := { bound := true, conn := 0x23, port := 1, serial := 4 }
def getSlot : PortSlot := { putSlot with get := true }
def firedGet : PortSlot := { getSlot with offer := .fired, owner := some 0, blk := true, parcel := [5, 6] }
def blocked (o : OfferState) : PortSlot := { putSlot with offer := o, blk := true, owner := some 0 }
/-- The parcel of a put form at its longest: 8 bytes of a scalar register, 64 of a vector register. -/
theorem witness_parcels : (∃ l t, (ported putSlot).givesParcel putSlot 2 7 l t) ∧
    (∃ l t, (ported { putSlot with wide := true }).givesParcel { putSlot with wide := true } 3 63 l t) ∧
    getSlot.takesParcel 5 ∧ { getSlot with wide := true }.takesParcel 15 :=
  ⟨⟨_, _, .inl ⟨rfl, by decide, rfl, _, rfl, rfl⟩⟩, ⟨_, _, .inr ⟨rfl, by decide, _, rfl, rfl⟩⟩, by decide, by decide⟩
/-- A put whose item came from ldq goes back there with the connector-dropped trap (R270); a narrow slot takes no parcel from sdq (R68). -/
def tookItem : PortSlot := { blocked .dropped with src := some 6 }
theorem witness_put_back : (ported tookItem).port 0 7 = tookItem ∧ tookItem.owner = some 0 ∧ tookItem.src = some 6 ∧ srcOk 60 = true ∧ srcOk 61 = false ∧
    putSlot.wide = false ∧ putSlot.get = false := by decide +kernel
theorem test_put_back : (let s := after (.put 60 7 0 7) (ported tookItem); code s = 0x18 ∧ (s.ctx 0 0).ldq.map (·.val) = [some 6]) ∧
    code (after (.put 61 7 0 7) (ported {})) = 1 ∧ code (after (.offerPut 61 7 0 7) (ported {})) = 1 := by decide +kernel
theorem witness_put_get : (ported putSlot).unheld 0 ∧ (ported putSlot).slotRoom 0 ∧ (ported putSlot).me.accessesBefore 4 = false ∧
    (let q := (ported putSlot).port 0 7; q.bound = true ∧ q.get = false ∧ q.offer = .none ∧ q.blk = false) ∧
    (let q := (ported (blocked .fired)).port 0 7; q.get = false ∧ q.blk = true ∧ q.owner = some 0 ∧ q.offer = .fired) ∧
    (blocked .pending).offer = .pending ∧ (blocked .dropped).offer = .dropped ∧
    (let q := (ported {}).port 0 7; q.bound = false ∧ q.blk = false ∧ q.offer ≠ .dropped) ∧
    (let q := (ported firedGet).port 0 7; q.get = true ∧ q.owner = some 0 ∧ q.offer = .fired ∧ q.wide = false) ∧
    ok (writeS 4 0x605) (ported firedGet) = true ∧ ok (writeV 4 0x605) (ported firedGet) = true ∧
    got (readS 2) (ported putSlot) (fun _ t => decide (t.cur = (ported putSlot).cur)) := by decide +kernel
theorem test_put : (after (.put 2 7 0 7) (ported putSlot)).agenda = [.offerMsg 2 3 1 0 7 5 [0x88, 0x77, 0x66, 0x55, 0x44, 0x33, 0x22, 0x11]] ∧
    (let s := after (.put 2 7 0 7) (ported putSlot); (s.port 0 7).offer = .pending ∧ (s.port 0 7).owner = some 0 ∧ apos s = 4) ∧
    (let s := after (.put 2 7 0 7) (ported (blocked .fired)); (s.port 0 7).offer = .none ∧ apos s = 5) ∧
    code (after (.put 2 7 0 7) (ported (blocked .dropped))) = 0x18 ∧ code (after (.put 2 7 0 8) (ported putSlot)) = 0x16 ∧
    (after (.put 3 7 0 0) (ported { putSlot with wide := true })).agenda = [.offerMsg 2 3 1 0 7 5 [99]] := by decide +kernel
theorem test_get : (after (.get 4 7 0) (ported getSlot)).agenda = [.offerMsg 2 3 1 0 7 5 []] ∧
    (let s := after (.get 4 7 0) (ported firedGet); w 4 s = 0x605 ∧ apos s = 5 ∧ (s.port 0 7).offer = .none) ∧
    v 4 (after (.get 4 7 0) (ported { firedGet with wide := true })) = 0x605 ∧ code (after (.get 4 7 0) (ported {})) = 0x16 := by decide +kernel

/-- R270: a GET on a connector that has been dropped. -/
def droppedGet : PortSlot := { getSlot with offer := .dropped, blk := true, owner := some 0 }
theorem witness_get_dropped : (let q := (ported { getSlot with offer := .dropped }).port 0 7; q.takesParcel 4 ∧ q.offer = .dropped ∧ q.blk = false) ∧
    (let q := (ported droppedGet).port 0 7; q.get = true ∧ q.takesParcel 4 ∧ q.offer = .dropped ∧ q.blk = true ∧ q.owner = some 0 ∧ q.src = none) := by decide +kernel
theorem test_get_dropped : code (after (.get 4 7 0) (ported { getSlot with offer := .dropped })) = 0x18 ∧
    (let s := after (.get 4 7 0) (ported droppedGet); code s = 0x18 ∧ (s.port 0 7).blk = false) := by decide +kernel

theorem witness_offers : (let q := (ported (blocked .none)).port 0 7; q.bound = true) ∧ ({ putSlot with offer := .fired } : PortSlot).blk = false ∧
    ({} : PortSlot).offer = .none ∧ ({} : PortSlot).ans = none ∧ ({ putSlot with ans := some 0, asker := some 0 } : PortSlot).ans = some 0 ∧ (3 : BitVec 3) ≠ 0 ∧
    putSlot.asker = none ∧ ({ putSlot with offer := .retracting, asker := some 1 } : PortSlot).asker ≠ some (onAcc base).cur.ctxNo ∧
    ok (writeS 6 1) (ported putSlot) = true := by decide +kernel
/-- Table 11-10: POLL gives the state in bits [1:0], the serial from bit 2 and the length less one from bit 10. -/
theorem test_offers : (after (.offerPut 2 7 0 0) (ported putSlot)).agenda = [.offerMsg 2 3 1 0 7 5 [0x88]] ∧ apos (after (.offerPut 2 7 0 0) (ported putSlot)) = 5 ∧
    ((after (.offerGet 7 3) (ported getSlot)).ctx 0 0).pend.length = 1 ∧ ((after (.offerGet 7 3) (ported getSlot)).port 0 7).token = some ⟨0, 0, 0⟩ ∧
    w 6 (after (.poll 6 7 0) (ported firedGet)) = 2 + 4 * 4 + 2 ^ 10 ∧ w 6 (after (.poll 6 7 0) (ported { putSlot with offer := .pending })) = 1 + 4 * 4 ∧
    code (after (.poll 6 7 0) (ported {})) = 0x16 := by decide +kernel
theorem test_retract : w 6 (after (.retract 6 7 0) (ported putSlot)) = 2 ∧ w 6 (after (.retract 6 7 0) (ported { putSlot with offer := .dropped })) = 3 ∧
    w 6 (after (.retract 6 7 0) (ported { putSlot with offer := .fired })) = 1 ∧
    (after (.retract 6 7 0) (ported { putSlot with offer := .pending })).agenda = [.retractMessage 2 3 1 0 7 4] ∧
    w 6 (after (.retract 6 7 0) (ported { putSlot with ans := some 0, asker := some 0 })) = 0 ∧
    (let s := after (.retract 6 7 0) (ported { putSlot with offer := .pending }); apos s = 4 ∧ mayHalt (s.core 0) (s.ctx 0 0) = false) ∧
    apos (after (.retract 6 7 0) (ported { putSlot with offer := .retracting, asker := some 1 })) = 4 := by decide +kernel

/-- w5 holds a port reference: Keystone 2, slot 3, port 1. -/
def bindState (x : Nat) (q : PortSlot) : State := regs [(5, x)] (ported q)
def refNo : Nat := 1 + 3 * 2 ^ 6 + 2 * 2 ^ 10
/-- A PBIND of the context has taken its word and waits, or has its answer. -/
def asking (v : Option Nat) (x : Nat := refNo) (q : PortSlot := { serial := 4 }) : PortSlot :=
  { q with asker := some 0, ans := v, took := (5, BitVec.ofNat 64 x) }
theorem witness_pbind : got (readS 5) (bindState refNo {}) (fun x t => decide (x.toNat < 2 ^ 19) && (t.port 0 7).offer == .none && (t.port 0 7).asker == none) ∧
    got (readS 5) (bindState (2 ^ 20) {}) (fun x _ => decide (2 ^ 20 ≤ x.toNat)) ∧ got (readS 5) (bindState (2 ^ 19 + 1) {}) (fun x _ => nbits x.toNat 19 1 == 1 && nbits x.toNat 0 19 != 0) ∧
    got (readS 5) (bindState (2 ^ 19) {}) (fun x t => x.toNat == 2 ^ 19 && !(t.port 0 7).bound) ∧
    got (readS 5) (bindState (2 ^ 19) putSlot) (fun x t => x.toNat == 2 ^ 19 && (t.port 0 7).bound && (t.port 0 7).offer == .none) ∧
    ({ putSlot with offer := .pending } : PortSlot).offer ≠ .none ∧ ({ putSlot with offer := .pending } : PortSlot).offer ≠ .dropped ∧
    [some 4, some 5, some 6, some 12, some 13, none].all (fun v => (bindState refNo (asking v)).port 0 7 == asking v) = true ∧
    (asking none).bound = false ∧ (asking none).asker = some 0 ∧ (asking none).took.2.toNat < 2 ^ 19 ∧ (asking (some 4) (2 ^ 19)).took.2.toNat = 2 ^ 19 ∧
    (let q := asking (some 5) (refNo + 1) putSlot; q.bound = true ∧ (q.conn ≠ bindConn q.took.2 ∨ q.port ≠ bindPort q.took.2)) ∧
    (let q := asking (some 5) refNo putSlot; q.bound = true ∧ q.conn = bindConn q.took.2 ∧ q.port = bindPort q.took.2) := by decide +kernel
def holding : State → State := fun s => s.setConn 2 3 { loaded := true, binds := [(1, ⟨0, 7, true, 1⟩)] }
theorem test_pbind : (let s := after (.pbind 5 7 0) (bindState refNo {}); s.agenda = [.bindMsg 2 3 1 0 0 7 false 1] ∧ (s.port 0 7).took = (5, BitVec.ofNat 64 refNo)) ∧
    (let s := after (.pbind 5 7 0) (holding (bindState 0 (asking (some 5) (refNo + 2 ^ 18))))
     s.port 0 7 = { bound := true, conn := 0x23, port := 1, get := true, wide := true, serial := 4 } ∧ apos s = 5) ∧
    ((after (.pbind 5 7 0) (bindState refNo (asking (some 5)))).port 0 7).bound = false ∧
    code (after (.pbind 5 7 0) (bindState refNo (asking (some 6)))) = 0x17 ∧ apos (after (.pbind 5 7 0) (bindState refNo (asking none))) = 4 ∧
    apos (after (.pbind 5 7 0) (bindState (2 ^ 19) {})) = 5 ∧ code (after (.pbind 5 7 0) (bindState (2 ^ 20) {})) = 0x17 := by decide +kernel
/-- R266: a slot that is bound leaves its port first; it is unbound by bit 19; a slot with an offer in flight is misuse. -/
theorem test_pbind_rebinds : (let s := after (.pbind 5 7 0) (bindState 0 (asking (some 5) (refNo + 1) putSlot))
     s.agenda = [.unbindMsg 2 3 1 0 7] ∧ (s.port 0 7).ans = some 11 ∧ apos s = 4) ∧
    (after (.pbind 5 7 0) (bindState (2 ^ 19) putSlot)).agenda = [.unbindMsg 2 3 1 0 7] ∧
    (let s := after (.pbind 5 7 0) (bindState 0 (asking (some 4) (2 ^ 19) putSlot)); s.port 0 7 = { serial := 4 } ∧ apos s = 5) ∧
    code (after (.pbind 5 7 0) (bindState refNo { putSlot with offer := .pending })) = 0x16 := by decide +kernel

/-- A connector in slot 3 of Keystone 2: ports 0 and 1 are puts, 2 is a get. -/
def conn0 : Connector := { loaded := true, gid := 1, nports := 3, nputs := 2, rules := [⟨0b101, 0, 0, 0, [0x0002]⟩], binds := [(1, ⟨0, 7, false, 1⟩)] }
def connected (c : Connector := conn0) (s : State := base) : State := s.setConn 2 3 c
theorem witness_connections : connAt (connected) 2 3 = conn0 ∧ boundTo conn0 1 0 7 = true ∧ boundTo conn0 2 0 7 = false ∧ mayBind conn0 1 = true ∧
    mayBind conn0 2 = false ∧ tfind conn0.binds 0 = none ∧ ((connected).keystone 2).failed = false ∧ (connAt base 2 3).loaded = false ∧ (connAt base 2 3).ver = false ∧
    ({ ver := true } : Connector).ver = true ∧ tfind { conn0 with offers := [(1, ⟨0, 7, 4, [9]⟩)] }.offers 1 = some ⟨0, 7, 4, [9]⟩ ∧ tfind conn0.offers 1 = none ∧
    { putSlot with offer := .pending }.offer = .pending ∧ putSlot.token = none ∧ putSlot.ans = none ∧
    (descOk { ver := true, desc := 1 } = false) ∧ ((waiting.ctx 0 0).hasPend 3 = true ∧ (waiting.ctx 0 0).deferred = []) ∧
    putSlot.ans ≠ some 9 ∧ (let q := (ported { putSlot with offer := .pending }).port 0 7
      q.bound = true ∧ connKs q.conn = 2 ∧ connIdx q.conn = 3 ∧ q.ans ≠ some 8 ∧ q.offer = .pending ∧ q.fireIn = false) ∧
    ((base.modCtx 0 0 (fun x => { x with wait := some ⟨dropName, none⟩ })).ctx 0 0).wait = some ⟨dropName, none⟩ ∧
    ({} : Keystone).conns = [] := by decide +kernel
theorem witness_unbound : ∀ p, (base.port 0 p).bound = false := fun _ => rfl
theorem witness_connection_words : got (do let va ← readA 2; readWord va 64 false) (acc2 spAt) ∧ got (readS 7) (regs [(7, 0x23)] (onAcc (connected))) (fun n t => decide (n.toNat < 2 ^ 12) &&
      (connAt t 2 3).loaded && (connAt t 2 3).gid == 1 && t.me.wait == none) ∧ { conn0 with gid := 2 }.gid ≠ (base.core 0).gid ∧
    (conn0.ver = false ∧ conn0.failover = false ∧ conn0.offers = [] ∧ (∀ f ∈ conn0.fifos, f.items = []) ∧ conn0.rules.length = 1 ∧ conn0.nports ≤ 64) ∧
    ok (writeS 7 1) (onAcc (connected)) = true := by decide +kernel
theorem test_connection_words : (after (.conload 2 0) (acc2 spAt)).agenda = [.loadConn 0 0 0 0 0 0 0xF000 0 1 false] ∧
    w 7 (after (.constat 7 0) (regs [(7, 0x23)] (onAcc (connected)))) = 1 + 3 * 2 ^ 24 ∧ w 7 (after (.constat 7 0) (regs [(7, 0x24)] (onAcc (connected)))) = 0 ∧
    (after (.condrop 7 0) (regs [(7, 0x23)] (onAcc (connected)))).agenda = [.dropMsg 2 3 0 0] ∧ apos (after (.condrop 7 0) (regs [(7, 0x24)] (onAcc (connected)))) = 5 ∧
    code (after (.condrop 7 0) (regs [(7, 0x23)] (onAcc (connected { conn0 with gid := 2 })))) = 0x17 := by decide +kernel

def evs (m : Msg) (s : State := connected conn0 (ported putSlot)) : State := { s with ev := m, cur := .none }
theorem test_offer_events : (let s := after .offerMsg (evs (.offerMsg 2 3 1 0 7 4 [9])); s.agenda = [.decision 2 3] ∧ (connAt s 2 3).offers = [(1, ⟨0, 7, 4, [9]⟩)]) ∧
    ((after .offerMsg (evs (.offerMsg 5 3 1 0 7 4 [9]) (ported { putSlot with offer := .pending }))).port 0 7).offer = .dropped ∧
    (after .retractMessage (evs (.retractMessage 2 3 1 0 7 4))).agenda = [.rlate 0 7 4] ∧
    (after .retractMessage (evs (.retractMessage 2 3 1 0 7 4) (connected { conn0 with offers := [(1, ⟨0, 7, 4, [9]⟩)] }))).agenda = [.rack 0 7 4, .decision 2 3] := by decide +kernel
theorem test_bind_events : (after .bindMsg (evs (.bindMsg 2 3 2 0 0 8 false 1))).agenda = [.back 0 8 true] ∧ (after .bindMsg (evs (.bindMsg 2 3 3 0 0 8 false 1))).agenda = [.bref 0 8] ∧
    (let s := after .unbindMsg (evs (.unbindMsg 2 3 1 0 7)); s.agenda = [.back 0 7 false] ∧ (connAt s 2 3).binds = []) ∧
    (after .loadConn (evs (.loadConn 2 3 0 0 9 1 0 0 1 false))).agenda = [.lack 0 0 9 false] ∧ (after .loadConn (evs (.loadConn 2 4 0 0 9 1 0 0 1 false))).agenda = [.connectorVerified 2 4] ∧
    (after .connectorVerified (evs (.connectorVerified 2 3) (connected { ver := true, desc := 1, loader := ⟨0, 0, 9⟩ }))).agenda = [.lack 0 0 9 false] ∧
    (let s := after .dropMsg (evs (.dropMsg 2 3 0 0)); s.agenda = [.dack 0 0] ∧ (connAt s 2 3).loaded = false ∧ (s.port 0 7).bound = false) ∧
    (let s := after .dropMsg (evs (.dropMsg 2 3 0 0) (connected { conn0 with gid := 2 })); s.agenda = [.dack 0 0] ∧ (connAt s 2 3).loaded = true) := by
  decide +kernel
theorem test_slot_events : (let s := after .fireMsg (evs (.fireMsg 0 7 4 [1]) (ported { putSlot with offer := .pending }))
     (s.port 0 7).offer = .fired ∧ (s.core 0).inbox.map (fun e => (e.kind, e.port)) = [(2, 7)]) ∧
    ((after .fireMsg (evs (.fireMsg 0 7 3 [1]) (ported { putSlot with offer := .pending }))).port 0 7).offer = .pending ∧
    ((after .rack (evs (.rack 0 7 4) (ported { putSlot with offer := .retracting }))).port 0 7).ans = some 0 ∧
    ((after .rlate (evs (.rlate 0 7 4) (ported { putSlot with offer := .retracting }))).port 0 7).ans = some 1 ∧
    (let s := after .fireMsg (evs (.fireMsg 0 7 4 [1]) (ported { putSlot with offer := .retracting }))
     (s.port 0 7).offer = .retracting ∧ (s.port 0 7).fireIn = true) ∧
    ((after .bref (evs (.bref 0 7))).port 0 7).ans = some 6 ∧ ((after .back (evs (.back 0 7 true))).port 0 7).ans = some 5 := by decide +kernel
theorem test_answers : ((after .lack (evs (.lack 0 0 3 true) waiting)).ctx 0 0).pend = [] ∧ ((after .lack (evs (.lack 0 0 3 false) waiting)).ctx 0 0).slotErr 1 = true ∧
    ((after .dack (evs (.dack 0 0) (base.modCtx 0 0 (fun x => { x with wait := some ⟨dropName, none⟩ })))).ctx 0 0).wait = some ⟨dropName, some 0⟩ ∧
    (after .failover (evs (.failover 0 2 3) (ported { putSlot with offer := .pending }))).agenda = [.offerMsg 2 3 1 0 7 4 []] ∧
    ((after .keystoneFailure (evs (.keystoneFailure 6) base)).keystone 6).failed = true := by decide +kernel

/-- Rules 0 and 1 both join put 0 and get 2; rule 1 is older, then they are equal. -/
def twoRules (a0 a1 : Nat) : Connector :=
  { conn0 with rules := [⟨0b101, 0, 0, 0, [0x0002]⟩, ⟨0b101, 0, 0, 0, [0x0002]⟩], ages := [(0, a0), (1, a1)], offers := [(0, ⟨0, 6, 1, [9]⟩), (1, ⟨0, 7, 4, [8]⟩), (2, ⟨0, 8, 2, []⟩)] }
theorem witness_rules : chooseRule conn0 = none ∧ chooseRule (twoRules 3 5) = some 1 ∧ chooseRule (twoRules 5 5) = some 0 ∧
    (twoRules 3 5).rules[1]? = some ⟨0b101, 0, 0, 0, [0x0002]⟩ ∧ (0b101 : BitVec 64).getLsbD 2 = true ∧ (0b101 : BitVec 64).getLsbD 1 = false ∧
    (connAt (connected (twoRules 3 5)) 2 3).loaded = true ∧ (connAt base 2 3).loaded = false := by decide +kernel
/-- The data map of rule 1: get 2 takes the parcel of put 0; a rule with one that goes through FIFO 0. -/
def fifoRule : Rule := ⟨0b001, 0, 1, 0, [0x0040]⟩
def fifoConn : Connector := { twoRules 0 0 with rules := [fifoRule], fifos := [⟨2, 0, 0, [[7]]⟩] }
theorem witness_maps : (0x0002 : BitVec 16) ∈ [(0x0002 : BitVec 16)] ∧ (0x0002 : BitVec 16).getLsbD 13 = false ∧ nbits (0x0002 : BitVec 16).toNat 0 6 = 2 ∧
    nbits (0x0002 : BitVec 16).toNat 7 6 = 0 ∧ (tfind (twoRules 3 5).offers 0).isSome = true ∧ (0x2002 : BitVec 16).getLsbD 13 = true ∧
    fifoConn.fifos[0]? = some ⟨2, 0, 0, [[7]]⟩ := by decide +kernel
theorem test_maps : mapOut (twoRules 3 5) ⟨0b101, 0, 0, 0, [0x0002]⟩ false 2 = [9] ∧ mapOut fifoConn ⟨0b100, 1, 0, 0, [0x2002]⟩ false 2 = [7] ∧
    chooseRule fifoConn = some 0 ∧ (fired fifoConn 0 fifoRule).fifos.map (·.items) = [[[7], [9]]] := by decide +kernel
theorem test_decision : (let s := after .decision (evs (.decision 2 3) (connected (twoRules 3 5)))
    s.agenda = [.fireMsg 0 6 1 [], .fireMsg 0 8 2 [9], .decision 2 3] ∧ (connAt s 2 3).offers.map (·.1) = [1] ∧ (connAt s 2 3).ages = [(0, 4), (1, 0)] ∧
    (connAt s 2 3).fires = 1) := by decide +kernel

/-! ## Queue programs, the journal and the host (chapter 17, R241 to R244) -/

/-- Interpreter 0 runs a packet of queue 3 at address 0 with 10 steps to spend: window 0 is the packet's 64 bytes, window 1 the 64 bytes at
0x100; page 0 is at 0x5000 of HBM. -/
def queue3 : WorkQueue := { cfg := BitVec.ofNat 512 (1 + 0x100 * 2 ^ 192 + 2 ^ 384), dis := false, budget := 10 }
def queueState (i : Interp) (s : State := base) : State :=
  { ((mappedAt 0x80 (mappedAt 0 s)).modQueue 3 (fun _ => queue3)).setInterp 0 { i with busy := true, queue := 3, pc := 2 } with cur := .interp 0 }
/-- q1 and q2 with values. -/
def q12 (x y : Dword) : Interp := { q := [(1, x), (2, y)] }
def iof (s : State) : Interp := s.interp 0
def status (s : State) : Option (BitVec 16) := (iof s).ended
theorem witness_queue_words : (queueState (q12 1 2)).cur = .interp 0 ∧
    (let s := queueState (q12 1 2); (s.interp 0).steps < (s.queue 3).budget ∧ (s.interp 0).ended = none) ∧
    (let s := queueState { q12 1 2 with steps := 9 }; (s.interp 0).steps < (s.queue 3).budget) ∧
    (let s := queueState { q12 1 2 with steps := 10 }; (s.queue 3).budget ≤ (s.interp 0).steps) := by decide +kernel
theorem test_queue_words : (let i := iof (after (.qaddi 1 0xFFFFFFFFFFFF) (queueState (q12 5 2))); i.get 1 = 4 ∧ i.pc = 3 ∧ i.steps = 1) ∧
    (iof (after (.qadd 1 2) (queueState (q12 5 2)))).get 1 = 7 ∧ (iof (after (.qand 1 2) (queueState (q12 6 3)))).get 1 = 2 ∧
    (iof (after (.qshl 1 63) (queueState (q12 3 0)))).get 1 = 2 ^ 63 ∧ (iof (after (.qshr 1 63) (queueState (q12 (2 ^ 63) 0)))).get 1 = 1 ∧
    (iof (after (.qmov 1 2) (queueState (q12 5 2)))).get 1 = 2 ∧ (iof (after (.qmovi 1 0x800000000000) (queueState (q12 5 2)))).get 1 = 0xFFFF800000000000 := by
  decide +kernel
/-- R388: forward when the condition holds; backward while the count is below the bound; past the budget status 0x101. -/
theorem test_queue_branches : (iof (after (.qbeq 1 2 5 0) (queueState (q12 4 4)))).pc = 7 ∧ (iof (after (.qbeq 1 2 5 0) (queueState (q12 4 3)))).pc = 3 ∧
    (let i := iof (after (.qjmp 0xFFFF 2) (queueState { counts := [(2, 1)] })); i.pc = 1 ∧ i.counts = [(2, 2)]) ∧
    (iof (after (.qjmp 0xFFFF 2) (queueState { counts := [(2, 2)] }))).pc = 3 ∧ (iof (after (.qbltn 1 2 5 0) (queueState (q12 4 (-1))))).pc = 7 ∧
    (iof (after (.qbne 1 2 5 0) (queueState (q12 4 4)))).pc = 3 ∧ status (after (.qmov 1 2) (queueState { steps := 10, staged := [.sigdec 0 0] })) = some 0x101 ∧
    (iof (after (.qmov 1 2) (queueState { steps := 10, staged := [.sigdec 0 0] }))).staged = [] := by decide +kernel
theorem test_queue_end : status (after (.qend 1) (queueState (q12 0x1FF 0))) = some 0xFF ∧
    (after (.qend 1) (queueState { q12 0x1FF 0 with seq := 0 })).agenda = [.commitWrite 0] ∧ (after (.qend 1) (queueState { q12 0 0 with seq := 1 })).agenda = [] ∧
    (iof (after (.qsigdec 1 2) (queueState (q12 0x90 1)))).staged = [.sigdec 0x90 1] ∧
    (let s := after (.qcyc 1) (queueState {}); s.clock = Config.elapsed 0) ∧ (iof (after (.qcyc 1) (queueState {}))).pc = 3 := by
  refine and_assoc.mp (and_assoc.mp (and_assoc.mp ⟨by decide +kernel, ?_, by decide +kernel⟩))
  exact Nat.zero_add _

/-- What an access of the Plinth gives: the fault code, or none. -/
def reach (va : Nat) (n al : Nat) (s : State) : Option Nat := okE (plinthRead 0 (BitVec.ofNat 80 va) n al s)
/-- What it reads. -/
def readAt (va n : Nat) (s : State) : Nat :=
  match plinthRead 0 (BitVec.ofNat 80 va) n n s with
  | .ok (_, l) => leNat l
  | .error _ => 0
/-- Page 0 holds 0x77 at 0x38, a record of zeros at 0x00 to 0xFF, and nothing else. -/
def memState (i : Interp) : State := (queueState i).store 0x5038 8 0x77
theorem witness_queue_accesses : (queue3.window 0 0 = (0, 64)) ∧ (queue3.window 0 1 = (0x100, 64)) ∧ (queue3.window 0 2 = (0, 0)) ∧
    reach 0x38 8 8 (memState {}) = none ∧ reach 0x1000 8 8 (memState {}) = some 0x06 ∧
    okE (plinthWrite 0 0x38 (leBytes 8 5) (memState {})) = none ∧ okE (plinthWrite 0 0x1000 (leBytes 8 5) (memState {})) = some 0x06 ∧
    okE (plinthRead 0 (BitVec.ofNat 80 (0xD000 * 2 ^ 64 + 0x90)) 8 8 (noticed 5 (memState {}))) = none ∧
    okE (plinthRead 0 (BitVec.ofNat 80 (0xD000 * 2 ^ 64 + 0x90)) 8 8 (memState {})) ≠ none ∧
    reach 0 256 64 (queueState {}) = none ∧ recordOk 0 false = true ∧ recordOk 4 false = false := by decide +kernel
theorem test_queue_loads : (iof (after (.qld 4 0 0 56) (memState {}))).get 4 = 0x77 ∧ status (after (.qld 4 0 0 57) (memState {})) = some 0x103 ∧
    status (after (.qld 4 0 0 52) (memState {})) = some 0x102 ∧ (iof (after (.qld 4 1 0 48) (memState (q12 8 0)))).get 4 = 0x77 ∧
    status (after (.qld 4 0 0 56) (memState { pkt := 0x1000 })) = some 0x102 ∧ status (after (.qld 4 0 2 0) (memState {})) = some 0x103 ∧
    readAt 8 8 (after (.qst 1 0 0 8) (memState (q12 0xAB 0))) = 0xAB ∧ status (after (.qst 1 0 1 60) (memState {})) = some 0x103 := by decide +kernel
theorem test_queue_signals : (iof (after (.qsigrd 4 1) (noticed (2 ^ 56 + 5) (memState (q12 0x90 0))))).get 4 = 5 ∧
    status (after (.qsigrd 4 1) (memState (q12 0x90 0))) = some 0x102 := by decide +kernel

/-- A launch from queue 3 runs on core 5 as gang 9. -/
def gang9 : Gang := { (gang0) with gid := 9, launch := { lp0 with queue := 3 }, cores := [5] }
def gang9State (i : Interp := {}) : State := (queueState i).modPlinth (fun p => { p with gangs := [gang9] })
/-- The same gang, stopped. -/
def gang9Stopped (i : Interp := {}) : State := (queueState i).modPlinth (fun p => { p with gangs := [{ gang9 with stopped := true }] })
def to9 : Dword := BitVec.ofNat 64 (5 + 9 * 2 ^ 12)
theorem witness_queue_stages : messageOk gang9State 3 to9 0x40 = true ∧ messageOk gang9State 3 to9 0x41 = false ∧ messageOk gang9State 2 to9 0x40 = false ∧
    ((queue3.chi ++ (0x8 : Dword) : VA).toNat % 64 ≠ 0) ∧
    ((gang9Stopped {}).plinth.gangs.all (·.stopped) = true ∧ (gang9Stopped {}).plinth.gangs.length = 1) := by decide +kernel
theorem test_queue_stages : (let i := iof (after (.qlaunch 4) (queueState { q := [(4, 0)] })); i.staged = [.launch 0] ∧ i.get 4 = 0) ∧
    (let i := iof (after (.qlaunch 4) ((queueState { q := [(4, 0)] }).store 0x5000 8 4)); i.staged = [.refusedLaunch 0] ∧ i.get 4 = 1) ∧
    status (after (.qlaunch 4) (queueState { q := [(4, 8)] })) = some 0x102 ∧
    (let i := iof (after (.qamsg 1 2) (gang9State { q := [(1, to9), (2, 0x40), (14, 7), (15, 8)] })); i.staged = [.amsg to9 0x40 7 8] ∧ i.get 1 = 0) ∧
    (let i := iof (after (.qamsg 1 2) (gang9State { q := [(1, to9), (2, 0x41)] })); i.staged = [] ∧ i.get 1 = 1) ∧
    (let i := iof (after (.qamsg 1 2) (gang9Stopped { q := [(1, to9), (2, 0x40)] })); i.staged = [] ∧ i.get 1 = 1) := by decide +kernel
/-- A graph in page 0: a header at 0, one node at 0x40 (a job), its card at 0x80. -/
def qgraphState (nn : Nat) : State :=
  ((queueState { q := [(4, 0)] }).store 0x5000 64 (nn + 0x40 * 2 ^ 64)).store 0x5040 128 (8 + 0x80 * 2 ^ 64 + job1 * 2 ^ 512)
def graphRead (s : State) : Option (Option Nat) :=
  match readGraph (fun va n al s => (plinthRead 0 (BitVec.ofNat 80 va) n al s).map (fun x => (x.2, x.1))) 0 s with
  | .error _ => none
  | .ok (r, t) => some (r.map (fun e => e.2.length + poolNodes t 0))
theorem witness_qgraph : graphRead (qgraphState 1) = some (some 1) ∧ graphRead (qgraphState 0) = some none ∧
    graphRead (fullPool (qgraphState 1)) = some (some 8193) := by decide +kernel
theorem test_qgraph : (iof (after (.qgraph 4) (qgraphState 0))).get 4 = 2 ^ 63 ∧ (iof (after (.qgraph 4) (fullPool (qgraphState 1)))).get 4 = 2 ^ 62 ∧
    status (after (.qgraph 4) (queueState { q := [(4, 8)] })) = some 0x102 ∧
    (let s := after (.qgraph 4) ((qgraphState 1).modDie 0 (fun v => { v with graphNext := 6 }))
     (iof s).get 4 = 6 ∧ (iof s).staged.length = 1 ∧ (s.die 0).graphNext = 7) := by decide +kernel

def qEvent (m : Msg) (s : State := queueState {}) : State := { s with ev := m, cur := .none }
def entry0 (taken : Bool := false) : JEntry := ⟨0x40, 7, 3, taken, false, false⟩
def idle3 (l : List JEntry) (n : BitVec 32 := 0) (w : WorkQueue := queue3) : State :=
  base.modPlinth (fun p => { p with queues := [(3, w)], journal := l, nextSeq := n })
/-- A request is held. -/
def withHeld (m : Msg) (s : State) : State := s.modPlinth (fun p => { p with held := [m] })
theorem witness_submission : (queueState {}).queue 3 = queue3 ∧ queue3.dis = false ∧ ({} : WorkQueue).dis = true ∧ (0x48 : Dword).toNat % 64 ≠ 0 ∧
    (0x40 : Dword).toNat % 64 = 0 ∧ journalFull (idle3 [] 0).plinth = false ∧ journalFull (idle3 [] 4095).plinth = false ∧ journalFull (idle3 [] 4096).plinth = true := by decide +kernel
theorem test_submission : (let s := after .submission (qEvent (.submission 3 0x40) (idle3 [] 7))
     s.plinth.journal = [entry0] ∧ s.plinth.nextSeq = 8 ∧ (s.queue 3).seq = 7 ∧ (s.queue 3).acc = true ∧ s.agenda = [.packetStart 0]) ∧
    ((after .submission (qEvent (.submission 3 0x48) (idle3 [] 7))).queue 3).bad = true ∧
    ((after .submission (qEvent (.submission 3 0x40) (idle3 [] 4096))).queue 3).retry = true ∧
    (let s := after .submission (qEvent (.submission 2 0x40) (idle3 [] 7)); s.plinth.journal = [] ∧ (s.queue 2).acc = false ∧ (s.queue 2).bad = false) ∧
    -- dis before bad, bad before retry
    (let s := after .submission (qEvent (.submission 3 0x48) (idle3 [] 4096)); (s.queue 3).bad = true ∧ (s.queue 3).retry = false) ∧
    ((after .submission (qEvent (.submission 2 0x48) (idle3 [] 4096))).queue 2).bad = false := by
  decide +kernel
theorem witness_packets : ((queueState {}).interp 0).busy = true ∧ ((idle3 []).interp 7).busy = false ∧ (idle3 []).plinth.journal = [] ∧
    (let s := idle3 [entry0] 8; (s.interp 7).busy = false ∧ s.plinth.journal = [entry0] ∧ (entry0).taken = false ∧ s.plinth.queues = [((entry0).queue, queue3)] ∧
      s.plinth.interps = [] ∧ s.plinth.stride = false ∧ blockHeld s.plinth (entry0).queue = false) ∧ queue3.dis = false ∧
    blockHeld (withHeld (.queueProgramLoad 3 1) (idle3 [entry0] 8)).plinth 3 = true := by decide +kernel
/-- Latency queues before bulk queues (R363): queue 5 is a latency queue. -/
theorem test_packets : (let i := (after .packetStart (qEvent (.packetStart 7) (idle3 [entry0] 8))).interp 7
     i.busy = true ∧ i.get 0 = 0x40 ∧ i.get 1 = 7 ∧ i.get 2 = 3 ∧ i.steps = 0) ∧
    (let s := (idle3 [entry0, ⟨0x80, 8, 5, false, false, false⟩] 9).modQueue 5 (fun _ => { queue3 with cfg := 3 })
     ((after .packetStart (qEvent (.packetStart 0) s)).interp 0).queue = 5) ∧
    ((after .packetStart (qEvent (.packetStart 0) (idle3 [entry0] 8 {}))).interp 0).ended = some 0x106 ∧
    -- R385: an entry that stood in the journal when its queue was disabled; a block whose write is held
    ((after .packetStart (qEvent (.packetStart 0) (idle3 [{ entry0 with dead := true }] 8))).interp 0).ended = some 0x106 ∧
    ((after .packetStart (qEvent (.packetStart 0) (withHeld (.queueProgramLoad 3 1) (idle3 [entry0] 8)))).interp 0).busy = false := by decide +kernel
theorem witness_commit : (let p := (idle3 [] 7).plinth; (p.nextSeq - 1 - p.commit).toNat < ((7 : BitVec 32) - p.commit).toNat) ∧
    (let p := (idle3 [⟨0x40, 0, 3, true, false, false⟩] 1).plinth; (0 : BitVec 32) = p.commit + 1 ∧ p.nextSeq - 1 - p.commit ≠ 0 ∧ p.interps = []) ∧
    ((idle3 [] 1).modPlinth (fun p => { p with trial := true })).plinth.trial = true := by decide +kernel
/-- R389: the packet's status dword, its staged effects, and R395: a commit on trial makes slot B slot A. -/
theorem test_commit : (after .commitWrite (qEvent (.commitWrite 7) (idle3 [] 7))).plinth.cerr = true ∧
    (let s := after .commitWrite (qEvent (.commitWrite 0) ((queueState { steps := 9, ended := some 0x101, staged := [.launch 5] }).modPlinth (fun p =>
        { p with journal := [⟨0, 0, 3, true, false, false⟩, entry0], nextSeq := 8, trial := true, slotB := 4 })))
     readAt 0 8 s = 0x101 + 9 * 2 ^ 16 ∧ s.plinth.commit = 0 ∧ s.plinth.journal = [entry0] ∧ s.plinth.slotA = 4 ∧ s.plinth.fmin = 4 ∧ (s.interp 0).busy = false ∧
     s.plinth.waiting.map (·.record) = [5] ∧ s.agenda = [.gangPlacement, .packetStart 0]) := by decide +kernel

theorem witness_trial : (idle3 []).plinth.trial = false ∧ ((idle3 []).modPlinth (fun p => { p with trial := true })).plinth.trial = true ∧
    (3 : BitVec 32).toNat < ((idle3 []).modPlinth (fun p => { p with fmin := 4 })).plinth.fmin.toNat ∧
    ((idle3 []).modPlinth (fun p => { p with fmin := 4 })).plinth.fmin.toNat ≤ (4 : BitVec 32).toNat := by decide +kernel
theorem test_trial : (let s := after .trialTimeout ((queueState {}).modPlinth (fun p => { p with trial := true, slotA := 2, fseq := 3, journal := [entry0 true] }))
     s.plinth.rev = true ∧ s.plinth.fseq = 2 ∧ s.plinth.trial = false ∧ s.plinth.journal = [{ entry0 with again := true }] ∧ (s.interp 0).busy = false) ∧
    (let s := (after .startTrial (qEvent (.startTrial 4 [] true) ((idle3 []).modPlinth (fun p => { p with fmin := 4, fseq := 4 })))).plinth
     s.trial = true ∧ s.slotA = 4 ∧ s.slotB = 4) ∧
    (after .startTrial (qEvent (.startTrial 3 [] true) ((idle3 []).modPlinth (fun p => { p with fmin := 4 })))).plinth.trial = false ∧
    (after .startTrial (qEvent (.startTrial 9 [] false) (idle3 []))).plinth.trial = false := by decide +kernel

/-- A program of one word, QEND q0, with budget 1024 at 0x00; a header with one reserved bit set. -/
def loadState (h : Nat) : State := ((mappedAt 0x80 (mappedAt 0)).store 0x5000 64 h).store 0x5040 8 0x14
def header0 : Nat := 0x51504731 + 1024 * 2 ^ 41
def readWith (h : Nat) : Option (List Dword × Nat) := (readProgram { cfg := 1 } (loadState h)).map (fun e => (e.2.1, e.2.2.1))
theorem witness_program : queueRuns (queueState {}) 3 = true ∧ queueRuns base 3 = false ∧ (1 : BitVec 512).getLsbD 0 = true ∧ (0 : BitVec 512).getLsbD 0 = false ∧
    readWith header0 = some ([0x14], 1024) ∧ readWith (header0 + 2 ^ 52) = none ∧ readWith 0x51504731 = none ∧ readWith (header0 + 2 ^ 41) = none ∧
    (readProgram { cfg := 1 } base).isNone = true := by decide +kernel
theorem test_program : (let s := after .queueProgramLoad (qEvent (.queueProgramLoad 3 1) (loadState header0))
     (s.queue 3).prog = [0x14] ∧ (s.queue 3).budget = 1024 ∧ (s.queue 3).dis = false) ∧
    (let s := after .queueProgramLoad (qEvent (.queueProgramLoad 3 1) (loadState 0)); (s.queue 3).dis = true ∧ s.plinth.lref = true ∧ s.plinth.lq = 3) ∧
    (let s := after .queueDisable (qEvent (.queueDisable 3 0) (idle3 [])); (s.queue 3).dis = true) ∧
    (let s := after .queueDisable (qEvent (.queueDisable 3 0) (idle3 [entry0, entry0 true])); s.plinth.journal = [{ entry0 with dead := true }, entry0 true]) ∧
    (let s := after .queueDisable (qEvent (.queueDisable 3 0)); (s.queue 3).dis = false ∧ s.plinth.held = [.queueDisable 3 0] ∧ s.agenda = [.queueDisable 3 0]) ∧
    -- R392: a load behind a disable that is held waits; the disable goes first
    (let s := after .queueProgramLoad (qEvent (.queueProgramLoad 3 1) (withHeld (.queueDisable 3 0) (loadState header0)))
     s.plinth.held = [.queueDisable 3 0, .queueProgramLoad 3 1] ∧ (s.queue 3).prog = []) := by decide +kernel

/-- Two queues under stride scheduling: queue 3 with pass 5 and stride 1048576 / 4, queue 4 with the given pass. -/
def strideState (p4 : Nat) (chosen : Option Nat := none) (s : State := idle3 []) : State :=
  s.modPlinth (fun p => { p with
    stride := true, chosen := chosen, journal := [entry0, { entry0 with queue := 4 }]
    queues := [(3, { queue3 with pass := 5, cfg := BitVec.ofNat 512 (3 * 2 ^ 26) }), (4, { queue3 with pass := p4 })] })
def oneQueue (chosen : Option Nat) : State :=
  (idle3 [entry0] 8 { queue3 with pass := 5, cfg := BitVec.ofNat 512 (3 * 2 ^ 26) }).modPlinth (fun p => { p with stride := true, chosen := chosen })
theorem witness_stride : (∀ q, hasWork (idle3 []).plinth q = false) ∧ ((idle3 []).modPlinth (fun p => { p with stride := true })).plinth.stride = true ∧
    (idle3 []).plinth.stride = false ∧ (qEvent (.strideSelect true)).ev = .strideSelect true ∧
    (let p := (oneQueue (some 3)).plinth; p.stride = true ∧ p.queues.map (·.1) = [3] ∧ hasWork p 3 = true ∧ p.chosen = some 3) ∧
    (let p := (strideState 4).plinth; p.stride = true ∧ p.chosen = none ∧ p.queues.map (·.1) = [3, 4] ∧ hasWork p 3 = true ∧ hasWork p 4 = true) :=
  ⟨fun _ => rfl, rfl, rfl, rfl, by decide, by decide⟩
/-- R363: the least pass is chosen, ties to the lowest number; the stride is added after the queue's service. -/
theorem test_stride : (after .strideQuantum (strideState 4)).plinth.chosen = some 4 ∧ (after .strideQuantum (strideState 5)).plinth.chosen = some 3 ∧
    (let s := after .strideQuantum (oneQueue none); s.plinth.chosen = some 3 ∧ (s.queue 3).pass = 5) ∧
    ((after .strideQuantum (oneQueue (some 3))).queue 3).pass = 5 + 262144 ∧
    (let s := after .strideQuantum (strideState 100 (some 3)); s.plinth.chosen = some 4 ∧ (s.queue 3).pass = 262149) ∧
    (let s := after .registerWrite (qEvent (.strideSelect false) (oneQueue (some 3))); s.plinth.stride = false ∧ (s.queue 3).pass = 262149) := by decide +kernel

/-- R392: what is held, and what comes behind it. -/
theorem witness_order : (withHeld (.registerWrite 0x2068 1) (qEvent (.registerWrite 0x2068 1))).plinth.held = [.registerWrite 0x2068 1] ∧
    (let m : Msg := .queueProgramLoad 3 1; isHostRead m = false ∧ hostAddress m = hostAddress (.registerRead 0x100C0) ∧ hostAddress m = hostAddress (.queueDisable 3 0) ∧
      (hostAddress (.registerRead 0x100C0)).isSome = true) ∧
    hostAddress (.activeMessageBlockTarget 3 to9) = hostAddress (.registerWrite 0x2068 1) := by decide +kernel
theorem test_order : (let s := after .submission (qEvent (.submission 3 0x40) (withHeld (.activeMessageBlockTarget 9 to9) (idle3 [])))
     s.plinth.journal = [] ∧ s.plinth.held = [.activeMessageBlockTarget 9 to9, .submission 3 0x40] ∧ s.agenda = [.submission 3 0x40]) ∧
    (after .submission (qEvent (.submission 3 0x40) (withHeld (.registerRead 0x1000) (idle3 [])))).plinth.journal.length = 1 ∧
    ((after .registerWrite (qEvent (.registerWrite 0x2068 1) (withHeld (.activeMessageBlockTarget 3 to9) (idle3 [])))).queue 3).am0 = 0 ∧
    ((after .registerWrite (qEvent (.registerWrite 0x2068 1) (withHeld (.activeMessageBlockTarget 4 to9) (idle3 [])))).queue 3).am0 = 1 ∧
    (after .activeMessageBlockTarget (qEvent (.activeMessageBlockTarget 3 to9) (withHeld (.queueDisable 9 0) gang9State))).agenda = [.activeMessageBlockTarget 3 to9] ∧
    (after .hostApertureAccess (qEvent (.registerRead 0x100C0) (withHeld (.queueDisable 3 0) (idle3 [])))).agenda = [.registerRead 0x100C0] ∧
    -- the bits that +0 reads are those of the moment: 0 while a message of the queue is held (R393)
    (let r := fun (s : State) => (after .hostApertureAccess (qEvent (.registerRead 0x2060) (s.modQueue 3 (fun w => { w with amSent := true })))).plinth.hostRead
     r (idle3 []) = 1 ∧ r (withHeld (.activeMessageBlockTarget 3 to9) (idle3 [])) = 0) := by decide +kernel

/-- R362, R367: what firmware writes into the device window; R399: the status of a module that has stopped. -/
theorem witness_firmware_writes : (20 ≤ (20 : Nat) ∧ (30 : Nat) ≤ 30) ∧ ((List.range 64).filter (fun i => (0xF0 : BitVec 64).getLsbD i)).length = 4 ∧
    ((List.range 64).filter (fun i => (0x70 : BitVec 64).getLsbD i)).length ≠ 4 ∧ ({ base with stopped := true } : State).stopped = true := by decide +kernel
theorem test_firmware_writes : ((after .registerWrite (qEvent (.watchdogWrite 2 30))).die 2).watchdog = 30 ∧
    ((after .registerWrite (qEvent (.watchdogWrite 2 31))).die 2).watchdog = (base.die 2).watchdog ∧
    ((after .registerWrite (qEvent (.reservedWrite 2 0xF0))).die 2).reserved = [4, 5, 6, 7] ∧
    ((after .registerWrite (qEvent (.reservedWrite 2 0x70))).die 2).reserved = (base.die 2).reserved ∧
    (after .hostApertureAccess (qEvent (.registerRead 0x1008) { base with stopped := true })).plinth.hostRead = -1 := by decide +kernel

theorem witness_host_registers : (qEvent (.registerWrite 0x1018 5)).ev = .registerWrite 0x1018 5 ∧ (queueState {}).queue 255 = {} ∧ okE (plinthWrite 0 8 (leBytes 8 5) (queueState {})) = none ∧ okE (plinthWrite 0 9 (leBytes 8 5) (queueState {})) = some 3 ∧
    reach 8 8 8 (queueState {}) = none ∧ reach 0x1000 8 8 (queueState {}) = some 6 ∧ ((8 : Nat) ∈ [1, 2, 4, 8]) := by decide +kernel
/-- Table 17-4: the write-only registers; a faulting read is all ones, and host-fault is set. -/
theorem test_host_registers : (after .registerWrite (qEvent (.registerWrite 0x1018 (-1)))).plinth.sigCtl = 2 ^ 44 - 1 ∧
    (after .registerWrite (qEvent (.registerWrite 0x1020 (-1)))).plinth.memCtl = 2 ^ 52 - 1 ∧ ((after .registerWrite (qEvent (.registerWrite 0x3FF8 0x40))).queue 255).amPc = 0x40 ∧
    readAt 8 8 (after .hostApertureAccess (qEvent (.hostApertureAccess false true 8 8 0xAB))) = 0xAB ∧
    (let s := after .hostApertureAccess (qEvent (.hostApertureAccess false false 0x1000 8 0)); s.plinth.hflt = true ∧ s.plinth.hostRead = -1) ∧
    (after .hostApertureAccess (qEvent (.hostApertureAccess false false 0x38 4 0) (memState {}))).plinth.hostRead = 0x77 ∧
    (after .hostApertureAccess (qEvent (.hostApertureAccess false true 9 8 0))).plinth.hflt = true ∧
    (after .hostApertureAccess (qEvent (.hostApertureAccess true false 0x90 8 0) (noticed 6 base))).plinth.hostRead = 6 ∧
    (after .clearStatus ((queueState {}).modPlinth (fun p => { p with lref := true, lq := 9, trial := true }))).plinth.lq = 0 := by decide +kernel
/-- Table 10-5: accepted, the sequence number; Table 17-4: the submission register reads 0, the commit count. -/
theorem test_host_reads : (let r := fun (off : BitVec 18) (s : State) => (after .hostApertureAccess (qEvent (.registerRead off) s)).plinth.hostRead
     r 0x38 (idle3 [] 8 { queue3 with acc := true, seq := 7 }) = 1 + 7 * 2 ^ 32 ∧ r 0x38 (idle3 [] 8 {}) = 4 ∧ r 0x30 (idle3 []) = 0 ∧
     r 0x1000 ((idle3 []).modPlinth (fun p => { p with commit := 6 })) = 6 ∧ r 0x100C0 (idle3 []) = 1) := by decide +kernel
/-- R244: a commit not yet written is discarded with its interpreter; another message stays. -/
theorem test_restart : (let s := after .firmwareRestart { queueState { seq := 7, ended := some 0 } with agenda := [.commitWrite 7, .commitWrite 8] }
    s.agenda.take 2 = [.commitWrite 8, .packetStart 0] ∧ s.plinth.interps = []) ∧
    commitDue (queueState { seq := 7, ended := some 0 }) (.commitWrite 7) = true ∧ commitDue base (.commitWrite 7) = false := by decide +kernel
def blockState (n : Nat) (pc : Dword := 0x40) (s : State := gang9State) : State :=
  (s.modQueue 3 (fun w => { w with amPc := pc, am0 := 7, am1 := 8 })).modCore 5 (fun v =>
    { v with gid := 9, inbox := List.replicate n ⟨0, 0, 9, 0, 0, [], 0, 0⟩ })
theorem witness_blocks : messageOk (blockState 0) 3 to9 0x40 = true ∧ messageOk (blockState 0 0x41) 3 to9 0x41 = false ∧ inboxShared (blockState 15) 5 < 16 ∧
    16 ≤ inboxShared (blockState 16) 5 := by decide +kernel
theorem test_blocks : (let s := after .activeMessageBlockTarget (qEvent (.activeMessageBlockTarget 3 to9) (blockState 15))
     s.agenda = [.inboxArrival 5 ⟨1, 0, 9, 0x3FF, 0, [0x40, 7, 8], 0, 0⟩] ∧ (s.queue 3).amSent = true) ∧
    ((after .activeMessageBlockTarget (qEvent (.activeMessageBlockTarget 3 to9) (blockState 0 0x41))).queue 3).amRefused = true ∧
    ((after .activeMessageBlockTarget (qEvent (.activeMessageBlockTarget 3 to9) (blockState 0 0x40 (gang9Stopped)))).queue 3).amRefused = true ∧
    (let s := after .activeMessageBlockTarget (qEvent (.activeMessageBlockTarget 3 to9) (blockState 16))
     s.plinth.held = [.activeMessageBlockTarget 3 to9] ∧ s.agenda = [.activeMessageBlockTarget 3 to9] ∧ (s.queue 3).amSent = false) := by
  decide +kernel
/-- Each request of the host in its turn: with nothing held, or as the first of those held. -/
theorem witness_turns : (qEvent (.submission 3 0x40) (idle3 [])).hasTurn (qEvent (.submission 3 0x40) (idle3 [])) ∧
    (qEvent (.queueProgramLoad 3 1) base).hasTurn (qEvent (.queueProgramLoad 3 1) base) ∧ (qEvent (.queueDisable 3 0) base).hasTurn (qEvent (.queueDisable 3 0) base) ∧
    (qEvent (.registerWrite 0x1018 5)).hasTurn (qEvent (.registerWrite 0x1018 5)) ∧ (qEvent (.registerRead 0x30) base).hasTurn (qEvent (.registerRead 0x30) base) ∧
    (qEvent (.activeMessageBlockTarget 3 to9) (blockState 0)).hasTurn (qEvent (.activeMessageBlockTarget 3 to9) (blockState 0)) ∧
    (let s := withHeld (.registerWrite 0x2068 1) (qEvent (.registerWrite 0x2068 1)); s.hasTurn (s.modPlinth (fun p => { p with held := [] }))) :=
  ⟨⟨rfl, rfl⟩, ⟨rfl, rfl⟩, ⟨rfl, rfl⟩, ⟨rfl, rfl⟩, ⟨rfl, rfl⟩, ⟨rfl, rfl⟩, rfl, rfl⟩

/-! ## Gangs, graphs, failures, the module (chapters 12, 14 to 17) -/

def gEvent (m : Msg) (s : State := base) : State := { s with ev := m, cur := .none }
def mail (kind : Nat) (gid : BitVec 32 := 1) : InboxEntry := ⟨kind, 0, gid, 3, 0, if kind = 1 then [0x140, 7, 8] else [7, 8], 0, 0⟩
def inbox (l : List InboxEntry) (s : State := base) : State := s.modCore 0 (fun v => { v with inbox := l })
def helperFree : State := base.modCore 0 (fun v => { v with hlp := 1, areas := [(0, 0), (1, 1)] })
theorem witness_inbox : (base.core 0).gid = (mail 0).gid ∧ ((inbox (List.replicate 15 (mail 0))).core 0).inbox.length = 15 ∧
    ((inbox (List.replicate 16 (mail 0))).core 0).inbox.length = 16 ∧ (mail 0).kind = 0 ∧ (mail 1).kind = 1 ∧
    (mail 3).kind = 3 ∧ ((inbox [mail 1]).core 0).inbox = [mail 1] ∧ freeHelper (base.core 0) = none ∧ freeHelper (helperFree.core 0) = some 1 ∧
    (helperFree.core 0).retired = .no ∧ (helperFree.ctx 0 0).live = true ∧ halting helperFree 0 = false := by decide +kernel
theorem test_inbox : (let s := after .inboxArrival (gEvent (.inboxArrival 0 (mail 0)) (inbox (List.replicate 15 (mail 0)))); (s.core 0).inbox.length = 16 ∧ s.agenda = []) ∧
    (let s := after .inboxArrival (gEvent (.inboxArrival 0 (mail 0)) (inbox (List.replicate 16 (mail 0)))); (s.core 0).inbox.length = 16 ∧ s.agenda.length = 1) ∧
    (after .inboxArrival (gEvent (.inboxArrival 0 (mail 1)))).agenda = [.activeMessageStart 0] ∧
    (let s := after .activeMessageStart (gEvent (.activeMessageStart 0) (inbox [mail 1] helperFree))
     (s.ctx 0 1).live = true ∧ (s.ctx 0 1).acc.pc = 0x140 ∧ (s.ctx 0 1).o = [(0, 7), (1, 8)] ∧ (s.core 0).inbox = [] ∧ s.ring = [(0, 0, .acc), (0, 0, .exe), (0, 1, .acc), (0, 1, .exe)]) ∧
    ((after .activeMessageStart (gEvent (.activeMessageStart 0) (inbox [mail 1]))).core 0).inbox = [mail 1] ∧
    -- R233: a command from another core arrives, and is told of to a free sequencer
    ((after .inboxArrival (gEvent (.inboxArrival 0 (mail 3)) (inbox []))).core 0).inbox = [mail 3] := by decide +kernel
/-- A load-full of core 0's context waits at the scratchpad of core 1: neither stream is blocked. -/
def waitingLoad : State := base.modCore 1 (fun v => { v with feWait := [{ req (.readWhenFull false) 0xF0000000000000100000 8 with core := 0, ctx := 0 }] })
/-- A stalled context, and one that has a report to take, at user privilege in a helper context. -/
def stalled (b : Bool) : State := base.modCtx 0 0 (fun x => { x with acc := { x.acc with blk := b } })
def reporting (f : Ctx → Ctx) : State := helper.modCtx 0 1 (fun x => f { x with live := true, dev := false })
theorem witness_reports : ((waitingLoad.ctx 0 0).live = true ∧ waitingRequests 0 0 waitingLoad ≠ [] ∧ (waitingLoad.ctx 0 0).exe.blk = false) ∧ ((stalled true).ctx 0 0).live = true ∧ ((stalled true).ctx 0 0).acc.blk = true ∧ ((stalled true).ctx 0 0).stallReport = false ∧
    (base.ctx 0 5).live = false ∧
    (let x := (reporting (fun x => { x with stallReport := true })).ctx 0 1; x.live = true ∧ x.stallReport = true ∧ x.poisonReport = none ∧ x.dev = false ∧ x.emulating = false ∧ x.atBoundary = true) ∧
    (let x := (reporting (fun x => { x with poisonReport := some 9 })).ctx 0 1; x.live = true ∧ x.stallReport = false ∧ x.poisonReport = some 9 ∧ x.dev = false ∧ x.emulating = false ∧ x.atBoundary = true) ∧
    (let x := (reporting (fun x => { x with stallReport := true, dev := true })).ctx 0 1; x.stallReport = true ∧ x.dev = true) ∧
    (let x := (reporting id).ctx 0 1; x.stallReport = false ∧ x.poisonReport = none) := by decide +kernel
/-- Table 16-2: codes 0x30 (stall) and 0x31 (poison). -/
theorem test_reports : (let s := after .stallTimeout (gEvent (.stallTimeout 0 0) (stalled true)); (s.ctx 0 0).stallReport = true ∧ (s.die 0).wdReport = 1 ∧ s.agenda = [.asyncReport 0 0]) ∧
    (after .stallTimeout (gEvent (.stallTimeout 0 0) (stalled false))).agenda = [] ∧
    (after .stallTimeout (gEvent (.stallTimeout 0 0) waitingLoad)).agenda = [.asyncReport 0 0] ∧
    ((after .asyncReport (gEvent (.asyncReport 0 1) (reporting (fun x => { x with stallReport := true })))).ctx 0 1).tc = 0x30 ∧
    ((after .asyncReport (gEvent (.asyncReport 0 1) (reporting (fun x => { x with poisonReport := some 9 })))).ctx 0 1).tc = 0x31 := by decide +kernel

/-- A graph of a job node (index 4, priority 2) and a gang node (index 5, priority 3), both ready. -/
def rec_ (ex : Nat) (prio : Nat) : BitVec 512 := BitVec.ofNat 512 (prio + 8 * ex)
def ready (r : BitVec 512) : Node := { node0 with record := r, work := leBytes 64 job1, ready := some 0 }
def graph (l : Table Node) : Graph := { num := 6, asid := 0, gid := 0, chi := 0, lat := false, queue := 0, nodes := l, retired := false }
def pooled (l : Table Node) (f : Die → Die := id) : State := base.modDie 0 (fun v => f { v with graphs := [graph l], jobNext := 9 })
def full512 (v : Die) : Die := { v with jobs := List.replicate 512 (job 1 job1 false) }
theorem witness_dispatch : (List.range 4).all (fun d => (base.die d).runQ.isEmpty) = true ∧ readyNodes base 0 = [] ∧
    (let s := pooled [(4, ready (rec_ 1 2)), (5, ready (rec_ 1 3))]
     (List.range 4).all (fun d => (s.die d).runQ.isEmpty) = true ∧ (firstNode (readyNodes s 0)).map (fun e => (e.1, e.2.1)) = some (6, 5) ∧ (findGraph s 0 6).isSome = true ∧ nodeEx (rec_ 1 3) = true ∧ jobsQueued (s.die 0) < 512) ∧
    512 ≤ jobsQueued ((pooled [(4, ready (rec_ 1 2))] full512).die 0) ∧
    nodeBefore (6, 5, ready (rec_ 1 3)) (6, 4, ready (rec_ 1 2)) = true := by decide +kernel
theorem test_dispatch : (let s := after .nodeDispatch (gEvent (.nodeDispatch 0) (pooled [(4, ready (rec_ 1 2)), (5, ready (rec_ 1 3))]))
     (s.die 0).jobs.map (fun j => (j.num, j.node)) = [(9, some (6, 5))] ∧ (s.die 0).jobs.map (fun j => j.card.toNat) = [job1]) ∧
    ((after .nodeDispatch (gEvent (.nodeDispatch 0) (pooled [(4, ready (rec_ 1 2))] full512))).die 0).jobs.length = 512 ∧
    (after .nodeDispatch (gEvent (.nodeDispatch 0))).agenda = [] := by decide +kernel
def running (r : BitVec 512) : Node := { ready r with dispatched := true }
theorem witness_completion : (let s := pooled [(4, running (rec_ 1 2))]
     (s.die 0).graphs = [graph [(4, running (rec_ 1 2))]] ∧ (graph [(4, running (rec_ 1 2))]).retired = false ∧ (running (rec_ 1 2)).succs = [] ∧
     nodeSig (running (rec_ 1 2)).record = 0 ∧ s.plinth.gangs = [] ∧ (running (rec_ 1 2)).dispatched = true ∧ (running (rec_ 1 2)).done = false) ∧
    (ready (rec_ 1 2)).dispatched = false ∧ tfind (graph [(4, running (rec_ 1 2)), (5, { node0 with count := 1 })]).nodes 5 = some { node0 with count := 1 } ∧
    ({ node0 with count := 1 } : Node).count ≠ 0 ∧ node0.count = 0 ∧ nodeSig node0.record = 0 := by decide +kernel
/-- R361: the successor's counter goes from 1 to 0 and it is ready; one at 0 already is a fault of the log. -/
theorem test_completion : ((after .nodeComplete (gEvent (.nodeComplete 0 6 4) (pooled [(4, running (rec_ 1 2))]))).die 0).graphs = [] ∧
    (let s := after .nodeComplete (gEvent (.nodeComplete 0 6 4) (pooled [(4, { running (rec_ 1 2) with succs := [5] }), (5, { node0 with count := 1 })]))
     (s.die 0).graphs.map (fun g => g.nodes.map (fun e => (e.2.count, e.2.ready, e.2.done))) = [[(0, none, true), (0, some 0, false)]]) ∧
    ((after .nodeComplete (gEvent (.nodeComplete 0 6 4) (pooled [(4, { running (rec_ 1 2) with succs := [5] }), (5, node0)]))).die 0).faultLog.length = 1 := by decide +kernel

def wait1 (r : BitVec 2048) (s : State := base) : State := s.modPlinth (fun p => { p with waiting := [{ lp0 with record := r }] })
def pinned : BitVec 2048 := 8
theorem witness_placement : base.plinth.gangs = [] ∧ base.plinth.waiting = [] ∧ (wait1 0).plinth.waiting = [{ lp0 with record := 0 }] ∧ lp0.lat = false ∧
    placeFor (wait1 0) 0 false 0 (coreFree (wait1 0) 0) = some (0, 8, 0) ∧ placeFor (wait1 pinned) pinned false 0 (coreFree (wait1 pinned) 0) = none := by decide +kernel
theorem test_placement : (let s := after .gangPlacement (gEvent .gangPlacement (wait1 0))
     s.plinth.gangs.map (fun g => (g.cores, g.die, g.x, g.y)) = [([8], 0, 8, 0)] ∧ s.plinth.waiting = [] ∧ s.ring = [(0, 0, .acc), (0, 0, .exe), (8, 0, .acc), (8, 0, .exe)] ∧
     (s.ctx 8 0).live = true ∧ (s.core 8).gid = 1) ∧
    (after .gangPlacement (gEvent .gangPlacement (wait1 pinned))).plinth.waiting.length = 1 := by decide +kernel

def gangs (g : Gang) (s : State := base) : State := s.modPlinth (fun p => { p with gangs := [g] })
def retiredCore (r : Retired) (s : State := gangs (gang0)) : State := s.modCore 0 (fun v => { v with retired := r })
def storing (s : State) : State := { s.modCtx 0 0 (fun x => { x with pend := [{ id := 0, pos := 2, ss := 0, kind := .store, hold := false }] }) with nextId := 1 }
theorem witness_gang_ends : findGang base 1 = none ∧ findGang (gangs gang0) (gang0).gid = some gang0 ∧ (gang0).stopped = false ∧ (gang0).stopping = false ∧
    allRetired (gangs gang0) gang0 = false ∧
    (let s := retiredCore (.byRets 8 3); allRetired s gang0 = true ∧ (gang0).cores.any (fun c => (s.core c).retired != .byEnd) = true) ∧
    (let s := retiredCore .byEnd; allRetired s gang0 = true ∧ (gang0).cores.any (fun c => (s.core c).retired != .byEnd) = false ∧ storesOut s gang0 s.nextId = false) ∧
    (let s := storing (retiredCore .byEnd); storesOut s gang0 s.nextId = true) := by decide +kernel
theorem test_gang_ends : (let s := after .gangComplete (gEvent (.gangComplete 1) (retiredCore .byEnd)); s.plinth.gangs = [] ∧ (s.core 0).gid = 0 ∧ s.ring = []) ∧
    (after .gangComplete (gEvent (.gangComplete 1) (storing (retiredCore .byEnd)))).agenda = [.gangComplete 1] ∧
    (after .gangComplete (gEvent (.gangComplete 1) (retiredCore (.byRets 8 3)))).agenda = [.successorStart 1] ∧
    (after .gangComplete (gEvent (.gangComplete 1) (gangs gang0))).plinth.gangs = [gang0] := by decide +kernel
/-- A gang whose control area lies outside its ranges goes on with record 0; a record that names a helper its core has no area for is refused. -/
def successive (r : BitVec 2048) (s : State := retiredCore (.byRets 8 0)) : Gang × State := ({ gang0 with next := .record r }, gangs { gang0 with next := .record r } s)
theorem witness_successor : (let (g, s) := successive 0; findGang s g.gid = some g ∧ allRetired s g = true ∧ s.plinth.gangs = [g] ∧ successorOk g 0 s = true ∧
      storesOut s g s.nextId = false ∧ (writeCaps 0 g.gid g.launch.asid g.cores s).isSome = true) ∧
    (let (g, s) := successive 0 (storing (retiredCore (.byRets 8 0))); successorOk g 0 s = true ∧ recOv 0 = false ∧ storesOut s g s.nextId = true) ∧
    (let (g, s) := successive 4 (storing (retiredCore (.byRets 8 0))); successorOk g 4 s = true ∧ recOv 4 = true ∧ (writeCaps 4 g.gid g.launch.asid g.cores s).isSome = true) ∧
    (let (g, s) := successive 1; successorOk g 1 s = false ∧ storesOut s g s.nextId = false) := by decide +kernel
theorem test_successor : (let s := after .successorStart (gEvent (.successorStart 1) (successive 0).2)
     s.plinth.gangs.map (·.next) = [.unread] ∧ (s.core 0).retired = .no ∧ (s.ctx 0 0).live = true ∧ (s.core 0).gid = 1) ∧
    (after .successorStart (gEvent (.successorStart 1) (successive 1).2)).plinth.gangs = [] ∧
    (after .successorStart (gEvent (.successorStart 1) (successive 0 (storing (retiredCore (.byRets 8 0)))).2)).agenda = [.successorStart 1] ∧
    (let s := after .successorStart (gEvent (.successorStart 1) (successive 4 (storing (retiredCore (.byRets 8 0)))).2)
     s.plinth.gangs.map (·.preds) = [[(0, 1)]] ∧ s.agenda = [.successorOverlapStoresDone 0]) := by decide +kernel
/-- A successor that began before its predecessor's stores (those before serial 1) were performed. -/
def before1 : Gang := { (gang0) with preds := [(0, 1)] }
def stoppedGang : Gang := { gang0 with stopped := true, die := 0, x := 0, y := 0 }
theorem witness_stop : stoppedGang.stopped = true ∧ placeOpen (gangs stoppedGang) 0 1 (coreFree (gangs stoppedGang) 1) (0, 0, 0) = false ∧
    (let s := gangs stoppedGang (base.modCore 0 (fun v => { v with gid := 0 }))
     placeOpen s 0 1 (coreFree s 1) (0, 0, 0) = true ∧ coresOf 0 0 0 0 = stoppedGang.cores ∧ s.plinth.gangs = [stoppedGang]) ∧
    (let s := gangs gang0 (inSlot (br none)); (0, 0, .acc) ∈ s.ring ∧ 0 ∈ (gang0).cores ∧ mayHalt (s.core 0) (s.ctx 0 0) = false) ∧
    groupMayHalt ((pair (inSlot (br none))).modCtx 0 0 (fun x => { x with ldr := true }) |>.modCore 1 (fun v => { v with follower := true })) 1 = false ∧ groupMayHalt base 0 = true ∧
    streamRoom (gangs stoppedGang) 1 0 0 = true ∧ streamRoom base 1 0 1 = true ∧
    streamRoom ((base.modDie 0 (fun v => { v with passes := [pass0] })).modDie 1 (fun v => { v with passes := List.replicate 4 pass0 })) 1 0 1 = false ∧
    ({ gang0 with stopping := true } : Gang).stopping = true ∧ base.plinth.gangs.all (fun g => g.preds.isEmpty) = true ∧
    (let g := before1; (gangs g).plinth.gangs = [g] ∧ g.preds = [(0, 1)] ∧ g.stopped = false ∧ 0 ∈ g.cores ∧ storesOut (gangs g) g 1 = false ∧
      storesOut (storing (gangs g)) { g with cores := [0] } 1 = true) := by decide +kernel
/-- R375: a context between a branch and its slot, or under a hint, is not halted yet. -/
theorem test_stop : (after .gangStop (gEvent (.gangStop 1) (gangs gang0 (inSlot (br none))))).agenda = [.gangStop 1] ∧
    (after .gangStop (gEvent (.gangStop 1) (gangs gang0 (inSlot (br none))))).ring = [(0, 0, .acc), (0, 0, .exe)] ∧
    (let s := after .gangStop (gEvent (.gangStop 1) (gangs gang0)); s.ring = [] ∧ s.plinth.gangs.map (·.stopped) = [true]) ∧
    (let s := after .gangResume (gEvent (.gangResume 1 0 0 0) (after .gangStop (gEvent (.gangStop 1) (gangs gang0))))
     s.ring = [(0, 0, .acc), (0, 0, .exe)] ∧ s.plinth.gangs.map (·.stopped) = [false] ∧ (s.core 0).gid = 1) ∧
    (after .gangResume (gEvent (.gangResume 1 0 0 0) (gangs stoppedGang))).plinth.gangs.map (·.waits) = [true] ∧
    (after .successorOverlapStoresDone (gEvent (.successorOverlapStoresDone 0) (gangs before1))).plinth.gangs = [gang0] ∧
    (let s := after .successorOverlapStoresDone (gEvent (.successorOverlapStoresDone 0) (storing (gangs before1)))
     s.plinth.gangs = [before1] ∧ s.agenda = [.successorOverlapStoresDone 0]) := by decide +kernel
/-- R373, R375: the gang halts at once; nothing is on its way, or a store still is. -/
theorem witness_stop_completes : (let s := gEvent (.gangStop 1) (gangs gang0); findGang s (gang0).gid = some gang0 ∧ (gang0).stopped = false ∧
      (let u := haltContexts gang0 (modGang (gang0).gid (fun g => { g with stopping := true }) s)
       allHalted gang0 u = true ∧ isQuiet gang0 (quiesce gang0 u) = true)) ∧
    (let u := haltContexts gang0 (modGang (gang0).gid (fun g => { g with stopping := true }) (storing (gangs gang0)))
     allHalted gang0 u = true ∧ isQuiet gang0 (quiesce gang0 u) = false) ∧
    (let v := (gangs gang0).core 0; (gang0).cores = [0] ∧ v.ctxs = [(0, ctx0)] ∧ ctx0.acc.ctl = .seq ∧ ctx0.exe.ctl = .seq ∧ v.slots = []) := by decide +kernel
/-- A stopped gang keeps its scratchpad and holds no core any more; a store that is out is waited for. -/
theorem test_stop_completes : (let s := after .gangStop (gEvent (.gangStop 1) (gangs gang0 (regs [(5, 7)] (base.modCore 0 (fun v => { v with bank := [(9, .off)] })))))
     s.plinth.gangs.map (·.stopped) = [true] ∧ (s.core 0).ctxs = [] ∧ (s.core 0).gid = 0 ∧ w 5 s = 7 ∧ (s.core 0).bank = [(9, .off)]) ∧
    (let s := after .gangStop (gEvent (.gangStop 1) (storing (gangs gang0))); s.agenda = [.gangStop 1] ∧ s.plinth.gangs.map (·.stopped) = [false]) := by decide +kernel
/-- Table 16-4: two load results, one of them still reserved, a store datum and an access to be replayed. -/
def record1 : Ctx := { ctx0 with ldq := [⟨0, 1, some 5⟩, ⟨1, 2, none⟩], sdq := [{ pos := 1, val := 9 }], replay := [⟨0xF0000000000000100008, 1, 2, 3, 6, 4⟩] }
theorem witness_save_blocks : ((regs [(5, 7)]).core 0).granule 0 0 = .present true ∧ ((base.modCore 0 (fun v => v.setGranule 0 3 (.present false))).core 0).granule 0 3 ≠ .present true ∧
    record1.ldq.length = 2 ∧ record1.sdq.length = 1 ∧ record1.replay.length = 1 ∧ (record1.ldq[1]?).isSome = true ∧ (mail 0).kind = 0 ∧ ((inbox [mail 1]).core 0).inbox[0]? = some (mail 1) := by decide +kernel
theorem test_save_blocks : (let l := contextRecord record1
    dwordAt l 0 = 5 ∧ dwordAt l 8 = 0 ∧ dwordAt l 0x80 = 9 ∧ nbits (dwordAt l 0x148) 0 5 = 2 ∧
    nbits (dwordAt l 0x148) 5 5 = 1 ∧ nbits (dwordAt l 0x148) 10 5 = 1 ∧ dwordAt l 0x160 = 0x100008 ∧ dwordAt l 0x170 = 6 ∧ dwordAt l 0x2E0 = 1) ∧ dwordAt (stateArea 0 0 base) 0xE8 = 0x100 := by decide +kernel
/-- R178: what a gang's core held is gone; a matrix command that waits there is an error at its sender. -/
theorem witness_scrub : ((inbox [{ mail 3 with src := 0, ctx := 0 }]).core 0).inbox.filter (fun e => e.kind == 3) = [{ mail 3 with src := 0, ctx := 0 }] ∧
    (base.core 0).inbox.filter (fun e => e.kind == 3) = [] := by decide +kernel
theorem test_scrub : (let s := scrubCore 0 ((regs [(5, 7)] (pair base)).store (spPlace 1 8) 8 3)
    w 5 s = 0 ∧ s.load (spPlace 1 8) 8 = 3 ∧ (s.core 0).ctxs = [] ∧ (s.core 1).gid = 1 ∧ (0, 0, .acc) ∉ s.ring) := by decide +kernel

def failing (c : Nat) (lost : Bool) (s : State) : State := gEvent (.coreFailure c lost) s
theorem witness_failures : gangAt (base.modCore 5 (fun v => { v with failed := true })) 5 = none ∧
    gangAt ((gangs gang0).modCore 0 (fun v => { v with failed := true })) 0 = some gang0 ∧
    coreDie 0 ≠ coreDie 1024 ∧ coreDie 1 = coreDie 2 ∧ (1 : Nat) ≠ 2 := by decide +kernel
theorem test_failures : (let s := after .coreFailure (failing 5 false base); (s.core 5).failed = true ∧ (s.core 5).fenced = true ∧ s.plinth.gangs = []) ∧
    (let s := after .coreFailure (failing 0 true (gangs gang0)); (s.core 0).failed = true ∧ s.plinth.gangs.map (fun g => (g.stopping, g.faulted)) = [(true, true)] ∧
      s.agenda = [.gangStop 1, .coreFailure 0 true]) ∧
    (after .coreFailure { failing 0 false (gangs gang0) with flaws := [spPlace 0 0x580 / 16] }).plinth.gangs.map (·.faulted) = [true] ∧
    ((after .controlCoreFailover (gEvent (.controlCoreFailover 0))).die 0).standby = true ∧
    (after .hbmRowRemap (gEvent (.hbmRowRemap 3 4 5))).plinth.rowMaps = [(3, 4, 5)] ∧ (after .bexuzLaneFailure (gEvent (.bexuzLaneFailure 2))).plinth.lanes = [2] := by decide +kernel
def ranQueue : State := setRunQueue 1 [(0, 6, 4)] base
theorem witness_balancer : runQueue ranQueue 1 = [(0, 6, 4)] ∧ runQueue ranQueue 2 = [] ∧ nodeLatency ranQueue (0, 6, 4) = false ∧ runQueue ranQueue 1025 = [] := by decide +kernel
theorem test_balancer : (let s := after .balancerTick (gEvent (.balancerTick 1 2 1) ranQueue); runQueue s 1 = [] ∧ runQueue s 2 = [(0, 6, 4)]) ∧
    -- between two dies as within one (R361)
    (let s := after .balancerTick (gEvent (.balancerTick 1 1025 1) ranQueue); runQueue s 1 = [] ∧ runQueue s 1025 = [(0, 6, 4)]) := by decide +kernel

/-- 99 samples of one value, in mW; a die that is hot, with a pool of `n` units. -/
def sampled (n mw : Nat) (s : State := base) : State := s.modPlinth (fun p => { p with samples := List.replicate n mw })
def hotDie (n : Nat) : State := base.modDie 0 (fun v => { v with hot := true, poolSize := n })
/-- Firmware image number 4 in use; a report of gang 1 for context 0 of core 0, with nonce 7, is being made. -/
def report1 : AttestReq := { core := 0, ctx := 0, id := 3, va := 0, asid := 2, nonce := 7, gid := 1, key := 3 }
def reporter : State := (base.modDie 0 (fun v => { v with attests := [report1] })).modPlinth (fun p => { p with fseq := 4, measures := [(2, 6)] })
theorem witness_module : (13 : Nat) ≤ (13 : BitVec 4).toNat ∧ (12 : BitVec 4).toNat < 13 ∧ entryOk att0 = true ∧ entryOk 0 = false ∧ base.slices = [] ∧
    (5 : BitVec 512) ≠ 0 ∧ tfind base.plinth.connKeys 3 = none ∧ (tfind ({ base.plinth with connKeys := [(3, 5)] } : Plinth).connKeys 3).isSome = true ∧
    sentAny base (fun q => vaRegion q.va == 12) = false ∧ probedBy base (fun _ => true) = false ∧
    sentAny { base with agenda := [.homeRequest (req .read 0xC0000000000000000008 8)] } (fun q => vaRegion q.va == 12) = true ∧
    permitWaits (base.die 0) = false ∧ (base.die 0).faultLog = [] ∧ (base.modDie 0 (fun v => { v with faultLog := [7] })).plinth.samples.length < 99 ∧
    (base.die 0).attests = [] ∧ (base.die 0).poolSize = 2304 ∧
    (let s := sampled 99 3_400_000; 99 ≤ s.plinth.samples.length ∧ 330_000_000 < (3_400_000 :: s.plinth.samples).foldl (· + ·) 0) ∧
    (let s := sampled 99 2_900_000; (2_900_000 :: s.plinth.samples).foldl (· + ·) 0 ≤ 330_000_000 ∧ (2_900_000 :: s.plinth.samples).all (fun w => decide (w < 3_000_000)) = true) ∧
    (let s := sampled 99 3_200_000; (3_200_000 :: s.plinth.samples).foldl (· + ·) 0 ≤ 330_000_000 ∧ (3_200_000 :: s.plinth.samples).all (fun w => decide (w < 3_000_000)) = false) ∧
    (base.die 0).hot = false ∧ ((hotDie 1000).die 0).hot = true ∧ (reporter.die 0).attests.length = 1 := by decide +kernel
theorem test_module : tget (after .regionEntryWrite (gEvent (.regionEntryWrite 12 (BitVec.ofNat 128 att0)))).regions 12 0 = BitVec.ofNat 128 att0 ∧
    (after .regionEntryWrite (gEvent (.regionEntryWrite 12 0))).plinth.winErr = true ∧
    (after .regionEntryWrite (gEvent (.regionEntryWrite 13 (BitVec.ofNat 128 att0)))).plinth.winErr = false ∧
    tfind (after .connectorKeyInstall (gEvent (.connectorKeyInstall 3 0) (base.modPlinth (fun p => { p with connKeys := [(3, 5)] })))).plinth.connKeys 3 = none ∧
    ((after .poolSizeWrite (gEvent (.poolSizeWrite 0 1000))).die 0).poolSize = 1000 ∧
    (let s := after .faultLogRead (gEvent (.faultLogRead 0) (base.modDie 0 (fun v => { v with faultLog := [7, 8] }))); (s.die 0).faultLog = [8] ∧ s.plinth.fwRead = 7) := by
  decide +kernel
/-- R399: from 95 °C the pool falls by 288 to 1,152 at least; at 110 °C the module stops, and HBM is lost; a reset keeps HBM (log 38). -/
theorem test_power : ((after .thermalEvent (gEvent (.thermalEvent 0 95))).die 0).poolSize = 2016 ∧ ((after .thermalEvent (gEvent (.thermalEvent 0 94))).die 0).poolSize = 2304 ∧
    ((after .thermalEvent (gEvent (.thermalEvent 0 94) (hotDie 2016))).die 0).poolSize = 1728 ∧
    (let v := (after .thermalEvent (gEvent (.thermalEvent 0 89) (hotDie 2016))).die 0; v.hot = false ∧ v.poolSize = 2016) ∧
    ((after .thermalEvent (gEvent (.thermalEvent 0 109) (base.modDie 0 (fun v => { v with poolSize := 1200 })))).die 0).poolSize = 1152 ∧
    (let s := after .thermalEvent (gEvent (.thermalEvent 0 110) (base.store 8 8 5)); s.stopped = true ∧ s.load 8 8 = 0) ∧
    (let s := after .moduleReset ((regs [(1, 9)]).store 8 8 5); s.load 8 8 = 5 ∧ w 1 s = 0 ∧ s.ring = []) ∧
    (let s := after .moduleReset (base.modPlinth (fun p => { p with slotA := 5, fmin := 5, fseq := 6, slotB := 6 })); s.plinth.fseq = 5 ∧ s.plinth.slotA = 5 ∧ s.plinth.fmin = 5) ∧
    (after .thermalStop { base with agenda := [.packetStart 0, .moduleReset] }).agenda = [.moduleReset] ∧
    (after .powerSample (gEvent (.powerSample 900))).plinth.samples = [900] ∧
    ((after .powerSample (gEvent (.powerSample 3_400_000) (sampled 99 3_400_000))).die 3).poolSize = 2016 ∧
    ((after .powerSample (gEvent (.powerSample 2_900_000) (sampled 99 2_900_000 (base.modDie 1 (fun v => { v with poolSize := 2000 }))))).die 1).poolSize = 2288 ∧
    ((after .powerSample (gEvent (.powerSample 2_900_000) (sampled 99 2_900_000 (hotDie 2000)))).die 0).poolSize = 2000 ∧
    (let s := after .powerSample (gEvent (.powerSample 3_200_000) (sampled 99 3_200_000 (hotDie 2000))); (s.die 0).poolSize = 2000 ∧ s.plinth.samples = []) ∧
    ((after .rampLimiterFill (gEvent (.rampLimiterFill 0 7))).die 0).rampFill = 7 := by
  decide +kernel
/-- Table 17-7: the nonce, the numbers of the module's firmware, of the gang, its ASID and its key slot, and the measures. -/
theorem test_report : (let l := reportBody report1 reporter.plinth
    l.length = 0x300 ∧ l.take 8 = [7, 0, 0, 0, 0, 0, 0, 0] ∧ dwordAt l 0x44 % 2 ^ 32 = 4 ∧ dwordAt l 0x48 = 1 + 2 * 2 ^ 32 + 3 * 2 ^ 44 ∧ dwordAt l 0x100 = 6) := by
  decide +kernel

/-! ## The machine as a whole -/

/-- The state that a step answers. -/
def stepped (s : State) : State :=
  match step s with
  | .next t => t
  | _ => s
def first (w : Nat) (s : State := base) : State := s.withFetchWord 32 w
/-- A stream stands before a word of its own with nothing to wait for. -/
def aboutTo (t : Stream) (s : State) (w : Word) (i : Instr) : Bool :=
  let s2 : State := { s with ring := s.ring.drop 1 ++ [(0, 0, t)], cur := .ctx 0 0 t, ev := .idle, turn := true }
  let y := (s.ctx 0 0).stream t
  !s.stopped && !s.turn && s.ring.head? == some (0, 0, t) && (busyInterp s).isNone && (s.ctx 0 0).live && !(s.ctx 0 0).emulating &&
    !(s.core 0).failed && (s.ctx 0 0).owed == 0 && y.ctl == .seq && !inGroup s 0 && !hazard (s.core 0) (s.ctx 0 0) y.pos i &&
    (match fetchFor s2 0 0 y.pc with
     | .ok (x, _) => x == w
     | .error _ => false) && decodeWord w == some i
/-- The same with the execute stream first in the round. -/
def exeFirst (s : State) : State := { s with ring := [(0, 0, .exe), (0, 0, .acc)] }
def accFirst (s : State) : State := { s with ring := [(0, 0, .acc), (0, 0, .exe)] }
/-- A word of the execute stream, one of the access stream, one of both with its own copy for each, a branch that the execute stream
evaluates, and one that the streams issue together; each before both streams where both meet it. -/
theorem witness_step :
    (aboutTo .exe (exeFirst (first 0x18700240)) 0x18700240 (.movi 7 0x240) = true ∧ aboutTo .acc (accFirst (first 0x18700240)) 0x18700240 (.movi 7 0x240) = true ∧
      wordOwner 0x18700240 = .exe ∧ usesOperands (.movi 7 0x240) .exe = true) ∧
    (aboutTo .acc (first 0x84208008) 0x84208008 (.aaddi 2 2 8) = true ∧ aboutTo .exe (exeFirst (first 0x84208008)) 0x84208008 (.aaddi 2 2 8) = true ∧
      wordOwner 0x84208008 = .acc) ∧
    (aboutTo .acc (first 0xF0000000) 0xF0000000 .nop = true ∧ wordOwner 0xF0000000 = .both ∧ ownCopy .nop = true) ∧
    (usesOperands (.beqz 4 7) .exe = true ∧ usesOperands (.beqz 4 7) .acc = false ∧ ownCopy (.beqz 4 7) = true) ∧
    (aboutTo .acc (first 0xF4000005) 0xF4000005 (.trap 5) = true ∧ ownCopy (.trap 5) = false ∧ ((first 0xF4000005).ctx 0 0).together = true ∧
      (let s := first 0xF4000005; let x := (s.ctx 0 0).align; hazard (s.core 0) x x.acc.pos (.trap 5) = false)) := by
  decide +kernel
/-- A stream in a delay slot, and one that redirects where the outcome is known. -/
theorem witness_step_slot :
    (let s := inSlot (br (some true)); ((s.ctx 0 0).stream .acc).ctl = .slot (br (some true)) ∧ (br (some true)).indirect = false) ∧
    (let s := inSlot { br none with indirect := true } (base.modCtx 0 0 (fun x => { x with oqE := [⟨true, 0x80⟩] }))
     ((s.ctx 0 0).outcome .acc { br none with indirect := true }).isSome = true) ∧
    (let s := base.modCtx 0 0 (fun x => { x with acc := { x.acc with ctl := .redirect (br (some true)) } })
     (redirect 0 0 .acc (br (some true)) s).isSome = true) := by decide +kernel
/-- R19, R117: the members of a follow group take their turn together. -/
def followGroup : State :=
  let s := ((pair base).modCtx 0 0 (fun x => { x with ldr := true })).modCore 1 (fun v => { v with follower := true })
  { s with ring := [(0, 0, .exe), (0, 0, .acc)] }.withFetchWord 32 0x18700240
theorem witness_step_group : inGroup followGroup 0 = true ∧ leaderIn followGroup 1 = 0 ∧ followGroup.turn = false ∧ followGroup.stopped = false ∧
    followGroup.ring.head? = some (0, 0, .exe) ∧ busyInterp followGroup = none := by decide +kernel
theorem test_step_group : (let s := stepped followGroup; w 7 s = 0x240 ∧ s.load (spPlace 1 56) 8 = 0x240 ∧ (s.ctx 0 0).exe.pos = 5 ∧ (s.ctx 1 0).exe.pos = 5) := by
  decide +kernel
theorem test_step_runs : (let s := stepped (accFirst (first 0x18700240)); w 7 s = 0 ∧ apos s = 5 ∧ epos s = 4) ∧
    (let s := stepped (exeFirst (first 0x18700240)); w 7 s = 0x240 ∧ apos s = 4 ∧ epos s = 5) ∧
    a 2 (stepped (first 0x84208008)) = 8 ∧ code (stepped (first 0xF4000005)) = 0x20 := by decide +kernel
/-- From reset with a word placed (log 17); Table 17-2's QADDI on a queue register. -/
theorem test_reset_fetch : w 7 (stepped (stepped (State.reset.withFetchWord 32 0x18700240))) = 0x240 ∧ a 2 (stepped (State.reset.withFetchWord 32 0x84208008)) = 8 ∧
    ((stepped (State.reset.withFetchWord 64 0x70204)).interp 0).get 2 = 7 := by decide +kernel
theorem witness_queue_step : (let s := State.reset.withFetchWord 64 0x70204; s.stopped = false ∧ s.turn = false ∧ busyInterp s = some 0 ∧ interpWord s 0 = some (.qaddi 2 7)) ∧
    (let s : State := { base with turn := true, agenda := [.clearStatus] }; s.stopped = false ∧ s.turn = true ∧ (Msg.clearStatus).instr = some .clearStatus) := by decide +kernel
theorem test_event_step : (let s := stepped { base with turn := true, agenda := [.clearStatus, .strideQuantum], plinth := { base.plinth with cerr := true } }
     s.plinth.cerr = false ∧ s.agenda = [.strideQuantum] ∧ s.turn = false) ∧
    (stepped { State.reset with agenda := [.clearStatus], plinth := { State.reset.plinth with cerr := true } }).plinth.cerr = false := by decide +kernel
/-- R399: a module stopped at its limit moves by a module reset alone. -/
theorem witness_moves : mayMove State.reset = true ∧ mayMove { base with stopped := true } = false ∧
    mayMove { base with stopped := true, agenda := [.moduleReset] } = true ∧ mayCome .moduleReset = true ∧ mayCome .clearStatus = false ∧ step { base with stopped := true } = .fault .moduleStopped := by
  refine ⟨by decide +kernel, by decide +kernel, by decide +kernel, by decide +kernel, by decide +kernel, rfl⟩
theorem witness_canonical : Safety.wf State.reset = true ∧ Safety.wf (regs [(1, 5), (3, 0), (2, 256)]) = true ∧
    memWf [⟨1, 0⟩] = false ∧ memWf [⟨2, 5⟩, ⟨1, 5⟩] = false ∧ memWf [⟨1, 5⟩, ⟨1, 5⟩] = false := by decide +kernel
theorem test_canonical : Safety.wf (after (.movi 1 0) (regs [(1, 5), (2, 7)])) = true ∧ (after (.movi 1 0) (regs [(1, 5), (2, 7)])).mem = (regs [(2, 7)]).mem := by
  decide +kernel
theorem witness_encoding : (Instr.add 61 60 62).wellFormed = true ∧ (encode (.add 61 60 62)).isSome = true ∧ (Instr.qaddi 2 7).wellFormed = true ∧
    encodeQueue (.qaddi 2 7) = some 0x70204 ∧ (Instr.clearStatus).wellFormed = true ∧ encode (.ld 1 0 0 2 1 0) ≠ none := by decide +kernel

end Sys2Proof.Tests
end
end

/-! ## Module events: the device register window, power, temperature, reset, attestation (R25, R279, R280, R338, R395 to R400, R409) -/

section
namespace Sys2Proof.Machine

/-! ### The events -/

section Events
variable {s : State}

theorem exec_regionEntryWrite {r : BitVec 4} {e : BitVec 128} (h : s.ev = .regionEntryWrite r e) :
    exec .regionEntryWrite s = .next (regionEntryWrite r.toNat e s) := by
  change execRegionEntryWrite s = _
  rw [execRegionEntryWrite, event, h]

theorem exec_connectorKeyInstall_zero {slot : BitVec 8} {key : BitVec 512} (h : s.ev = .connectorKeyInstall slot key) (hk : key = 0) :
    exec .connectorKeyInstall s = .next (s.modPlinth (fun p => { p with connKeys := terase p.connKeys slot.toNat })) := by
  change execConnectorKeyInstall s = _
  rw [execConnectorKeyInstall, event, h]
  simp only [if_pos hk]

theorem exec_connectorKeyInstall_taken {slot : BitVec 8} {key : BitVec 512} (h : s.ev = .connectorKeyInstall slot key) (hk : key ≠ 0)
    (ht : (tfind s.plinth.connKeys slot.toNat).isSome = true) : exec .connectorKeyInstall s = .next s := by
  change execConnectorKeyInstall s = _
  rw [execConnectorKeyInstall, event, h]
  simp only [if_neg hk, if_pos ht]

theorem exec_connectorKeyInstall_free {slot : BitVec 8} {key : BitVec 512} (h : s.ev = .connectorKeyInstall slot key) (hk : key ≠ 0)
    (hf : tfind s.plinth.connKeys slot.toNat = none) : exec .connectorKeyInstall s =
      .next (extendMeasure 2 (bytes64 key) (s.modPlinth (fun p => { p with connKeys := tset p.connKeys slot.toNat key }))) := by
  change execConnectorKeyInstall s = _
  rw [execConnectorKeyInstall, event, h]
  simp only [if_neg hk, hf, Option.isSome_none, Bool.false_eq_true, if_false]

theorem exec_poolSizeWrite_idle {d : BitVec 2} {n : BitVec 14} (h : s.ev = .poolSizeWrite d n) (hg : s.plinth.gangs = []) :
    exec .poolSizeWrite s = .next (setPool d.toNat n.toNat s) := by
  change execPoolSizeWrite s = _
  rw [execPoolSizeWrite, event, h]
  simp [hg]

theorem exec_faultLogRead_empty {d : BitVec 2} (h : s.ev = .faultLogRead d) (hl : (s.die d.toNat).faultLog = []) :
    exec .faultLogRead s = .next s := by
  change execFaultLogRead s = _
  rw [execFaultLogRead, event, h]
  simp only [hl]

theorem exec_faultLogRead_oldest {d : BitVec 2} {e : BitVec 128} {l : List (BitVec 128)} (h : s.ev = .faultLogRead d)
    (hl : (s.die d.toNat).faultLog = e :: l) : exec .faultLogRead s =
      .next ((s.modDie d.toNat (fun v => { v with faultLog := l })).modPlinth (fun p => { p with fwRead := e })) := by
  change execFaultLogRead s = _
  rw [execFaultLogRead, event, h]
  simp only [hl]

theorem exec_powerSample {mw : Nat} (h : s.ev = .powerSample mw) : exec .powerSample s = .next (powerSample mw s) := by
  change execPowerSample s = _
  rw [execPowerSample, event, h]

theorem exec_thermalEvent {d : BitVec 2} {deg : Nat} (h : s.ev = .thermalEvent d deg) :
    exec .thermalEvent s = .next (thermalEvent d.toNat deg s) := by
  change execThermalEvent s = _
  rw [execThermalEvent, event, h]

theorem exec_rampLimiterFill {d : BitVec 2} {n : Nat} (h : s.ev = .rampLimiterFill d n) :
    exec .rampLimiterFill s = .next (s.modDie d.toNat (fun v => { v with rampFill := v.rampFill + BitVec.ofNat 64 n })) := by
  change execRampLimiterFill s = _
  rw [execRampLimiterFill, event, h]

theorem exec_attestReportDone {d : BitVec 2} (h : s.ev = .attestReportDone d) :
    exec .attestReportDone s = .next (attestReportDone d.toNat s) := by
  change execAttestReportDone s = _
  rw [execAttestReportDone, event, h]

end Events

/-! ### Region entries and connector keys -/

/-- With no slice holding a line, the removal of pages writes none back. -/
theorem removePages_noSlices (gone : Trans → Bool) (lost : LineTag → Bool) (cached : BitVec 12 → Nat → Bool) {s : State}
    (h : s.slices = []) :
    (removePages gone lost cached s).mem = s.mem ∧ (removePages gone lost cached s).regions = s.regions := by
  simp [removePages, h]

@[simp] theorem extendMeasure_mem (i : Nat) (item : List Byte) (s : State) : (extendMeasure i item s).mem = s.mem := rfl
@[simp] theorem extendMeasure_regions (i : Nat) (item : List Byte) (s : State) : (extendMeasure i item s).regions = s.regions := rfl
@[simp] theorem extendMeasure_connKeys (i : Nat) (item : List Byte) (s : State) :
    (extendMeasure i item s).plinth.connKeys = s.plinth.connKeys := rfl
@[simp] theorem extendMeasure_same (i : Nat) (item : List Byte) (s : State) :
    tget (extendMeasure i item s).plinth.measures i 0 = extended (tget s.plinth.measures i 0) item := tget_tset_same ..

theorem regionEntryWrite_beyond {r : Nat} (e : BitVec 128) (s : State) (h : 13 ≤ r) : regionEntryWrite r e s = s := by
  simp [regionEntryWrite, h]

theorem regionEntryWrite_bad {r : Nat} {e : BitVec 128} (s : State) (h : r < 13) (he : entryOk e.toNat = false) :
    regionEntryWrite r e s = s.modPlinth (fun p => { p with winErr := true }) := by
  simp [regionEntryWrite, he, Nat.not_le.2 h]

/-- A request in flight to the region, or a matrix operation that has probed a page, keeps the write waiting (R280). -/
theorem regionEntryWrite_waits {r : Nat} {e : BitVec 128} {s : State} (h : r < 13) (he : entryOk e.toNat = true)
    (hw : sentAny s (fun q => vaRegion q.va == r) = true ∨ probedBy s (fun _ => true) = true) :
    regionEntryWrite r e s = s.send s.ev := by
  rcases hw with hw | hw <;> simp [regionEntryWrite, he, Nat.not_le.2 h, hw]

/-- With nothing in flight and no line in any slice, the entry takes its value at once. -/
theorem regionEntryWrite_taken {r : Nat} {e : BitVec 128} {s : State} (h : r < 13) (he : entryOk e.toNat = true)
    (hs : sentAny s (fun q => vaRegion q.va == r) = false) (hp : probedBy s (fun _ => true) = false) (hl : s.slices = []) :
    tget (regionEntryWrite r e s).regions r 0 = e ∧ (regionEntryWrite r e s).mem = s.mem := by
  simp [regionEntryWrite, he, Nat.not_le.2 h, hs, hp, hl, removePages_noSlices, tget_tset_same]

theorem tfind_tset_same (t : Table α) (k : Nat) (v : α) : tfind (tset t k v) k = some v := by
  induction t with
  | nil => simp [tset, tfind]
  | cons e t ih =>
    obtain ⟨j, w⟩ := e
    unfold tset
    split
    · simp [tfind]
    · split
      · simp [tfind]
      · simp [tfind, *]

/-! ### Pools of permit units -/

@[simp] theorem State.die_send (s : State) (m : Msg) (d : Nat) : (s.send m).die d = s.die d := rfl
@[simp] theorem State.die_modPlinth (s : State) (f : Plinth → Plinth) (d : Nat) : (s.modPlinth f).die d = s.die d := rfl

/-- Setting a pool writes one die; where an acquisition waits there, it is tried again. -/
theorem setPool_eq (d n : Nat) (s : State) : setPool d n s =
    (if permitWaits (s.die d) then (s.modDie d (fun v => { v with poolSize := n })).send (.permitGrant (BitVec.ofNat 2 d))
      else s.modDie d (fun v => { v with poolSize := n })) := by
  change (if permitWaits ((s.modDie d _).die d) then _ else _) = _
  rw [State.die_modDie_same]
  rfl

/-- A pool that no acquisition waits for takes its size, and nothing else moves. -/
theorem setPool_noWaiter {d : Nat} (n : Nat) {s : State} (h : permitWaits (s.die d) = false) :
    setPool d n s = s.modDie d (fun v => { v with poolSize := n }) := by
  rw [setPool_eq, h]
  rfl

theorem setPool_die_same (d n : Nat) (s : State) : (setPool d n s).die d = { s.die d with poolSize := n } := by
  rw [setPool_eq]
  split <;> simp

theorem setPool_die_other {d d' : Nat} (n : Nat) (s : State) (h : d' ≠ d) : (setPool d n s).die d' = s.die d' := by
  rw [setPool_eq]
  split <;> simp [State.die_modDie_other _ _ h]

theorem setPool_frame (d n : Nat) (s : State) :
    (setPool d n s).mem = s.mem ∧ (setPool d n s).cores = s.cores ∧ (setPool d n s).plinth = s.plinth := by
  rw [setPool_eq]
  split <;> exact ⟨rfl, rfl, rfl⟩

/-- The step `f` moves the pool of one die by `g` and leaves the memory, the cores, the Plinth and every other die (R399). -/
structure MovesPool (f : Nat → State → State) (g : Die → Die) : Prop where
  same : ∀ d s, (f d s).die d = g (s.die d)
  other : ∀ {d d'} s, d' ≠ d → (f d s).die d' = s.die d'
  frame : ∀ d s, (f d s).mem = s.mem ∧ (f d s).cores = s.cores ∧ (f d s).plinth = s.plinth

/-- A step that leaves the pool of a die or sets it, by what the die alone says. -/
theorem movesPool_ite_setPool (p : Die → Prop) [DecidablePred p] (n : Die → Nat) :
    MovesPool (fun d s => if p (s.die d) then s else setPool d (n (s.die d)) s)
      (fun v => { v with poolSize := if p v then v.poolSize else n v }) where
  same d s := by
    split
    · simp
    · exact setPool_die_same ..
  other s hd := by
    split
    · rfl
    · exact setPool_die_other _ s hd
  frame d s := by
    split
    · exact ⟨rfl, rfl, rfl⟩
    · exact setPool_frame ..

/-- A die whose pool is lowered, or raised, by one step of 288 units. -/
def Die.lowered (v : Die) : Die := { v with poolSize := if v.poolSize ≤ 1152 then v.poolSize else max 1152 (v.poolSize - 288) }
def Die.raised (v : Die) : Die :=
  { v with poolSize := if 2304 ≤ v.poolSize ∨ v.hot = true then v.poolSize else min 2304 (v.poolSize + 288) }

theorem lowerPool_movesPool : MovesPool lowerPool Die.lowered :=
  movesPool_ite_setPool (fun v => v.poolSize ≤ 1152) (fun v => max 1152 (v.poolSize - 288))

theorem raisePool_movesPool : MovesPool raisePool Die.raised := by
  have e : raisePool = fun d s => if 2304 ≤ (s.die d).poolSize ∨ (s.die d).hot = true then s
      else setPool d (min 2304 ((s.die d).poolSize + 288)) s := by
    funext d s
    simp [raisePool]
  rw [e]
  exact movesPool_ite_setPool (fun v => 2304 ≤ v.poolSize ∨ v.hot = true) (fun v => min 2304 (v.poolSize + 288))

/-- A step for each of the first `n` dies moves the pool of each of them once. -/
theorem MovesPool.foldl_die {f : Nat → State → State} {g : Die → Die} (h : MovesPool f g) (s : State) (d n : Nat) :
    ((List.range n).foldl (fun s d => f d s) s).die d = if d < n then g (s.die d) else s.die d := by
  induction n with
  | zero => simp
  | succ n ih =>
    rw [List.range_succ, List.foldl_append, List.foldl_cons, List.foldl_nil]
    by_cases hd : d = n
    · subst hd
      rw [h.same, ih]
      simp
    · rw [h.other _ hd, ih]
      simp [show d < n + 1 ↔ d < n by omega]

theorem MovesPool.foldl_frame {f : Nat → State → State} {g : Die → Die} (h : MovesPool f g) (s : State) (l : List Nat) :
    (l.foldl (fun s d => f d s) s).mem = s.mem ∧ (l.foldl (fun s d => f d s) s).cores = s.cores ∧
      (l.foldl (fun s d => f d s) s).plinth = s.plinth := by
  induction l generalizing s with
  | nil => exact ⟨rfl, rfl, rfl⟩
  | cons d l ih =>
    obtain ⟨hm, hc, hp⟩ := ih (f d s)
    obtain ⟨hm', hc', hp'⟩ := h.frame d s
    exact ⟨hm.trans hm', hc.trans hc', hp.trans hp'⟩

/-! ### Power and temperature (R399) -/

theorem powerSample_short {mw : Nat} {s : State} (h : s.plinth.samples.length < 99) :
    powerSample mw s = s.modPlinth (fun p => { p with samples := mw :: p.samples }) := by
  unfold powerSample
  exact if_pos (by rw [List.length_cons]; omega)

/-- What a full millisecond of samples does to each die. -/
def samplesMove (l : List Nat) (v : Die) : Die :=
  if 330_000_000 < l.foldl (· + ·) 0 then v.lowered
  else if l.all (fun w => decide (w < 3_000_000)) then v.raised else v

/-- The hundredth sample empties the list and moves the pool of every die; memory and cores stay. -/
theorem powerSample_full {mw : Nat} {s : State} (h : 99 ≤ s.plinth.samples.length) :
    (powerSample mw s).plinth.samples = [] ∧ (powerSample mw s).mem = s.mem ∧ (powerSample mw s).cores = s.cores ∧
    ∀ d, d < 4 → (powerSample mw s).die d = samplesMove (mw :: s.plinth.samples) (s.die d) := by
  have fold : ∀ {f g}, MovesPool f g →
      let t := (List.range 4).foldl (fun s d => f d s) (s.modPlinth (fun p => { p with samples := [] }))
      t.plinth.samples = [] ∧ t.mem = s.mem ∧ t.cores = s.cores ∧ ∀ d, d < 4 → t.die d = g (s.die d) := fun hm => by
    obtain ⟨hmem, hcores, hplinth⟩ := hm.foldl_frame (s.modPlinth (fun p => { p with samples := [] })) (List.range 4)
    exact ⟨by rw [hplinth]; rfl, hmem, hcores, fun d hd => (hm.foldl_die _ d 4).trans (if_pos hd)⟩
  unfold powerSample samplesMove
  rw [if_neg (by rw [List.length_cons]; omega)]
  split
  · exact fold lowerPool_movesPool
  · split
    · exact fold raisePool_movesPool
    · exact ⟨rfl, rfl, rfl, fun _ _ => rfl⟩

theorem thermalEvent_stop (d : Nat) {deg : Nat} (s : State) (h : 110 ≤ deg) : thermalEvent d deg s = thermalStop s := by
  simp [thermalEvent, h]

theorem thermalEvent_cool (d : Nat) {deg : Nat} (s : State) (h : deg < 90) :
    thermalEvent d deg s = s.modDie d (fun v => { v with hot := false }) := by
  simp [thermalEvent, show ¬ 110 ≤ deg by omega, show ¬ 95 ≤ deg by omega, show ¬ 90 ≤ deg by omega, h]

theorem thermalEvent_between {d deg : Nat} {s : State} (h : 90 ≤ deg) (h' : deg < 95) (hc : (s.die d).hot = false) :
    thermalEvent d deg s = s := by
  simp [thermalEvent, show ¬ 110 ≤ deg by omega, show ¬ 95 ≤ deg by omega, show ¬ deg < 90 by omega, hc]

/-- A die that has become hot, or is hot and not yet below 90 °C, is marked hot and its pool is lowered. -/
theorem thermalEvent_hot {d deg : Nat} {s : State} (h : 90 ≤ deg) (h' : deg < 110) (hh : 95 ≤ deg ∨ (s.die d).hot = true) :
    thermalEvent d deg s = lowerPool d (s.modDie d (fun v => { v with hot := true })) := by
  have hc : (decide (95 ≤ deg) || ((s.die d).hot && decide (90 ≤ deg))) = true := by
    rcases hh with hh | hh <;> simp [hh, h]
  rw [thermalEvent, if_neg (by omega), if_pos hc]

theorem memByte_filter_keep {m : List Host.Cell} {p : Nat → Bool} {a : Nat} (h : p a = true) :
    memByte (m.filter (fun c => p c.1)) a = memByte m a := tget_filter_keep m p a 0 h

theorem memByte_filter_drop {m : List Host.Cell} {p : Nat → Bool} {a : Nat} (h : p a = false) :
    memByte (m.filter (fun c => p c.1)) a = 0 := tget_filter_drop m p a 0 h

/-- HBM is lost at a thermal stop (R399): it reads 0 (log 38, log 1). -/
theorem thermalStop_hbm (s : State) {p : Nat} (h : p < 2 ^ 58) : memByte (thermalStop s).mem p = 0 :=
  memByte_filter_drop (p := fun a => decide (2 ^ 58 ≤ a)) (decide_eq_false (Nat.not_le.2 h))

/-- HBM stands at a module reset (log 38), -/
theorem moduleReset_hbm (s : State) {p : Nat} (h : p < 2 ^ 58) : memByte (moduleReset s).mem p = memByte s.mem p :=
  memByte_filter_keep (p := fun a => decide (a < 2 ^ 58)) (decide_eq_true h)

/-- and what lies above it, scratchpads and Ashlar banks, reads 0 after it (log 1). -/
theorem moduleReset_banks (s : State) {p : Nat} (h : 2 ^ 58 ≤ p) : memByte (moduleReset s).mem p = 0 :=
  memByte_filter_drop (p := fun a => decide (a < 2 ^ 58)) (decide_eq_false (Nat.not_lt.2 h))

/-! ### Attestation reports (R397, Table 17-7) -/

theorem attestReportDone_none {d : Nat} {s : State} (h : (s.die d).attests = []) : attestReportDone d s = s := by
  simp [attestReportDone, h]

theorem attestReportDone_oldest {d : Nat} {s : State} {r : AttestReq} {l : List AttestReq} (h : (s.die d).attests = r :: l) :
    attestReportDone d s =
      (let body := reportBody r s.plinth
       let report := body ++ (List.range 29792).map (Config.identitySignature body)
       completePend r.core r.ctx r.id 0
        ((engWriteBytes r.core r.gid r.asid false r.va report s).1.modDie d (fun v => { v with attests := l }))) := by
  rw [attestReportDone, h]
  rfl

@[simp] theorem bytes64_length (m : BitVec 512) : (bytes64 m).length = 64 := leBytes_length ..

/-- The part that stands at an offset between what comes before it and what comes after. -/
theorem take_drop_middle {α : Type} {pre mid post : List α} {i n : Nat} (hi : pre.length = i) (hn : mid.length = n) :
    ((pre ++ (mid ++ post)).drop i).take n = mid := by
  rw [List.drop_left' hi, List.take_left' hn]

/-- Blocks of one length, one behind the other: the one of index `i` stands at `i` times the length. -/
theorem take_drop_flatten_append {α : Type} {n : Nat} (tail : List α) {l : List (List α)} (hl : ∀ x ∈ l, x.length = n) {i : Nat}
    (hi : i < l.length) : ((l.flatten ++ tail).drop (n * i)).take n = l[i] := by
  induction l generalizing i with
  | nil => exact absurd hi (Nat.not_lt_zero _)
  | cons x l ih =>
    obtain ⟨hx, hl⟩ := List.forall_mem_cons.1 hl
    rw [List.flatten_cons, List.append_assoc]
    cases i with
    | zero => exact take_drop_middle (pre := []) rfl hx
    | succ i =>
      rw [Nat.mul_succ, Nat.add_comm, ← List.drop_drop, List.drop_left' hx]
      exact ih hl (Nat.lt_of_succ_lt_succ hi)

theorem flatten_length_of_blocks {α : Type} {n : Nat} {l : List (List α)} (hl : ∀ x ∈ l, x.length = n) :
    l.flatten.length = n * l.length := by
  induction l with
  | nil => rfl
  | cons x l ih =>
    obtain ⟨hx, hl⟩ := List.forall_mem_cons.1 hl
    rw [List.flatten_cons, List.length_append, hx, ih hl, List.length_cons, Nat.mul_succ, Nat.add_comm]

/-- The second and third lines of Table 17-7 as numbers, and the measures M0 to M7. -/
def reportFirmware (p : Plinth) : Nat := Config.moduleId + p.fseq.toNat * 2 ^ 32
def reportGang (r : AttestReq) : Nat := r.gid.toNat + r.asid.toNat * 2 ^ 32 + r.key.toNat * 2 ^ 44
def reportMeasures (p : Plinth) : List (List Byte) := (List.range 8).map (fun i => bytes64 (tget p.measures i 0))

theorem reportGang_lt (r : AttestReq) : reportGang r < 2 ^ 64 := by
  have hg := r.gid.isLt
  have ha := r.asid.isLt
  have hk := r.key.isLt
  unfold reportGang
  omega

theorem reportMeasures_block_length (p : Plinth) : ∀ x ∈ reportMeasures p, x.length = 64 := by
  simp [reportMeasures]

/-- The parts of a report in the order of Table 17-7. -/
theorem reportBody_parts (r : AttestReq) (p : Plinth) : reportBody r p = bytes64 r.nonce ++ (leBytes 8 (reportFirmware p) ++
    (leBytes 8 (reportGang r) ++ ((List.range 48).map Config.identityKeyHash ++ ((reportMeasures p).flatten ++ List.replicate 128 0)))) := by
  simp only [reportBody, List.append_assoc]
  rfl

theorem reportMeasures_flatten_length (p : Plinth) : (reportMeasures p).flatten.length = 512 := by
  rw [flatten_length_of_blocks (reportMeasures_block_length p), reportMeasures, List.length_map, List.length_range]

theorem reportBody_length (r : AttestReq) (p : Plinth) : (reportBody r p).length = 0x300 := by
  simp only [reportBody_parts, List.length_append, bytes64_length, leBytes_length, List.length_map, List.length_range,
    reportMeasures_flatten_length, List.length_replicate]

theorem reportBody_nonce (r : AttestReq) (p : Plinth) : (reportBody r p).take 64 = leBytes 64 r.nonce.toNat := by
  rw [reportBody_parts]
  exact List.take_left' (bytes64_length _)

theorem reportBody_firmware (r : AttestReq) (p : Plinth) : dwordAt (reportBody r p) 0x40 = reportFirmware p % 2 ^ 64 := by
  rw [dwordAt, reportBody_parts, take_drop_middle (bytes64_length _) (leBytes_length _ _)]
  exact leNat_leBytes 8 _

/-- What a report holds from the gang's line on. -/
theorem reportBody_drop_firmware (r : AttestReq) (p : Plinth) : (reportBody r p).drop 0x48 = leBytes 8 (reportGang r) ++
    ((List.range 48).map Config.identityKeyHash ++ ((reportMeasures p).flatten ++ List.replicate 128 0)) := by
  rw [reportBody_parts, ← List.append_assoc]
  exact List.drop_left' (by simp [leBytes_length])

theorem reportBody_drop_gang (r : AttestReq) (p : Plinth) : (reportBody r p).drop 0x50 =
    (List.range 48).map Config.identityKeyHash ++ ((reportMeasures p).flatten ++ List.replicate 128 0) := by
  rw [show 0x50 = 0x48 + 8 from rfl, ← List.drop_drop, reportBody_drop_firmware]
  exact List.drop_left' (leBytes_length _ _)

theorem reportBody_drop_identity (r : AttestReq) (p : Plinth) :
    (reportBody r p).drop 0x80 = (reportMeasures p).flatten ++ List.replicate 128 0 := by
  rw [show 0x80 = 0x50 + 48 from rfl, ← List.drop_drop, reportBody_drop_gang]
  exact List.drop_left' (by simp)

theorem reportBody_gang (r : AttestReq) (p : Plinth) : dwordAt (reportBody r p) 0x48 = reportGang r := by
  rw [dwordAt, reportBody_drop_firmware, List.take_left' (leBytes_length _ _), leNat_leBytes]
  exact Nat.mod_eq_of_lt (reportGang_lt r)

theorem reportBody_identity (r : AttestReq) (p : Plinth) :
    ((reportBody r p).drop 0x50).take 48 = (List.range 48).map Config.identityKeyHash := by
  rw [reportBody_drop_gang]
  exact List.take_left' (by simp)

theorem reportBody_measure (r : AttestReq) (p : Plinth) {i : Nat} (h : i < 8) :
    ((reportBody r p).drop (0x80 + 64 * i)).take 64 = leBytes 64 (tget p.measures i 0).toNat := by
  rw [← List.drop_drop, reportBody_drop_identity,
    take_drop_flatten_append _ (reportMeasures_block_length p) (by simpa [reportMeasures] using h)]
  simp [reportMeasures, bytes64]

theorem reportBody_drop_measures (r : AttestReq) (p : Plinth) : (reportBody r p).drop 0x280 = List.replicate 128 0 := by
  rw [show 0x280 = 0x80 + 512 from rfl, ← List.drop_drop, reportBody_drop_identity]
  exact List.drop_left' (reportMeasures_flatten_length p)

/-! ### The statement -/

/-- Settles O55, event by event: each goal is what the event's function does in the case that the statement names. That lost HBM, and
scratchpads and Ashlar banks after a reset, read 0 is the model's (log 1, log 38). -/
theorem moduleEvents : Obligations.ModuleEvents := by
  unfold Obligations.ModuleEvents
  refine ⟨?regionEntry, ?connectorKey, ?poolSize, ?faultLog, ?reset, ?sample, ?millisecond, ?thermal, ?stop, ?ramp, ?attest, ?report⟩
  case regionEntry =>
    intro s r e h
    rw [exec_regionEntryWrite h]
    refine ⟨fun hr => ?_, fun hr he => ?_, fun hr he hw => ?_, fun hr he hs hp hl => ⟨_, rfl, regionEntryWrite_taken hr he hs hp hl⟩⟩
    · rw [regionEntryWrite_beyond e s hr]
    · rw [regionEntryWrite_bad s hr he]
    · rw [regionEntryWrite_waits hr he hw]
  case connectorKey =>
    intro s slot key h
    exact ⟨exec_connectorKeyInstall_zero h, exec_connectorKeyInstall_taken h,
      fun hk hf => ⟨_, exec_connectorKeyInstall_free h hk hf, tfind_tset_same .., extendMeasure_same ..⟩⟩
  case poolSize =>
    intro s d n h hg hw
    rw [exec_poolSizeWrite_idle h hg, setPool_noWaiter n.toNat hw]
  case faultLog =>
    intro s d h
    exact ⟨exec_faultLogRead_empty h, fun e l => exec_faultLogRead_oldest h⟩
  case reset =>
    intro s
    exact ⟨moduleReset s, rfl, rfl, rfl, rfl, rfl, rfl, fun _ => moduleReset_hbm s, fun _ => moduleReset_banks s⟩
  case sample =>
    intro s mw h hl
    rw [exec_powerSample h, powerSample_short hl]
  case millisecond =>
    intro s mw h hl
    obtain ⟨hs, hm, hc, hd⟩ := powerSample_full (mw := mw) hl
    refine ⟨_, exec_powerSample h, hs, hm, hc, fun d hd4 => ?_⟩
    rw [hd d hd4]
    refine ⟨fun hsum => ?_, fun hsum hlow => ?_, fun hsum hlow => ?_⟩
    · rw [samplesMove, if_pos hsum, Die.lowered]
    · rw [samplesMove, if_neg (Nat.not_lt.2 hsum), if_pos hlow, Die.raised]
    · rw [samplesMove, if_neg (Nat.not_lt.2 hsum), hlow]
      rfl
  case thermal =>
    intro s d deg h
    rw [exec_thermalEvent h]
    refine ⟨fun hg => ⟨?_, rfl⟩, fun hg => ?_, fun hg hg' hc => ?_, fun hg hg' hh => ⟨_, rfl, ?_⟩⟩
    · rw [thermalEvent_stop _ s hg]
    · rw [thermalEvent_cool _ s hg]
    · rw [thermalEvent_between hg hg' hc]
    · rw [thermalEvent_hot hg hg' hh, lowerPool_movesPool.same, State.die_modDie_same]
      simp only [Die.lowered]
      refine ⟨trivial, ?_, fun hn => if_neg (Nat.not_le.2 hn)⟩
      split <;> omega
  case stop =>
    intro s
    exact ⟨rfl, rfl, rfl, fun _ => thermalStop_hbm s⟩
  case ramp =>
    intro s d n h
    exact exec_rampLimiterFill h
  case attest =>
    intro s d h
    rw [exec_attestReportDone h]
    refine ⟨fun hn => ?_, fun r l ha => ?_⟩
    · rw [attestReportDone_none hn]
    · rw [attestReportDone_oldest ha]
  case report =>
    intro r p
    exact ⟨reportBody_length r p, reportBody_nonce r p, reportBody_firmware r p, reportBody_gang r p, reportBody_identity r p,
      fun _ => reportBody_measure r p, reportBody_drop_measures r p⟩

end Sys2Proof.Machine
end

/-! ## Integer words (R27, R28, R81, R98, R103, R104): results and flags -/

section
namespace Sys2Proof.Machine

/-! ### Completion -/

/-- A word of the shape of R103, by the values of its operation. -/
theorem Gives3.of_alu3_eq {i : BitVec 6 → BitVec 6 → BitVec 6 → Instr} {f g : Dword → Dword → Dword × Flags}
    (h : ∀ d a b s, exec (i d a b) s = run (alu3 f d a b) s) (e : ∀ x y, f x y = g x y) : Gives3 i g := by
  rw [← funext fun x => funext (e x)]
  exact .of_alu3 h

/-- A word of the shape of R103 that sets no flag. -/
theorem Gives3.of_plain {i : BitVec 6 → BitVec 6 → BitVec 6 → Instr} {f g : Dword → Dword → Dword}
    (h : ∀ d a b s, exec (i d a b) s = run (alu3 (plain f) d a b) s) (e : ∀ x y, f x y = g x y) :
    Gives3 i (fun x y => (g x y, 0)) :=
  .of_alu3_eq h fun x y => by rw [plain, e]

/-- A word that reads the old d as a third source. -/
theorem GivesOld.of_exec {i : BitVec 6 → BitVec 6 → BitVec 6 → Instr} {f : Dword → Dword → Dword → Dword × Flags}
    (h : ∀ d a b s, exec (i d a b) s = run (do
      let x ← readS a
      let y ← readS b
      let o ← readS d
      finishFlags d (f x y o)) s) : GivesOld i f := fun d a b x y o s s₁ s₂ s₃ s₄ ha hb ho hd => by
  rw [h]
  refine run_ok ?_
  rw [M.bind_ok ha, M.bind_ok hb, M.bind_ok ho]
  exact finishFlags_ok hd

/-- Settles O5: the meanings of the four words are the operations of Table 2-1 in the shape of R103. -/
theorem divisionResults : Obligations.DivisionResults := by
  unfold Obligations.DivisionResults
  exact ⟨.of_alu3 (f := opDivs) fun _ _ _ _ => rfl, .of_alu3 (f := opDivn) fun _ _ _ _ => rfl,
    .of_alu3 (f := opRems) fun _ _ _ _ => rfl, .of_alu3 (f := opRemn) fun _ _ _ _ => rfl⟩

theorem opTest_eq_ite (b : Bool) : opTest b = if b = true then 1 else 0 := rfl

/-- The comparisons of words are those of the integers that they stand for. -/
theorem integerResults : Sys2Proof.Claims.IntegerResults := by
  refine ⟨?add, ?sub, ?mul, ?mulh, ?mulhn, ?andd, ?orr, ?xorr, ?andn, ?shl, ?shr, ?sha, ?rot, ?mins, ?maxs, ?minn, ?maxn,
    ?cmpeq, ?cmplt, ?cmpltn, ?cmple, ?sel⟩
  case add | sub | mul | mulh | mulhn | andd | orr | xorr | andn | shl | shr | sha | rot =>
    exact .of_plain (fun _ _ _ _ => rfl) fun _ _ => rfl
  case mins | maxs => exact .of_plain (fun _ _ _ _ => rfl) fun _ _ => by simp only [BitVec.sle, decide_eq_true_eq]
  case minn | maxn => exact .of_plain (fun _ _ _ _ => rfl) fun _ _ => by simp only [BitVec.ule, decide_eq_true_eq]
  case cmpeq => exact .of_plain (fun _ _ _ _ => rfl) fun _ _ => by simp only [opTest_eq_ite, beq_iff_eq]
  case cmplt => exact .of_plain (fun _ _ _ _ => rfl) fun _ _ => by simp only [opTest_eq_ite, BitVec.slt, decide_eq_true_eq]
  case cmpltn => exact .of_plain (fun _ _ _ _ => rfl) fun _ _ => by simp only [opTest_eq_ite, BitVec.ult, decide_eq_true_eq]
  case cmple => exact .of_plain (fun _ _ _ _ => rfl) fun _ _ => by simp only [opTest_eq_ite, BitVec.sle, decide_eq_true_eq]
  case sel => exact .of_exec (f := fun x y o => (if o.getLsbD 0 then x else y, 0)) fun _ _ _ _ => rfl

/-! ### Bit counts -/

theorem opClz_of_ne_zero {x : Dword} (h : x ≠ 0) : opClz x = BitVec.ofNat 64 (63 - Nat.log2 x.toNat) := by
  rw [opClz, if_neg h]

theorem getLsbD_log2 {x : Dword} (h : x ≠ 0) : x.getLsbD (Nat.log2 x.toNat) = true :=
  Nat.testBit_log2 fun e => h (BitVec.eq_of_toNat_eq e)

theorem getLsbD_above_log2 {x : Dword} {m : Nat} (h : Nat.log2 x.toNat < m) : x.getLsbD m = false :=
  Nat.testBit_lt_two_pow (Nat.lt_of_lt_of_le Nat.lt_log2_self (Nat.pow_le_pow_right Nat.two_pos h))

theorem foldl_count_eq_countP {α : Type} (p : α → Bool) (l : List α) (n : Nat) :
    l.foldl (fun n i => if p i then n + 1 else n) n = n + l.countP p := by
  induction l generalizing n with
  | nil => rfl
  | cons a l ih =>
    rw [List.foldl_cons, ih, List.countP_cons]
    split <;> omega

theorem bitCounts : Sys2Proof.Claims.BitCounts := by
  refine ⟨.of_alu2 fun _ _ _ => rfl, .of_alu2 fun _ _ _ => rfl, rfl, fun x hx => ?_, fun x => ?_⟩
  · have hlt : Nat.log2 x.toNat < 64 := (Nat.log2_lt fun e => hx (BitVec.eq_of_toNat_eq e)).2 x.isLt
    exact ⟨_, hlt, opClz_of_ne_zero hx, getLsbD_log2 hx, fun m => getLsbD_above_log2⟩
  · rw [opPopc, foldl_count_eq_countP, Nat.zero_add]

/-! ### Saturation -/

theorem opSat_signed (f : Int → Int → Int) (x y : Dword) :
    opSat true f x y = clampedTo (-2 ^ 63) (2 ^ 63 - 1) (f x.toInt y.toInt) := by
  simp only [opSat, if_true, intClamp, intMin, intMax, clampedTo]
  split
  · rfl
  · split <;> rfl

theorem opSat_natural (f : Int → Int → Int) (x y : Dword) :
    opSat false f x y = clampedTo 0 (2 ^ 64 - 1) (f x.toNat y.toNat) := by
  simp only [opSat, intClamp, intMin, intMax, clampedTo, Bool.false_eq_true, if_false]
  split
  · rfl
  · split <;> rfl

theorem saturatingResults : Sys2Proof.Claims.SaturatingResults := by
  refine ⟨?adds, ?subs, ?muls, ?addn, ?subn, ?muln⟩
  case adds | subs | muls => exact .of_alu3_eq (fun _ _ _ _ => rfl) (opSat_signed _)
  case addn | subn | muln => exact .of_alu3_eq (fun _ _ _ _ => rfl) (opSat_natural _)

/-! ### Immediates -/

theorem exec_movi {d : BitVec 6} {n : BitVec 14} {s t : State} (h : writeS d (s.immediateOf true n) s = .ok ((), t)) :
    exec (.movi d n) s = .next (t.entered (s.immediateOf true n)).passed := by
  change execMovi d n s = _
  refine run_ok ?_
  rw [M.bind_ok (immediate_eq n true s)]
  exact finish_ok h

theorem immediateResults : Sys2Proof.Claims.ImmediateResults :=
  ⟨.of_aluImm fun _ _ _ _ => rfl, .of_aluImm fun _ _ _ _ => rfl, .of_aluImm fun _ _ _ _ => rfl, .of_aluImm fun _ _ _ _ => rfl,
    fun _ => ⟨.of_alu2 fun _ _ _ => rfl, .of_alu2 fun _ _ _ => rfl, .of_alu2 fun _ _ _ => rfl⟩, fun _ _ _ _ => exec_movi⟩

/-! ### Fields -/

theorem getLsbD_lowMask (n i : Nat) : (lowMask n).getLsbD i = (decide (i < 64) && decide (i < n)) := by
  rw [lowMask, BitVec.getLsbD_ofNat, Nat.testBit_two_pow_sub_one]

theorem getLsbD_opExt (l p : BitVec 6) (x : Dword) {i : Nat} (h : i < 64) :
    (opExt l p x).getLsbD i = (decide (i ≤ l.toNat) && x.getLsbD (p.toNat + i)) := by
  simp only [opExt, BitVec.getLsbD_and, BitVec.getLsbD_ushiftRight, getLsbD_lowMask, h, Nat.lt_succ_iff, decide_true,
    Bool.true_and, Bool.and_comm]

/-- A signed code of `w` bits stands for the integer of its two's complement. -/
theorem intDecode_signed (w x : Nat) : intDecode w true x = (BitVec.ofNat w x).toInt := by
  rw [BitVec.toInt_eq_toNat_cond, BitVec.toNat_ofNat, intDecode]
  cases w with
  | zero => rw [Nat.pow_zero, Nat.mod_one]; rfl
  | succ w =>
    have hneg : 2 ^ w ≤ x % 2 ^ (w + 1) ↔ ¬ 2 * (x % 2 ^ (w + 1)) < 2 ^ (w + 1) := by rw [Nat.pow_succ]; omega
    simp only [Nat.add_sub_cancel, Bool.true_and, decide_eq_true_eq, hneg, ite_not, Int.natCast_pow, Int.cast_ofNat_Int]

theorem getLsbD_opExtS (l p : BitVec 6) (x : Dword) {i : Nat} (h : i < 64) :
    (opExtS l p x).getLsbD i = x.getLsbD (p.toNat + min i l.toNat) := by
  have hl := l.isLt
  have hfield {k : Nat} (hk : k ≤ l.toNat) :
      (BitVec.ofNat (l.toNat + 1) (opExt l p x).toNat).getLsbD k = x.getLsbD (p.toNat + k) := by
    rw [BitVec.ofNat_toNat, BitVec.getLsbD_setWidth, getLsbD_opExt l p x (by omega), decide_eq_true (by omega), decide_eq_true hk,
      Bool.true_and, Bool.true_and]
  rw [opExtS, intDecode_signed, ← BitVec.signExtend, BitVec.getLsbD_signExtend, decide_eq_true h, Bool.true_and,
    BitVec.msb_eq_getLsbD_last, Nat.add_sub_cancel, hfield (Nat.le_refl _)]
  split
  · rw [hfield (by omega), Nat.min_eq_left (by omega)]
  · rw [Nat.min_eq_right (by omega)]

theorem getLsbD_opIns (l p : BitVec 6) (x o : Dword) {i : Nat} (h : i < 64) :
    (opIns l p x o).getLsbD i = if p.toNat ≤ i ∧ i ≤ p.toNat + l.toNat then x.getLsbD (i - p.toNat) else o.getLsbD i := by
  simp only [opIns, BitVec.getLsbD_or, BitVec.getLsbD_and, BitVec.getLsbD_not, BitVec.getLsbD_shiftLeft, getLsbD_lowMask, h,
    decide_true, Bool.true_and]
  by_cases hp : p.toNat ≤ i
  · have hi : i - p.toNat < 64 := by omega
    by_cases hq : i ≤ p.toNat + l.toNat
    · have hin : i - p.toNat < l.toNat + 1 := by omega
      simp only [hp, hq, hi, hin, Nat.not_lt.2 hp, decide_true, decide_false, Bool.not_true, Bool.not_false, Bool.and_true, Bool.and_false,
        Bool.true_and, Bool.false_or, and_self, if_true]
    · have hout : ¬ i - p.toNat < l.toNat + 1 := by omega
      simp only [hq, hout, decide_false, Bool.not_false, Bool.and_true, Bool.and_false, Bool.or_false, and_false, if_false]
  · simp only [hp, Nat.not_le.1 hp, decide_true, Bool.not_true, Bool.not_false, Bool.and_true, Bool.false_and, Bool.or_false, false_and,
      if_false]

theorem exec_ins {d a l p : BitVec 6} {x o : Dword} {s s₁ s₂ s₃ : State} (ha : readS a s = .ok (x, s₁))
    (ho : readS d s₁ = .ok (o, s₂)) (hd : writeS d (opIns l p x o) s₂ = .ok ((), s₃)) :
    exec (.ins d a l p) s = .next (s₃.entered (opIns l p x o)).passed := by
  change execIns d a l p s = _
  refine run_ok ?_
  rw [M.bind_ok ha, M.bind_ok ho]
  exact finish_ok hd

theorem fieldResults : Sys2Proof.Claims.FieldResults := fun l p _ =>
  ⟨.of_alu2 fun _ _ _ => rfl, .of_alu2 fun _ _ _ => rfl, fun _ _ _ _ _ _ _ _ => exec_ins,
    fun x o _ hi => ⟨getLsbD_opExt l p x hi, getLsbD_opExtS l p x hi, getLsbD_opIns l p x o hi⟩⟩

/-- Settles O4, by the shapes in which the words complete and the bits of what they compute. -/
theorem integerWords : Obligations.IntegerWords := by
  unfold Obligations.IntegerWords
  exact ⟨integerResults, bitCounts, saturatingResults, immediateResults, fieldResults⟩

end Sys2Proof.Machine
end

/-! ## Exact values and their rounding to the binary formats (R29 to R31, Tables 2-2 and 2-3) -/

section
namespace Sys2Proof.Machine

/-! ### Scaled rationals -/

theorem rat_mul_le_mul_right {a b c : Rat} (hc : 0 < c) : a * c ≤ b * c ↔ a ≤ b :=
  ⟨fun h => Rat.le_of_mul_le_mul_right h hc, fun h => Rat.mul_le_mul_of_nonneg_right h (Rat.le_of_lt hc)⟩

theorem rat_mul_right_inj {a b c : Rat} (hc : 0 < c) : a * c = b * c ↔ a = b := by
  have hne := Rat.ne_of_gt hc
  exact ⟨fun h => by grind, fun h => by rw [h]⟩

theorem rat_sub_mul (a b c : Rat) : (a - b) * c = a * c - b * c := by grind

theorem natCast_sub_rat {a b : Nat} (h : b ≤ a) : ((a - b : Nat) : Rat) = a - b := by
  have hsum := Rat.natCast_add (a - b) b
  rw [Nat.sub_add_cancel h] at hsum
  grind

/-! ### Powers of two -/

theorem natCast_two_pow_pos (n : Nat) : (0 : Rat) < ((2 ^ n : Nat) : Rat) := Rat.natCast_pos.2 (Nat.two_pow_pos n)

theorem twoTo_natCast (n : Nat) : twoTo n = ((2 ^ n : Nat) : Rat) := by rw [twoTo, if_pos (Int.natCast_nonneg n), Int.toNat_natCast]

theorem twoTo_neg_natCast (n : Nat) : twoTo (-(n : Int)) = 1 / ((2 ^ n : Nat) : Rat) := by
  cases n with
  | zero =>
    rw [show -((0 : Nat) : Int) = (0 : Nat) from rfl, twoTo_natCast, show ((2 ^ 0 : Nat) : Rat) = 1 from rfl]
    grind
  | succ n => rw [twoTo, if_neg (by omega), Int.neg_neg, Int.toNat_natCast]

theorem natCast_two_pow_succ (n : Nat) : ((2 ^ (n + 1) : Nat) : Rat) = 2 * ((2 ^ n : Nat) : Rat) := by
  rw [Nat.pow_succ', Rat.natCast_mul]
  rfl

theorem twoTo_succ (e : Int) : twoTo (e + 1) = 2 * twoTo e := by
  obtain ⟨n, rfl | rfl⟩ : ∃ n : Nat, e = n ∨ e = -((n + 1 : Nat) : Int) :=
    ⟨if 0 ≤ e then e.toNat else (-e - 1).toNat, by split <;> omega⟩
  · rw [← Int.natCast_succ, twoTo_natCast, twoTo_natCast, natCast_two_pow_succ]
  · have hne := Rat.ne_of_gt (natCast_two_pow_pos n)
    rw [twoTo_neg_natCast, natCast_two_pow_succ, show -((n + 1 : Nat) : Int) + 1 = -(n : Int) by omega, twoTo_neg_natCast]
    grind

theorem twoTo_add_natCast (e : Int) (n : Nat) : twoTo (e + n) = twoTo e * ((2 ^ n : Nat) : Rat) := by
  induction n with
  | zero => rw [Int.natCast_zero, Int.add_zero]; exact (Rat.mul_one _).symm
  | succ n ih => rw [Int.natCast_succ, ← Int.add_assoc, twoTo_succ, ih, natCast_two_pow_succ]; grind

theorem twoTo_pos (e : Int) : 0 < twoTo e := by
  unfold twoTo
  split
  · exact natCast_two_pow_pos _
  · rw [Rat.div_def, Rat.one_mul]
    exact Rat.inv_pos.2 (natCast_two_pow_pos _)

theorem twoTo_add (a b : Int) : twoTo (a + b) = twoTo a * twoTo b := by
  obtain ⟨n, hn⟩ : ∃ n : Nat, 0 ≤ b + n := ⟨(-b).toNat, by omega⟩
  obtain ⟨k, hk⟩ := Int.eq_ofNat_of_zero_le hn
  have hsum := twoTo_add_natCast (a + b) n
  have hb := twoTo_add_natCast b n
  have hne := Rat.ne_of_gt (natCast_two_pow_pos n)
  rw [Int.add_assoc, hk, twoTo_add_natCast] at hsum
  rw [hk, twoTo_natCast] at hb
  grind

theorem twoTo_mono {a b : Int} (h : a ≤ b) : twoTo a ≤ twoTo b := by
  obtain ⟨n, rfl⟩ : ∃ n : Nat, b = a + n := ⟨(b - a).toNat, by omega⟩
  have hone : ((1 : Nat) : Rat) ≤ ((2 ^ n : Nat) : Rat) := Rat.natCast_le_natCast.2 (Nat.one_le_two_pow)
  have hmul := Rat.mul_le_mul_of_nonneg_left hone (Rat.le_of_lt (twoTo_pos a))
  rw [twoTo_add_natCast]
  rwa [show ((1 : Nat) : Rat) = 1 from rfl, Rat.mul_one] at hmul

/-- A number in units of a grid. -/
theorem mul_twoTo_sub (x : Rat) (e q : Int) : x * twoTo (e - q) * twoTo q = x * twoTo e := by
  rw [Rat.mul_assoc, ← twoTo_add, Int.sub_add_cancel]

/-! ### Exact values -/

theorem sgn_cast (neg : Bool) (m : Nat) : ((sgn neg m : Int) : Rat) = if neg then -(m : Rat) else m := by
  cases neg <;> rfl

/-- A finite value is its signed integer times its power of two. -/
theorem number_fin (neg : Bool) (m : Nat) (e : Int) : Val.number (.fin neg m e) = ((sgn neg m : Int) : Rat) * twoTo e := by
  rw [Val.number, sgn_cast]

theorem sgn_mul (neg : Bool) (m n : Nat) : sgn neg (m * n) = sgn neg m * n := by
  cases neg
  · exact Int.natCast_mul m n
  · exact (congrArg Neg.neg (Int.natCast_mul m n)).trans (Int.neg_mul ..).symm

/-- A finite value on a grid at or below its own exponent. -/
theorem number_fin_on_grid (neg : Bool) (m : Nat) {e q : Int} (h : q ≤ e) :
    Val.number (.fin neg m e) = ((sgn neg (m * 2 ^ (e - q).toNat) : Int) : Rat) * twoTo q := by
  obtain ⟨n, rfl⟩ : ∃ n : Nat, e = q + n := ⟨(e - q).toNat, by omega⟩
  rw [number_fin, sgn_mul, show q + (n : Int) - q = n by omega, Int.toNat_natCast, Rat.intCast_mul, twoTo_add_natCast, Rat.intCast_natCast]
  grind

theorem number_ofInt (i : Int) (e : Int) (z : Bool) : Val.number (ofInt i e z) = (i : Rat) * twoTo e := by
  have hsgn : sgn (decide (i < 0)) i.natAbs = i := by
    unfold sgn
    split <;> grind
  unfold ofInt
  split
  case isTrue h =>
    rw [number_fin, h]
    cases z <;> rfl
  case isFalse h => rw [number_fin, hsgn]

/-- An integer times a power of two is a finite value, with the sign of the integer, or for zero the given one. -/
theorem ofInt_eq_fin (i e : Int) (z : Bool) : ∃ c k, ofInt i e z = .fin c k e ∧ (k = 0 → c = z) := by
  unfold ofInt
  split
  case isTrue h => exact ⟨z, 0, rfl, fun _ => rfl⟩
  case isFalse h => exact ⟨_, _, rfl, fun hk => absurd (Int.natAbs_eq_zero.1 hk) h⟩

theorem vAdd_fin (a b : Bool) (m n : Nat) (e g : Int) : ∃ c k h, vAdd (.fin a m e) (.fin b n g) = (.fin c k h, 0) ∧
    Val.number (.fin c k h) = Val.number (.fin a m e) + Val.number (.fin b n g) ∧ (k = 0 → c = (a && b && m == 0 && n == 0)) := by
  obtain ⟨c, k, hi, hz⟩ := ofInt_eq_fin (sgn a (m * 2 ^ (e - min e g).toNat) + sgn b (n * 2 ^ (g - min e g).toNat)) (min e g)
    (a && b && m == 0 && n == 0)
  refine ⟨c, k, min e g, by rw [vAdd, hi], ?_, hz⟩
  rw [← hi, number_ofInt, number_fin_on_grid a m (Int.min_le_left e g), number_fin_on_grid b n (Int.min_le_right e g), Rat.intCast_add,
    Rat.add_mul]

theorem vMul_fin_number (a b : Bool) (m n : Nat) (e g : Int) :
    Val.number (.fin (a != b) (m * n) (e + g)) = Val.number (.fin a m e) * Val.number (.fin b n g) := by
  have hsgn : sgn (a != b) (m * n) = sgn a m * sgn b n := by
    cases a <;> cases b <;> simp only [sgn, bne_self_eq_false, Bool.false_bne, Bool.true_bne, Bool.not_false, Bool.false_eq_true, if_false,
      if_true, Int.natCast_mul, Int.neg_mul, Int.mul_neg, Int.neg_neg]
  rw [number_fin, number_fin, number_fin, hsgn, twoTo_add, Rat.intCast_mul]
  grind

theorem vCmp_fin (a b : Bool) (m n : Nat) (e g : Int) : vCmp (.fin a m e) (.fin b n g) =
    some (if Val.number (.fin a m e) < Val.number (.fin b n g) then .lt
      else if Val.number (.fin a m e) = Val.number (.fin b n g) then .eq else .gt) := by
  have hq := twoTo_pos (min e g)
  rw [number_fin_on_grid a m (Int.min_le_left e g), number_fin_on_grid b n (Int.min_le_right e g), vCmp]
  simp only [Rat.mul_lt_mul_right hq, rat_mul_right_inj hq, Rat.intCast_inj, Rat.intCast_lt_intCast, compare, compareOfLessAndEq]

/-- The lesser of two numbers. -/
theorem vPick_fin_of_lt {a b : Bool} {m n : Nat} {e g : Int} (h : Val.number (.fin a m e) < Val.number (.fin b n g)) :
    vPick false (.fin a m e) (.fin b n g) = .fin a m e ∧ vPick true (.fin a m e) (.fin b n g) = .fin b n g := by
  simp only [vPick, vCmp_fin, if_pos h, Bool.false_eq_true, if_false, if_true, and_self]

/-- Two zeros are equal numbers: the choice goes by the sign. -/
theorem vPick_zeros (max a b : Bool) (e g : Int) :
    vPick max (.fin a 0 e) (.fin b 0 g) = if a = max then .fin b 0 g else .fin a 0 e := by
  have hz (c : Bool) (k : Int) : Val.number (.fin c 0 k) = 0 := by
    rw [number_fin, show sgn c 0 = 0 by cases c <;> rfl]
    exact Rat.zero_mul _
  rw [vPick, vCmp_fin, hz, hz, if_neg Rat.lt_irrefl, if_pos rfl]
  rfl

theorem exactArithmetic : Sys2Proof.Claims.ExactArithmetic := by
  refine ⟨vAdd_fin, fun a b m n e g => ⟨m * n, e + g, rfl, vMul_fin_number a b m n e g⟩, ?nan, ?inf, fun _ _ _ => rfl,
    fun a b m n e g => ⟨vCmp_fin a b m n e g, vPick_fin_of_lt⟩, ?order, ?unordered⟩
  case nan => intro v; cases v <;> exact ⟨rfl, rfl, rfl, rfl⟩
  case inf => intro a b m e; exact ⟨rfl, rfl, rfl, rfl, rfl, rfl⟩
  case order =>
    intro m n e g
    exact ⟨rfl, rfl, vPick_zeros .., vPick_zeros .., vPick_zeros .., vPick_zeros ..⟩
  case unordered =>
    intro v
    cases v <;> exact ⟨rfl, rfl, rfl, rfl, rfl, rfl⟩

/-! ### Rounding to an integer -/

/-- Integer `n` is the nearest to `y`, and the even one of two equally near (R31). -/
structure NearestNat (y : Rat) (n : Nat) : Prop where
  below : 2 * (n : Rat) ≤ 2 * y + 1
  above : 2 * y ≤ 2 * n + 1
  even : 2 * (n : Rat) = 2 * y + 1 ∨ 2 * y = 2 * n + 1 → n % 2 = 0

theorem NearestNat.self (n : Nat) : NearestNat n n := ⟨by grind, by grind, by grind⟩

/-- Half of a quotient's divisor tells which integer is nearest. -/
theorem nearestNat_div {m d n : Nat} (hd : 0 < d) (below : 2 * n * d ≤ 2 * m + d) (above : 2 * m ≤ 2 * n * d + d)
    (even : 2 * n * d = 2 * m + d ∨ 2 * m = 2 * n * d + d → n % 2 = 0) : NearestNat ((m : Rat) / d) n := by
  have hd' : (0 : Rat) < d := Rat.natCast_pos.2 hd
  have hm : (m : Rat) / d * d = m := Rat.div_mul_cancel (Rat.ne_of_gt hd')
  have hdouble (k : Nat) : ((2 * k : Nat) : Rat) = 2 * (k : Rat) := Rat.natCast_mul 2 k
  have hlow : ((2 * n * d : Nat) : Rat) = 2 * (n : Rat) * d := by rw [Rat.natCast_mul, hdouble]
  have hb := Rat.natCast_le_natCast.2 below
  have ha := Rat.natCast_le_natCast.2 above
  rw [hlow, Rat.natCast_add, hdouble] at hb
  rw [Rat.natCast_add, hlow, hdouble] at ha
  refine ⟨Rat.le_of_mul_le_mul_right (c := d) (by grind) hd', Rat.le_of_mul_le_mul_right (c := d) (by grind) hd',
    fun h => even (h.imp (fun h => ?_) fun h => ?_)⟩
  · rw [← Rat.natCast_inj, hlow, Rat.natCast_add, hdouble]
    grind
  · rw [← Rat.natCast_inj, Rat.natCast_add, hlow, hdouble]
    grind

theorem roundTo_fine {m : Nat} {e q : Int} (h : q ≤ e) : roundTo m e q = (m * 2 ^ (e - q).toNat, false) := by
  rw [roundTo, if_pos h]

/-- A number on a finer grid is its quotient, rounded. -/
theorem roundTo_coarse (m : Nat) {e q : Int} (h : e < q) : ∃ n nx, roundTo m e q = (n, nx) ∧
    NearestNat ((m : Rat) / (2 ^ (q - e).toNat : Nat)) n ∧ (nx = true ↔ m ≠ n * 2 ^ (q - e).toNat) := by
  rw [roundTo, if_neg (Int.not_le.2 h)]
  generalize (q - e).toNat = d
  have hpos : 0 < 2 ^ d := Nat.two_pow_pos d
  dsimp only
  split
  case isTrue hlog =>
    have hm : 2 * m < 2 ^ d := by
      have hlt := Nat.lt_log2_self (n := m)
      have hle := Nat.pow_le_pow_right Nat.two_pos hlog
      rw [Nat.pow_succ, Nat.pow_succ] at *
      omega
    refine ⟨_, _, rfl, nearestNat_div hpos (by omega) (by omega) (by omega), ?_⟩
    rw [Nat.zero_mul, bne_iff_ne]
  case isFalse =>
    have hdiv := Nat.div_add_mod m (2 ^ d)
    have hr := Nat.mod_lt m hpos
    generalize 2 ^ d = D at *
    generalize m / D = k, m % D = r at *
    have hc : D * k = k * D := Nat.mul_comm ..
    refine ⟨_, _, rfl, ?_⟩
    simp only [Bool.or_eq_true, Bool.and_eq_true, decide_eq_true_eq, beq_iff_eq, bne_iff_ne]
    split
    case isTrue hup =>
      have hk : 2 * (k + 1) * D = 2 * (k * D) + 2 * D := by grind
      refine ⟨nearestNat_div hpos (by omega) (by omega) (by omega), ?_⟩
      rw [Nat.add_mul]
      omega
    case isFalse hup =>
      have hk : 2 * k * D = 2 * (k * D) := Nat.mul_assoc ..
      exact ⟨nearestNat_div hpos (by omega) (by omega) (by omega), by omega⟩

/-- What rounding to a grid answers: the nearest multiple, and whether it differs. -/
theorem roundTo_nearest (m : Nat) (e q : Int) : NearestNat ((m : Rat) * twoTo (e - q)) (roundTo m e q).1 ∧
    ((roundTo m e q).2 = true ↔ (m : Rat) * twoTo (e - q) ≠ (roundTo m e q).1) := by
  by_cases h : q ≤ e
  · have hy : (m : Rat) * twoTo (e - q) = (m * 2 ^ (e - q).toNat : Nat) := by
      rw [Rat.natCast_mul, ← twoTo_natCast, Int.toNat_of_nonneg (by omega)]
    rw [roundTo_fine h, hy]
    exact ⟨.self _, by simp only [Bool.false_eq_true, ne_eq, not_true]⟩
  · obtain ⟨n, nx, hr, hn, hx⟩ := roundTo_coarse m (Int.not_le.1 h)
    have hne := Rat.ne_of_gt (natCast_two_pow_pos (q - e).toNat)
    have hy : (m : Rat) * twoTo (e - q) = m / (2 ^ (q - e).toNat : Nat) := by
      rw [show e - q = -((q - e).toNat : Int) by omega, twoTo_neg_natCast, Rat.div_def, Rat.div_def, Rat.one_mul]
    rw [hr, hy]
    refine ⟨hn, hx.trans (not_congr ?_)⟩
    rw [← Rat.natCast_inj, Rat.natCast_mul]
    grind

/-! ### The codes of a binary format in order -/

/-- The exponent of the grid of codes `j * 2^fb` to `(j + 2) * 2^fb`: binade `j + 1`, with the subnormal numbers where `j` is 0. -/
def FloatShape.unitExp (f : FloatShape) (j : Nat) : Int := j + 1 - f.bias - f.fb

/-- The unit of that grid. -/
def FloatShape.unit (f : FloatShape) (j : Nat) : Rat := twoTo (f.unitExp j)

theorem FloatShape.unitExp_succ (f : FloatShape) (j : Nat) : f.unitExp (j + 1) = f.unitExp j + 1 := by
  rw [FloatShape.unitExp, FloatShape.unitExp]; omega

theorem FloatShape.unit_pos (f : FloatShape) (j : Nat) : 0 < f.unit j := twoTo_pos _

theorem FloatShape.unit_succ (f : FloatShape) (j : Nat) : f.unit (j + 1) = 2 * f.unit j := by
  rw [FloatShape.unit, FloatShape.unit, f.unitExp_succ, twoTo_succ]

/-- A code with a fraction part of its own. -/
theorem FloatShape.size_parts (f : FloatShape) {ex fr : Nat} (h : fr < 2 ^ f.fb) : f.size (ex * 2 ^ f.fb + fr) =
    if ex = 0 then (fr : Rat) * f.unit 0 else ((2 ^ f.fb + fr : Nat) : Rat) * f.unit (ex - 1) := by
  rw [FloatShape.size, Nat.mul_comm ex, Nat.mul_add_div (Nat.two_pow_pos _), Nat.div_eq_of_lt h,
    Nat.mul_add_mod, Nat.mod_eq_of_lt h, Nat.add_zero, FloatShape.unit,
    FloatShape.unit, FloatShape.unitExp, FloatShape.unitExp]
  split
  · rw [Int.natCast_zero, Int.zero_add]
  · rw [show ((ex - 1 : Nat) : Int) + 1 = ex by omega]

/-- The codes of one binade, and those of the subnormal numbers with the first, lie on one grid: code `j * 2^fb + n` is the `n`-th
multiple of its unit. -/
theorem FloatShape.size_grid (f : FloatShape) {j n : Nat} (hn : n ≤ 2 * 2 ^ f.fb) (hj : 2 ^ f.fb ≤ n ∨ j = 0) :
    f.size (j * 2 ^ f.fb + n) = (n : Rat) * f.unit j := by
  rcases Nat.lt_or_ge n (2 ^ f.fb) with h | h
  · obtain rfl := hj.resolve_left (Nat.not_le.2 h)
    rw [f.size_parts h, if_pos rfl]
  obtain ⟨k, rfl⟩ := Nat.exists_eq_add_of_le h
  rcases Nat.lt_or_ge k (2 ^ f.fb) with h' | h'
  · rw [show j * 2 ^ f.fb + (2 ^ f.fb + k) = (j + 1) * 2 ^ f.fb + k by grind, f.size_parts h', if_neg (Nat.succ_ne_zero j),
      Nat.add_sub_cancel]
  · obtain rfl : k = 2 ^ f.fb := by omega
    rw [show j * 2 ^ f.fb + (2 ^ f.fb + 2 ^ f.fb) = (j + 2) * 2 ^ f.fb + 0 by grind, f.size_parts (Nat.two_pow_pos _),
      if_neg (by omega), Nat.add_sub_assoc (by omega), f.unit_succ]
    grind

/-- Every code has a place on a grid that its successor shares. -/
theorem FloatShape.exists_grid (f : FloatShape) (c : Nat) :
    ∃ j n, c = j * 2 ^ f.fb + n ∧ n + 1 ≤ 2 * 2 ^ f.fb ∧ (2 ^ f.fb ≤ n ∨ j = 0) := by
  have hmod := Nat.mod_lt c (Nat.two_pow_pos f.fb)
  have hdiv := Nat.div_add_mod' c (2 ^ f.fb)
  cases h : c / 2 ^ f.fb with
  | zero => exact ⟨0, c, by omega, by rw [h] at hdiv; omega, .inr rfl⟩
  | succ j =>
    refine ⟨j, 2 ^ f.fb + c % 2 ^ f.fb, ?_, by omega, .inl (by omega)⟩
    rw [h, Nat.succ_mul] at hdiv
    omega

theorem FloatShape.size_lt_succ (f : FloatShape) (c : Nat) : f.size c < f.size (c + 1) := by
  obtain ⟨j, n, rfl, hn, hj⟩ := f.exists_grid c
  rw [f.size_grid (by omega) hj, Nat.add_assoc, f.size_grid hn (hj.imp_left (by omega))]
  exact Rat.mul_lt_mul_of_pos_right (Rat.natCast_lt_natCast.2 (Nat.lt_succ_self n)) (f.unit_pos j)

theorem FloatShape.size_mono (f : FloatShape) {c d : Nat} (h : c ≤ d) : f.size c ≤ f.size d := by
  induction h with
  | refl => exact Rat.le_refl
  | step _ ih => exact Rat.le_trans ih (Rat.le_of_lt (f.size_lt_succ _))

/-- The code below: one unit less, or half a unit where a binade begins. -/
theorem FloatShape.size_pred_grid (f : FloatShape) {j n : Nat} (hn : n ≤ 2 * 2 ^ f.fb) (hj : 2 ^ f.fb ≤ n ∨ j = 0)
    (h0 : 0 < j * 2 ^ f.fb + n) : ∃ a : Rat, f.size (j * 2 ^ f.fb + n - 1) = a * f.unit j ∧
      (a = n - 1 ∨ a = n - 1 / 2 ∧ n = 2 ^ f.fb ∧ j ≠ 0) := by
  have hP := Nat.two_pow_pos f.fb
  by_cases hin : 2 ^ f.fb < n ∨ j = 0
  · have hpos : 1 ≤ n := by
      rcases hin with h | rfl
      · omega
      · rwa [Nat.zero_mul, Nat.zero_add] at h0
    refine ⟨n - 1, ?_, .inl rfl⟩
    rw [Nat.add_sub_assoc hpos, f.size_grid (by omega) (hin.imp_left (by omega)), natCast_sub_rat hpos]
    rfl
  · obtain ⟨hle, hj0⟩ := not_or.1 hin
    obtain rfl : n = 2 ^ f.fb := by omega
    obtain ⟨i, rfl⟩ := Nat.exists_eq_succ_of_ne_zero hj0
    refine ⟨_, ?_, .inr ⟨rfl, rfl, hj0⟩⟩
    rw [show i.succ * 2 ^ f.fb + 2 ^ f.fb - 1 = i * 2 ^ f.fb + (2 * 2 ^ f.fb - 1) by rw [Nat.succ_mul]; omega,
      f.size_grid (by omega) (.inl (by omega)), natCast_sub_rat (by omega),
      Rat.natCast_mul, f.unit_succ]
    grind

/-- The code above: one unit more, or two where a binade ends. -/
theorem FloatShape.size_succ_grid (f : FloatShape) {j n : Nat} (hn : n ≤ 2 * 2 ^ f.fb) (hj : 2 ^ f.fb ≤ n ∨ j = 0) :
    ∃ b : Rat, f.size (j * 2 ^ f.fb + n + 1) = b * f.unit j ∧ (b = n + 1 ∨ b = n + 2) := by
  have hP := Nat.two_pow_pos f.fb
  rcases Nat.lt_or_ge n (2 * 2 ^ f.fb) with h | h
  · refine ⟨n + 1, ?_, .inl rfl⟩
    rw [Nat.add_assoc, f.size_grid h (hj.imp_left (by omega))]
    exact congrArg (· * f.unit j) (Rat.natCast_add n 1)
  · obtain rfl : n = 2 * 2 ^ f.fb := by omega
    refine ⟨_, ?_, .inr rfl⟩
    rw [show j * 2 ^ f.fb + 2 * 2 ^ f.fb + 1 = (j + 1) * 2 ^ f.fb + (2 ^ f.fb + 1) by grind,
      f.size_grid (by omega) (.inl (by omega)), f.unit_succ]
    grind

/-- The multiple of a grid's unit nearest to a value is the code nearest to it, where the value does not lie below the grid's
binade. -/
theorem FloatShape.nearest_grid (f : FloatShape) (hfb : 1 ≤ f.fb) {j n : Nat} {y : Rat} (hn : n ≤ 2 * 2 ^ f.fb)
    (hj : 2 ^ f.fb ≤ n ∨ j = 0) (hy : ((2 ^ f.fb : Nat) : Rat) ≤ y ∨ j = 0) (h : NearestNat y n) :
    let c := j * 2 ^ f.fb + n
    let x := y * f.unit j
    (0 < c → f.size (c - 1) + f.size c ≤ 2 * x) ∧ 2 * x ≤ f.size c + f.size (c + 1) ∧
    ((0 < c ∧ f.size (c - 1) + f.size c = 2 * x) ∨ 2 * x = f.size c + f.size (c + 1) → c % 2 = 0) := by
  intro c x
  have hu := f.unit_pos j
  have hx : 2 * x = 2 * y * f.unit j := (Rat.mul_assoc ..).symm
  have hc : f.size c = n * f.unit j := f.size_grid hn hj
  have heven : n % 2 = 0 → c % 2 = 0 := fun h => by
    rw [show c = 2 * (j * 2 ^ (f.fb - 1)) + n by rw [Nat.mul_left_comm, ← Nat.pow_succ', Nat.succ_eq_add_one, Nat.sub_add_cancel hfb]]
    omega
  obtain ⟨b, hb, hbn⟩ := f.size_succ_grid hn hj
  rw [hx, hc, hb, ← Rat.add_mul, rat_mul_le_mul_right hu, rat_mul_right_inj hu]
  have habove : 2 * y ≤ n + b ∧ (2 * y = n + b → n % 2 = 0) := by
    have := h.above
    rcases hbn with rfl | rfl
    · exact ⟨by grind, fun e => h.even (.inr (by grind))⟩
    · exact ⟨by grind, fun e => by grind⟩
  have hbelow : 0 < c → f.size (c - 1) + n * f.unit j ≤ 2 * y * f.unit j ∧
      (f.size (c - 1) + n * f.unit j = 2 * y * f.unit j → n % 2 = 0) := fun h0 => by
    obtain ⟨a, ha, han⟩ := f.size_pred_grid hn hj h0
    rw [ha, ← Rat.add_mul, rat_mul_le_mul_right hu, rat_mul_right_inj hu]
    have := h.below
    rcases han with rfl | ⟨rfl, rfl, hj0⟩
    · exact ⟨by grind, fun e => h.even (.inl (by grind))⟩
    · have := hy.resolve_right hj0
      exact ⟨by grind, fun e => by grind⟩
  refine ⟨fun h0 => (hbelow h0).1, habove.1, fun e => heven ?_⟩
  rcases e with ⟨h0, e⟩ | e
  · exact (hbelow h0).2 e
  · exact habove.2 e

/-! ### Rounding to a binary format -/

/-- The grid on which a number is rounded: that of its binade, or of the subnormal numbers. -/
def FloatShape.gridOf (f : FloatShape) (m : Nat) (e : Int) : Nat := ((Nat.log2 m : Int) + e + f.bias - 1).toNat

/-- The multiple of the grid's unit to which the number is rounded, and whether it differs. -/
def FloatShape.onGrid (f : FloatShape) (m : Nat) (e : Int) : Nat × Bool := roundTo m e (f.unitExp (f.gridOf m e))

/-- The number is tiny after rounding: it does not round up to the least normal number with an unbounded exponent (R31). -/
def FloatShape.tiny (f : FloatShape) (m : Nat) (e : Int) : Bool :=
  decide ((Nat.log2 m : Int) + e < 1 - f.bias) &&
    !(decide ((Nat.log2 m : Int) + e + 1 = 1 - f.bias) && (roundTo m e ((Nat.log2 m : Int) + e - f.fb)).1 == 2 ^ (f.fb + 1))

/-- The flags of a rounding without overflow. -/
def FloatShape.lossFlags (f : FloatShape) (m : Nat) (e : Int) : Flags :=
  if (f.onGrid m e).2 then fNx ||| (if f.tiny m e then fUf else 0) else 0

/-- The code of `n * 2^q` in its fields, and of Inf where the exponent has no room, as `roundFin` packs it. -/
def FloatShape.packed (f : FloatShape) (neg : Bool) (n : Nat) (q : Int) (flags : Flags) : Nat × Flags :=
  let sign := if neg then 2 ^ (f.eb + f.fb) else 0
  let ex := (q + f.fb + f.bias).toNat
  if n < 2 ^ f.fb then (sign + n, flags)
  else if f.maxExp ≤ ex then (f.infCode neg, fOf ||| fNx)
  else (sign + ex * 2 ^ f.fb + (n - 2 ^ f.fb), flags)

/-- A code below that of Inf, and Inf from there on, as the grids count the codes. -/
def FloatShape.clamped (f : FloatShape) (neg : Bool) (c : Nat) (flags : Flags) : Nat × Flags :=
  if f.infinity ≤ c then ((if neg then 2 ^ (f.eb + f.fb) else 0) + f.infinity, fOf ||| fNx)
  else ((if neg then 2 ^ (f.eb + f.fb) else 0) + c, flags)

theorem FloatShape.infCode_eq (f : FloatShape) (neg : Bool) : f.infCode neg = (if neg then 2 ^ (f.eb + f.fb) else 0) + f.infinity := by
  rw [FloatShape.infCode, FloatShape.infinity, FloatShape.maxExp, Nat.add_comm]

theorem FloatShape.roundFin_packed (f : FloatShape) (neg : Bool) {m : Nat} (e : Int) (hm : m ≠ 0) : f.roundFin neg m e =
    if (f.onGrid m e).1 = 2 ^ (f.fb + 1) then f.packed neg (2 ^ f.fb) (f.unitExp (f.gridOf m e) + 1) (f.lossFlags m e)
    else f.packed neg (f.onGrid m e).1 (f.unitExp (f.gridOf m e)) (f.lossFlags m e) := by
  have hq : max ((Nat.log2 m : Int) + e - f.fb) (1 - f.bias - f.fb) = f.unitExp (f.gridOf m e) := by
    rw [FloatShape.unitExp, FloatShape.gridOf]; omega
  rw [FloatShape.roundFin, if_neg hm]
  simp only [hq]
  rw [← FloatShape.onGrid]
  split <;> rfl

theorem FloatShape.packed_subnormal (f : FloatShape) (neg : Bool) {n : Nat} (q : Int) (flags : Flags) (hn : n < 2 ^ f.fb)
    (hinf : 2 ^ f.fb ≤ f.infinity) : f.packed neg n q flags = f.clamped neg n flags := by
  rw [FloatShape.packed, if_pos hn, FloatShape.clamped, if_neg (Nat.not_le.2 (Nat.lt_of_lt_of_le hn hinf))]

theorem FloatShape.packed_normal (f : FloatShape) (neg : Bool) {j n : Nat} (flags : Flags) (hn : 2 ^ f.fb ≤ n) (hn' : n < 2 * 2 ^ f.fb) :
    f.packed neg n (f.unitExp j) flags = f.clamped neg (j * 2 ^ f.fb + n) flags := by
  have hP := Nat.two_pow_pos f.fb
  have hex : (f.unitExp j + f.fb + f.bias).toNat = j + 1 := by rw [FloatShape.unitExp]; omega
  have hcode : j * 2 ^ f.fb + n = (j + 1) * 2 ^ f.fb + (n - 2 ^ f.fb) := by rw [Nat.succ_mul]; omega
  have hover : f.infinity ≤ (j + 1) * 2 ^ f.fb + (n - 2 ^ f.fb) ↔ f.maxExp ≤ j + 1 := by
    rw [FloatShape.infinity, ← Nat.le_div_iff_mul_le hP, Nat.mul_comm, Nat.mul_add_div hP, Nat.div_eq_of_lt (by omega), Nat.add_zero]
    rfl
  simp only [FloatShape.packed, FloatShape.clamped, if_neg (Nat.not_lt.2 hn), hex, hcode, hover, f.infCode_eq, Nat.add_assoc]

/-- Rounding takes the code that stands at the rounded multiple of the grid. -/
theorem FloatShape.roundFin_eq (f : FloatShape) (neg : Bool) {m : Nat} (e : Int) (hm : m ≠ 0) (hinf : 2 ^ f.fb ≤ f.infinity)
    (hn : (f.onGrid m e).1 ≤ 2 * 2 ^ f.fb) (hj : 2 ^ f.fb ≤ (f.onGrid m e).1 ∨ f.gridOf m e = 0) :
    f.roundFin neg m e = f.clamped neg (f.gridOf m e * 2 ^ f.fb + (f.onGrid m e).1) (f.lossFlags m e) := by
  have hP := Nat.two_pow_pos f.fb
  rw [f.roundFin_packed neg e hm, Nat.pow_succ']
  split
  case isTrue htop =>
    have hcode : f.gridOf m e * 2 ^ f.fb + 2 * 2 ^ f.fb = (f.gridOf m e + 1) * 2 ^ f.fb + 2 ^ f.fb := by grind
    rw [← f.unitExp_succ, f.packed_normal neg _ (Nat.le_refl _) (by omega), htop, hcode]
  case isFalse hne =>
    rcases Nat.lt_or_ge (f.onGrid m e).1 (2 ^ f.fb) with h | h
    · rw [f.packed_subnormal neg _ _ h hinf, hj.resolve_left (Nat.not_le.2 h), Nat.zero_mul, Nat.zero_add]
    · exact f.packed_normal neg _ h (by omega)

/-! ### Where a number lies -/

theorem twoTo_log2_le {m : Nat} (hm : m ≠ 0) (e : Int) : twoTo ((Nat.log2 m : Int) + e) ≤ m * twoTo e := by
  rw [twoTo_add, twoTo_natCast, rat_mul_le_mul_right (twoTo_pos e)]
  exact Rat.natCast_le_natCast.2 (Nat.log2_self_le hm)

theorem lt_twoTo_log2 (m : Nat) (e : Int) : (m : Rat) * twoTo e < twoTo ((Nat.log2 m : Int) + e + 1) := by
  rw [show (Nat.log2 m : Int) + e + 1 = (Nat.log2 m + 1 : Nat) + e by omega, twoTo_add, twoTo_natCast,
    Rat.mul_lt_mul_right (twoTo_pos e)]
  exact Rat.natCast_lt_natCast.2 Nat.lt_log2_self

/-- The number in units of its grid. -/
def FloatShape.inUnits (f : FloatShape) (m : Nat) (e : Int) : Rat := m * twoTo (e - f.unitExp (f.gridOf m e))

theorem FloatShape.inUnits_mul_unit (f : FloatShape) (m : Nat) (e : Int) : f.inUnits m e * f.unit (f.gridOf m e) = m * twoTo e :=
  mul_twoTo_sub ..

theorem FloatShape.inUnits_lt (f : FloatShape) (m : Nat) (e : Int) : f.inUnits m e < (2 * 2 ^ f.fb : Nat) := by
  rw [← Nat.pow_succ', ← twoTo_natCast]
  refine Std.lt_of_lt_of_le (lt_twoTo_log2 m _) (twoTo_mono ?_)
  rw [FloatShape.unitExp, FloatShape.gridOf]
  omega

theorem FloatShape.le_inUnits (f : FloatShape) {m : Nat} (e : Int) (hm : m ≠ 0) :
    ((2 ^ f.fb : Nat) : Rat) ≤ f.inUnits m e ∨ f.gridOf m e = 0 := by
  refine (Nat.eq_zero_or_pos (f.gridOf m e)).symm.imp_left fun hj => ?_
  rw [← twoTo_natCast]
  refine Rat.le_trans (twoTo_mono ?_) (twoTo_log2_le hm _)
  rw [FloatShape.unitExp]
  rw [FloatShape.gridOf] at *
  omega

theorem FloatShape.onGrid_nearest (f : FloatShape) (m : Nat) (e : Int) : NearestNat (f.inUnits m e) (f.onGrid m e).1 :=
  (roundTo_nearest m e _).1

theorem FloatShape.onGrid_inexact (f : FloatShape) (m : Nat) (e : Int) :
    (f.onGrid m e).2 = true ↔ f.inUnits m e ≠ (f.onGrid m e).1 :=
  (roundTo_nearest m e _).2

theorem NearestNat.le_of_le {y : Rat} {n k : Nat} (h : NearestNat y n) (hy : y ≤ k) : n ≤ k := by
  have hbelow := h.below
  have hsucc : ((k + 1 : Nat) : Rat) = k + 1 := Rat.natCast_add k 1
  exact Nat.lt_succ_iff.1 (Rat.natCast_lt_natCast.1 (by grind))

theorem NearestNat.ge_of_ge {y : Rat} {n k : Nat} (h : NearestNat y n) (hy : (k : Rat) ≤ y) : k ≤ n := by
  have habove := h.above
  have hsucc : ((n + 1 : Nat) : Rat) = n + 1 := Rat.natCast_add n 1
  exact Nat.lt_succ_iff.1 (Rat.natCast_lt_natCast.1 (by grind))

theorem FloatShape.onGrid_le (f : FloatShape) (m : Nat) (e : Int) : (f.onGrid m e).1 ≤ 2 * 2 ^ f.fb :=
  (f.onGrid_nearest m e).le_of_le (Rat.le_of_lt (f.inUnits_lt m e))

theorem FloatShape.le_onGrid (f : FloatShape) {m : Nat} (e : Int) (hm : m ≠ 0) : 2 ^ f.fb ≤ (f.onGrid m e).1 ∨ f.gridOf m e = 0 :=
  (f.le_inUnits e hm).imp_left (f.onGrid_nearest m e).ge_of_ge

/-- A number just below an even one is rounded up to it from half a unit below on. -/
theorem NearestNat.eq_even_iff {y : Rat} {n k : Nat} (h : NearestNat y n) (hk : 0 < k) (hy : y < (2 * k : Nat)) :
    n = 2 * k ↔ ((2 * k : Nat) : Rat) - 1 / 2 ≤ y := by
  have hle := h.le_of_le (Rat.le_of_lt hy)
  have hbelow := h.below
  have habove := h.above
  refine ⟨fun hn => ?_, fun hge => Decidable.byContradiction fun hne => ?_⟩
  · rw [hn] at hbelow
    grind
  · obtain ⟨i, hi⟩ : ∃ i, 2 * k = i + 1 := ⟨2 * k - 1, by omega⟩
    have hsucc : ((i + 1 : Nat) : Rat) = i + 1 := Rat.natCast_add i 1
    have hni : (n : Rat) ≤ i := Rat.natCast_le_natCast.2 (by omega)
    rw [hi, hsucc] at hge
    have hin : n = i := Rat.natCast_inj.1 (Rat.le_antisymm hni (by grind))
    have heven := h.even (.inr (by rw [hin] at *; grind))
    omega

/-- In the binade below the least normal number, what rounds up to it with an unbounded exponent. -/
theorem FloatShape.rounds_to_normal_iff (f : FloatShape) {m : Nat} {e : Int} (h : (Nat.log2 m : Int) + e + 1 = 1 - f.bias) :
    (roundTo m e ((Nat.log2 m : Int) + e - f.fb)).1 = 2 ^ (f.fb + 1) ↔
      twoTo (1 - f.bias) - twoTo (-1 - f.bias - f.fb) ≤ (m : Rat) * twoTo e := by
  have hhigh := lt_twoTo_log2 m e
  obtain ⟨hn, -⟩ := roundTo_nearest m e (-f.bias - f.fb)
  have hu := twoTo_pos (-f.bias - f.fb)
  have hnormal : twoTo (1 - f.bias) = (2 * 2 ^ f.fb : Nat) * twoTo (-f.bias - f.fb) := by
    rw [← Nat.pow_succ', ← twoTo_natCast, ← twoTo_add]
    congr 1
    omega
  have hhalf : twoTo (-1 - f.bias - f.fb) = 1 / 2 * twoTo (-f.bias - f.fb) := by
    rw [show (-f.bias - f.fb : Int) = -1 - f.bias - f.fb + 1 by omega, twoTo_succ]
    grind
  rw [h, hnormal, ← mul_twoTo_sub m e (-f.bias - f.fb), Rat.mul_lt_mul_right hu] at hhigh
  rw [show (Nat.log2 m : Int) + e - f.fb = -f.bias - f.fb by omega, ← mul_twoTo_sub m e (-f.bias - f.fb), hnormal, hhalf, ← rat_sub_mul,
    rat_mul_le_mul_right hu, Nat.pow_succ', hn.eq_even_iff (Nat.two_pow_pos _) hhigh]

theorem FloatShape.tiny_iff (f : FloatShape) {m : Nat} (e : Int) (hm : m ≠ 0) :
    f.tiny m e = true ↔ (m : Rat) * twoTo e < twoTo (1 - f.bias) - twoTo (-1 - f.bias - f.fb) := by
  simp only [FloatShape.tiny, Bool.and_eq_true, decide_eq_true_eq, Bool.not_eq_true', Bool.and_eq_false_iff, decide_eq_false_iff_not,
    beq_eq_false_iff_ne, ne_eq]
  rcases Int.lt_trichotomy ((Nat.log2 m : Int) + e + 1) (1 - f.bias) with h | h | h
  · refine iff_of_true ⟨by omega, .inl (by omega)⟩ ?_
    have hx := lt_twoTo_log2 m e
    have htop : twoTo ((Nat.log2 m : Int) + e + 1) ≤ twoTo (-f.bias) := twoTo_mono (by omega)
    have hhalf : twoTo (-1 - f.bias - f.fb) ≤ twoTo (-f.bias) := twoTo_mono (by omega)
    have hnormal : twoTo (1 - f.bias) = 2 * twoTo (-f.bias) := by rw [← twoTo_succ, show (1 - f.bias : Int) = -f.bias + 1 by omega]
    grind
  · rw [f.rounds_to_normal_iff h, Rat.not_le]
    exact ⟨fun ⟨_, h'⟩ => h'.resolve_left (Decidable.not_not.2 h), fun h' => ⟨by omega, .inr h'⟩⟩
  · have hx := twoTo_log2_le hm e
    have htop : twoTo (1 - f.bias) ≤ twoTo ((Nat.log2 m : Int) + e) := twoTo_mono (by omega)
    have hpos := twoTo_pos (-1 - f.bias - f.fb)
    exact iff_of_false (by omega) (by grind)

/-! ### The rules of the formats -/

/-- A format with an exponent and a fraction. -/
structure FloatShape.Proper (f : FloatShape) : Prop where
  exponent : 1 ≤ f.eb
  fraction : 1 ≤ f.fb

theorem FloatShape.Proper.le_infinity {f : FloatShape} (h : f.Proper) : 2 ^ f.fb ≤ f.infinity := by
  have htwo : 2 ^ 1 ≤ 2 ^ f.eb := Nat.pow_le_pow_right Nat.two_pos h.exponent
  exact Nat.le_mul_of_pos_left _ (by omega)

theorem FloatShape.Proper.infinity_even {f : FloatShape} (h : f.Proper) : f.infinity % 2 = 0 := by
  rw [FloatShape.infinity, ← Nat.sub_add_cancel h.fraction, Nat.pow_succ, ← Nat.mul_assoc, Nat.mul_mod_left]

/-- The code nearest to a number, up to that of Inf, with the flags of R31. -/
theorem FloatShape.Proper.round_nearest {f : FloatShape} (h : f.Proper) (neg : Bool) {m : Nat} (e : Int) (hm : m ≠ 0) :
    ∃ c, f.nearest (m * twoTo e) c ∧ f.round (.fin neg m e) = ((if neg then 2 ^ (f.eb + f.fb) else 0) + c,
      if c = f.infinity then fOf ||| fNx
      else if (m : Rat) * twoTo e = f.size c then 0
      else if (m : Rat) * twoTo e < twoTo (1 - f.bias) - twoTo (-1 - f.bias - f.fb) then fNx ||| fUf
      else fNx) := by
  have hn := f.onGrid_le m e
  have hj := f.le_onGrid e hm
  obtain ⟨hbelow, habove, heven⟩ := f.nearest_grid h.fraction hn hj (f.le_inUnits e hm) (f.onGrid_nearest m e)
  rw [f.inUnits_mul_unit] at hbelow habove heven
  rw [FloatShape.round, f.roundFin_eq neg e hm h.le_infinity hn hj, FloatShape.clamped]
  have hexact : (m : Rat) * twoTo e = f.size (f.gridOf m e * 2 ^ f.fb + (f.onGrid m e).1) ↔ ¬ (f.onGrid m e).2 = true := by
    rw [f.size_grid hn hj, ← f.inUnits_mul_unit, rat_mul_right_inj (f.unit_pos _), f.onGrid_inexact, ne_eq, Decidable.not_not]
  generalize f.gridOf m e * 2 ^ f.fb + (f.onGrid m e).1 = c at *
  split
  case isTrue hover =>
    refine ⟨f.infinity, ⟨Nat.le_refl _, fun h0 => ?_, fun h0 => absurd h0 (Nat.lt_irrefl _), fun _ => h.infinity_even⟩,
      by rw [if_pos rfl]⟩
    have hcode := hbelow (by omega)
    have hinf := f.size_mono hover
    have hpred := f.size_mono (Nat.sub_le_sub_right hover 1)
    grind
  case isFalse hover =>
    refine ⟨c, ⟨Nat.le_of_lt (Nat.not_le.1 hover), hbelow, fun _ => habove, fun ht => heven (ht.imp_right And.right)⟩, ?_⟩
    rw [if_neg (show c ≠ f.infinity by omega)]
    simp only [hexact, ← f.tiny_iff e hm, Bool.not_eq_true, FloatShape.lossFlags]
    cases (f.onGrid m e).2
    · rfl
    · cases f.tiny m e <;> rfl

/-- The fields of a code. -/
theorem FloatShape.decode_code (f : FloatShape) (neg : Bool) {c : Nat} (hc : c < 2 ^ (f.eb + f.fb)) :
    f.decode ((if neg then 2 ^ (f.eb + f.fb) else 0) + c) =
      if c / 2 ^ f.fb = 2 ^ f.eb - 1 then (if c % 2 ^ f.fb = 0 then .inf neg else .nan)
      else if c / 2 ^ f.fb = 0 then .fin neg (c % 2 ^ f.fb) (1 - f.bias - f.fb)
      else .fin neg (2 ^ f.fb + c % 2 ^ f.fb) ((c / 2 ^ f.fb : Nat) - f.bias - f.fb) := by
  have hpow : 2 ^ (f.eb + f.fb) = 2 ^ f.fb * 2 ^ f.eb := by rw [Nat.add_comm, Nat.pow_add]
  have hsign : (if neg then 2 ^ (f.eb + f.fb) else 0) = 2 ^ (f.eb + f.fb) * neg.toNat := by
    cases neg
    · exact (Nat.mul_zero _).symm
    · exact (Nat.mul_one _).symm
  have hneg : (2 ^ (f.eb + f.fb) * neg.toNat + c) / 2 ^ (f.eb + f.fb) % 2 = neg.toNat := by
    rw [Nat.mul_add_div (Nat.two_pow_pos _), Nat.div_eq_of_lt hc]
    cases neg <;> rfl
  have hex : nbits (2 ^ (f.eb + f.fb) * neg.toNat + c) f.fb f.eb = c / 2 ^ f.fb := by
    rw [nbits, hpow, Nat.mul_assoc, Nat.mul_add_div (Nat.two_pow_pos _), Nat.mul_add_mod, Nat.mod_eq_of_lt]
    exact Nat.div_lt_of_lt_mul (hpow ▸ hc)
  have hfr : nbits (2 ^ (f.eb + f.fb) * neg.toNat + c) 0 f.fb = c % 2 ^ f.fb := by
    rw [nbits, Nat.pow_zero, Nat.div_one, hpow, Nat.mul_assoc, Nat.mul_add_mod]
  have hbit : (neg.toNat == 1) = neg := by cases neg <;> rfl
  rw [hsign, FloatShape.decode, hneg, hex, hfr, hbit]
  rfl

/-- The codes of a format: finite ones below that of Inf, with NaN beyond. -/
theorem FloatShape.decode_rules (f : FloatShape) (neg : Bool) {c : Nat} (hc : c < 2 ^ (f.eb + f.fb)) :
    (c < f.infinity → ∃ m e,
      f.decode ((if neg then 2 ^ (f.eb + f.fb) else 0) + c) = .fin neg m e ∧ (m : Rat) * twoTo e = f.size c) ∧
    (c = f.infinity → f.decode ((if neg then 2 ^ (f.eb + f.fb) else 0) + c) = .inf neg) ∧
    (f.infinity < c → f.decode ((if neg then 2 ^ (f.eb + f.fb) else 0) + c) = .nan) := by
  have hP := Nat.two_pow_pos f.fb
  rw [f.decode_code neg hc, FloatShape.infinity, FloatShape.size]
  refine ⟨fun hlt => ?finite, fun heq => ?inf, fun hgt => ?nan⟩
  case finite =>
    rw [if_neg (Nat.ne_of_lt ((Nat.div_lt_iff_lt_mul hP).2 hlt))]
    split
    · exact ⟨_, _, rfl, rfl⟩
    · exact ⟨_, _, rfl, rfl⟩
  case inf => rw [heq, Nat.mul_div_cancel _ hP, Nat.mul_mod_left, if_pos rfl, if_pos rfl]
  case nan =>
    have hge : 2 ^ f.eb - 1 ≤ c / 2 ^ f.fb := (Nat.le_div_iff_mul_le hP).2 (Nat.le_of_lt hgt)
    have hlt : c / 2 ^ f.fb < 2 ^ f.eb := (Nat.div_lt_iff_lt_mul hP).2 (by rwa [← Nat.pow_add])
    have hex : c / 2 ^ f.fb = 2 ^ f.eb - 1 := by omega
    have hfr : c % 2 ^ f.fb ≠ 0 := fun h0 => by
      have := Nat.div_add_mod' c (2 ^ f.fb)
      rw [hex, h0] at this
      omega
    rw [if_pos hex, if_neg hfr]

theorem binaryRounding : Sys2Proof.Claims.BinaryRounding := by
  intro f hf
  have hp : f.Proper := by
    simp only [List.mem_cons, List.not_mem_nil, or_false] at hf
    rcases hf with rfl | rfl | rfl <;> exact ⟨by decide, by decide⟩
  refine ⟨fun neg c => f.decode_rules neg, rfl, fun neg => ?inf, fun neg e => ?zero, fun neg m e hm => ?nonzero⟩
  case inf => rw [FloatShape.round, f.infCode_eq]
  case zero => rw [FloatShape.round, FloatShape.roundFin, if_pos rfl]
  case nonzero => exact hp.round_nearest neg e hm

end Sys2Proof.Machine
end

/-! ## Scalar float words, conversions and counters (R105, R106, R341) -/

section
namespace Sys2Proof.Machine

/-! ### Completion of the float words -/

/-- A two-operand float operation has the shape of R103. -/
theorem float3_eq_alu3 (op : Val → Val → Val × Flags) (d a b : BitVec 6) (f : BitVec 4) :
    float3 op d a b f = alu3 (fun x y => floatOut f (op (floatIn f x) (floatIn f y))) d a b := rfl

theorem Gives3.of_float3 {i : BitVec 6 → BitVec 6 → BitVec 6 → BitVec 4 → Instr} {op : Val → Val → Val × Flags} (f : BitVec 4)
    (h : ∀ d a b s, exec (i d a b f) s = run (float3 op d a b f) s) :
    Gives3 (fun d a b => i d a b f) (fun x y => floatOut f (op (floatIn f x) (floatIn f y))) :=
  .of_alu3 fun d a b s => by rw [h, float3_eq_alu3]

theorem floatResults : Sys2Proof.Claims.FloatResults := fun f _ =>
  ⟨.of_float3 f (i := .fadd) fun _ _ _ _ => rfl,
    .of_float3 f (i := .fsub) (op := fun x y => vAdd x (vNeg y)) fun _ _ _ _ => rfl,
    .of_float3 f (i := .fmul) fun _ _ _ _ => rfl,
    .of_exec (f := fun x y o => floatOut f (vFma (floatIn f x) (floatIn f y) (floatIn f o))) fun _ _ _ _ => rfl,
    .of_float3 f (i := .fmin) (op := fun x y => (vPick false x y, 0)) fun _ _ _ _ => rfl,
    .of_float3 f (i := .fmax) (op := fun x y => (vPick true x y, 0)) fun _ _ _ _ => rfl,
    .of_alu3_eq (fun _ _ _ _ => rfl) fun _ _ => rfl,
    .of_alu2 fun _ _ _ => rfl, .of_alu2 fun _ _ _ => rfl⟩

theorem conversionResults : Sys2Proof.Claims.ConversionResults := by
  intro src t z u d a x s s₁ s₂ r ha hd
  change execFcvt d a src z u t s = _
  refine run_ok ?_
  rw [M.bind_ok ha]
  exact finishFlags_ok (r := (BitVec.ofNat 64 (typeExtend t.toNat r.1), r.2)) hd

/-! ### Counters -/

theorem wakeBankFor_clock (c k b : Nat) (s : State) : (wakeBankFor c k b s).clock = s.clock := by
  unfold wakeBankFor
  split
  · rfl
  · unfold wakeBank; split <;> rfl

theorem fillGranule_clock (c k g : Nat) (s : State) : (fillGranule c k g s).clock = s.clock := by
  simp only [fillGranule, flawFrom, State.modCtx_clock, State.modCore_clock, State.store_clock, wakeBankFor_clock]

/-- A computation that leaves the cycle count. -/
def KeepsClock {α : Type} (m : M α) : Prop := ∀ ⦃s t : State⦄ ⦃a : α⦄, m s = .ok (a, t) → t.clock = s.clock

theorem KeepsClock.bind {α β : Type} {m : M α} {f : α → M β} (hm : KeepsClock m) (hf : ∀ a, KeepsClock (f a)) :
    KeepsClock (m >>= f) := fun s t b h => by
  obtain ⟨a, u, hu, ht⟩ := M.bind_eq_ok.1 h
  rw [hf a ht, hm hu]

theorem KeepsClock.pure {α : Type} (a : α) : KeepsClock (pure a : M α) := fun _ _ _ h => by cases h; rfl
theorem KeepsClock.get : KeepsClock (get : M State) := fun _ _ _ h => by cases h; rfl
theorem KeepsClock.stop {α : Type} (e : Stop) : KeepsClock (stop e : M α) := fun _ _ _ h => by cases h

theorem KeepsClock.modS {f : State → State} (hf : ∀ s, (f s).clock = s.clock) : KeepsClock (modS f) :=
  fun _ _ _ h => by cases h; exact hf _

/-- Reading a part of the state keeps the count. -/
theorem KeepsClock.of_read {α : Type} {m : M α} {f : State → α} (h : ∀ s, m s = .ok (f s, s)) : KeepsClock m := fun s t a e => by
  rw [h] at e
  cases e
  rfl

theorem granuleForWrite_keepsClock (g : Nat) (whole : Bool) : KeepsClock (granuleForWrite g whole) := by
  unfold granuleForWrite
  refine KeepsClock.bind (.of_read coreNo_apply) fun c => KeepsClock.bind (.of_read ctxNo_apply) fun k =>
    KeepsClock.bind .get fun s => ?_
  have hwake {b : Nat} : KeepsClock (modS (wakeBankFor c k b)) := .modS (wakeBankFor_clock c k b)
  have hset {a : Nat} : KeepsClock (modS (fun s => s.modCore c (fun v => v.setGranule a g (.present true)))) := .modS fun _ => rfl
  dsimp only
  split
  case h_1 => exact .stop _
  case h_2 =>
    split
    · exact KeepsClock.bind hwake fun _ => hset
    · exact KeepsClock.bind (.modS (fillGranule_clock c k g)) fun _ => hset
  case h_3 => exact KeepsClock.bind hwake fun _ => KeepsClock.bind (.modS fun _ => rfl) fun _ => hset
  case h_4 => exact KeepsClock.bind hwake fun _ => hset

theorem writeArea_keepsClock (off n v : Nat) : KeepsClock (writeArea off n v) :=
  KeepsClock.bind (granuleForWrite_keepsClock ..) fun _ => .modS fun _ => rfl

theorem pushSdq_keepsClock (v : Dword) : KeepsClock (pushSdq v) := by
  refine KeepsClock.bind (.of_read getCtx_apply) fun x => KeepsClock.bind (.of_read myPos_apply) fun n => ?_
  split
  · exact .modS fun _ => rfl
  · exact .stop _

theorem writeS_keepsClock (r : BitVec 6) (v : Dword) : KeepsClock (writeS r v) := by
  rw [writeS]
  refine iteInduction (fun _ => writeArea_keepsClock ..) fun _ => iteInduction (fun _ => .modS fun _ => rfl) fun _ =>
    iteInduction (fun _ => .modS fun _ => rfl) fun _ => iteInduction (fun _ => pushSdq_keepsClock v) fun _ => .pure ()

theorem exec_rdcyc {d : BitVec 6} {s t : State}
    (h : writeS d (BitVec.ofNat 64 (s.clock + Config.elapsed s.draws))
      { s.drawn with clock := s.clock + Config.elapsed s.draws } = .ok ((), t)) :
    exec (.rdcyc d) s = .next (t.entered (BitVec.ofNat 64 (s.clock + Config.elapsed s.draws))).passed := by
  change execRdcyc d s = _
  refine run_ok ?_
  rw [M.bind_ok (M.get_apply s), M.bind_ok (M.set_apply _ s)]
  exact finish_ok h

theorem exec_rdperf {d a : BitVec 6} {n : Dword} {s s₁ t : State} (ha : readS a s = .ok (n, s₁))
    (hd : writeS d (perfCounter s₁ s₁.cur.core s₁.cur.ctxNo n) s₁ = .ok ((), t)) :
    exec (.rdperf d a) s = .next (t.entered (perfCounter s₁ s₁.cur.core s₁.cur.ctxNo n)).passed := by
  change execRdperf d a s = _
  refine run_ok ?_
  rw [M.bind_ok ha, M.bind_ok (M.get_apply s₁)]
  exact finish_ok hd

theorem perfCounter_unassigned (s : State) (c k : Nat) {n : Dword} (h : 8 ≤ n.toNat) (h' : n.toNat < 16 ∨ 23 < n.toNat) :
    perfCounter s c k n = 0 := by
  unfold perfCounter
  split
  case h_17 => rfl
  all_goals omega

theorem countersAreRead : Sys2Proof.Claims.CountersAreRead := by
  refine ⟨?_, ?_⟩
  · intro s t d now h
    refine ⟨exec_rdcyc h, ?_⟩
    rw [writeS_keepsClock d _ h]
    exact Nat.le_add_right ..
  · intro s s₁ t d a n v ha hd done x c die
    have hdone : v = perfCounter s₁ s₁.cur.core s₁.cur.ctxNo n → done := fun hv => by subst hv; exact exec_rdperf ha hd
    refine ⟨?_, ?_, ?_, ?_, ?_, ?_, ?_, ?_, ?_, ?_, ?_, ?_, ?_, ?_, ?_, ?_,
      fun h h' hv => hdone (hv.trans (perfCounter_unassigned _ _ _ h h').symm)⟩
    all_goals
      intro hn hv
      subst hn
      exact hdone hv

/-- Settles O6, by the shapes in which the words complete, the codes of the binary formats in order of size, and the values on which
the words compute. -/
theorem floatWords : Obligations.FloatWords := by
  unfold Obligations.FloatWords
  exact ⟨floatResults, conversionResults, binaryRounding, exactArithmetic, countersAreRead⟩

end Sys2Proof.Machine
end

/-! ## Decoding inverts encoding (R67 to R71, R75, R386, R387) -/

section
namespace Sys2Proof.Laws

/-- The laws of the rows of the opcode table (Laws/PerInstr.lean), as one law of every instruction. -/
theorem F.statement : ∀ i : Instr, F.Statement i
  | .add .. => F.add _ _ _ | .sub .. => F.sub _ _ _ | .mul .. => F.mul _ _ _ | .mulh .. => F.mulh _ _ _
  | .mulhn .. => F.mulhn _ _ _ | .divs .. => F.divs _ _ _ | .divn .. => F.divn _ _ _ | .rems .. => F.rems _ _ _
  | .remn .. => F.remn _ _ _ | .andd .. => F.andd _ _ _ | .orr .. => F.orr _ _ _ | .xorr .. => F.xorr _ _ _
  | .andn .. => F.andn _ _ _ | .shl .. => F.shl _ _ _ | .shr .. => F.shr _ _ _ | .sha .. => F.sha _ _ _ | .rot .. => F.rot _ _ _
  | .clz .. => F.clz _ _ | .popc .. => F.popc _ _ | .mins .. => F.mins _ _ _ | .maxs .. => F.maxs _ _ _ | .minn .. => F.minn _ _ _
  | .maxn .. => F.maxn _ _ _ | .cmpeq .. => F.cmpeq _ _ _ | .cmplt .. => F.cmplt _ _ _ | .cmpltn .. => F.cmpltn _ _ _
  | .cmple .. => F.cmple _ _ _ | .sel .. => F.sel _ _ _ | .addSats .. => F.addSats _ _ _ | .addSatn .. => F.addSatn _ _ _
  | .subSats .. => F.subSats _ _ _ | .subSatn .. => F.subSatn _ _ _ | .mulSats .. => F.mulSats _ _ _
  | .mulSatn .. => F.mulSatn _ _ _ | .addi .. => F.addi _ _ _ | .andi .. => F.andi _ _ _ | .ori .. => F.ori _ _ _
  | .xori .. => F.xori _ _ _ | .shli .. => F.shli _ _ _ | .shri .. => F.shri _ _ _ | .shai .. => F.shai _ _ _
  | .movi .. => F.movi _ _ | .ext .. => F.ext _ _ _ _ | .extS .. => F.extS _ _ _ _ | .ins .. => F.ins _ _ _ _
  | .fadd .. => F.fadd _ _ _ _ | .fsub .. => F.fsub _ _ _ _ | .fmul .. => F.fmul _ _ _ _ | .ffma .. => F.ffma _ _ _ _
  | .fmin .. => F.fmin _ _ _ _ | .fmax .. => F.fmax _ _ _ _ | .fcmp .. => F.fcmp _ _ _ _ | .fcvt .. => F.fcvt _ _ _ _ _ _
  | .fabs .. => F.fabs _ _ _ | .fneg .. => F.fneg _ _ _ | .rdcyc .. => F.rdcyc _ | .rdperf .. => F.rdperf _ _
  | .vadd .. => F.vadd _ _ _ _ _ | .vsub .. => F.vsub _ _ _ _ _ | .vmul .. => F.vmul _ _ _ _ _ | .vfma .. => F.vfma _ _ _ _
  | .vmax .. => F.vmax _ _ _ _ | .vmin .. => F.vmin _ _ _ _ | .vexp2 .. => F.vexp2 _ _ _ | .vrcp .. => F.vrcp _ _ _
  | .vrsq .. => F.vrsq _ _ _ | .vredAdd .. => F.vredAdd _ _ _ | .vredMax .. => F.vredMax _ _ _ | .vredMin .. => F.vredMin _ _ _
  | .vcvt .. => F.vcvt _ _ _ _ _ _ | .vpack .. => F.vpack _ _ _ _ _ _ _ | .vunpk .. => F.vunpk _ _ _ _ _ _
  | .vsel .. => F.vsel _ _ _ _ _ | .vshf .. => F.vshf _ _ _ _ | .vbcast .. => F.vbcast _ _ _ | .vcmp .. => F.vcmp _ _ _ _ _
  | .mms .. => F.mms _ _ _ _ _ _ | .mmss .. => F.mmss _ _ _ _ _ _ | .ldstat .. => F.ldstat _ _ | .tidset .. => F.tidset _
  | .tidget .. => F.tidget _ _ _ | .swapstat .. => F.swapstat _ | .accz .. => F.accz _ _ _ | .acczMark .. => F.acczMark _
  | .accld .. => F.accld _ _ _ | .accst .. => F.accst _ _ _ | .accadd .. => F.accadd _ _ _ | .scalek .. => F.scalek _ _ _
  | .scalew .. => F.scalew _ | .mcmd .. => F.mcmd _ _ _ | .mcap .. => F.mcap _ _ | .tcvt .. => F.tcvt _ _ _ _ _
  | .tcopy .. => F.tcopy _ _ _ _ | .permit .. => F.permit _ _ | .permrel .. => F.permrel _ _ | .aadd .. => F.aadd _ _ _
  | .asub .. => F.asub _ _ _ | .amov .. => F.amov _ _ | .acmpEq .. => F.acmpEq _ _ _ | .acmpNe .. => F.acmpNe _ _ _
  | .acmpLt .. => F.acmpLt _ _ _ | .acmpLe .. => F.acmpLe _ _ _ | .amask .. => F.amask _ _ _ | .aidx .. => F.aidx _ _ _ _
  | .aaddi .. => F.aaddi _ _ _ | .ld .. => F.ld _ _ _ _ _ _ | .st .. => F.st _ _ _ _ _ | .ldacq .. => F.ldacq _ _ _ _ _ _
  | .strel .. => F.strel _ _ _ _ _ _ | .ldc .. => F.ldc _ _ _ _ _ _ | .ldi .. => F.ldi _ _ _ _ _ _ | .ldfe .. => F.ldfe _ _ _ _ _ _
  | .stfe .. => F.stfe _ _ _ _ _ _ | .la .. => F.la _ _ _ _ _ | .atadd .. => F.atadd _ _ _ _ _ | .atmin .. => F.atmin _ _ _ _ _
  | .atmax .. => F.atmax _ _ _ _ _ | .atand .. => F.atand _ _ _ _ _ | .ator .. => F.ator _ _ _ _ _ | .atxor .. => F.atxor _ _ _ _ _
  | .atswp .. => F.atswp _ _ _ _ _ | .atcas .. => F.atcas _ _ _ _ _ | .waita .. => F.waita _ _ _ _ _ | .pref .. => F.pref _ _ _ _
  | .cflush .. => F.cflush _ _ _ _ | .cinv .. => F.cinv _ _ _ _ | .cpin .. => F.cpin _ _ _ _ | .cunpin .. => F.cunpin _ _ _ _
  | .fenceCore .. => F.fenceCore _ | .fenceTile .. => F.fenceTile _ | .fenceDie .. => F.fenceDie _
  | .fenceModule .. => F.fenceModule _ | .fenceDomain .. => F.fenceDomain _ | .vld .. => F.vld _ _ _ _ _
  | .vst .. => F.vst _ _ _ _ _ | .vstfe .. => F.vstfe _ _ _ _ _ | .asopReduceAdd .. => F.asopReduceAdd _ _ _ _
  | .asopReduceMax .. => F.asopReduceMax _ _ _ _ | .asopAxpy .. => F.asopAxpy _ _ _ _ | .asopConvert .. => F.asopConvert _ _ _ _
  | .asopScale .. => F.asopScale _ _ _ _ | .asopGather .. => F.asopGather _ _ _ _ | .asopScatterAdd .. => F.asopScatterAdd _ _ _ _
  | .asopSmerge .. => F.asopSmerge _ _ _ _ | .jcsub .. => F.jcsub _ _ _ | .jcwait .. => F.jcwait _ _ _
  | .segopen .. => F.segopen _ _ _ _ | .segput .. => F.segput _ _ _ _ | .segput2 .. => F.segput2 _ _ _ _
  | .segputPfx .. => F.segputPfx _ _ _ _ | .segclose .. => F.segclose _ _ _ _ | .segcnt .. => F.segcnt _ _ _ _
  | .ascfg .. => F.ascfg _ _ _ _ | .put .. => F.put _ _ _ _ | .get .. => F.get _ _ _ | .offerPut .. => F.offerPut _ _ _ _
  | .offerGet .. => F.offerGet _ _ | .poll .. => F.poll _ _ _ | .retract .. => F.retract _ _ _ | .conload .. => F.conload _ _
  | .condrop .. => F.condrop _ _ | .constat .. => F.constat _ _ | .pbind .. => F.pbind _ _ _ | .pgsub .. => F.pgsub _ _ _
  | .pgunsub .. => F.pgunsub _ _ _ | .pgpass .. => F.pgpass _ _ _ | .pgrecv .. => F.pgrecv _ _ _
  | .pgrecvFree .. => F.pgrecvFree _ _ | .mrgput .. => F.mrgput _ _ _ | .mrgget .. => F.mrgget _ _ _ _
  | .mrgcfg .. => F.mrgcfg _ _ _ _ | .sigdec .. => F.sigdec _ _ _ _ | .sigwait .. => F.sigwait _ _ _ _
  | .dcinit .. => F.dcinit _ _ _ _ | .dcdec .. => F.dcdec _ _ _ _ | .rhopen .. => F.rhopen _ _ _ _ | .rhpri .. => F.rhpri _ _ _
  | .rhdemote .. => F.rhdemote _ _ | .rhevict .. => F.rhevict _ _ | .rhclose .. => F.rhclose _ _ | .bre .. => F.bre _ _
  | .beqz .. => F.beqz _ _ | .bnez .. => F.bnez _ _ | .bra .. => F.bra _ _ | .jmp .. => F.jmp _ | .call .. => F.call _
  | .loop .. => F.loop _ _ | .jmpi .. => F.jmpi _ | .follow .. => F.follow _ | .join .. => F.join _ _ | .endc .. => F.endc _
  | .rets .. => F.rets _ _ | .rdsw .. => F.rdsw _ _ | .wrsw .. => F.wrsw _ _ | .tnsub .. => F.tnsub _ _ | .tndone .. => F.tndone _
  | .amsg .. => F.amsg _ | .inbx .. => F.inbx _ | .inbxWait .. => F.inbxWait _ | .fibsw .. => F.fibsw _ | .upret .. => F.upret _
  | .sbwait .. => F.sbwait _ | .trap .. => F.trap _ | .svc .. => F.svc _ | .wrpriv .. => F.wrpriv _
  | .xinvPage .. => F.xinvPage _ _ | .xinvAsid .. => F.xinvAsid _ | .xinvFrame .. => F.xinvFrame _ _
  | .keysetRand .. => F.keysetRand _ _ | .keysetLoad .. => F.keysetLoad _ _ _ | .keysetRetire .. => F.keysetRetire _ _
  | .pwrbOn .. => F.pwrbOn _ | .pwrbRtn .. => F.pwrbRtn _ | .pwrbSave .. => F.pwrbSave _ | .pwrbOff .. => F.pwrbOff _
  | .attest .. => F.attest _ _ _ | .sparemap .. => F.sparemap _ _ | .start .. => F.start _ _ | .hintPfx .. => F.hintPfx _
  | .hintSched .. => F.hintSched _ | .hintMod .. => F.hintMod _ _ | .hintPrio .. => F.hintPrio _ | .qmovi .. => F.qmovi _ _
  | .qmov .. => F.qmov _ _ | .qadd .. => F.qadd _ _ | .qaddi .. => F.qaddi _ _ | .qand .. => F.qand _ _ | .qshl .. => F.qshl _ _
  | .qshr .. => F.qshr _ _ | .qld .. => F.qld _ _ _ _ | .qst .. => F.qst _ _ _ _ | .qbeq .. => F.qbeq _ _ _ _
  | .qbne .. => F.qbne _ _ _ _ | .qbltn .. => F.qbltn _ _ _ _ | .qjmp .. => F.qjmp _ _ | .qlaunch .. => F.qlaunch _
  | .qgraph .. => F.qgraph _ | .qamsg .. => F.qamsg _ _ | .qsigdec .. => F.qsigdec _ _ | .qsigrd .. => F.qsigrd _ _
  | .qcyc .. => F.qcyc _ | .qend .. => F.qend _ | .nop => F.nop | .ret => F.ret | .leave => F.leave | .bar => F.bar
  | .barGroup => F.barGroup | .yield => F.yield | .rft => F.rft | .xinvAll => F.xinvAll | .haltx => F.haltx
  | .packetStart => F.packetStart | .submission => F.submission | .commitWrite => F.commitWrite
  | .firmwareRestart => F.firmwareRestart | .queueProgramLoad => F.queueProgramLoad | .queueDisable => F.queueDisable
  | .startTrial => F.startTrial | .trialTimeout => F.trialTimeout | .clearStatus => F.clearStatus
  | .activeMessageBlockTarget => F.activeMessageBlockTarget | .hostApertureAccess => F.hostApertureAccess
  | .registerWrite => F.registerWrite | .regionEntryWrite => F.regionEntryWrite | .connectorKeyInstall => F.connectorKeyInstall
  | .poolSizeWrite => F.poolSizeWrite | .faultLogRead => F.faultLogRead | .moduleReset => F.moduleReset
  | .powerSample => F.powerSample | .thermalEvent => F.thermalEvent | .thermalStop => F.thermalStop
  | .gangPlacement => F.gangPlacement | .strideQuantum => F.strideQuantum | .balancerTick => F.balancerTick
  | .gangStop => F.gangStop | .gangResume => F.gangResume | .gangComplete => F.gangComplete | .successorStart => F.successorStart
  | .successorOverlapStoresDone => F.successorOverlapStoresDone | .coreFailure => F.coreFailure
  | .controlCoreFailover => F.controlCoreFailover | .hbmRowRemap => F.hbmRowRemap | .bexuzLaneFailure => F.bexuzLaneFailure
  | .keystoneFailure => F.keystoneFailure | .decision => F.decision | .offerMsg => F.offerMsg | .retractMessage => F.retractMessage
  | .bindMsg => F.bindMsg | .unbindMsg => F.unbindMsg | .loadConn => F.loadConn | .connectorVerified => F.connectorVerified
  | .dropMsg => F.dropMsg | .fireMsg => F.fireMsg | .rack => F.rack | .rlate => F.rlate | .back => F.back | .bref => F.bref
  | .lack => F.lack | .dack => F.dack | .failover => F.failover | .inboxArrival => F.inboxArrival
  | .activeMessageStart => F.activeMessageStart | .mcmdArrival => F.mcmdArrival | .homeRequest => F.homeRequest
  | .llcFill => F.llcFill | .waitaTimeout => F.waitaTimeout | .sigwaitRepoll => F.sigwaitRepoll | .pageWalk => F.pageWalk
  | .monitorWindow => F.monitorWindow | .loadReturn => F.loadReturn | .storeAck => F.storeAck | .granuleFill => F.granuleFill
  | .bankWake => F.bankWake | .macroOpStep => F.macroOpStep | .permitGrant => F.permitGrant
  | .emulationComplete => F.emulationComplete | .stallTimeout => F.stallTimeout | .asyncReport => F.asyncReport
  | .jobDispatch => F.jobDispatch | .jobComplete => F.jobComplete | .operatorComplete => F.operatorComplete
  | .nodeDispatch => F.nodeDispatch | .nodeComplete => F.nodeComplete | .passRoundStart => F.passRoundStart
  | .pageFetch => F.pageFetch | .pageDelivery => F.pageDelivery | .passEnd => F.passEnd | .attestReportDone => F.attestReportDone
  | .illegalInstructionWord => F.illegalInstructionWord | .rampLimiterFill => F.rampLimiterFill

/-- Settles O60: the law of each row of the opcode table says it of that row's instructions. -/
theorem decodingInvertsEncoding : Obligations.DecodingInvertsEncoding := by
  unfold Obligations.DecodingInvertsEncoding
  refine ⟨fun i w hi => ?_, fun i w hi => ?_, fun i hi => ?_⟩ <;> obtain ⟨core, queue, coded⟩ := F.statement i hi
  · exact core w
  · exact queue w
  · exact coded

end Sys2Proof.Laws
end

/-! ## Conditional branches (R76 to R78, R111, R112) -/

section
namespace Sys2Proof.Machine

/-! ### Targets -/

/-- The target of a B-form word is its address + 4 × disp20 (R76). -/
theorem branchTarget_eq (pc : Dword) (d : BitVec 20) : branchTarget pc d = pc + BitVec.ofInt 64 (4 * d.toInt) := by
  rw [branchTarget, BitVec.ofInt_mul, BitVec.shiftLeft_eq_mul_twoPow, BitVec.signExtend, BitVec.mul_comm]
  rfl

/-! ### Branches at the stream that evaluates them (R77, R111, R112) -/

theorem pushOutcome_exe {o : Outcome} {s : State} (h : s.me.oqE.length < 8) :
    pushOutcome .exe o s = .ok ((), s.onMe (fun x => { x with oqE := x.oqE ++ [o] })) := by
  rw [pushOutcome, M.bind_ok (getCtx_apply s)]
  exact congrFun (if_pos h) s

theorem pushOutcome_acc {o : Outcome} {s : State} (h : s.me.oqA.length < 8) :
    pushOutcome .acc o s = .ok ((), s.onMe (fun x => { x with oqA := x.oqA ++ [o.taken] })) := by
  rw [pushOutcome, M.bind_ok (getCtx_apply s)]
  exact congrFun (if_pos h) s

/-- A branch on a scalar register, at the execute stream. -/
theorem condBranch_exe {i : Instr} {r : BitVec 6} {p : Dword → Bool} {d : BitVec 20} {x : Dword} {s s₁ : State}
    (h : ¬ s.standsInSlot) (hs : s.cur.stream = .exe) (hr : readS r s = .ok (x, s₁)) (hq : s₁.me.oqE.length < 8) :
    run (condBranch i .exe (do return p (← readS r)) d) s =
      .next ((s₁.onMe (fun y => { y with oqE := y.oqE ++ [{ taken := p x, target := 0 }] })).intoSlot
        { addr := s.address, target := s.address + BitVec.ofInt 64 (4 * d.toInt), outcome := some (p x) }) := by
  rw [← branchTarget_eq]
  exact run_ok (condBranch_ok h hs (M.bind_ok hr) (pushOutcome_exe hq))

theorem conditionalBranchesEvaluate : Sys2Proof.Claims.ConditionalBranchesEvaluate := by
  intro d s s₁ h dest
  refine ⟨fun r x hs hr hq => ⟨condBranch_exe h hs hr hq, condBranch_exe h hs hr hq, condBranch_exe h hs hr hq⟩,
    fun a x hs hr => ?_⟩
  simp only [dest, ← branchTarget_eq]
  refine ⟨fun hq => run_ok (condBranch_ok h hs (M.bind_ok hr) (pushOutcome_acc hq)), fun s₂ hw hq => ?_⟩
  refine run_ok (condBranch_ok h hs ?_ (pushOutcome_acc hq))
  rw [M.bind_ok hr]
  exact M.bind_ok hw

theorem execJmpi_acc {r : BitVec 6} {s : State} (h : ¬ s.standsInSlot) (hs : s.cur.stream = .acc) :
    exec (.jmpi r) s = .next (s.pastCopy (.jmpi r) { addr := s.address, target := 0, outcome := none, indirect := true }) := by
  refine run_ok (asBoth_ok ?_)
  rw [M.bind_ok (copyNotInSlot_ok h), M.bind_ok (myPc_apply s), M.bind_ok (M.get_apply s), hs]
  rfl

theorem otherCopyOfABranchDoesNotWait : Sys2Proof.Claims.OtherCopyOfABranchDoesNotWait := by
  intro d s h b
  have copy {i : Instr} {t : Stream} (m : M Bool) (ht : s.cur.stream ≠ t) : run (condBranch i t m d) s = .next (s.pastCopy i b) := by
    simp only [b, ← branchTarget_eq]
    exact run_ok (condBranch_other h ht)
  refine ⟨fun hs r => ?_, fun hs a => ?_⟩
  · have ht : s.cur.stream ≠ .exe := by simp [hs]
    exact ⟨copy _ ht, copy _ ht, copy _ ht, execJmpi_acc h hs⟩
  · have ht : s.cur.stream ≠ .acc := by simp [hs]
    exact ⟨copy _ ht, copy _ ht⟩

/-- Settles O11, by what a branch does at the stream that evaluates it and what the other stream's copy does. -/
theorem conditionalBranches : Obligations.ConditionalBranches :=
  ⟨conditionalBranchesEvaluate, otherCopyOfABranchDoesNotWait⟩

end Sys2Proof.Machine
end

/-! ## What a computation keeps: where the streams stand -/

section
namespace Sys2Proof.Machine

/-- A computation that, where it succeeds, leaves a part of the state as it was (`KeepsClock` says it of the cycle count). -/
def Keeps {α β : Type} (part : State → β) (m : M α) : Prop := ∀ ⦃s t : State⦄ ⦃a : α⦄, m s = .ok (a, t) → part t = part s

section
variable {α β γ : Type} {part : State → γ}

theorem Keeps.bind {m : M α} {f : α → M β} (hm : Keeps part m) (hf : ∀ a, Keeps part (f a)) : Keeps part (m >>= f) :=
  fun _ _ _ h => by
    obtain ⟨a, u, hu, ht⟩ := M.bind_eq_ok.1 h
    exact (hf a ht).trans (hm hu)

theorem Keeps.of_read {m : M α} {f : State → α} (h : ∀ s, m s = .ok (f s, s)) : Keeps part m := fun s _ _ e => by
  rw [h] at e
  cases e
  rfl

theorem Keeps.pure (a : α) : Keeps part (pure a : M α) := .of_read (f := fun _ => a) fun _ => rfl
theorem Keeps.stop (e : Stop) : Keeps part (stop e : M α) := fun _ _ _ h => by cases h
theorem Keeps.modS {f : State → State} (hf : ∀ s, part (f s) = part s) : Keeps part (modS f) := fun _ _ _ h => by cases h; exact hf _

/-- A read changes nothing: what follows it decides. -/
theorem Keeps.read_bind {m : M α} {f : State → α} {g : α → M β} (h : ∀ s, m s = .ok (f s, s)) (hg : ∀ a, Keeps part (g a)) :
    Keeps part (m >>= g) := .bind (.of_read h) hg

end

/-- Where the streams of a context stand. -/
def Ctx.standing (x : Ctx) : StreamState × StreamState × Bool := (x.acc, x.exe, x.loose)

/-- What moves, and where the streams of every context stand. -/
def State.standing (s : State) : Mover × (Nat → Nat → StreamState × StreamState × Bool) := (s.cur, fun c k => (s.ctx c k).standing)

/-- Whether the streams of the context that moves stand at one word is told by where they stand. -/
theorem State.together_of_standing {s t : State} (h : t.standing = s.standing) : t.me.together = s.me.together := by
  obtain ⟨hcur, hctx⟩ := Prod.mk.inj h
  have hme : t.me.standing = s.me.standing := by
    rw [State.me, hcur]
    exact congrFun (congrFun hctx _) _
  obtain ⟨hacc, hrest⟩ := Prod.mk.inj hme
  obtain ⟨hexe, hloose⟩ := Prod.mk.inj hrest
  rw [Ctx.together, hacc, hexe, hloose, Ctx.together]

theorem State.ctx_setCore_of_ctxs {s : State} {c : Nat} {v : Core} (h : v.ctxs = (s.core c).ctxs) (c' k' : Nat) :
    (s.setCore c v).ctx c' k' = s.ctx c' k' := by
  by_cases hc : c' = c
  · subst hc
    rw [State.ctx, State.core_setCore_same, h, State.ctx]
  · rw [State.ctx, State.core_setCore_other _ _ hc, State.ctx]

theorem State.standing_setCore {s : State} {c : Nat} {v : Core} (h : v.ctxs = (s.core c).ctxs) : (s.setCore c v).standing = s.standing := by
  simp only [State.standing, State.ctx_setCore_of_ctxs h, State.setCore_cur]

theorem State.standing_modCore {s : State} {c : Nat} {f : Core → Core} (h : ∀ v, (f v).ctxs = v.ctxs) :
    (s.modCore c f).standing = s.standing := State.standing_setCore (h _)

theorem State.standing_modCtx {s : State} {c k : Nat} {f : Ctx → Ctx} (h : ∀ x, (f x).standing = x.standing) :
    (s.modCtx c k f).standing = s.standing := by
  refine Prod.ext rfl (funext fun c' => funext fun k' => ?_)
  show ((s.modCtx c k f).ctx c' k').standing = (s.ctx c' k').standing
  by_cases hc : c' = c ∧ k' = k
  · obtain ⟨rfl, rfl⟩ := hc
    rw [State.ctx_modCtx_same, h]
  · rw [State.ctx_modCtx_other _ _ (Decidable.not_and_iff_or_not.1 hc)]

theorem wakeBank_standing (c b : Nat) (s : State) : (wakeBank c b s).standing = s.standing := by
  unfold wakeBank
  split
  · rfl
  · exact State.standing_modCore fun _ => rfl
  · exact State.standing_setCore (s := s.zero _ _) rfl

theorem wakeBankFor_standing (c k b : Nat) (s : State) : (wakeBankFor c k b s).standing = s.standing := by
  unfold wakeBankFor
  split
  · rfl
  · rw [State.standing_modCtx, wakeBank_standing]
    exact fun _ => rfl

theorem fillGranule_standing (c k g : Nat) (s : State) : (fillGranule c k g s).standing = s.standing := by
  rw [fillGranule, State.standing_modCtx, State.standing_modCore]
  · exact wakeBankFor_standing c k _ s
  · exact fun _ => rfl
  · exact fun _ => rfl

theorem granuleForRead_standing (g : Nat) : Keeps State.standing (granuleForRead g) := by
  refine .read_bind coreNo_apply fun c => .read_bind ctxNo_apply fun k => .read_bind M.get_apply fun s => ?_
  have hwake (b : Nat) : Keeps State.standing (modS (wakeBankFor c k b)) := .modS (wakeBankFor_standing c k b)
  dsimp only
  split
  · exact .stop _
  · exact .bind (.modS (fillGranule_standing c k g)) fun _ => .pure _
  · split
    · exact .bind (hwake _) fun _ => .pure _
    · exact .pure _
  · exact .bind (hwake _) fun _ => .pure _

theorem readArea_standing (off n : Nat) : Keeps State.standing (readArea off n) := by
  refine .bind (granuleForRead_standing _) fun b => .read_bind M.get_apply fun s => ?_
  exact iteInduction (fun _ => iteInduction (fun _ => .stop _) fun _ => .pure _) fun _ => .pure _

theorem popLdq_standing : Keeps State.standing popLdq := by
  refine .read_bind getCtx_apply fun x => .read_bind myPos_apply fun n => ?_
  have hempty : Keeps State.standing (if n ≤ x.acc.pos then trap 0x0E else stop (.stall .queue) : M Dword) :=
    iteInduction (fun _ => .stop _) fun _ => .stop _
  split
  · refine iteInduction (fun _ => ?_) fun _ => hempty
    split
    · exact .bind (.modS fun _ => State.standing_modCtx (by exact fun _ => rfl)) fun _ => .pure _
    · exact .stop _
  · exact hempty

theorem popIb_standing : Keeps State.standing popIb := by
  refine .read_bind getCore_apply fun v => ?_
  have hset (f : Core → Core) (h : ∀ v, (f v).ctxs = v.ctxs) (w : Dword) :
      Keeps State.standing (do modCore f; return w : M Dword) :=
    .bind (.modS fun _ => State.standing_modCore h) fun _ => .pure _
  dsimp only
  split
  · exact .stop _
  · split
    · exact .stop _
    · exact hset _ (by exact fun _ => rfl) _
    · exact hset _ (by exact fun _ => rfl) _

/-- Reading a scalar register moves no stream. -/
theorem readS_standing (r : BitVec 6) : Keeps State.standing (readS r) := by
  rw [readS]
  refine iteInduction (fun _ => .bind (readArea_standing ..) fun _ => .pure _) fun _ => ?_
  refine iteInduction (fun _ => .read_bind getCtx_apply fun _ => .pure _) fun _ => ?_
  refine iteInduction (fun _ => .read_bind getCore_apply fun _ => .pure _) fun _ => ?_
  iterate 4 refine iteInduction (fun _ => .read_bind getCtx_apply fun _ => .pure _) fun _ => ?_
  exact iteInduction (fun _ => popLdq_standing) fun _ => iteInduction (fun _ => popIb_standing) fun _ => .pure _

end Sys2Proof.Machine
end

/-! ## Traps in both streams' name, words that a delay slot forbids, privilege and place (R75, R79) -/

section
namespace Sys2Proof.Machine

/-! ### Traps of a word in both streams' name (R75, R79) -/

/-- A trap that brings a state change of its own; neither comes about while the branch's outcome is awaited (R376). -/
theorem run_trapWith {m : M Unit} {s t : State} {i : TrapInfo} (h : m s = .error (.trapWith i t)) :
    run m s = .next (precise i (if awaitsOutcome s then s else t)) := by
  unfold run; rw [h]

theorem asBoth_trap {α : Type} {m : M α} {s : State} {i : TrapInfo} (h : m s = .error (.trap i)) :
    asBoth m s = .error (.trap { i with both := true }) := by
  unfold asBoth; rw [h]

theorem asBoth_stall {α : Type} {m : M α} {s : State} {w : Wait} (h : m s = .error (.stall w)) : asBoth m s = .error (.stall w) := by
  unfold asBoth; rw [h]

theorem asBoth_trapWith {α : Type} {m : M α} {s t : State} {i : TrapInfo} (h : m s = .error (.trapWith i t)) :
    asBoth m s = .error (.trapWith i t) := by
  unfold asBoth; rw [h]

/-- A trap that one stream raises for both stands at the word with both streams at it: the stream that comes first waits. -/
theorem run_trapTogether {m : M Unit} {code : Nat} {s : State} (h : m s = trapTogether code s) :
    run (asBoth m) s = .next (if s.me.together then precise { code := code, both := true } s else stalled .event s) := by
  rw [trapTogether_eq] at h
  by_cases ht : s.me.together = true
  · rw [if_pos ht] at h ⊢
    exact run_trap (asBoth_trap h)
  · rw [if_neg ht] at h ⊢
    exact run_stall (asBoth_stall h)

/-- A word of which each stream executes its own copy, in a delay slot (R79). -/
theorem run_copyInSlot {f : Unit → M Unit} {s : State} (h : s.standsInSlot) :
    run (asBoth (copyNotInSlot >>= f)) s = .next (if s.me.together then precise { code := 1, both := true } s else stalled .event s) := by
  by_cases ht : s.me.together = true
  · rw [if_pos ht]
    exact run_trap (asBoth_trap (M.bind_error (copyNotInSlot_error h ht)))
  · rw [if_neg ht]
    exact run_stall (asBoth_stall (M.bind_error (copyNotInSlot_stall h (Bool.eq_false_iff.2 ht))))

/-! ### Words that a delay slot forbids, and privilege and place (R75, R79) -/

theorem controlOnly_control {s : State} (h : s.cur.ctxNo = 0) : controlOnly s = .ok ((), s) := by
  rw [controlOnly, M.bind_ok (ctxNo_apply s), if_neg (Decidable.not_not.2 h)]
  rfl

theorem controlOnly_helper {s : State} (h : s.cur.ctxNo ≠ 0) : controlOnly s = .error (.trap { code := 1 }) := by
  rw [controlOnly, M.bind_ok (ctxNo_apply s), if_pos h]
  rfl

theorem deviceOnly_device {s : State} (h : s.me.dev = true) : deviceOnly s = .ok ((), s) := by
  rw [deviceOnly, M.bind_ok (getCtx_apply s), if_neg (by simp [h])]
  rfl

theorem deviceOnly_user {s : State} (h : s.me.dev = false) : deviceOnly s = .error (.trap { code := 2 }) := by
  rw [deviceOnly, M.bind_ok (getCtx_apply s), if_pos (by simp [h])]
  rfl

/-- A word of the control context in a helper (R75). -/
theorem run_controlOnly_helper {f : Unit → M Unit} {s : State} (h : s.cur.ctxNo ≠ 0) :
    run (controlOnly >>= f) s = .next (precise { code := 1 } s) :=
  run_trap (M.bind_error (controlOnly_helper h))

/-- A device-only word at user privilege (R75). -/
theorem run_deviceOnly_user {f : Unit → M Unit} {s : State} (h : s.me.dev = false) :
    run (deviceOnly >>= f) s = .next (precise { code := 2 } s) :=
  run_trap (M.bind_error (deviceOnly_user h))

/-- A word that may not stand in a delay slot. -/
theorem run_inSlot {f : Unit → M Unit} {s : State} (h : s.standsInSlot) :
    run (notInSlot >>= f) s = .next (precise { code := 1 } s) :=
  run_trap (M.bind_error (notInSlot_error h))

/-- Such a word of the control context raises the same trap in a helper. -/
theorem run_controlOnly_inSlot {f : Unit → M Unit} {s : State} (h : s.standsInSlot) :
    run (controlOnly >>= fun _ => notInSlot >>= f) s = .next (precise { code := 1 } s) := by
  by_cases hk : s.cur.ctxNo = 0
  · exact run_trap ((M.bind_ok (controlOnly_control hk)).trans (M.bind_error (notInSlot_error h)))
  · exact run_controlOnly_helper hk

theorem run_deviceOnly_inSlot {f : Unit → M Unit} {s : State} (h : s.standsInSlot) (hd : s.me.dev = true) :
    run (deviceOnly >>= fun _ => notInSlot >>= f) s = .next (precise { code := 1 } s) :=
  run_trap ((M.bind_ok (deviceOnly_device hd)).trans (M.bind_error (notInSlot_error h)))

theorem noBranchInADelaySlot : Sys2Proof.Claims.NoBranchInADelaySlot := by
  intro s h illegal
  refine ⟨fun r d => ⟨run_copyInSlot h, run_copyInSlot h, run_copyInSlot h⟩,
    fun a d => ⟨run_copyInSlot h, run_copyInSlot h, run_copyInSlot h, run_copyInSlot h⟩,
    run_copyInSlot h, fun a => run_copyInSlot h,
    fun p n t b l => ⟨run_copyInSlot h, run_copyInSlot h, run_copyInSlot h, run_copyInSlot h⟩,
    fun r => run_controlOnly_inSlot h, run_controlOnly_inSlot h,
    fun a m => ⟨run_inSlot h, run_controlOnly_inSlot h⟩,
    fun hd => run_deviceOnly_inSlot h hd, fun a => ⟨run_inSlot h, run_inSlot h⟩⟩

/-- START outside the control context (R343, R75). -/
theorem start_helper {d : BitVec 6} {t : BitVec 20} {s : State} (h : s.cur.ctxNo ≠ 0) :
    exec (.start d t) s = .next (precise { code := 1 } s) := by
  refine run_trap ?_
  rw [M.bind_ok (M.get_apply s), M.bind_ok (coreNo_apply s), M.bind_ok (ctxNo_apply s), M.bind_ok (getCore_apply s)]
  refine M.bind_error ?_
  simp only [h, decide_false, Bool.false_and]
  rfl

theorem waitAll_ok {s : State} (h : s.me.pend = []) : waitAll s = .ok ((), s) := by
  rw [waitAll, M.bind_ok (getCtx_apply s), M.bind_ok (myPos_apply s), h]
  rfl

/-- WRSW up to its case: the words whose writing is device-only raise the trap of R75 on the state before the word. -/
theorem wrsw_user {a i : BitVec 6} {v : Dword} {s s₁ : State} (hp : s.me.pend = []) (hr : readS a s = .ok (v, s₁))
    (h : s₁.me.dev = false) (hi : i = 3 ∨ i = 6) : exec (.wrsw a i) s = .next (precise { code := 2 } s) := by
  refine run_trap ?_
  rw [M.bind_ok (waitAll_ok hp), M.bind_ok (getCtx_apply s), M.bind_ok (coreNo_apply s), M.bind_ok (ctxNo_apply s), M.bind_ok hr]
  rcases hi with rfl | rfl
  · exact M.bind_error (deviceOnly_user h)
  · exact M.bind_error (deviceOnly_user h)

/-- Settles O27: each of these words begins with the check of privilege or of place, WRSW when it has read its operand. -/
theorem privilegedAndControlOnlyWords : Obligations.PrivilegedAndControlOnlyWords := by
  unfold Obligations.PrivilegedAndControlOnlyWords
  refine ⟨fun s a d n m h i hi => ?_, fun s s₁ a v _ hp hr h => ⟨wrsw_user hp hr h (.inl rfl), wrsw_user hp hr h (.inr rfl)⟩,
    fun s a d m r t h i hi => ?_⟩
  · simp only [List.mem_cons, List.not_mem_nil, or_false] at hi
    rcases hi with rfl | rfl | rfl | rfl | rfl | rfl | rfl | rfl | rfl | rfl | rfl | rfl
    all_goals exact run_deviceOnly_user h
  · simp only [List.mem_cons, List.not_mem_nil, or_false] at hi
    rcases hi with rfl | rfl | rfl | rfl | rfl | rfl | rfl | rfl | rfl
    iterate 8 exact run_controlOnly_helper h
    exact start_helper h

end Sys2Proof.Machine
end

/-! ## Transfers that are always taken (R76, R79, R101, R102, R111) -/

section
namespace Sys2Proof.Machine

/-! ### JMP, CALL and RET -/

theorem exec_jmp {d : BitVec 20} {s : State} (h : ¬ s.standsInSlot) : exec (.jmp d) s = .next (s.intoSlot
    { addr := s.address, target := s.address + BitVec.ofInt 64 (4 * d.toInt), outcome := some true }) := by
  rw [← branchTarget_eq]
  refine run_ok (asBoth_ok ?_)
  rw [M.bind_ok (copyNotInSlot_ok h), M.bind_ok (myPc_apply s)]
  rfl

/-- What a word of which each stream executes its own copy has read when its own part begins. -/
theorem copy_begins {f : Dword → State → M Unit} {s : State} (h : ¬ s.standsInSlot) :
    (copyNotInSlot >>= fun _ => myPc >>= fun pc => get >>= f pc) s = f s.address s s := by
  rw [M.bind_ok (copyNotInSlot_ok h), M.bind_ok (myPc_apply s), M.bind_ok (M.get_apply s)]

/-- A CALL that waits for nothing pushes, spills where it is the first to come, and stands at its slot (R101). -/
theorem exec_call {d : BitVec 20} {s : State} (h : ¬ s.standsInSlot) (hl : (s.me.returnStack s.cur.stream).length < 32)
    (hw : (s.me.returnStack s.cur.stream).length < 16 ∨ s.position ≤ (s.me.stream s.cur.stream.other).pos) :
    let l := (s.address + 8) :: s.me.returnStack s.cur.stream
    let u := s.onMe (fun x => x.setReturnStack s.cur.stream l)
    exec (.call d) s = .next ((if (s.me.stream s.cur.stream.other).pos ≤ s.position then
        spillReturn s.cur.core s.cur.ctxNo l u else u).intoSlot
      { addr := s.address, target := s.address + BitVec.ofInt 64 (4 * d.toInt), outcome := some true }) := by
  intro l u
  rw [← branchTarget_eq]
  refine run_ok (asBoth_ok ((copy_begins h).trans ?_))
  dsimp only
  rw [M.bind_ok (myPos_apply s), M.bind_ok (getCtx_apply s), if_neg (by omega),
    if_neg (by simpa using fun h16 => hw.resolve_left (by omega))]
  refine (M.bind_ok (modCtx_apply _ s)).trans ?_
  by_cases ho : (s.me.stream s.cur.stream.other).pos ≤ s.position
  · rw [if_pos ho, if_pos ho]
    rfl
  · rw [if_neg ho, if_neg ho]
    rfl

/-- A CALL that would spill before the other stream has come to it waits (log 12). -/
theorem exec_call_waits {d : BitVec 20} {s : State} (h : ¬ s.standsInSlot) (hl : (s.me.returnStack s.cur.stream).length < 32)
    (h16 : 16 ≤ (s.me.returnStack s.cur.stream).length) (ho : (s.me.stream s.cur.stream.other).pos < s.position) :
    exec (.call d) s = .next (stalled .event s) := by
  refine run_stall (asBoth_stall ((copy_begins h).trans ?_))
  dsimp only
  rw [M.bind_ok (myPos_apply s), M.bind_ok (getCtx_apply s), if_neg (by omega), if_pos (by simp [h16, ho])]
  rfl

theorem exec_ret {r : Dword} {l : List Dword} {s : State} (h : ¬ s.standsInSlot) (hl : s.me.returnStack s.cur.stream = r :: l) :
    let u := refillReturn s.cur.core s.cur.ctxNo l s
    exec .ret s = .next ((u.1.onMe (fun x => x.setReturnStack s.cur.stream u.2)).intoSlot
      { addr := s.address, target := r, outcome := some true }) := by
  intro u
  refine run_ok (asBoth_ok ((copy_begins h).trans ?_))
  dsimp only
  rw [M.bind_ok (getCtx_apply s), hl]
  rfl

theorem refillReturn_shallow {c k : Nat} {l : List Dword} {s : State} (h : l.length ≤ 15) : refillReturn c k l s = (s, l) := if_pos h

/-! ### JMPI -/

theorem run_asBoth_congr {m m' : M Unit} {s : State} (h : m s = m' s) : run (asBoth m) s = run (asBoth m') s := by
  unfold run asBoth
  rw [h]

/-- What the execute stream does with the target of a JMPI. -/
def jmpiTaken (s : State) (v : Dword) : M Unit :=
  if v.toNat % 4 ≠ 0 then jmpiTrap s
  else do
    pushOutcome .exe { taken := true, target := v }
    enterSlot { addr := s.address, target := v, outcome := some true }

/-- JMPI at the execute stream reads its target. -/
theorem exec_jmpi_exe {a : BitVec 6} {s : State} (h : ¬ s.standsInSlot) (hs : s.cur.stream = .exe) :
    exec (.jmpi a) s = run (asBoth (readS a >>= jmpiTaken s)) s := by
  refine run_asBoth_congr ((copy_begins h).trans ?_)
  rw [hs]
  rfl

theorem exec_jmpi_aligned {a : BitVec 6} {v : Dword} {s s₁ : State} (h : ¬ s.standsInSlot) (hs : s.cur.stream = .exe)
    (hr : readS a s = .ok (v, s₁)) (hv : v.toNat % 4 = 0) (hq : s₁.me.oqE.length < 8) :
    exec (.jmpi a) s = .next ((s₁.onMe (fun x => { x with oqE := x.oqE ++ [{ taken := true, target := v }] })).intoSlot
      { addr := s.address, target := v, outcome := some true }) := by
  rw [exec_jmpi_exe h hs]
  refine run_ok (asBoth_ok ?_)
  rw [M.bind_ok hr, jmpiTaken, if_neg (Decidable.not_not.2 hv), M.bind_ok (pushOutcome_exe hq)]
  exact enterSlot_eq _ _

/-- The access stream, which stands in the slot of a JMPI and has not begun it, goes back to the JMPI. -/
abbrev State.backAtJmpi (s : State) : State :=
  s.onMe (fun x => { x with acc := { x.acc with pc := x.acc.pc - 4, pos := x.exe.pos, ctl := .seq } })

/-- A misaligned target, with the access stream in that slot: the trap is that of the state in which it has gone back. -/
theorem exec_jmpi_slotAhead {a : BitVec 6} {v : Dword} {s s₁ : State} (h : ¬ s.standsInSlot) (hs : s.cur.stream = .exe)
    (hr : readS a s = .ok (v, s₁)) (hv : v.toNat % 4 ≠ 0) (ha : s.me.slotAhead = true) :
    exec (.jmpi a) s = .next (precise { code := 1, both := true } s.backAtJmpi) := by
  have hout : awaitsOutcome s = false := by
    rw [State.standsInSlot, Bool.not_eq_true, Option.isSome_eq_false_iff, Option.isNone_iff_eq_none] at h
    rw [awaitsOutcome, State.me_def, h]
  have hm : (readS a >>= jmpiTaken s) s = .error (.trapWith { code := 1, both := true } s.backAtJmpi) := by
    rw [M.bind_ok hr, jmpiTaken, if_pos hv, jmpiTrap, State.me_def, if_pos ha]
    rfl
  rw [exec_jmpi_exe h hs, run_trapWith (asBoth_trapWith hm), hout]
  rfl

/-- A misaligned target elsewhere: the trap stands at the JMPI with both streams at it. -/
theorem exec_jmpi_misaligned {a : BitVec 6} {v : Dword} {s s₁ : State} (h : ¬ s.standsInSlot) (hs : s.cur.stream = .exe)
    (hr : readS a s = .ok (v, s₁)) (hv : v.toNat % 4 ≠ 0) (ha : s.me.slotAhead = false) :
    exec (.jmpi a) s = .next (if s.me.together then precise { code := 1, both := true } s else stalled .event s) := by
  rw [exec_jmpi_exe h hs]
  refine run_trapTogether ?_
  rw [M.bind_ok hr, jmpiTaken, if_pos hv, jmpiTrap, State.me_def, if_neg (Bool.eq_false_iff.1 ha), trapTogether_eq, trapTogether_eq,
    State.together_of_standing (readS_standing a hr)]

theorem transfersAndNop : Sys2Proof.Claims.TransfersAndNop := by
  refine ⟨fun s => ⟨run_ok (retire_apply s), run_ok (retire_apply s)⟩,
    fun s h => ⟨fun d => exec_jmp h, fun d hl => ?_, fun r l hl => ?_, fun a v s₁ hs hr hv hq => exec_jmpi_aligned h hs hr hv hq⟩⟩
  · exact ⟨exec_call h hl, exec_call_waits h hl⟩
  · exact ⟨exec_ret h hl, refillReturn_shallow⟩

theorem misalignedJmpiTraps : Sys2Proof.Claims.MisalignedJmpiTraps := by
  intro s s₁ a v h hs hr hv
  refine ⟨exec_jmpi_slotAhead h hs hr hv, fun ha ht => ?_, fun ha ht => ?_⟩
  · rw [exec_jmpi_misaligned h hs hr hv ha, if_pos ht]
  · rw [exec_jmpi_misaligned h hs hr hv ha, if_neg (Bool.eq_false_iff.1 ht)]

/-- Settles O12, by each transfer's own rule, the words that a delay slot forbids, and the two ends of a misaligned JMPI. -/
theorem transfersAndSlots : Obligations.TransfersAndSlots :=
  ⟨transfersAndNop, noBranchInADelaySlot, misalignedJmpiTraps⟩

end Sys2Proof.Machine
end

/-! ## Past a delay slot, and hints (R78, R80, R81, R112, R118) -/

section
namespace Sys2Proof.Machine

/-! ### Past the delay slot (R78, R112) -/

/-- A context from which stream `t` has taken the outcome of a branch that it does not evaluate. -/
def Ctx.outcomeTaken (x : Ctx) (t : Stream) : Option Bool → Ctx
  | some _ => x
  | none => match t with
    | .acc => { x with oqE := x.oqE.drop 1 }
    | .exe => { x with oqA := x.oqA.drop 1 }

/-- A stream outside a follow group goes on where the outcome says. -/
theorem redirect_alone {s : State} {c k : Nat} {t : Stream} {b : Branch} {taken : Bool} {target : Dword}
    (hf : (s.core c).follower = false) (hl : (s.ctx c k).ldr = false) (ho : (s.ctx c k).outcome t b = some (taken, target)) :
    redirect c k t b s = some (s.modCtx c k (fun x =>
      (x.outcomeTaken t b.outcome).setStream t
        { (x.outcomeTaken t b.outcome).stream t with pc := if taken then target else b.addr + 8, ctl := .seq })) := by
  simp only [redirect, ho, hf, hl, Bool.and_false, Bool.false_eq_true, if_false]
  cases b.outcome <;> rfl

theorem Ctx.outcome_own {x : Ctx} {t : Stream} {b : Branch} {taken : Bool} (h : b.outcome = some taken) :
    x.outcome t b = some (taken, b.target) := by
  simp only [Ctx.outcome, h]

theorem Ctx.outcome_acc {x : Ctx} {b : Branch} (h : b.outcome = none) :
    x.outcome .acc b = x.oqE.head?.map (fun o => (o.taken, if b.indirect then o.target else b.target)) := by
  simp only [Ctx.outcome, h]

theorem Ctx.outcome_exe {x : Ctx} {b : Branch} (h : b.outcome = none) : x.outcome .exe b = x.oqA.head?.map (fun k => (k, b.target)) := by
  simp only [Ctx.outcome, h]

theorem streamsRedirectAlike : Sys2Proof.Claims.StreamsRedirectAlike := by
  intro s c k st b hf hl go
  refine ⟨fun taken h => ?_, fun h ht o l hq => ?_, fun h ht o l hq => ?_, fun h ht hq => ?_, fun h ht hq => ?_⟩
  · rw [redirect_alone hf hl (Ctx.outcome_own h), h]
    rfl
  · subst ht
    rw [redirect_alone hf hl (by rw [Ctx.outcome_acc h, hq]; rfl), h]
    rfl
  · subst ht
    rw [redirect_alone hf hl (by rw [Ctx.outcome_exe h, hq]; rfl), h]
    rfl
  · subst ht
    exact redirect_waits (by rw [Ctx.outcome_acc h, hq]; rfl)
  · subst ht
    exact redirect_waits (by rw [Ctx.outcome_exe h, hq]; rfl)

/-! ### Hints (R80, R81, R118) -/

section
variable {s s₁ : State} {w : Word} {i : Instr} {hint : Hint} {takes : Word → Instr → Bool} {any : Bool}
variable (hs : ¬ s.standsInSlot) (hw : fetchFor s s.cur.core s.cur.ctxNo (s.address + 4) = .ok (w, s₁)) (hi : decodeWord w = some i)
include hs hw hi

/-- A HINT whose next word accepts it. -/
theorem hintWord_applies (hh : isHint i = false) (ht : takes w i = true) :
    run (hintWord hint takes any) s =
      .next (s₁.passed.onMe (fun x => x.setStream s.cur.stream { x.stream s.cur.stream with hint := hint })) := by
  refine run_ok (asBoth_ok ?_)
  rw [M.bind_ok (copyNotInSlot_ok hs), M.bind_ok (M.get_apply s), M.bind_ok (coreNo_apply s), M.bind_ok (ctxNo_apply s),
    M.bind_ok (myPc_apply s)]
  simp only [hw, hi, hh, ht, Bool.not_false, Bool.and_self, if_true]
  rfl

/-- A HINT that its next word does not accept. -/
theorem hintWord_refused (hn : (!isHint i && takes w i) = false) (ht : s.me.together = true) :
    run (hintWord hint takes any) s = .next (precise { code := 1, both := true } s) := by
  refine (run_trapTogether ?_).trans (congrArg _ (if_pos ht))
  rw [M.bind_ok (copyNotInSlot_ok hs), M.bind_ok (M.get_apply s), M.bind_ok (coreNo_apply s), M.bind_ok (ctxNo_apply s),
    M.bind_ok (myPc_apply s)]
  simp only [hw, hi, hn, Bool.false_eq_true, if_false]
end

/-- No hint takes another. -/
theorem takes_of_isHint {i : Instr} (h : isHint i = true) : takesPfx i = false ∧ takesNt i = false ∧ takesTmo i = false := by
  unfold isHint at h
  split at h
  case h_5 => cases h
  all_goals exact ⟨rfl, rfl, rfl⟩

theorem not_isHint_of_takes {i : Instr} (h : takesPfx i = true ∨ takesNt i = true ∨ takesTmo i = true) : isHint i = false := by
  refine Bool.eq_false_iff.2 fun hh => ?_
  obtain ⟨hp, hn, ht⟩ := takes_of_isHint hh
  simp [hp, hn, ht] at h

theorem hintsApplyToTheNextWord : Sys2Proof.Claims.HintsApplyToTheNextWord := by
  intro s s₁ w i hs hw _ hi hint illegal
  refine ⟨fun h p => ?_, fun h n => ?_, fun h => ?_, fun h t => ?_, fun h h22 h30 l => ?_, fun ht h p => ?_,
    fun ht h n l => ?_, fun ht h t => ?_⟩
  · exact hintWord_applies hs hw hi (not_isHint_of_takes (.inl h)) h
  · exact hintWord_applies hs hw hi h rfl
  · exact hintWord_applies hs hw hi (not_isHint_of_takes (.inr (.inl h))) (by simp [h])
  · exact hintWord_applies hs hw hi (not_isHint_of_takes (.inr (.inr h))) (by simp [h])
  · exact hintWord_applies hs hw hi h (by rw [decide_eq_true h22, decide_eq_true h30]; rfl)
  · exact hintWord_refused hs hw hi (by simp [h]) ht
  · have hn (b : Bool) : (!isHint i && b) = false := by simp [h]
    exact ⟨hintWord_refused hs hw hi (hn _) ht, hintWord_refused hs hw hi (hn _) ht⟩
  · exact hintWord_refused hs hw hi (by simp [h]) ht

/-- Settles O14, by where a stream outside a follow group goes on, and what the word after a HINT accepts. -/
theorem redirectsAndHints : Obligations.RedirectsAndHints :=
  ⟨streamsRedirectAlike, hintsApplyToTheNextWord⟩

end Sys2Proof.Machine
end

/-! ## A step runs the decoded instruction (R18, R19, R67, R78, R399) -/

section
namespace Sys2Proof.Machine

/-! ### What is due, and what moves (R18, R67, R78, R399) -/

theorem mayMove_running {s : State} (h : s.stopped = false) : mayMove s = true := by
  simp [mayMove, h]

/-- After a message (`turn` is false) none is due while a stream or an interpreter waits for its turn. -/
theorem dueMessage_none {s : State} (ht : s.turn = false) (h : s.ring ≠ [] ∨ busyInterp s ≠ none) : dueMessage s = none := by
  rw [dueMessage, if_neg]
  rw [ht, Bool.false_or, Bool.and_eq_true, List.isEmpty_iff, Option.isNone_iff_eq_none]
  exact fun ⟨hr, hb⟩ => h.elim (· hr) (· hb)

/-- What a step makes of a turn. -/
def resultOf : Action → Host.Outcome State Fault Refusal
  | .done s => .next s
  | .exec i s => exec i s
  | .group c t s => .next (groupTurn c t s)

/-- A step of a running module with no message due. -/
theorem step_of_nextAction {s : State} (hs : s.stopped = false) (ht : s.turn = false) (h : s.ring ≠ [] ∨ busyInterp s ≠ none) :
    step s = resultOf (nextAction s) := by
  rw [step, mayMove_running hs, dueMessage_none ht h]
  cases nextAction s <;> rfl

/-- The state in which the stream at the head of the ring takes its turn. -/
abbrev State.taking (s : State) (c k : Nat) (t : Stream) (l : List (Nat × Nat × Stream)) : State :=
  { s with ring := l ++ [(c, k, t)], cur := .ctx c k t, ev := .idle, turn := true }

theorem nextAction_alone {s : State} {c k : Nat} {t : Stream} {l : List (Nat × Nat × Stream)} (hb : busyInterp s = none)
    (hr : s.ring = (c, k, t) :: l) (hg : k = 0 → inGroup s c = false) : nextAction s = turnCtx c k t (s.taking c k t l) := by
  have h : (decide (k = 0) && inGroup (s.taking c k t l) c) = false := by
    by_cases hk : k = 0
    · exact (congrArg _ (hg hk)).trans (Bool.and_false _)
    · simp [hk]
  simp only [nextAction, hb, hr]
  exact if_neg (Bool.eq_false_iff.1 h)

theorem nextAction_group {s : State} {c : Nat} {t : Stream} {l : List (Nat × Nat × Stream)} (hb : busyInterp s = none)
    (hr : s.ring = (c, 0, t) :: l) (hg : inGroup s c = true) : nextAction s = .group (leaderIn s c) t (s.taking c 0 t l) := by
  simp only [nextAction, hb, hr]
  exact if_pos hg

theorem nextAction_interp {s : State} {n : Nat} {i : Instr} (hb : busyInterp s = some n) (hi : interpWord s n = some i) :
    nextAction s = .exec i { s with cur := .interp n, turn := true } := by
  simp only [nextAction, hb, hi]

/-- A live context that nothing holds back takes its turn. -/
theorem turnCtx_live {s : State} {c k : Nat} (t : Stream) (hl : (s.ctx c k).live = true) (he : (s.ctx c k).emulating = false)
    (hf : (s.core c).failed = false) (ho : (s.ctx c k).owed = 0) : turnCtx c k t s = turn c k t s := by
  simp only [turnCtx, hl, he, hf, ho, Bool.not_true, Bool.or_false, Bool.false_eq_true, if_false, ne_eq, not_true_eq_false]

/-- Where a stream comes to stand at its word in a turn: at once, in the slot of a branch whose target it has, or past a slot, where the
outcome says (R78, R111). -/
def arrivesAt (c k : Nat) (t : Stream) (s u : State) : Prop :=
  (((s.ctx c k).stream t).ctl = .seq ∧ u = s) ∨
  (∃ b, ((s.ctx c k).stream t).ctl = .slot b ∧ u = s ∧ (b.indirect = true → ((s.ctx c k).outcome t b).isSome = true)) ∨
  (∃ b, ((s.ctx c k).stream t).ctl = .redirect b ∧ redirect c k t b s = some u)

theorem turn_arrives {c k : Nat} {t : Stream} {s u : State} (h : arrivesAt c k t s u) : turn c k t s = turnAt c k t u := by
  rcases h with ⟨hc, rfl⟩ | ⟨b, hc, rfl, hb⟩ | ⟨b, hc, hr⟩
  · simp only [turn, hc]
  · simp only [turn, hc]
    refine if_neg ?_
    rw [Bool.and_eq_true, Option.isNone_iff_eq_none]
    exact fun ⟨hi, hn⟩ => by simpa [hn] using hb hi
  · simp only [turn, hc, hr]

/-! ### One turn at a fetched word (R67, R83, R112) -/

section
variable {s u : State} {c k : Nat} {t : Stream} {w : Word} {i : Instr}
variable (hw : fetchFor s c k ((s.ctx c k).stream t).pc = .ok (w, u)) (hi : decodeWord w = some i)
include hw hi

/-- A word of the other stream is passed over. -/
theorem turnAt_passes (ho : wordOwner w = .exe ∧ t = .acc ∨ wordOwner w = .acc ∧ t = .exe) :
    turnAt c k t s = .done (passOver c k t (some i) u) := by
  rcases ho with ⟨ho, rfl⟩ | ⟨ho, rfl⟩
  all_goals simp only [turnAt, hw, hi, ho, Bool.not_false, if_true]

/-- A word of which each stream executes its own copy, at a stream that uses none of its operands. -/
theorem turnAt_copy (ho : wordOwner w = .both) (hu : usesOperands i t = false) :
    turnAt c k t s = .exec i { u with cur := .ctx c k t } := by
  have hc : ownCopy i = true := by
    rw [usesOperands, Bool.or_eq_false_iff, Bool.not_eq_false'] at hu
    exact hu.1
  simp [turnAt, hw, hi, ho, hu, hc]

/-- A word of both streams that is executed once, with both of them at it. -/
theorem turnAt_once (ho : wordOwner w = .both) (hc : ownCopy i = false) (ht : (s.ctx c k).together = true)
    (hh : hazard (u.core c) (s.ctx c k).align (s.ctx c k).align.acc.pos i = false) :
    turnAt c k t s = .exec i { fillNamed c k i (u.modCtx c k Ctx.align) with cur := .ctx c k .acc } := by
  simp [turnAt, hw, hi, ho, hc, ht, hh]

/-- A word that the stream executes with its operands. -/
theorem turnAt_own (ho : wordOwner w = .exe ∧ t = .exe ∨ wordOwner w = .acc ∧ t = .acc ∨ wordOwner w = .both ∧ ownCopy i = true)
    (hu : usesOperands i t = true) (hh : hazard (u.core c) (s.ctx c k) ((s.ctx c k).stream t).pos i = false) :
    turnAt c k t s = .exec i { fillNamed c k i u with cur := .ctx c k t } := by
  rcases ho with ⟨ho, rfl⟩ | ⟨ho, rfl⟩ | ⟨ho, hc⟩
  case inr.inr => simp [turnAt, hw, hi, ho, hu, hh, hc]
  all_goals simp [turnAt, hw, hi, ho, hu, hh]

end

/-! ### A step -/

/-- The stream whose turn it is carries out its turn at the word that it comes to stand at. -/
theorem step_turnAt {s u : State} {c k : Nat} {t : Stream} {l : List (Nat × Nat × Stream)} (hs : s.stopped = false) (ht : s.turn = false)
    (hr : s.ring = (c, k, t) :: l) (hb : busyInterp s = none) (hl : (s.ctx c k).live = true) (he : (s.ctx c k).emulating = false)
    (hf : (s.core c).failed = false) (ho : (s.ctx c k).owed = 0) (hg : k = 0 → inGroup s c = false)
    (hu : arrivesAt c k t (s.taking c k t l) u) : step s = resultOf (turnAt c k t u) := by
  rw [step_of_nextAction hs ht (.inl (by simp [hr])), nextAction_alone hb hr hg,
    turnCtx_live (s := s.taking c k t l) t hl he hf ho, turn_arrives hu]

theorem step_group {s : State} {c : Nat} {t : Stream} {l : List (Nat × Nat × Stream)} (hs : s.stopped = false) (ht : s.turn = false)
    (hr : s.ring = (c, 0, t) :: l) (hb : busyInterp s = none) (hg : inGroup s c = true) :
    step s = .next (groupTurn (leaderIn s c) t (s.taking c 0 t l)) := by
  rw [step_of_nextAction hs ht (.inl (by simp [hr])), nextAction_group hb hr hg]
  rfl

theorem step_interp {s : State} {n : Nat} {i : Instr} (hs : s.stopped = false) (ht : s.turn = false) (hb : busyInterp s = some n)
    (hi : interpWord s n = some i) : step s = exec i { s with cur := .interp n, turn := true } := by
  rw [step_of_nextAction hs ht (.inr (by simp [hb])), nextAction_interp hb hi]
  rfl

/-- A message that is due and may still come is the event of its name (R399). -/
theorem step_message {s : State} {m : Msg} {l : List Msg} {i : Instr} (hm : s.stopped = false ∨ mayCome m = true) (ht : s.turn = true)
    (ha : s.agenda = m :: l) (hi : m.instr = some i) : step s = exec i { s with agenda := l, ev := m, cur := .none, turn := false } := by
  have hmove : mayMove s = true := by
    rcases hm with h | h <;> simp [mayMove, ha, h]
  have htake : toTake s = m :: l := by
    rcases hm with h | h <;> simp [toTake, ha, h]
  have hdue : dueMessage s = some (i, { s with agenda := l, ev := m, cur := .none, turn := false }) := by
    simp only [dueMessage, ht, Bool.true_or, if_true, htake, hi]
  rw [step, hmove, hdue]
  rfl

/-- Settles O56: a step is the turn that the schedule gives, and a turn is the word that its stream comes to stand at. -/
theorem stepRunsTheDecodedInstruction : Obligations.StepRunsTheDecodedInstruction := by
  unfold Obligations.StepRunsTheDecodedInstruction
  refine ⟨?_, fun s c l st hs ht hr hb hg => step_group hs ht hr hb hg, fun s n i hs ht hb hi => step_interp hs ht hb hi,
    fun s m l i hm ht ha hi => step_message hm ht ha hi⟩
  intro s s2 u c k l st w i hs ht hr hb hl he hf ho hg s0 y hu hw hi
  have runs {a : Action} (h : turnAt c k st s2 = a) : step s = resultOf a :=
    (step_turnAt hs ht hr hb hl he hf ho hg hu).trans (congrArg resultOf h)
  refine ⟨?_, ?_, fun ho hu => runs (turnAt_copy hw hi ho hu), fun ho hc ht hh => runs (turnAt_once hw hi ho hc ht hh),
    fun hh hu => ⟨?_, ?_, fun ho hc => runs (turnAt_own hw hi (.inr (.inr ⟨ho, hc⟩)) hu hh)⟩⟩
  · rintro ho rfl
    exact runs (turnAt_passes hw hi (.inl ⟨ho, rfl⟩))
  · rintro ho rfl
    exact runs (turnAt_passes hw hi (.inr ⟨ho, rfl⟩))
  · rintro ho rfl
    exact runs (turnAt_own hw hi (.inl ⟨ho, rfl⟩) hu hh)
  · rintro ho rfl
    exact runs (turnAt_own hw hi (.inr (.inl ⟨ho, rfl⟩)) hu hh)

end Sys2Proof.Machine
end

/-! ## Reset, and words decoded (R67, R68, R178, R386, R400) -/

section
namespace Sys2Proof.Machine

/-- At reset every core, context and die is its default. -/
theorem reset_core (c : Nat) : State.reset.core c = {} := rfl
theorem reset_ctx (c k : Nat) : State.reset.ctx c k = {} := rfl
theorem reset_die (d : Nat) : State.reset.die d = {} := rfl

theorem resetState : Sys2Proof.Claims.ResetState := by
  refine ⟨rfl, fun _ => rfl, rfl, rfl, rfl, rfl, fun c => ?_, fun d _ => ?_⟩
  · rw [reset_core]
    exact ⟨rfl, rfl, fun k => by rw [reset_ctx]⟩
  · rw [reset_die]
    exact ⟨rfl, rfl⟩

theorem wordsDecode : Sys2Proof.Claims.WordsDecode := by
  unfold Sys2Proof.Claims.WordsDecode
  decide +kernel

/-- Settles O57, by the defaults that reset leaves everywhere and by decoding the words. -/
theorem resetAndWords : Obligations.ResetAndWords := ⟨resetState, wordsDecode⟩

end Sys2Proof.Machine
end

/-! ## Accesses: how their words begin and how their requests leave (R157, R158, R179 to R182) -/

section
namespace Sys2Proof.Machine

/-! ### What every access begins with (R179, R181, R190, R200) -/

/-- A word that no slot, acquire or fence holds back goes on with its effective address. -/
theorem access_begins {s s₁ : State} {a : BitVec 4} {ws : BitVec 3} {va : VA} {off : BitVec n} {unit : Nat} {f : VA → M Unit}
    (hu : s.unheld ws) (ha : s.addresses a off unit va s₁) :
    (waitSlot ws >>= fun _ => waitHolds >>= fun _ => effective a off unit >>= f) s = f va s₁ := by
  rw [M.bind_ok (waitSlot_ok hu), M.bind_ok (waitHolds_ok hu), M.bind_ok (effective_ok ha)]

/-- What a computation comes to is told by its answer. -/
theorem run_congr {m m' : M Unit} {s : State} (h : m s = m' s) : run m s = run m' s := by
  rw [run, run, h]

theorem waitAccesses_ok {s : State} (h : s.me.accessesBefore s.position = false) : waitAccesses s = .ok ((), s) := by
  rw [waitAccesses, M.bind_ok (getCtx_apply s), M.bind_ok (myPos_apply s), if_neg (by simp [h])]
  rfl

theorem waitAccesses_stall {s : State} (h : s.me.accessesBefore s.position = true) : waitAccesses s = .error (.stall .event) := by
  rw [waitAccesses, M.bind_ok (getCtx_apply s), M.bind_ok (myPos_apply s), if_pos h]
  rfl

theorem slotRoom_ok {s : State} {ss : BitVec 3} (h : s.slotRoom ss) : slotRoom ss s = .ok ((), s) := by
  rw [slotRoom, M.bind_ok (getCtx_apply s), if_neg]
  · rfl
  · rcases h with h | h
    · simp [h]
    · simp only [Bool.and_eq_true, decide_eq_true_eq, not_and]
      omega

/-! ### The rules of an access's address (R179, R194, R198) -/

section
variable {va : VA} {q : Access}

theorem accessStop_none (hal : va.toNat % q.size = 0) (hf : feOp q.op = true → vaRegion va = 15) (hw : q.op = .waita → vaRegion va < 14) :
    accessStop va q = none := by
  rw [accessStop, if_neg (Decidable.not_not.2 hal), if_neg (by simpa using hf), if_neg (by simpa using hw)]

theorem accessStop_fullEmpty (hal : va.toNat % q.size = 0) (hf : feOp q.op = true) (hr : vaRegion va ≠ 15) : accessStop va q = some 4 := by
  rw [accessStop, if_neg (Decidable.not_not.2 hal), if_pos (by simp [hf, hr])]

theorem accessStop_waita (hal : va.toNat % q.size = 0) (hw : q.op = .waita) (hr : 14 ≤ vaRegion va) : accessStop va q = some 4 := by
  rw [accessStop, if_neg (Decidable.not_not.2 hal), if_neg (by simp [hw, feOp]), if_pos (by simp [hw, hr])]

end

/-! ### How a request leaves its core (R157, R158, R180, R197) -/

/-- A request that no cache of the core answers goes to its home. -/
theorem sendOut_posts {v : Core} {r : Req} {l1 release : Bool} {s : State} (hr : r.op ≠ .read) (ha : ∀ op, r.op ≠ .atomic op) :
    sendOut v r l1 release s = post r release s := by
  unfold sendOut
  split
  · exact absurd ‹_› hr
  · exact absurd ‹_› (ha _)
  · rfl

/-- A read where the region does not admit the caches goes to its home. -/
theorem sendOut_uncached {v : Core} {r : Req} {release : Bool} {s : State} (hr : r.op = .read) :
    sendOut v r false release s = post r release s := by
  unfold sendOut
  rw [hr]
  rfl

/-- An atomic drops its core's own copy of the line. -/
theorem sendOut_atomic {v : Core} {r : Req} {l1 release : Bool} {s : State} {op : AtOp} (hr : r.op = .atomic op) :
    sendOut v r l1 release s = post r release (s.modCore r.core (fun v =>
      { v with l1 := v.l1.filter (fun l => !(l.line == r.va.toNat / 128 && l.asid == r.asid)) })) := by
  unfold sendOut
  rw [hr]

/-- An ordinary read, with the stream past its word. -/
theorem sendOut_plain_passed {v : Core} {r : Req} {l1 : Bool} {s : State} (ho : r.op = .read) (hp : r.path = .plain)
    (hc : r.core = s.cur.core) :
    (.next (sendOut v r l1 false s).passed : Host.Outcome State Fault Refusal) =
      (let copy := if l1 then cachedCopy s v r else none
       let u := s.countedL1 l1 copy.isSome
       match copy with
       | some d =>
         if lineBusy u r.core r.ctx (r.va.toNat / 128) then .next (post r false u).passed
         else .next (u.send (.loadReturn r.core r.ctx r.id (extend r.size r.sx d))).passed
       | none => .next (post r false u).passed) := by
  rw [sendOut_plain ho hp, hc]
  generalize (if l1 = true then cachedCopy s v r else none) = copy
  cases copy with
  | none => rfl
  | some d => exact apply_ite (fun t : State => Host.Outcome.next t.passed) ..

/-- An access that no cache of the core answers: it joins its slot, reserves its position, and its request leaves for its home. -/
theorem sendAccess_posts {va : VA} {ss : BitVec 3} {q : Access} {tgt : Target} {s t : State} (hstop : accessStop va q = none)
    (hop : q.op ≠ .read) (hat : ∀ op, q.op ≠ .atomic op) (hp : q.path = .plain) (hf : q.kind = .fullEmpty → s.feRoom)
    (hc : check va q.size (reqNeed q.op) s = .ok (tgt, t)) (hd : t.destUsable q.dest) (hs : t.slotRoom ss)
    (hl : q.dest = .ldq → t.me.ldq.length < 16) :
    sendAccess va ss q s = .ok ((), (post (t.request q.op va q.size q.x q.y q.sx q.dest .plain (tgt.leaf t)) q.release
      (if q.dest = .ldq then (t.joined ss q.kind q.hold q.dest).reserved t.nextId else t.joined ss q.kind q.hold q.dest)).passed) := by
  rw [sendAccess_ok hstop hf hc hd hs hl, sendOut_posts hop hat, hp, ite_self]
  rfl

/-- An access whose register cannot take its value stops when it has passed its checks. -/
theorem sendAccess_stops {va : VA} {ss : BitVec 3} {q : Access} {tgt : Target} {s t : State} {e : Stop} (hstop : accessStop va q = none)
    (hf : q.kind = .fullEmpty → s.feRoom) (hc : check va q.size (reqNeed q.op) s = .ok (tgt, t)) (hd : destAlive q.dest t = .error e) :
    sendAccess va ss q s = .error e := by
  rw [sendAccess, hstop]
  exact (M.bind_ok (feWaits_ok hf)).trans ((M.bind_ok hc).trans (M.bind_error hd))

end Sys2Proof.Machine
end

/-! ## Loads (R180, R185 to R190) -/

section
namespace Sys2Proof.Machine

/-- A load that passes its checks has joined its slot and reserved its position when its request leaves. -/
theorem run_loadWord {a : BitVec 4} {ss ws : BitVec 3} {z : BitVec 2} {o : BitVec 12} {s s₁ s₂ : State} {va : VA} {tgt : Target}
    {sx hold : Bool} {path : ReqPath} (hu : s.unheld ws) (ha : s.addresses a o (2 ^ z.toNat) va s₁)
    (hal : va.toNat % 2 ^ z.toNat = 0) (hc : check va (2 ^ z.toNat) .read s₁ = .ok (tgt, s₂)) (hs : s₂.slotRoom ss)
    (hl : s₂.me.ldq.length < 16) :
    run (loadWord a ss ws z sx o path hold) s = .next (sendOut s₂.mine
      (s₂.request .read va (2 ^ z.toNat) 0 0 sx .ldq (if admitsL1 tgt va then path else .plain) (tgt.leaf s₂)) (admitsL1 tgt va) false
      ((s₂.joined ss .access hold .ldq).reserved s₂.nextId)).passed :=
  run_ok ((access_begins hu ha).trans
    (sendAccess_ok (accessStop_none hal nofun nofun) nofun hc ⟨nofun, nofun⟩ hs fun _ => hl))

/-- Settles O17: every load joins and reserves alike; what answers it depends on its path through the core's caches. -/
theorem loadsReserveAndSend : Obligations.LoadsReserveAndSend := by
  unfold Obligations.LoadsReserveAndSend
  intro a ss ws z q sc o s s₁ s₂ va tgt hu ha hal hc hs hl base l1 req posted answered plain
  have load (sx : Bool) (path : ReqPath) (hold : Bool) : run (loadWord a ss ws z sx o path hold) s =
      .next (sendOut s₂.mine (req sx (if l1 then path else .plain)) l1 false (base hold)).passed := run_loadWord hu ha hal hc hs hl
  have hplain (sx hold : Bool) : run (loadWord a ss ws z sx o .plain hold) s = plain hold sx := by
    rw [load, ite_self]
    exact sendOut_plain_passed rfl rfl rfl
  have uncached (path : ReqPath) (h : l1 = false) : run (loadWord a ss ws z (q == 1) o path false) s =
      posted (base false) (req (q == 1) .plain) := by
    rw [load, h, sendOut_uncached rfl]
    rfl
  have cached (path : ReqPath) (h : l1 = true) : run (loadWord a ss ws z (q == 1) o path false) s =
      .next (sendOut s₂.mine (req (q == 1) path) true false (base false)).passed := by
    rw [load, h, if_pos rfl]
  refine ⟨hplain _ _, hplain _ _, fun h => ⟨uncached _ h, uncached _ h⟩, fun h hn => ?_, fun h hn => ?_, fun d h hd => ?_,
    fun d h hd => ?_⟩
  · refine (cached .constant h).trans ?_
    rw [sendOut_copy (r := req (q == 1) .constant) rfl nofun, hn]
    rfl
  · refine (cached .invariant h).trans ?_
    rw [sendOut_copy (r := req (q == 1) .invariant) rfl nofun, hn]
    rfl
  · refine (cached .constant h).trans ?_
    rw [sendOut_copy (r := req (q == 1) .constant) rfl nofun, hd]
    rfl
  · refine (cached .invariant h).trans ?_
    rw [sendOut_copy (r := req (q == 1) .invariant) rfl nofun, hd]
    rfl

end Sys2Proof.Machine
end

/-! ## Stores, full/empty accesses and whole registers (R183, R189, R191, R194 to R196) -/

section
namespace Sys2Proof.Machine

/-! ### Stores (R189, R191, R194) -/

section
variable {a : BitVec 4} {ss ws : BitVec 3} {z : BitVec 2} {o : BitVec 12} {s s₁ s₂ s₃ : State} {va : VA} {x : Dword} {tgt : Target}

/-- A store goes on with its address and the item that it pops; a release waits at issue for the earlier accesses only in a handler that
withdrawn requests outlast (R191, log 44). -/
theorem storeWord_begins {op : ReqOp} {kind : PendKind} {release : Bool} (hu : s.unheld ws) (ha : s.addresses a o (2 ^ z.toNat) va s₁)
    (hx : popSdq s₁ = .ok (x, s₂)) (hr : release = true → s.me.replay = [] ∨ s.me.accessesBefore s.position = false) :
    storeWord a ss ws z o op kind release s = sendAccess va ss
      { size := 2 ^ z.toNat, op := op, x := BitVec.ofNat 512 (x.toNat % 2 ^ (8 * 2 ^ z.toNat)), kind := kind, release := release } s₂ := by
  rw [storeWord, M.bind_ok (waitSlot_ok hu), M.bind_ok (waitHolds_ok hu), M.bind_ok (getCtx_apply s)]
  split
  case isTrue h =>
    obtain ⟨hrel, hreplay⟩ := Bool.and_eq_true_iff.1 h
    have hacc : s.me.accessesBefore s.position = false := (hr hrel).resolve_left (by simpa using hreplay)
    exact (M.bind_ok (waitAccesses_ok hacc)).trans ((M.bind_ok (effective_ok ha)).trans (M.bind_ok hx))
  case isFalse => exact (M.bind_ok (effective_ok ha)).trans (M.bind_ok hx)

/-- A store that passes its checks has popped its item and joined its slot when its request leaves. -/
theorem run_storeWord {op : ReqOp} {kind : PendKind} {release : Bool} (hu : s.unheld ws) (ha : s.addresses a o (2 ^ z.toNat) va s₁)
    (hal : va.toNat % 2 ^ z.toNat = 0) (hx : popSdq s₁ = .ok (x, s₂)) (hop : reqNeed op = .write)
    (hc : check va (2 ^ z.toNat) .write s₂ = .ok (tgt, s₃)) (hs : s₃.slotRoom ss)
    (hr : release = true → s.me.replay = [] ∨ s.me.accessesBefore s.position = false) (hf : feOp op = true → vaRegion va = 15)
    (hk : kind = .fullEmpty → s₂.feRoom) :
    run (storeWord a ss ws z o op kind release) s =
      .next (post (s₃.request op va (2 ^ z.toNat) (BitVec.ofNat 512 (x.toNat % 2 ^ (8 * 2 ^ z.toNat))) 0 false .none .plain (tgt.leaf s₃))
        release (s₃.joined ss kind false .none)).passed := by
  refine run_ok ((storeWord_begins hu ha hx hr).trans (sendAccess_posts (accessStop_none hal hf ?_) ?_ ?_ rfl hk ?_ ⟨nofun, nofun⟩ hs nofun))
  · rintro rfl
    cases hop
  · rintro rfl
    cases hop
  · rintro _ rfl
    cases hop
  · rw [hop]
    exact hc

end

/-! ### A release that is deferred (R191) -/

section
variable {s : State} (ss : BitVec 3) (kind : PendKind) (hold : Bool) (dest : ReqDest)

theorem State.joined_me : (s.joined ss kind hold dest).me =
    { s.me with pend := s.me.pend ++ [{ id := s.nextId, pos := s.position, ss := ss, kind := kind, hold := hold, dest := dest }] } :=
  State.onMe_me ..

theorem State.joined_replay : (s.joined ss kind hold dest).me.replay = s.me.replay := by rw [State.joined_me]

/-- The access that joins stands at the position of its word. -/
theorem State.joined_posOf (h : s.me.hasPend s.nextId = false) : (s.joined ss kind hold dest).me.posOf s.nextId = s.position := by
  have hnone : s.me.pend.find? (fun p => p.id == s.nextId) = none := List.find?_eq_none.2 (by simpa [Ctx.hasPend] using h)
  simp [State.joined_me, Ctx.posOf, List.find?_append, hnone]

theorem State.joined_accessesBefore {n : Nat} (h : s.me.accessesBefore n = true) :
    (s.joined ss kind hold dest).me.accessesBefore n = true := by
  rw [State.joined_me]
  exact (List.any_append ..).trans (Bool.or_eq_true_iff.2 (.inl h))

/-- While an earlier access of the context has not completed, a release is deferred. -/
theorem post_release_deferred {r : Req} (hcore : r.core = s.cur.core) (hctx : r.ctx = s.cur.ctxNo) (hid : r.id = s.nextId)
    (hr : s.me.replay = []) (hp : s.me.hasPend s.nextId = false) (hacc : s.me.accessesBefore s.position = true) :
    post r true (s.joined ss kind hold dest) =
      (s.joined ss kind hold dest).onMe (fun y => { y with deferred := y.deferred ++ [{ req := r, release := true }] }) := by
  have hme : (s.joined ss kind hold dest).ctx r.core r.ctx = (s.joined ss kind hold dest).me := by
    rw [hcore, hctx]
    rfl
  have hmust : mustDefer (s.joined ss kind hold dest) r true = true := by
    simp only [mustDefer, hme, hid, State.joined_replay, hr, State.joined_posOf ss kind hold dest hp,
      State.joined_accessesBefore ss kind hold dest hacc, List.isEmpty_nil, Bool.true_and, Bool.true_or]
  rw [post, if_pos hmust, hcore, hctx]
  rfl

end

theorem storesPopAndSend : Sys2Proof.Claims.StoresPopAndSend := by
  intro a ss ws z sc o s s₁ s₂ s₃ va x tgt hu ha hal hx hc hs data req posted
  have strel (h : s.me.replay = [] ∨ s.me.accessesBefore s.position = false) : exec (.strel a ss ws z sc o) s = posted .write .store true :=
    run_storeWord hu ha hal hx rfl hc hs (fun _ => h) nofun nofun
  refine ⟨run_storeWord hu ha hal hx rfl hc hs nofun nofun nofun, strel, fun h hr hp hacc => ?_, fun hin => ⟨?keep, fun hroom => ?clear⟩⟩
  · rw [strel (.inl h)]
    simp only [posted]
    rw [post_release_deferred _ _ _ _ rfl rfl rfl hr hp hacc]
  case keep => exact run_storeWord hu ha hal hx rfl hc hs nofun (fun _ => hin) nofun
  case clear => exact run_storeWord hu ha hal hx rfl hc hs nofun (fun _ => hin) (fun _ => hroom)

/-! ### Whole registers (R196) -/

section
variable {a v : BitVec 4} {ss ws : BitVec 3} {o : BitVec 8} {s s₁ s₂ s₃ : State} {va : VA} {x : VReg} {tgt : Target}

theorem vstore_begins {op : ReqOp} (hu : s.unheld ws) (ha : s.addresses a o 64 va s₁) (hx : readV v s₁ = .ok (x, s₂)) :
    vstore a ss ws v o op s = sendAccess va ss { size := 64, op := op, x := x, kind := .store } s₂ :=
  (access_begins hu ha).trans (M.bind_ok hx)

/-- A vector store that passes its checks. -/
theorem run_vstore {op : ReqOp} (hu : s.unheld ws) (ha : s.addresses a o 64 va s₁) (hal : va.toNat % 64 = 0)
    (hx : readV v s₁ = .ok (x, s₂)) (hop : op = .write ∨ op = .writeFull ∧ vaRegion va = 15) (hc : check va 64 .write s₂ = .ok (tgt, s₃))
    (hs : s₃.slotRoom ss) : run (vstore a ss ws v o op) s =
      .next (post (s₃.request op va 64 x 0 false .none .plain (tgt.leaf s₃)) false (s₃.joined ss .store false .none)).passed := by
  refine run_ok ((vstore_begins hu ha hx).trans ?_)
  rcases hop with rfl | ⟨rfl, hin⟩
  · exact sendAccess_posts (accessStop_none hal nofun nofun) nofun nofun rfl nofun hc ⟨nofun, nofun⟩ hs nofun
  · exact sendAccess_posts (accessStop_none hal (fun _ => hin) nofun) nofun nofun rfl nofun hc ⟨nofun, nofun⟩ hs nofun

end

theorem destAlive_addr_dead {v : BitVec 4} {s : State} (h : s.mine.granule s.me.area ((0x580 + 16 * v.toNat) / 64) = .dead) :
    destAlive (.addr v) s = .error (.trap { code := 0x0B }) := by
  rw [destAlive, M.bind_ok (getCtx_apply s), M.bind_ok (getCore_apply s)]
  exact congrFun (if_pos (beq_iff_eq.2 h)) s

theorem destAlive_vec_dead {v : BitVec 4} {s : State} (h : s.mine.granule s.me.area ((0x180 + 64 * v.toNat) / 64) = .dead) :
    destAlive (.vec v) s = .error (.trap { code := 0x0B }) := by
  rw [destAlive, M.bind_ok (getCtx_apply s), M.bind_ok (getCore_apply s)]
  exact congrFun (if_pos (beq_iff_eq.2 h)) s

/-- The shape of LA and VLD. -/
def registerLoad (a : BitVec 4) (ss ws : BitVec 3) (n : Nat) (o : BitVec 8) (d : ReqDest) : M Unit := do
  waitSlot ws
  waitHolds
  let va ← effective a o n
  sendAccess va ss { size := n, op := .read, dest := d }

theorem exec_la (a : BitVec 4) (ss ws : BitVec 3) (v : BitVec 4) (o : BitVec 8) (s : State) :
    exec (.la a ss ws v o) s = run (registerLoad a ss ws 16 o (.addr v)) s := rfl
theorem exec_vld (a : BitVec 4) (ss ws : BitVec 3) (v : BitVec 4) (o : BitVec 8) (s : State) :
    exec (.vld a ss ws v o) s = run (registerLoad a ss ws 64 o (.vec v)) s := rfl

section
variable {a : BitVec 4} {ss ws : BitVec 3} {n : Nat} {o : BitVec 8} {d : ReqDest} {s s₁ s₂ : State} {va : VA} {tgt : Target}

/-- A load of a register that is not in a dead granule: it reserves no position. -/
theorem run_registerLoad (hu : s.unheld ws) (ha : s.addresses a o n va s₁) (hal : va.toNat % n = 0)
    (hc : check va n .read s₁ = .ok (tgt, s₂)) (hd : s₂.destUsable d) (hs : s₂.slotRoom ss) (hldq : d ≠ .ldq) :
    run (registerLoad a ss ws n o d) s = .next (sendOut s₂.mine (s₂.request .read va n 0 0 false d .plain (tgt.leaf s₂))
      (admitsL1 tgt va) false (s₂.joined ss .access false d)).passed := by
  have h := sendAccess_ok (ss := ss) (q := { size := n, op := .read, dest := d }) (accessStop_none hal nofun nofun) nofun hc hd hs
    (fun h => absurd h hldq)
  rw [if_neg hldq, ite_self] at h
  exact run_ok ((access_begins hu ha).trans h)

/-- One whose register lies in a dead granule traps when it has passed its checks (Table 5-2). -/
theorem run_registerLoad_dead (hu : s.unheld ws) (ha : s.addresses a o n va s₁) (hal : va.toNat % n = 0)
    (hc : check va n .read s₁ = .ok (tgt, s₂)) (hd : destAlive d s₂ = .error (.trap { code := 0x0B })) :
    run (registerLoad a ss ws n o d) s = .next (precise { code := 0x0B } s) := by
  have h := sendAccess_stops (ss := ss) (q := { size := n, op := .read, dest := d }) (accessStop_none hal nofun nofun) nofun hc hd
  exact run_trap ((access_begins hu ha).trans h)

end

/-! ### The statement -/

theorem fullEmptyOutsideScratchpads : Sys2Proof.Claims.FullEmptyOutsideScratchpads := by
  intro a v ss ws z q o p s s₁ s₂ va hu hout faults
  refine ⟨fun x ha hal hx => ?_, fun x ha hal hx => ?_⟩
  · have stops {op : ReqOp} {kind : PendKind} (hf : feOp op = true) : run (storeWord a ss ws z o op kind false) s = faults :=
      run_trap ((storeWord_begins (release := false) hu ha hx nofun).trans (sendAccess_stop _ (accessStop_fullEmpty hal hf hout)))
    change run (if q = 1 then _ else _) s = _
    split
    · exact stops rfl
    · exact stops rfl
  · exact run_trap ((vstore_begins hu ha hx).trans (sendAccess_stop _ (accessStop_fullEmpty hal rfl hout)))

theorem fullEmptyAndWholeRegisterAccesses : Sys2Proof.Claims.FullEmptyAndWholeRegisterAccesses := by
  intro a v ss ws z q o p s s₁ s₂ s₃ va tgt x hu load
  refine ⟨fun ha hal hout => ?ldfeOutside, fun ha hal hin hroom hc hs hl => ?ldfe, fun ha hal hc => ⟨fun hd hs => ?la, fun hd => ?laDead⟩,
    fun ha hal hc => ⟨fun hd hs => ?vld, fun hd => ?vldDead⟩, fun ha hal hx hc hs => ⟨?vst, fun hin => ?vstfe⟩⟩
  case ldfeOutside => exact run_trap ((access_begins hu ha).trans (sendAccess_stop _ (accessStop_fullEmpty hal rfl hout)))
  case ldfe =>
    exact run_ok ((access_begins hu ha).trans (sendAccess_posts (accessStop_none hal (fun _ => hin) nofun) nofun nofun rfl
      (fun _ => hroom) hc ⟨nofun, nofun⟩ hs (fun _ => hl)))
  case la =>
    rw [exec_la, run_registerLoad hu ha hal hc hd hs nofun]
    exact sendOut_plain_passed rfl rfl rfl
  case laDead => exact run_registerLoad_dead hu ha hal hc (destAlive_addr_dead hd)
  case vld =>
    rw [exec_vld, run_registerLoad hu ha hal hc hd hs nofun]
    exact sendOut_plain_passed rfl rfl rfl
  case vldDead => exact run_registerLoad_dead hu ha hal hc (destAlive_vec_dead hd)
  case vst => exact run_vstore hu ha hal hx (.inl rfl) hc hs
  case vstfe => exact run_vstore hu ha hal hx (.inr ⟨rfl, hin⟩) hc hs

/-- Settles O18, by what each store sends when it has popped its data, and what a whole-register or full/empty access does at its address
and its register. -/
theorem storesAndFullEmptySend : Obligations.StoresAndFullEmptySend :=
  ⟨storesPopAndSend, fullEmptyOutsideScratchpads, fullEmptyAndWholeRegisterAccesses⟩

end Sys2Proof.Machine
end

/-! ## Atomics and WAITA (R71, R197 to R199, Table 8-4) -/

section
namespace Sys2Proof.Machine

section
variable {a : BitVec 4} {ss ws : BitVec 3} {n : Nat} {o : BitVec 12} {s s₁ s₂ s₃ t : State} {va : VA} {x y : Dword} {op : AtOp}
  {tgt : Target}

/-- Every atomic but ATCAS pops one item. -/
theorem atomicWord_begins (hu : s.unheld ws) (ha : s.addresses a o n va s₁) (hx : popSdq s₁ = .ok (x, s₂)) (hop : op ≠ .cas) :
    atomicWord a ss ws n o op s = sendAccess va ss
      { size := n, op := .atomic op, x := x.setWidth 512, y := 0, dest := .ldq, kind := .atomic } s₂ := by
  refine (access_begins hu ha).trans ((M.bind_ok hx).trans ?_)
  rw [if_neg hop]
  rfl

/-- ATCAS pops the value to compare with, then the new value. -/
theorem atomicWord_cas_begins (hu : s.unheld ws) (ha : s.addresses a o n va s₁) (hx : popSdq s₁ = .ok (x, s₂))
    (hy : popSdq s₂ = .ok (y, s₃)) :
    atomicWord a ss ws n o .cas s = sendAccess va ss
      { size := n, op := .atomic .cas, x := x.setWidth 512, y := y, dest := .ldq, kind := .atomic } s₃ := by
  refine (access_begins hu ha).trans ((M.bind_ok hx).trans ?_)
  rw [if_pos rfl]
  exact M.bind_ok hy

/-- An atomic that passes its checks has joined its slot, reserved its position and dropped its core's copy of the line when its request
leaves. -/
theorem sendAccess_atomic (hal : va.toNat % n = 0) (hc : check va n .atomic s = .ok (tgt, t)) (hs : t.slotRoom ss)
    (hl : t.me.ldq.length < 16) :
    sendAccess va ss { size := n, op := .atomic op, x := x.setWidth 512, y := y, dest := .ldq, kind := .atomic } s =
      .ok ((), (post (t.request (.atomic op) va n (x.setWidth 512) y false .ldq .plain (tgt.leaf t)) false
        (((t.joined ss .atomic false .ldq).reserved t.nextId).modCore t.cur.core (fun v =>
          { v with l1 := v.l1.filter (fun l => !(l.line == va.toNat / 128 && l.asid == t.mine.asid)) }))).passed) := by
  refine (sendAccess_ok (q := { size := n, op := .atomic op, x := x.setWidth 512, y := y, dest := .ldq, kind := .atomic })
    (accessStop_none hal nofun nofun) nofun hc ⟨nofun, nofun⟩ hs fun _ => hl).trans ?_
  rw [sendOut_atomic (op := op) rfl, ite_self]
  rfl

/-- The timeout of a WAITA by its hint, 0 for none (R199). -/
def State.hintedTimeout (s : State) : Dword :=
  match s.hinted with
  | .mod _ tmo => tmo.setWidth 64
  | _ => 0

/-- The shape of WAITA. -/
def waitaWord (a : BitVec 4) (ss ws : BitVec 3) (n : Nat) (o : BitVec 12) : M Unit := do
  waitSlot ws
  waitHolds
  let va ← effective a o n
  let x ← popSdq
  let tmo ← hintTmo
  sendAccess va ss { size := n, op := .waita, x := x.setWidth 512, y := tmo.setWidth 64, dest := .ldq }

theorem exec_waita (a : BitVec 4) (ss ws : BitVec 3) (z : BitVec 1) (o : BitVec 12) (s : State) :
    exec (.waita a ss ws z o) s = run (waitaWord a ss ws (if z = 0 then 4 else 8) o) s := rfl

/-- WAITA goes on with its address, its expected value and the timeout of its hint. -/
theorem waitaWord_begins (hu : s.unheld ws) (ha : s.addresses a o n va s₁) (hx : popSdq s₁ = .ok (x, s₂)) :
    waitaWord a ss ws n o s = sendAccess va ss
      { size := n, op := .waita, x := x.setWidth 512, y := s₂.hintedTimeout, dest := .ldq } s₂ := by
  refine (access_begins hu ha).trans ((M.bind_ok hx).trans ?_)
  rw [hintTmo, State.hintedTimeout, M.bind_apply, M.bind_ok (myHint_apply s₂)]
  cases s₂.hinted <;> rfl

end

theorem atomicsPopAndSend : Sys2Proof.Claims.AtomicsPopAndSend := by
  intro a ss ws z z2 o s s₁ s₂ s₃ s₄ va x y tgt hu sent
  refine ⟨fun ha hal hx hc hs hl => ?one, fun ha hal hx hc hs hl => ?minMax, fun ha hal hx hy hc hs hl => ?cas,
    fun ha hal hx hr hc hs hl => ?waita, fun ha hal hx hr => ?waitaFault⟩
  case one =>
    have one {op : AtOp} (hop : op ≠ .cas) : run (atomicWord a ss ws (if z = 0 then 4 else 8) o op) s =
        sent s₃ (.atomic op) (if z = 0 then 4 else 8) 0 :=
      run_ok ((atomicWord_begins hu ha hx hop).trans (sendAccess_atomic hal hc hs hl))
    exact ⟨one nofun, one nofun, one nofun, one nofun, one nofun⟩
  case minMax =>
    have one {op : AtOp} (hop : op ≠ .cas) : run (atomicWord a ss ws (if z2.getLsbD 0 then 8 else 4) o op) s =
        sent s₃ (.atomic op) (if z2.getLsbD 0 then 8 else 4) 0 :=
      run_ok ((atomicWord_begins hu ha hx hop).trans (sendAccess_atomic hal hc hs hl))
    exact ⟨one (by split <;> nofun), one (by split <;> nofun)⟩
  case cas => exact run_ok ((atomicWord_cas_begins hu ha hx hy).trans (sendAccess_atomic hal hc hs hl))
  case waita =>
    exact run_ok ((waitaWord_begins hu ha hx).trans (sendAccess_posts (accessStop_none hal nofun (fun _ => hr)) nofun nofun rfl nofun hc
      ⟨nofun, nofun⟩ hs fun _ => hl))
  case waitaFault => exact run_trap ((waitaWord_begins hu ha hx).trans (sendAccess_stop _ (accessStop_waita hal rfl hr)))

/-- The operations of Table 8-4 on words of `w` bits. -/
theorem atomicOperations : Sys2Proof.Claims.AtomicOperations := by
  intro w _ old x nv
  have signed (v : BitVec w) : intDecode w true v.toNat = v.toInt := by rw [intDecode_signed, BitVec.ofNat_toNat, BitVec.setWidth_eq]
  refine ⟨?add, ?and, ?or, ?xor, rfl, ?minS, ?maxS, ?minN, ?maxN, ?cas⟩
  case add => exact congrArg some (BitVec.toNat_add ..).symm
  case and => exact congrArg some (BitVec.toNat_and ..).symm
  case or => exact congrArg some (BitVec.toNat_or ..).symm
  case xor => exact congrArg some (BitVec.toNat_xor ..).symm
  case minS => rw [atomicOp, signed, signed, apply_ite BitVec.toNat]
  case maxS => rw [atomicOp, signed, signed, apply_ite BitVec.toNat]
  case minN => rw [atomicOp, Nat.min_def, apply_ite BitVec.toNat]
  case maxN => rw [atomicOp, Nat.max_def, apply_ite BitVec.toNat]
  case cas => simp only [atomicOp, BitVec.toNat_inj]

/-- Settles O19, by what an atomic and a WAITA send when they have popped their operands, and the values of Table 8-4. -/
theorem atomics : Obligations.Atomics := ⟨atomicsPopAndSend, atomicOperations⟩

end Sys2Proof.Machine
end

/-! ## Line operations and fences (R92, R184, R200, R201, R325) -/

section
namespace Sys2Proof.Machine

/-! ### Line operations (R92, R184, R201) -/

theorem lineOutside_passes {va : VA} {ss : BitVec 3} {s : State}
    (h : ∀ e, checkAccess s s.cur.core s.cur.ctxNo (lineOf va) 128 .read = .error e → e ≠ 0x0A) (hs : s.slotRoom ss) :
    lineOutside va ss s = .ok ((), s.passed) := by
  rw [lineOutside, M.bind_ok (M.get_apply s)]
  generalize checkAccess s s.cur.core s.cur.ctxNo (lineOf va) 128 .read = r at h
  split
  · exact absurd rfl (h _ rfl)
  · exact M.bind_ok (slotRoom_ok hs)

theorem lineOutside_traps {va : VA} {ss : BitVec 3} {s : State}
    (h : checkAccess s s.cur.core s.cur.ctxNo (lineOf va) 128 .read = .error 0x0A) :
    lineOutside va ss s = .error (.trap { code := 0x0A, va := va }) := by
  rw [lineOutside, M.bind_ok (M.get_apply s), h]
  rfl

section
variable {a : BitVec 4} {ss ws : BitVec 3} {o : BitVec 12} {s s₁ s₂ : State} {va : VA} {tgt : Target}

/-- A line operation in region 0xE or 0xF, -/
theorem run_lineWord_outside {op : ReqOp} (hu : s.unheld ws) (ha : s.addresses a o 128 va s₁) (hr : 14 ≤ vaRegion va) :
    run (lineWord a ss ws o op) s = run (fun _ => lineOutside va ss s₁) s :=
  run_congr ((access_begins hu ha).trans (congrFun (if_pos hr) s₁))

/-- and a PREF there. -/
theorem exec_pref_outside (hu : s.unheld ws) (ha : s.addresses a o 128 va s₁) (hr : 14 ≤ vaRegion va) :
    exec (.pref a ss ws o) s = run (fun _ => lineOutside va ss s₁) s :=
  run_congr ((access_begins hu ha).trans (congrFun (if_pos hr) s₁))

/-- A line operation elsewhere joins its slot and is sent to the line's home; CPIN alone has translated first. -/
theorem run_lineWord {op : ReqOp} (hu : s.unheld ws) (ha : s.addresses a o 128 va s₁) (hr : vaRegion va < 14)
    (ht : (if op == .cpin then check (lineOf va) 128 .read else pure (.sp 0 0)) s₁ = .ok (tgt, s₂)) (hs : s₂.slotRoom ss) :
    run (lineWord a ss ws o op) s = .next (post
      { s₂.request op (lineOf va) 128 0 0 false .none .plain (tgt.leaf s₂) with nt := false } false
      (s₂.joined ss .access false .none)).passed := by
  refine run_ok ((access_begins hu ha).trans ((congrFun (if_neg (Nat.not_le.2 hr)) s₁).trans ?_))
  cases hop : op == ReqOp.cpin
  all_goals
    simp only [hop, Bool.false_eq_true, if_true, if_false] at ht ⊢
    refine (M.bind_ok ht).trans ?_
    exact (M.bind_ok (M.get_apply s₂)).trans (M.bind_ok (joinPend_ok .access false .none hs))

/-- A fault cancels PREF silently (R201). -/
theorem exec_pref_faults {e : Nat} (hu : s.unheld ws) (ha : s.addresses a o 128 va s₁) (hr : vaRegion va < 14) (hs : s₁.slotRoom ss)
    (hc : checkAccess s₁ s₁.cur.core s₁.cur.ctxNo (lineOf va) 128 .read = .error e) : exec (.pref a ss ws o) s = .next s₁.passed := by
  refine run_ok ((access_begins hu ha).trans ((congrFun (if_neg (Nat.not_le.2 hr)) s₁).trans ((M.bind_ok (slotRoom_ok hs)).trans
    ((M.bind_ok (M.get_apply s₁)).trans ((M.bind_ok (hintNt_apply s₁)).trans ?_)))))
  rw [hc]
  rfl

/-- PREF elsewhere is sent to the line's home; with nt it leaves the translation with the slice (R184). -/
theorem exec_pref_sent (hu : s.unheld ws) (ha : s.addresses a o 128 va s₁) (hr : vaRegion va < 14) (hs : s₁.slotRoom ss)
    (hc : checkAccess s₁ s₁.cur.core s₁.cur.ctxNo (lineOf va) 128 .read = .ok (tgt, s₂)) : exec (.pref a ss ws o) s =
      .next ({ post (s₁.request .pref (lineOf va) 128 0 0 false .none .plain (tgt.leaf s₁)) false
          (loadTranslation s₁.hintedNt s₁.mine.asid (lineOf va) (!s₁.me.dev) s₂) with nextId := s₁.nextId + 1 } : State).passed := by
  refine run_ok ((access_begins hu ha).trans ((congrFun (if_neg (Nat.not_le.2 hr)) s₁).trans ((M.bind_ok (slotRoom_ok hs)).trans
    ((M.bind_ok (M.get_apply s₁)).trans ((M.bind_ok (hintNt_apply s₁)).trans ?_)))))
  rw [hc]
  rfl

end

theorem lineOperations : Sys2Proof.Claims.LineOperations := by
  intro a ss ws o s s₁ va hu ha line words checked sent
  have outside (h : 14 ≤ vaRegion va) : ∀ r ∈ words, r = run (fun _ => lineOutside va ss s₁) s := by
    simp only [words, List.forall_mem_cons, List.not_mem_nil, false_implies, implies_true, and_true]
    exact ⟨run_lineWord_outside hu ha h, run_lineWord_outside hu ha h, run_lineWord_outside hu ha h, run_lineWord_outside hu ha h,
      exec_pref_outside hu ha h⟩
  refine ⟨fun h hc hs r hr => ?_, fun h hc r hr => ?_, fun h hs => ⟨?_, ?_, ?_⟩, fun tgt s₂ h hc hs => run_lineWord hu ha h hc hs,
    fun e h hs hc => exec_pref_faults hu ha h hs hc, fun tgt s₂ h hs hc => exec_pref_sent hu ha h hs hc⟩
  · rw [outside h r hr]
    exact run_ok (lineOutside_passes hc hs)
  · rw [outside h r hr]
    exact run_trap (lineOutside_traps hc)
  all_goals exact run_lineWord (tgt := .sp 0 0) hu ha h rfl hs

/-! ### FENCE (R200, R325) -/

/-- The lowest slot that carries an error traps. -/
theorem slotErrors_lowest {l : List Nat} {n : Nat} {s : State} (hl : l.Pairwise (· < ·)) (hm : n ∈ l) (hn : s.me.slotErr n = true)
    (hlow : ∀ m ∈ l, m < n → s.me.slotErr m = false) :
    slotErrors l s = .error (.trapWith { code := causeTrap (s.me.slotCause n) } (s.onMe (fun x => x.clearErr n))) := by
  obtain ⟨before, after, rfl⟩ := List.append_of_mem hm
  refine slotErrors_error (fun m hb => hlow m (by simp [hb]) ?_) hn
  exact (List.pairwise_append.1 hl).2.2 m hb n (by simp)

/-- With every earlier access complete and no slot pending, a fence looks at the errors of the slots. -/
theorem fence_complete {s : State} (hu : s.unheld 0) (ha : s.me.accessesBefore s.position = false)
    (hp : s.me.pend.any (fun p => p.ss != 0 && p.pos < s.position) = false) :
    fence s = (slotErrors [1, 2, 3, 4, 5, 6, 7] >>= fun _ => retire) s := by
  rw [fence, M.bind_ok (waitHolds_ok hu), M.bind_ok (waitAccesses_ok ha), M.bind_ok (getCtx_apply s), M.bind_ok (myPos_apply s)]
  exact congrFun (if_neg (Bool.eq_false_iff.1 hp)) s

theorem fence_waits {s : State} (hu : s.unheld 0) (ha : s.me.accessesBefore s.position = true) : fence s = .error (.stall .event) := by
  rw [fence, M.bind_ok (waitHolds_ok hu)]
  exact M.bind_error (waitAccesses_stall ha)

/-- The slots that a fence looks at are those from 1 to 7. -/
theorem mem_fenceSlots {n : Nat} : n ∈ [1, 2, 3, 4, 5, 6, 7] ↔ 1 ≤ n ∧ n ≤ 7 := by
  simp only [List.mem_cons, List.not_mem_nil, or_false]
  omega

theorem fencesWait : Sys2Proof.Claims.FencesWait := by
  intro ss s hu fences
  have scopes : ∀ r ∈ fences, r = run fence s := by
    simp only [fences, List.forall_mem_cons, List.not_mem_nil, false_implies, implies_true, and_true]
    exact ⟨rfl, rfl, rfl, rfl, rfl⟩
  refine ⟨fun ha hp hn r hr => ?_, fun ha r hr => ?_, fun n ha hp h1 h7 hn hlow r hr => ?_⟩
  · rw [scopes r hr]
    refine run_ok ((fence_complete hu ha hp).trans (M.bind_ok (slotErrors_ok fun n hm => ?_)))
    obtain ⟨h1, h7⟩ := mem_fenceSlots.1 hm
    exact hn n h1 h7
  · rw [scopes r hr]
    exact run_stall (fence_waits hu ha)
  · rw [scopes r hr]
    refine run_trapWith ((fence_complete hu ha hp).trans (M.bind_error
      (slotErrors_lowest (by decide) (mem_fenceSlots.2 ⟨h1, h7⟩) hn fun m hm hlt => hlow m (mem_fenceSlots.1 hm).1 hlt)))

/-- Settles O20, by where a line operation's word goes on, and by what a fence has waited for when it looks at the slots' errors. -/
theorem lineOperationsAndFences : Obligations.LineOperationsAndFences := ⟨lineOperations, fencesWait⟩

end Sys2Proof.Machine
end
